-- ==== Sys2Proof/Word.lean ====
section
/-!
DEFINITION. The word types of the GN9262: the widths in which the specification (spec/00_scope.md R5, spec/06 R177)
counts registers, memory bytes and Trellis units.  Everything else about words (fields, extension, byte order) is in
Sys2Proof/Machine/Bits.lean.
-/
namespace Sys2Proof

/-- One byte of an addressed memory. -/
abbrev Byte := BitVec 8

/-- A device register (R5), a W register or a plane descriptor (R177): 32 bits. -/
abbrev Word := BitVec 32

/-- The data of one code word (R318), or an F register (R177): 64 bits. -/
abbrev DWord := BitVec 64

/-- A segment descriptor of four 32-bit words (R182), word 0 in the least significant bits. -/
abbrev Desc := BitVec 128

/-- One stored permutation line of a hand (R58): 64 six-bit selectors. -/
abbrev HandLine := BitVec 384

end Sys2Proof
end

