-- ==== Sys2Proof/Syntax.lean ====
section
/-!
DEFINITION. The commands of the GN9262 (spec/opcode_table.json, spec/95): one constructor of `Instr` for each row of
the table, with the operands the row's rules name, and the data types those operands use.
-/
namespace Sys2Proof

/-- One of the four Dealers D0 to D3. -/
abbrev Dealer := Fin 4

/-- Who makes an access (R34, R74, R329, R492): a Dealer's core, a tile's CTU, a seat's host port, the loader, the Gardener,
the debug port, a display pipe, a camera port, or a Dealer's root routine. -/
inductive Agent where
  | dealer (n : Dealer)
  | ctu (t : Fin 64)
  | seat (s : Fin 4)
  | loader
  | gardener
  | debug
  | pipe (p : Fin 6)
  | camera (c : Fin 8)
  | root (n : Dealer)
  deriving DecidableEq, Repr

/-- The operand bits of a scalar instruction word: bits [22:0] of the word, in the layout of the instruction's format
(R178), and the extension word when EXT is set. -/
structure SOp where
  bits : BitVec 23
  ext : Option Word := none
  deriving DecidableEq, Repr

/-- The operand fields of an array instruction word (R83): descriptor numbers PDD, PDA and PDB, IMM7, the format bit of a
floating-point opcode that exists in binary16 and binary32 (`half` true: .H), and the extension word. -/
structure AOp where
  pdd : Fin 16
  pda : Fin 16
  pdb : Fin 16
  imm7 : BitVec 7
  half : Bool := false
  ext : Option Word := none
  deriving DecidableEq, Repr

/-- A Trellis packet (R357, R358): the fields of the header unit and of the address unit, and the data units, each with whether it is
poisoned. -/
structure Packet where
  dest : Nat
  src : Nat
  cmd : Nat
  qos : Nat
  count : Nat
  tag : Nat
  status : Nat := 0
  evnum : Nat := 0
  res : Nat := 0
  addr : Nat := 0
  bef : Nat := 0
  bel : Nat := 0
  data : List DWord := []
  poison : List Bool := []
  deriving DecidableEq, Repr

/-- A report to the Gardener (R323, R410, R411, R414): fault class, the class whose encoding the location uses, the location, whether it is a
UE report, whether the reporter calls the fault lasting at once, the row word a PLANE report read, the package of a DRAM report (and 1 for
a PLANE report of a check-bit position), and whether a UE lies in configuration state that the loader placed (R425). -/
structure Report where
  cls : Nat
  kind : Nat
  loc : Nat
  ue : Bool := false
  lasting : Bool := false
  word : Nat := 0
  part : Nat := 0
  config : Bool := false
  deriving DecidableEq, Repr

/-- What a machine check names (R169): cause code, opcode of the cut array instruction (0 at a scalar one), the offending
microword and its LINE field. -/
structure MCheck where
  cause : Nat
  aop : Nat := 0
  root : Bool := false
  addr : Nat := 0
  line : Nat := 0
  deriving DecidableEq, Repr

/-- An error in a unit of a packet on a link (R356, R357, R367, R368): the index of the router that receives the unit, its input port as
TRL_RTR numbers it, the unit (0 is the header), the positions of the unit's code word that the link inverted, and the copies of the unit's HEAD
mark that it inverted. -/
structure LinkErr where
  router : Fin 24
  port : Fin 8
  unit : Nat
  flips : List (Fin 80)
  head : BitVec 3 := 0
  deriving DecidableEq, Repr

/-- An access at a store's port or at the DRAM controller (R325 to R327, R347): address, bytes (at most 8), and the data of a write. -/
structure PortAcc where
  addr : Nat
  len : Nat
  data : Option DWord := none
  deriving DecidableEq, Repr

/-- A reading of a panel's TEST_CRC registers (R315): TEST_CRC_COUNT and the three colour-component CRCs. -/
structure SinkCrc where
  count : BitVec 4
  r : BitVec 16
  g : BitVec 16
  b : BitVec 16
  deriving DecidableEq, Repr

/-- A register of the configuration space of a PCIe function (R383), by what it holds: a dword of the identity (0 the Vendor and Device ID, 1 the
class code and Revision ID, 2 the Subsystem IDs), the Command register, a base address register, the identifiers of the four capabilities, and
their registers that the device's options fix. -/
inductive CfgItem where
  | identity (i : Fin 3)
  | command
  | bar (i : Fin 6)
  | powerId
  | powerState
  | msixId
  | msixControl
  | msixTable
  | msixPba
  | expressId
  | deviceCaps
  | linkCaps
  | aerId
  | other
  deriving DecidableEq, Repr

/-- What a configuration request asks of a PCIe function (R383): a read, a write of the power state, of the MSI-X control (enable, function
mask), of the Command register (memory and bus-master enable) or of a base address register, or any other access. -/
inductive CfgAsk where
  | read (x : CfgItem)
  | power (d3hot : Bool)
  | msix (enable mask : Bool)
  | command (mem bus : Bool)
  | bar (i : Fin 6) (v : Word)
  | other
  deriving DecidableEq, Repr

/-- A configuration request at a PCIe endpoint (R383, R384). -/
structure CfgReq where
  port : Fin 3
  ask : CfgAsk
  deriving DecidableEq, Repr

/-- A TELLTALE_SET command (R392, R399): the sequence number of its header, and its twelve entries (R299). -/
structure TellCmd where
  seq : BitVec 16
  entries : Vector Word 12
  deriving DecidableEq, Repr

/-- The token of a local port falls (R377): the port, and the packets of which only a part had come out of the block in reset. -/
structure TokenDrop where
  port : Fin 4
  cut : List Packet
  deriving DecidableEq, Repr

/-- One alternate set of the Trellis (R369): the output port of each router toward each node (key 64 r + d), and the TRL_DMAP. -/
structure AltSet where
  routes : List (Nat × Nat)
  dmap : Nat
  deriving DecidableEq, Repr

/-- An asset of the asset table (spec/17): its place and size in the slot, the seats it is granted to, and its SHA-384. -/
structure Asset where
  off : Nat
  size : Nat
  seats : BitVec 8
  hash : Nat := 0
  deriving DecidableEq, Repr

/-- Where a macrocell's set or reset comes from (R434). -/
inductive EspCtl where
  | none
  | term (t : Nat)
  | global (g : Fin 4)
  | grst
  deriving DecidableEq, Repr

/-- A macrocell's configuration (R434, R442): the terms of its block that its sum takes, the XOR term or constant, the register kind
(0 COMB, 1 D, 2 T), the FG tree it names, the alternate clock's select, set, reset and INIT. -/
structure Macrocell where
  sum : List Nat := []
  xorTerm : Option Nat := none
  xorOne : Bool := false
  kind : Nat := 0
  fg : Option (Fin 4) := none
  alt : Option Nat := none
  set : EspCtl := .none
  rst : EspCtl := .none
  init : Bool := false
  deriving DecidableEq, Repr

/-- The bitstream (R433 to R443): selects of the block inputs (key 40 b + i), literals of the terms (key 96 b + t: input and whether it is
taken true), macrocells by number, selects of GPIO data and enable, of EO0 to EO63 and GL0 to GL3, the macrocells of STARTDONE and
RECREQ, and the bytes it was read from, with the image's CRC-32 of them and whether a res0 bit is 1 (R449).  An unlisted select is 0. -/
structure Bitstream where
  inputs : List (Nat × Nat) := []
  terms : List (Nat × List (Nat × Bool)) := []
  macros : List (Nat × Macrocell) := []
  gpioOut : List (Nat × Nat) := []
  gpioOe : List (Nat × Nat) := []
  eo : List (Nat × Nat) := []
  gl : List (Nat × Nat) := []
  startDone : Option Nat := none
  recReq : Option Nat := none
  bytes : List Byte := []
  crc : Nat := 0
  res0 : Bool := false
  deriving DecidableEq, Repr

/-- The values a level's bank starts with (spec/07, HANDLER levels' resident values included), by register number from 0. -/
structure LevelInit where
  dealer : Dealer
  level : Fin 8
  w : List Word := []
  f : List DWord := []
  pd : List Word := []
  sg : List Desc := []
  st : Word := 0
  fpc : Word := 0
  pc : Word := 0
  xvec : Word := 0
  deriving DecidableEq, Repr

/-- An entry of an image's section table (R471): TYPE, destination, OFFSET, SIZE and HASH. -/
structure Section where
  typ : Nat
  dest : Nat
  off : Nat
  size : Nat
  hash : Nat
  deriving DecidableEq, Repr

/-- An image: the 4 KiB header and the bytes of each section by its number in the table, as the slot holds them (R471, R472); and, of the
sections whose format the specification does not give, what they set (log entry 163): the register values of CONFIG and TELL by offset; the words
of the vendor and of the customer microcode by their offset in a control-store window; the vendor patch version, the customer version and the
CRC-32 of the customer microcode; the words of the deal stores of the driving Dealers by address; the icon store's words; the hand lines (key
1024 t + 64 h + line); the Dealers' levels; and what no register shows: the addresses of the early buffers (pipe p, buffer k at 3p + k), the
early tiles, the layers of each pipe marked as safety content, the banks cleared at start-up, the banks that hold data marked for the early deal,
the alternate sets by number, the declared peak payload rate of each camera port (kbit/s) and peak frame rate of each context (port c, context x
at 2c + x; thousandths per second), the identity of each PCIe function (Vendor and Device ID, class code and Revision ID, Subsystem IDs: three
dwords for each port), whether the clock plan enables XB, the Espalier's bitstream, and the blocks whose lock the image sets. -/
structure Plan where
  header : List Byte := []
  contents : List (List Byte) := []
  config : List (Nat × Word) := []
  vucode : List (Nat × DWord) := []
  ucode : List (Nat × DWord) := []
  vpatch : Nat := 0
  cver : Nat := 0
  ucrc : Nat := 0
  deals : List (Nat × DWord) := []
  icons : List (Nat × DWord) := []
  hands : List (Nat × HandLine) := []
  levels : List LevelInit := []
  earlyBufs : List Nat := []
  earlyTiles : BitVec 64 := 0
  safety : List (BitVec 16) := []
  clearBanks : BitVec 32 := 0
  earlyBanks : BitVec 32 := 0
  altSets : List (Nat × AltSet) := []
  camPayload : List (Nat × Nat) := []
  camFrames : List (Nat × Nat) := []
  pcieIds : List Word := []
  xb : Bool := false
  esp : Option Bitstream := none
  locks : Nat := 0
  deriving DecidableEq, Repr

/-- A slot as the loader finds it (R470 to R473): whether the flash answers and every read completes, the outcome of the vendor package's check,
whether the early entry makes a DRAM access (log entry 163), and its image. -/
structure Image where
  answers : Bool := true
  vendorOk : Bool := true
  earlyDram : Bool := false
  plan : Plan := {}
  deriving DecidableEq, Repr

/-- Background work that has a step of its own (R265). -/
inductive BgWork where
  | planeScrub (t : Fin 64) (bad : List (Fin 66))
  | columnCopy (t : Fin 64)
  | weeding (b : Fin 33) (faulty : Bool)
  | dramScrub
  | telemetry
  deriving DecidableEq, Repr

/-- The commands: every row of spec/opcode_table.json, in the order of the table. -/
inductive Instr where
  /-- R9: A write to a device register that has no row of its own is applied, or refused as a whole under R9 or R10. -/
  | registerWrite (ag : Agent) (off : Nat) (v : Word)
  /-- R255: A tick edge from DSP0's frame start or the tick timer raises EV164 and advances TICK_COUNT; the latches are taken, overrun is detected, front buffers swap, hand-offs settle, job states change, and step 2 begins. -/
  | tickEdge (cycles : BitVec 25)
  /-- R237: With SRC TIMER, or while the timer stands in for DSP0, TICK_NOM ACLK cycles expire and the timer makes a tick edge. -/
  | tickTimerExpiry
  /-- R239: No DSP0 frame start arrives within TICK_MAX; the timer makes the edge, EV165 is raised and ONTIMER is set. -/
  | tickMaxExpiry
  /-- R238: A DSP0 frame start that came early is held, and the edge occurs when TICK_MIN cycles after the previous edge expire; HOLDS counts it. -/
  | tickHoldExpiry
  /-- R257: At L0's next instruction boundary after an overrun, L0 is cut: its PC is discarded, and DEAL_USED reads all ones. -/
  | overrunCut (n : Dealer)
  /-- R422: Once every Dealer has ended step 2, the Gardener applies, for the whole device and in order, replacements, route moves, prunes, graft switches, reserve mode, DEAL_COND and OWNER changes. -/
  | edgeSwitch
  /-- R242: When step 3 ends and no higher level is active, L0 starts at the START or RECOVERY entry of the selected variant, or at the early entry, with W1 to W3 set. -/
  | dealStart (n : Dealer)
  /-- R260: At a grid point, every 600 ACLK cycles from 256 after the edge, each quadrant raises or lowers at most one tile, and the ramp ends when its tiles are raised. -/
  | gridPoint
  /-- R263: 4,096 ACLK cycles after DEND pass with no array instruction, and lowering of the region's tiles begins at grid points. -/
  | tileLowerIdleExpiry (n : Dealer)
  /-- R262: An array instruction held at its boundary during a ramp or hold is checked and starts once the ramp ends. -/
  | arrayHoldRelease (n : Dealer)
  /-- R266: A background step occupies its unit for at most 64 ACLK cycles in its window, and yields to foreground requests or at the window's end. -/
  | backgroundStep (work : BgWork) (yields : Bool)
  /-- R266: A background step fails to yield within 64 cycles, raising EV167 and a report to the Gardener. -/
  | backgroundYieldOverdue (e : Fin 320)
  /-- R267: The Gardener scrubs row words of a lowered tile in its fallow window, and EV284 marks each completed pass. -/
  | planeScrubStep (t : Fin 64) (bad : List (Fin 66))
  /-- R76: The Gardener copies a faulty column's planes into a dummy column in a fallow window, restarting if the window ends early. -/
  | graftCopyStep (t : Fin 64) (ended : Bool)
  /-- R208: A source asserts an event; the router sets the pending bit at its destination, or merges the event, counting it in EVT_MERGE, or drops it when routed to NONE. -/
  | eventAssert (e : Fin 320)
  /-- R204: At a boundary, after the drain, the core switches to the bank of the highest pending level and enters the handler or runs the highest ready task. -/
  | levelEntry (n : Dealer)
  /-- R169: After a failed microword, tail, dispatch entry, lockstep comparison, plane UE, microstack error or context access, and once the broadcast pipeline drains, the Dealer enters L7, records MCCAUSE and MCADDR and runs the root. -/
  | machineCheckEntry (n : Dealer) (mc : MCheck)
  /-- R170: The root's reload from the DRAM shadow completes; the store is rewritten and the cut instruction re-executes, or the Dealer makes a deal restart. -/
  | microcodeReloadDone (n : Dealer) (poison : Bool) (w : BitVec 144)
  /-- R172: Before the copy exists, the loader's flash read of a microword block completes and is CRC-checked, and the word is handed to the root or a deal restart follows. -/
  | flashBlockReloadDone (n : Dealer) (done : Bool) (block : List (BitVec 144))
  /-- R150: A loader write to the third word of a microword commits the whole microword with computed parity; writes to words one and two stage. -/
  | controlStoreWrite (n : Dealer) (off : Nat) (v : DWord)
  /-- R105: Array MOV copies field a to d. -/
  | arrayMov (n : Dealer) (op : AOp)
  /-- R105: Array ZEXT copies a zero-extended. -/
  | arrayZext (n : Dealer) (op : AOp)
  /-- R105: Array SEXT copies a sign-extended. -/
  | arraySext (n : Dealer) (op : AOp)
  /-- R105: Array NOT inverts a bit by bit. -/
  | arrayNot (n : Dealer) (op : AOp)
  /-- R105: Array BOOL applies a 4-bit truth table to a and b. -/
  | arrayBool (n : Dealer) (op : AOp)
  /-- R105: Array SEL selects a or b by the 1-bit condition c. -/
  | arraySel (n : Dealer) (op : AOp)
  /-- R105: Array CLR writes 0 to d. -/
  | arrayClr (n : Dealer) (op : AOp)
  /-- R105: Array SETI writes IMM32 to d. -/
  | arraySeti (n : Dealer) (op : AOp)
  /-- R105: Array SETW writes a W register to d. -/
  | arraySetw (n : Dealer) (op : AOp)
  /-- R106: Array XMOVE moves a field DIST PEs by runner and neighbour hops under the edge modes. -/
  | arrayXmove (n : Dealer) (op : AOp)
  /-- R107: Array SHUF permutes a field within tile rows or columns by a hand. -/
  | arrayShuf (n : Dealer) (op : AOp)
  /-- R108: Array ANY writes to Wn whether any counted PE holds a non-zero value. -/
  | arrayAny (n : Dealer) (op : AOp)
  /-- R108: Array CNT writes to Wn the number of counted PEs with a non-zero value. -/
  | arrayCnt (n : Dealer) (op : AOp)
  /-- R105: Array FLGRD copies a flag plane to a 1-bit field. -/
  | arrayFlgrd (n : Dealer) (op : AOp)
  /-- R110: Array FLGCLR clears the selected flag planes in the whole region. -/
  | arrayFlgclr (n : Dealer) (op : AOp)
  /-- R108: Array FLGANY writes the global OR of each flag plane to Wn. -/
  | arrayFlgany (n : Dealer) (op : AOp)
  /-- R97: MPUSH pushes M and ANDs it with a. -/
  | arrayMpush (n : Dealer) (op : AOp)
  /-- R97: MPUSHN pushes M and sets it to a. -/
  | arrayMpushn (n : Dealer) (op : AOp)
  /-- R97: MELSE sets M to the saved level AND NOT M. -/
  | arrayMelse (n : Dealer) (op : AOp)
  /-- R97: MPOP restores M from the stack and decrements MSP. -/
  | arrayMpop (n : Dealer) (op : AOp)
  /-- R118: Array ADD adds modulo 2^w. -/
  | arrayAdd (n : Dealer) (op : AOp)
  /-- R120: Array ADDC adds with a carry plane and writes the carry out. -/
  | arrayAddc (n : Dealer) (op : AOp)
  /-- R118: Array SUB subtracts modulo 2^w. -/
  | arraySub (n : Dealer) (op : AOp)
  /-- R120: Array SUBB subtracts with a borrow plane and writes the borrow out. -/
  | arraySubb (n : Dealer) (op : AOp)
  /-- R118: Array ADDI adds IMM32 modulo 2^w. -/
  | arrayAddi (n : Dealer) (op : AOp)
  /-- R118: Array NEG negates modulo 2^w. -/
  | arrayNeg (n : Dealer) (op : AOp)
  /-- R119: Unsigned saturating add that sets P1982 where it clamps. -/
  | arrayAddsu (n : Dealer) (op : AOp)
  /-- R119: Signed saturating add that sets P1982 where it clamps. -/
  | arrayAddss (n : Dealer) (op : AOp)
  /-- R119: Unsigned saturating subtract that sets P1982 where it clamps. -/
  | arraySubsu (n : Dealer) (op : AOp)
  /-- R119: Signed saturating subtract that sets P1982 where it clamps. -/
  | arraySubss (n : Dealer) (op : AOp)
  /-- R105: Array compare for equality into a 1-bit field. -/
  | arrayCmpeq (n : Dealer) (op : AOp)
  /-- R105: Array compare for inequality. -/
  | arrayCmpne (n : Dealer) (op : AOp)
  /-- R105: Array unsigned less-than compare. -/
  | arrayCmpltu (n : Dealer) (op : AOp)
  /-- R105: Array signed less-than compare. -/
  | arrayCmplts (n : Dealer) (op : AOp)
  /-- R105: Array unsigned less-or-equal compare. -/
  | arrayCmpleu (n : Dealer) (op : AOp)
  /-- R105: Array signed less-or-equal compare. -/
  | arrayCmples (n : Dealer) (op : AOp)
  /-- R109: Array left shift by k. -/
  | arrayShl (n : Dealer) (op : AOp)
  /-- R109: Array logical right shift by k. -/
  | arrayShru (n : Dealer) (op : AOp)
  /-- R109: Array arithmetic right shift by k. -/
  | arrayShrs (n : Dealer) (op : AOp)
  /-- R121: Array unsigned widening multiply. -/
  | arrayMulwu (n : Dealer) (op : AOp)
  /-- R121: Array signed widening multiply. -/
  | arrayMulws (n : Dealer) (op : AOp)
  /-- R122: Array unsigned divide that sets P1981 on a zero divisor. -/
  | arrayDivu (n : Dealer) (op : AOp)
  /-- R122: Array signed divide. -/
  | arrayDivs (n : Dealer) (op : AOp)
  /-- R122: Array unsigned remainder. -/
  | arrayRemu (n : Dealer) (op : AOp)
  /-- R122: Array signed remainder. -/
  | arrayRems (n : Dealer) (op : AOp)
  /-- R141: Array floating-point add, in binary32 or binary16. -/
  | arrayFadd (n : Dealer) (op : AOp)
  /-- R141: Array floating-point subtract. -/
  | arrayFsub (n : Dealer) (op : AOp)
  /-- R141: Array floating-point multiply. -/
  | arrayFmul (n : Dealer) (op : AOp)
  /-- R141: Array fused multiply-add. -/
  | arrayFma (n : Dealer) (op : AOp)
  /-- R141: Array floating-point divide. -/
  | arrayFdiv (n : Dealer) (op : AOp)
  /-- R141: Array floating-point square root. -/
  | arrayFsqrt (n : Dealer) (op : AOp)
  /-- R136: Array IEEE minimum. -/
  | arrayFmin (n : Dealer) (op : AOp)
  /-- R136: Array IEEE maximum. -/
  | arrayFmax (n : Dealer) (op : AOp)
  /-- R136: Array floating-point equality compare. -/
  | arrayFcmpeq (n : Dealer) (op : AOp)
  /-- R136: Array floating-point less-than compare. -/
  | arrayFcmplt (n : Dealer) (op : AOp)
  /-- R136: Array floating-point less-or-equal compare. -/
  | arrayFcmple (n : Dealer) (op : AOp)
  /-- R135: Array sign inversion. -/
  | arrayFneg (n : Dealer) (op : AOp)
  /-- R135: Array sign clear. -/
  | arrayFabs (n : Dealer) (op : AOp)
  /-- R137: Array float to signed integer conversion. -/
  | arrayFcvtI (n : Dealer) (op : AOp)
  /-- R137: Array float to unsigned integer conversion. -/
  | arrayFcvtIu (n : Dealer) (op : AOp)
  /-- R127: Array signed integer to float conversion. -/
  | arrayFcvtF (n : Dealer) (op : AOp)
  /-- R127: Array unsigned integer to float conversion. -/
  | arrayFcvtFu (n : Dealer) (op : AOp)
  /-- R127: Array conversion between binary32 and binary16. -/
  | arrayFcvtX (n : Dealer) (op : AOp)
  /-- R116: An array opcode from 0x380 to 0x3FF is checked against its dispatch entry and runs its customer routine. -/
  | customerOpcode (n : Dealer) (a : Fin 128) (op : AOp)
  /-- R123: Scalar add that sets the arithmetic flags. -/
  | add (n : Dealer) (op : SOp)
  /-- R123: Scalar add with carry. -/
  | addc (n : Dealer) (op : SOp)
  /-- R123: Scalar subtract, or CMP. -/
  | sub (n : Dealer) (op : SOp)
  /-- R123: Scalar subtract with borrow. -/
  | subb (n : Dealer) (op : SOp)
  /-- R187: Scalar AND. -/
  | and (n : Dealer) (op : SOp)
  /-- R187: Scalar OR. -/
  | or (n : Dealer) (op : SOp)
  /-- R187: Scalar XOR. -/
  | xor (n : Dealer) (op : SOp)
  /-- R187: Scalar AND NOT. -/
  | andn (n : Dealer) (op : SOp)
  /-- R188: Scalar shift left. -/
  | shl (n : Dealer) (op : SOp)
  /-- R188: Scalar logical shift right. -/
  | shru (n : Dealer) (op : SOp)
  /-- R188: Scalar arithmetic shift right. -/
  | shrs (n : Dealer) (op : SOp)
  /-- R187: Low 32 bits of a product. -/
  | mul (n : Dealer) (op : SOp)
  /-- R124: Scalar unsigned 64-bit product to a register pair. -/
  | mulwu (n : Dealer) (op : SOp)
  /-- R124: Scalar signed 64-bit product to a register pair. -/
  | mulws (n : Dealer) (op : SOp)
  /-- R125: Scalar unsigned divide that traps DIV_ZERO. -/
  | divu (n : Dealer) (op : SOp)
  /-- R125: Scalar signed divide. -/
  | divs (n : Dealer) (op : SOp)
  /-- R125: Scalar unsigned remainder. -/
  | remu (n : Dealer) (op : SOp)
  /-- R125: Scalar signed remainder. -/
  | rems (n : Dealer) (op : SOp)
  /-- R187: Scalar set if less than, unsigned. -/
  | sltu (n : Dealer) (op : SOp)
  /-- R187: Scalar set if less than, signed. -/
  | slts (n : Dealer) (op : SOp)
  /-- R143: Scalar floating-point add, in .S or .D. -/
  | fadd (n : Dealer) (op : SOp)
  /-- R143: Scalar floating-point subtract. -/
  | fsub (n : Dealer) (op : SOp)
  /-- R143: Scalar floating-point multiply. -/
  | fmul (n : Dealer) (op : SOp)
  /-- R143: Scalar fused multiply-add. -/
  | fma (n : Dealer) (op : SOp)
  /-- R143: Scalar floating-point divide. -/
  | fdiv (n : Dealer) (op : SOp)
  /-- R143: Scalar square root. -/
  | fsqrt (n : Dealer) (op : SOp)
  /-- R136: Scalar minimum. -/
  | fmin (n : Dealer) (op : SOp)
  /-- R136: Scalar maximum. -/
  | fmax (n : Dealer) (op : SOp)
  /-- R136: Scalar floating-point equality compare to Wd. -/
  | fcmpeq (n : Dealer) (op : SOp)
  /-- R136: Scalar floating-point less-than compare. -/
  | fcmplt (n : Dealer) (op : SOp)
  /-- R136: Scalar floating-point less-or-equal compare. -/
  | fcmple (n : Dealer) (op : SOp)
  /-- R135: Scalar sign inversion. -/
  | fneg (n : Dealer) (op : SOp)
  /-- R135: Scalar sign clear. -/
  | fabs (n : Dealer) (op : SOp)
  /-- R137: Scalar float to signed integer conversion. -/
  | fcvtI (n : Dealer) (op : SOp)
  /-- R137: Scalar float to unsigned integer conversion. -/
  | fcvtIu (n : Dealer) (op : SOp)
  /-- R127: Scalar signed integer to float conversion. -/
  | fcvtF (n : Dealer) (op : SOp)
  /-- R127: Scalar unsigned integer to float conversion. -/
  | fcvtFu (n : Dealer) (op : SOp)
  /-- R127: Scalar conversion between binary32 and binary64. -/
  | fcvtX (n : Dealer) (op : SOp)
  /-- R187: Move from an F register to W. -/
  | fmfw (n : Dealer) (op : SOp)
  /-- R187: Move from W to an F register. -/
  | fmtw (n : Dealer) (op : SOp)
  /-- R187: Write a plane descriptor from Wa. -/
  | mtpd (n : Dealer) (op : SOp)
  /-- R187: Read a plane descriptor into Wd. -/
  | mfpd (n : Dealer) (op : SOp)
  /-- R187: Read a special register by selector. -/
  | mfs (n : Dealer) (op : SOp)
  /-- R187: Write a special register by selector. -/
  | mts (n : Dealer) (op : SOp)
  /-- R183: Load a segment register after checking its descriptor. -/
  | sgld (n : Dealer) (op : SOp)
  /-- R187: Read one word of a segment register. -/
  | sgrd (n : Dealer) (op : SOp)
  /-- R187: Add a sign-extended immediate. -/
  | addi (n : Dealer) (op : SOp)
  /-- R187: AND with an immediate. -/
  | andi (n : Dealer) (op : SOp)
  /-- R187: OR with an immediate. -/
  | ori (n : Dealer) (op : SOp)
  /-- R187: XOR with an immediate. -/
  | xori (n : Dealer) (op : SOp)
  /-- R188: Shift left by an immediate. -/
  | shli (n : Dealer) (op : SOp)
  /-- R188: Logical shift right by an immediate. -/
  | shrui (n : Dealer) (op : SOp)
  /-- R188: Arithmetic shift right by an immediate. -/
  | shrsi (n : Dealer) (op : SOp)
  /-- R187: Compare with an immediate and set the flags. -/
  | cmpi (n : Dealer) (op : SOp)
  /-- R187: Set if less than an immediate, unsigned. -/
  | sltui (n : Dealer) (op : SOp)
  /-- R187: Set if less than an immediate, signed. -/
  | sltsi (n : Dealer) (op : SOp)
  /-- R187: Load an immediate. -/
  | movi (n : Dealer) (op : SOp)
  /-- R184: Load a sign-extended byte through a segment. -/
  | ldb (n : Dealer) (op : SOp)
  /-- R184: Load a zero-extended byte. -/
  | ldbu (n : Dealer) (op : SOp)
  /-- R184: Load a sign-extended halfword. -/
  | ldh (n : Dealer) (op : SOp)
  /-- R184: Load a zero-extended halfword. -/
  | ldhu (n : Dealer) (op : SOp)
  /-- R184: Load a word. -/
  | ldw (n : Dealer) (op : SOp)
  /-- R184: Load a doubleword into a pair. -/
  | ldd (n : Dealer) (op : SOp)
  /-- R190: Store a byte. -/
  | stb (n : Dealer) (op : SOp)
  /-- R190: Store a halfword. -/
  | sth (n : Dealer) (op : SOp)
  /-- R190: Store a word. -/
  | stw (n : Dealer) (op : SOp)
  /-- R190: Store a doubleword from a pair. -/
  | std (n : Dealer) (op : SOp)
  /-- R184: Load binary32 into an F register. -/
  | fldS (n : Dealer) (op : SOp)
  /-- R184: Load binary64 into an F register. -/
  | fldD (n : Dealer) (op : SOp)
  /-- R190: Store the binary32 part of an F register. -/
  | fstS (n : Dealer) (op : SOp)
  /-- R190: Store an F register as binary64. -/
  | fstD (n : Dealer) (op : SOp)
  /-- R190: Atomic add as one Trellis FADD, returning the old word. -/
  | aadd (n : Dealer) (op : SOp)
  /-- R187: Compute an address without access or check. -/
  | lea (n : Dealer) (op : SOp)
  /-- R191: Conditional branch. -/
  | b (n : Dealer) (op : SOp)
  /-- R191: Call with link in W31. -/
  | call (n : Dealer) (op : SOp)
  /-- R191: Jump to a register. -/
  | jr (n : Dealer) (op : SOp)
  /-- R191: Jump to a register and link. -/
  | jalr (n : Dealer) (op : SOp)
  /-- R192: BCHK 0x0A traps BOUNDS unless an access of size 2^z at Wn fits the segment. -/
  | bchkSegment (n : Dealer) (op : SOp)
  /-- R192: BCHK 0x0B traps BOUNDS unless Wlo ≤ Wn ≤ Whi, compared as signed values. -/
  | bchkRange (n : Dealer) (op : SOp)
  /-- R194: The REP prefix repeats the following string instruction CT times, with early stops and event acceptance between iterations. -/
  | rep (n : Dealer) (op : SOp) (next : Word)
  /-- R193: Block move of one element. -/
  | bmove (n : Dealer) (op : SOp)
  /-- R193: Block fill of one element. -/
  | bfill (n : Dealer) (op : SOp)
  /-- R193: Block compare of one element pair. -/
  | bcomp (n : Dealer) (op : SOp)
  /-- R193: Block seek compare against WR. -/
  | bseek (n : Dealer) (op : SOp)
  /-- R197: Plane move of one whole plane under M. -/
  | plmov (n : Dealer) (op : SOp)
  /-- R229: Return from a trap to XPC, restoring the emergency area when EMBUSY is set. -/
  | xret (n : Dealer) (op : SOp)
  /-- R187: No operation. -/
  | nop (n : Dealer) (op : SOp)
  /-- R223: Read a register of a bank through WIN. -/
  | wget (n : Dealer) (op : SOp)
  /-- R224: Write a register of a bank through WIN. -/
  | wput (n : Dealer) (op : SOp)
  /-- R225: Save the lower half of a bank to a save area from the free list. -/
  | savel (n : Dealer) (op : SOp)
  /-- R225: Save the upper half of a bank. -/
  | saveu (n : Dealer) (op : SOp)
  /-- R226: Restore the lower half of a bank from the level's chain. -/
  | restl (n : Dealer) (op : SOp)
  /-- R226: Restore the upper half of a bank. -/
  | restu (n : Dealer) (op : SOp)
  /-- R221: Switch to the highest other ready task at the level. -/
  | swto (n : Dealer) (op : SOp)
  /-- R206: Leave the level, reloading lazy groups or storing the task, and run the next level or task. -/
  | lret (n : Dealer) (op : SOp)
  /-- R243: Mark the deal phase and record its time in DEAL_PHTk. -/
  | phase (n : Dealer) (op : SOp)
  /-- R244: End the deal's tick work, record DEAL_USED, raise the DEND event and begin the fallow. -/
  | dend (n : Dealer) (op : SOp)
  /-- R80: A write to ARRAY_HSEL selects a hand line and discards any staged words. -/
  | arrayHselWrite (ag : Agent) (v : Word)
  /-- R80: A write to ARRAY_HDATA stages a word and advances WORD; at word 11 the line is formed and committed, or discarded with BADLINE and EV270. -/
  | arrayHdataWrite (ag : Agent) (v : Word)
  /-- R80: A read of ARRAY_HDATA returns a committed word and advances WORD. -/
  | arrayHdataRead (ag : Agent)
  /-- R69: A GO write to CTU_CTRL is checked and starts a transfer, which issues pipelined packets. -/
  | ctuGo (ag : Agent) (t : Fin 64) (v : Word)
  /-- R72: A CTU transfer ends, sets DONE, the status and POISON, and raises EV000 + t. -/
  | ctuTransferDone (t : Fin 64)
  /-- R269: A long packet is captured by its context into the camera buffer, or dropped and counted. -/
  | csi2LongPacket (c : Fin 8) (vc : Fin 16) (dt : BitVec 6) (px : List (BitVec 24)) (crcOk : Bool) (hdrBad : Bool)
  /-- R270: A frame start short packet opens a frame in a context, making any open frame bad. -/
  | csi2FrameStart (c : Fin 8) (vc : Fin 16) (fnum : BitVec 16) (hdrBad : Bool)
  /-- R270: A frame end completes the frame, which is published with EV180 + c, or marks it bad with EV188 + c. -/
  | csi2FrameEnd (c : Fin 8) (vc : Fin 16) (hdrBad : Bool)
  /-- R274: A camera line's SAFETY-class DRAM write completes into its slot. -/
  | cameraLineWritten (c : Fin 8) (x : Fin 2)
  /-- R279: OFFSET cycles after the edge, CAMn_FSYNC is asserted. -/
  | fsyncPulseStart (c : Fin 8)
  /-- R279: After 1 µs, CAMn_FSYNC deasserts. -/
  | fsyncPulseEnd (c : Fin 8)
  /-- R284: A Dealer's write to DSP_COMMIT commits the owned, enabled layers for the tick, or is refused. -/
  | dspCommitWrite (ag : Agent) (p : Fin 6) (v : Word)
  /-- R287: A pipe begins vertical sync, latches every band's front buffer and the overlay's tell-tale states, samples ESP tell-tales and raises EV170 + p. -/
  | pipeFrameStart (p : Fin 6)
  /-- R282: A pipe sends one line through LUT, dither, overlay, tally, DSC and PHY, with black on underrun. -/
  | pipeLine (p : Fin 6) (missing : Nat)
  /-- R291: A display link is lost; EV177 is raised, LINKLOST is set and retraining or a lane restart begins. -/
  | displayLinkLost (p : Fin 6)
  /-- R291: A display link finishes training, or its DSI-2 lanes run again, and LINKUP reads 1. -/
  | displayLinkUp (p : Fin 6) (sup : Bool)
  /-- R311: After a box's last line, the tally gives PASS, FAIL or NOT_SENT; a FAIL or NOT_SENT counts, raises EV196 + n and, for a FAIL, sets the fallback latch. -/
  | tallyVerdict (p : Fin 6) (deal : Bool) (id : Fin 256)
  /-- R313: A safety notice is posted to every subscribed seat's notice ring, or lost and counted when the ring is full. -/
  | safetyNoticePost
  /-- R315: An AUX reading of the eDP TEST_CRC registers is matched to its frame and compared, counting FAILS or MISSES. -/
  | panelReadback (p : Fin 4) (reading : Option SinkCrc)
  /-- R301: The command checks and applies each used entry by CRC-8, counter and state, entering safe states where needed. -/
  | telltaleSet (seat : Fin 4) (cmd : TellCmd)
  /-- R303: A seat-sourced tell-tale's TIMEOUT expires; it enters its safe state, and EV202 + s is raised. -/
  | telltaleTimeout (t : Fin 256)
  /-- R314: A Dealer's GO commits the staged hand-off of its deal boxes. -/
  | tellHcmtWrite (ag : Agent) (v : Word)
  /-- R325: A store accepts or refuses a port A access, resolving same-word collisions with port B. -/
  | storePortAAccess (ag : Agent) (acc : PortAcc) (b : Option (Dealer × Fin 8 × PortAcc))
  /-- R324: The owning Dealer's port B access reaches the store, and reads return data after 4 cycles. -/
  | storePortBAccess (n : Dealer) (seg : Fin 8) (acc : PortAcc)
  /-- R330: A BANK_OWNER write without CLR hands the bank to a granted owner at the end of its cycle. -/
  | bankHandoverWrite (ag : Agent) (b : Fin 33) (owner : BitVec 4)
  /-- R332: A BANK_OWNER write with CLR hands the bank over and starts zeroing it, with NOT_READY for the new owner. -/
  | bankHandoverClear (ag : Agent) (b : Fin 33) (owner : BitVec 4)
  /-- R332: The last word of a bank clear is written, CLEARING drops, and the new owner gains access. -/
  | bankClearDone (b : Fin 32)
  /-- R334: A windowed COPY, TEST or BACK step of bank weeding runs in an idle port cycle, with mirrored writes. -/
  | weedingStep (b : Fin 33) (faulty : Bool)
  /-- R334: After COPY completes, the nursery takes over all of the bank's addresses. -/
  | weedRemap (b : Fin 32)
  /-- R334: After BACK completes, the bank serves its addresses again, and the nursery becomes idle. -/
  | weedUnmap (b : Fin 32)
  /-- R340: TAMP0 or TAMP1, held for 1 µs, triggers a cold-frame wipe, raises EV130 and poisons pending responses. -/
  | tamperInput (t : Fin 2) (ns : Nat) (held : List Nat) (part : List (Nat × Nat)) (reads : List (Dealer × Fin 8 × Nat))
  /-- R340: An internal glitch detector fires, triggering a cold-frame wipe and EV130. -/
  | glitchDetect (held : List Nat) (part : List (Nat × Nat)) (reads : List (Dealer × Fin 8 × Nat))
  /-- R342: The wipe's read-back completes; EV129 is raised, or the wipe repeats once and then FAILED is set. -/
  | coldWipeDone (ok : Bool)
  /-- R346: DRAM training completes, raising EV135; requests are served, and the main read may start. -/
  | dramTrainingDone (ok : Bool)
  /-- R347: The controller serves a request in its QoS class, answering POISON on a UE and reporting errors. -/
  | dramRequest (ag : Agent) (qos : Fin 4) (acc : PortAcc)
  /-- R351: A background scrub reads bursts and writes back corrected ones in the device fallow. -/
  | dramScrubStep
  /-- R358: A read request arrives at its target, which answers RDRESP, or an absorber answers POISON. -/
  | trellisRd (ag : Agent) (p : Packet) (errs : List LinkErr)
  /-- R358: A write request arrives at its target, which answers WRACK. -/
  | trellisWr (ag : Agent) (p : Packet) (errs : List LinkErr)
  /-- R358: A posted write arrives at its target, with no answer. -/
  | trellisWrp (ag : Agent) (p : Packet) (errs : List LinkErr)
  /-- R358: A fetch-and-add arrives, and the target returns the old value. -/
  | trellisFadd (ag : Agent) (p : Packet) (errs : List LinkErr)
  /-- R358: An EVT packet delivers a seat event to the seat's command or notice port. -/
  | trellisEvt (p : Packet) (errs : List LinkErr)
  /-- R361: A read response reaches the tag owner, freeing the tag; a late one is dropped. -/
  | trellisRdresp (p : Packet) (errs : List LinkErr) (seg : Fin 8)
  /-- R361: A write acknowledgement reaches the tag owner, freeing the tag. -/
  | trellisWrack (p : Packet) (errs : List LinkErr) (seg : Fin 8)
  /-- R362: A request's answer misses its class timeout, and the request completes with TIMEOUT. -/
  | tagTimeout (tag : Fin 2048) (seg : Fin 8)
  /-- R362: A further timeout after a TIMEOUT frees the tag. -/
  | tagRelease (tag : Fin 2048)
  /-- R371: A COMMIT write starts phase 2, and input ports switch to SHADOW at their packet boundaries. -/
  | trlSwapCommit (ag : Agent) (v : Word)
  /-- R371: Every input port has switched; TRL_DMAP takes the staged value, EV160 is raised and SWAP reads IDLE. -/
  | tableSwapDone
  /-- R375: At the end of the drain, the facing ports absorb permanently, and the router is ISOLATED. -/
  | routerIsolate (r : Fin 24)
  /-- R377: One side of a crossing resets; the other side raises EV161, absorbs queued packets and answers NOT_READY. -/
  | linkTokenDrop (r : Fin 24) (drop : TokenDrop)
  /-- R378: Both tokens stay up for 8 cycles, and traffic resumes. -/
  | linkTokenResume (r : Fin 24) (l : Fin 4)
  /-- R384: A configuration request is answered with retry status, from the image, or with Unsupported Request in SAFE HOLD. -/
  | pcieConfigRequest (req : CfgReq)
  /-- R385: A BAR2 read is checked against the seat's segments and completes, or receives Unsupported Request. -/
  | apertureRead (k : Fin 4) (o : Nat) (n : Nat)
  /-- R385: A BAR2 write is checked against the seat's segments and lands in DRAM or is discarded. -/
  | apertureWrite (k : Fin 4) (o : Nat) (data : List Byte)
  /-- R392: A write of SEAT_CMDIDX.PI makes commands available and raises EV228 + s. -/
  | doorbell (k : Fin 4) (pi : BitVec 8)
  /-- R391: A host write of CMP CI frees completion slots, letting a waiting command be taken. -/
  | completionCiWrite (k : Fin 4) (ci : BitVec 8)
  /-- R387: An SPI WRITE_CMD frame enters a command into the ring, or is dropped and counted when the ring is full. -/
  | writeCmd (p : Fin 2) (bytes : List Byte)
  /-- R387: An SPI READ_CMP frame returns and consumes the oldest completion. -/
  | readCmp (p : Fin 2)
  /-- R387: An SPI READ_NTC frame returns and consumes the oldest notice. -/
  | readNtc (p : Fin 2)
  /-- R387: An SPI READ_STATE frame returns the ring indices and SEAT_STAT. -/
  | readState (p : Fin 2)
  /-- R388: An SPI frame with an unknown first byte or a wrong length is discarded, raising EV247 or EV248. -/
  | spiFrameError (p : Fin 2)
  /-- R390: A CAN-FD CMDID frame of 64 bytes enters the command ring; any other is dropped. -/
  | canCommandFrame (c : Fin 4) (ide : Bool) (id : BitVec 29) (bytes : List Byte)
  /-- R390: A completion or notice frame is sent successfully and consumed from its ring. -/
  | canTransmitDone (c : Fin 4)
  /-- R389: A CAN controller becomes error passive or bus off, raising EV249 to EV252. -/
  | canErrorState (c : Fin 4) (st : Fin 3)
  /-- R392: The device takes the next command once it is available and a completion slot is free, checks it under R393 and posts one completion. -/
  | commandTake (k : Fin 4)
  /-- R402: A job step ends, recording progress and any failing status. -/
  | jobStepDone (k : Fin 4) (data : List Byte) (flash : Fin 11)
  /-- R406: A PCIe link goes down or enters D3hot, or a CAN controller goes bus off; EV236 + s is raised. -/
  | hostPortDown (k : Fin 4)
  /-- R406: A port returns, and every interrupt whose condition holds is delivered once. -/
  | hostPortUp (k : Fin 4)
  /-- R407: No command arrives for WDOG × 10 ms, and EV253 + s is raised. -/
  | seatWatchdogExpiry (k : Fin 4)
  /-- R485: PXn_PERST_N deasserts, and the endpoint leaves Detect within 20 ms. -/
  | pciePerstRelease (p : Fin 3)
  /-- R410: An error or machine-check report enters the Gardener's queues, or is dropped; a full UE queue decides UE_FLOOD. -/
  | gardenerReport (rep : Option Report) (ms : Nat)
  /-- R412: The Gardener judges a report as a strike, transient or lasting, and scrubs, grafts, prunes, tolerates, restarts or settles. -/
  | reportJudgement
  /-- R414: A standby Dealer's self-check fails, raising EV064 + 8n + 6 and a lasting LOCKSTEP fault. -/
  | standbySelfcheckFail (n : Dealer)
  /-- R417: A transient location is read, corrected and written back unless it was overwritten, raising EV276. -/
  | transientScrub (k : Nat) (met : Bool)
  /-- R416: A UE word of the image copy is reread from flash and written back. -/
  | imageCopyRepair
  /-- R427: DRAM leaves self refresh, and the pipes resume scanning their front buffers. -/
  | warmDramBack (ok : Bool)
  /-- R427: The overlay and tally finish rereading the TELL data and resume drawing. -/
  | warmTelltaleCheckDone
  /-- R427: The loader verifies the copy, reapplies the configuration and stores, and re-applies the Gardener's changes. -/
  | warmImageVerified (reread : Bool)
  /-- R446: Staged release step 2: the pads and EO lines follow their sources. -/
  | espOutputsRelease
  /-- R446: 16 FCLK cycles later, the flip-flops begin to change on their clocks. -/
  | espWriteEnable
  /-- R446: 16 FCLK cycles later, GRST deasserts, EV273 is raised and STAGE reads COMPLETE. -/
  | espResetRelease
  /-- R443: STARTDONE reads 1, or RECREQ returns to 0, and the fabric enters RUN. -/
  | espRunEntry
  /-- R443: RECREQ reads 1 in RUN, and the fabric enters RECOVERY. -/
  | espRecoveryEntry
  /-- R440: EO k of 0 to 27 rises at an FCLK edge, raising EV292 + k. -/
  | espEoRise (k : Fin 28)
  /-- R445: A debug write of ENTER 1 puts the fabric in TEST. -/
  | espTestEnter (ag : Agent)
  /-- R445: A write of ENTER 0 returns the fabric to RUN and clears STOP. -/
  | espTestExit (ag : Agent)
  /-- R445: A write of STOP stops every FG tree at its low level. -/
  | espTestStop (ag : Agent)
  /-- R445: A write of STEP 1 gives every stopped tree one pulse. -/
  | espTestStep (ag : Agent)
  /-- R452: A crystal's count reaches 4,096 within range, setting XAR or XBR and raising EV261. -/
  | xtalQualified (x : Fin 2)
  /-- R452: A crystal is not qualified within 8 ms, and XAFAIL or XBFAIL is set. -/
  | xtalQualTimeout (x : Fin 2)
  /-- R451: A PLL locks and becomes ready. -/
  | pllLock (p : Fin 6)
  /-- R458: A CLK_SELd write with RAMP 0 switches the domain glitch-free, or is refused with EV262. -/
  | clkNativeSwitch (ag : Agent) (d : Fin 7) (src : Bool)
  /-- R459: A CLK_SELd write with RAMP 1 starts a ramp switch at ÷8. -/
  | clkRampSwitch (ag : Agent) (d : Fin 7) (src : Bool)
  /-- R459: 256 cycles of dwell expire, and the ramp divider halves, or the ramp ends. -/
  | rampStepExpiry (d : Fin 7)
  /-- R462: A CLK_GATEg write turns the gate on or off, or is refused with EV263. -/
  | clkGateWrite (ag : Agent) (g : Fin 25) (en : Bool)
  /-- R454: A 1 ms reference window closes, and the FIRC trim code is set or stepped, raising EV260. -/
  | trimWindow (target : BitVec 10) (within : Bool)
  /-- R455: A frame received without error on the CAN trim reference is timed for trim. -/
  | canTrimFrame (c : Fin 4)
  /-- R465: An armed monitor finds a failure; domains switch to FIRC or the fallback, and a cold reset follows. -/
  | clockMonitorFail (src : Fin 10)
  /-- R463: FIRC departs by more than 20 % against SIRC, raising EV272. -/
  | fircMonitorWarning
  /-- R464: A FIRC window does not close within 4 ms; the FIRC monitor disarms, and EV272 is raised. -/
  | sircWindowTimeout
  /-- R463: SIRC measures within ±35 % over 64 cycles and qualifies. -/
  | sircQualified
  /-- R467: PWR_GOOD deasserts for 1 µs, starting a power-on reset that overrides every other cause. -/
  | powerOnReset (ns : Nat)
  /-- R467: RESET_N is asserted for 1 µs, starting a cold reset. -/
  | resetNAssert (ns : Nat)
  /-- R468: Once RESET_N and PWR_GOOD permit, the reset releases, POR is released, start-up begins and EV269 is raised. -/
  | resetRelease (strap : BitVec 4)
  /-- R495: A rail leaves or re-enters its warning window, raising EV266 or EV267. -/
  | supplyWarning (rail : Fin 7) (outside : Bool)
  /-- R495: A rail stays outside its reset window for 2 µs, and a SUPPLY cold reset follows. -/
  | supplyResetExpiry
  /-- R501: The hottest junction crosses a warning or critical threshold, raising EV264 or EV265. -/
  | thermalThreshold (tj : BitVec 9)
  /-- R501: The junction stays above 145 °C for 1 ms, and a THERMAL cold reset follows. -/
  | thermalShutdownExpiry
  /-- R503: POCk_ISNS exceeds VTRIP; the link is cut within 5 µs, counted as a strike and latched off on the third cut in 10 s. -/
  | pocOvercurrent (k : Fin 14) (mv : Nat)
  /-- R504: 100 ms after a cut, the switch closes again. -/
  | pocRetryExpiry (k : Fin 14)
  /-- R473: The reading and checking of an image slot ends; the slot is valid, or B is tried, or SAFE HOLD is entered. -/
  | slotCheckDone (img : Image)
  /-- R478: The first tick edge occurs once every tell-tale pipe's link is up, or at the step-6 bound. -/
  | firstTickEdge (bound : Bool)
  /-- R483: A section of the main read completes and is hash-checked, reread, taken from the other slot, or fails into EARLY_ONLY. -/
  | mainSectionRead (first : List Byte) (second : List Byte) (other : Option Image)
  /-- R488: A debug write requests a life-cycle change, or is refused. -/
  | sysLcreqWrite (ag : Agent) (v : Word)
  /-- R490: Life-cycle or key fuses finish programming, and a cold reset with cause LCS follows. -/
  | fuseProgrammingDone
  /-- R114: The Dealer meets an instruction word whose opcode is not defined, in the vendor array range or in a scalar class, and traps ILL_OPCODE through the illegal-instruction routine. -/
  | illOpcode (n : Dealer) (w : Word)
  /-- R268: A camera port's D-PHY lanes reach the stop state after the port is enabled, and CAM_STAT.LINK becomes 1. -/
  | cameraLanesStopState (c : Fin 8)
  /-- R438: The level on a GPIO pad assigned to the Espalier changes, which feeds the interconnect and, for GPIOn, may clock tree FGn. -/
  | gpioPadInputChange (g : Fin 96) (level : Bool)
  /-- R349: A per-bank refresh falls due; in reserve mode the suit refreshes at twice the MR4 rate and scrubs its faulting rows at each refresh. -/
  | dramRefresh (suit : Fin 4)
  deriving DecidableEq, Repr

end Sys2Proof
end

