-- ==== Sys2Proof/Decode.lean ====
section
/-!
DEFINITION. Words that spell commands: the command table gives no row any bits (the GN9262 is modelled as a block that takes commands), so no
word spells one.
-/
namespace Sys2Proof

/-- The command that a word spells by the table's bits: none, since no row of the table has bits. -/
def decodeTableWord (_nbits _w : Nat) : Option Instr := none

end Sys2Proof
end

