-- ==== Sys2Proof/Machine/Bits.lean ====
section
/-!
DEFINITION. Bit fields, extension, byte order and counting helpers shared by every chapter of the model.  A field
`[hi:lo]` of a word is read as a natural number, as the specification's tables read it (spec/00_scope.md, notation).
-/
namespace Sys2Proof.Machine

open Sys2Proof

/-- The value of `wid` bits of `x` starting at bit `lo`. -/
def natBits (x lo wid : Nat) : Nat := x / 2 ^ lo % 2 ^ wid

/-- Bit `i` of `x`. -/
def natBit (x i : Nat) : Bool := x / 2 ^ i % 2 == 1

/-- A field of a 32-bit word. -/
def getField (w : Word) (lo wid : Nat) : Nat := natBits w.toNat lo wid

/-- A 32-bit word with one field replaced; the value is taken modulo the field's size. -/
def putField (w : Word) (lo wid v : Nat) : Word :=
  (w &&& ~~~((BitVec.ofNat 32 (2 ^ wid - 1)) <<< lo)) ||| ((BitVec.ofNat 32 (v % 2 ^ wid)) <<< lo)

/-- Sign extension of a `wid`-bit number to 32 bits. -/
def sextTo32 (wid v : Nat) : Word :=
  BitVec.ofInt 32 (if 2 ^ (wid - 1) ≤ v then (v : Int) - 2 ^ wid else v)

/-- The signed value of a `wid`-bit number. -/
def toSigned (wid v : Nat) : Int := if 2 ^ (wid - 1) ≤ v then (v : Int) - 2 ^ wid else v

/-- The `wid`-bit number of an integer, modulo `2 ^ wid`. -/
def ofSigned (wid : Nat) (i : Int) : Nat := (i % (2 ^ wid : Int)).toNat

/-- Little-endian bytes of a number (R5). -/
def bytesOfNat : Nat → Nat → List Byte
  | 0, _ => []
  | n + 1, v => BitVec.ofNat 8 v :: bytesOfNat n (v / 256)

/-- The number little-endian bytes hold (R5). -/
def natOfBytes : List Byte → Nat
  | [] => 0
  | b :: bs => b.toNat + 256 * natOfBytes bs

/-- All ones in `wid` bits. -/
def ones (wid : Nat) : Nat := 2 ^ wid - 1

/-- A count that stays at its largest value once reached. -/
def satAdd (wid a b : Nat) : Nat := min (a + b) (ones wid)

/-- The list `[lo, lo + 1, …]` of `n` numbers. -/
def rangeFrom : Nat → Nat → List Nat
  | _, 0 => []
  | lo, n + 1 => lo :: rangeFrom (lo + 1) n

/-- The exclusive or of the bits of `x`, counted over `n` bits. -/
def parityN (x : Nat) : Nat → Bool
  | 0 => false
  | n + 1 => xor (natBit x n) (parityN x n)

/-- The number of bits of `x` that are 1, counted over `n` bits. -/
def popCount (x : Nat) : Nat → Nat
  | 0 => 0
  | n + 1 => (if natBit x n then 1 else 0) + popCount x n

/-- The lowest bit of `x` below `n` that is 1. -/
def lowestBit (x n : Nat) : Option Nat := (rangeFrom 0 n).find? (natBit x)

/-- The highest bit of `x` below `n` that is 1. -/
def highestBit (x : Nat) : Nat → Option Nat
  | 0 => none
  | n + 1 => if natBit x n then some n else highestBit x n

/-- `x` with bit `i` set to `b`. -/
def setNatBit (x i : Nat) (b : Bool) : Nat :=
  if natBit x i then (if b then x else x - 2 ^ i) else (if b then x + 2 ^ i else x)

/-- A Boolean as the field value 0 or 1. -/
def b2n (b : Bool) : Nat := if b then 1 else 0

/-- CRC-32 of R176: reflected polynomial 0xEDB88320 applied to one byte. -/
def crc32Bits : Nat → Nat → Nat
  | 0, c => c
  | n + 1, c => crc32Bits n (if c % 2 = 1 then (c / 2) ^^^ 0xEDB88320 else c / 2)

/-- One byte entered into a CRC-32 register. -/
def crc32Step (c : Nat) (b : Byte) : Nat := crc32Bits 8 (c ^^^ b.toNat)

/-- CRC-32 of R176 over a list of bytes: register all ones at the start, inverted at the end. -/
def crc32 (bs : List Byte) : Nat := (bs.foldl crc32Step 0xFFFFFFFF) ^^^ 0xFFFFFFFF

/-- CRC-8 register clocked `n` bits, most significant bit first, with polynomial `poly`. -/
def crc8Bits (poly : Nat) : Nat → Nat → Nat
  | 0, c => c
  | n + 1, c => crc8Bits poly n (if 128 ≤ c then (c * 2 % 256) ^^^ poly else c * 2)

end Sys2Proof.Machine
end

