-- ==== Sys2Proof/Machine/Sha.lean ====
section
/-!
DEFINITION. SHA-384 of FIPS 180-4, which R402 and R472 name for the assets: its constants are the fractional parts of square and cube roots of
the first primes, as the standard gives them.
-/
namespace Sys2Proof.Machine

open Sys2Proof

/-- The largest number below 2^n, added to r, for which `p` still holds. -/
def largestWith (p : Nat → Bool) : Nat → Nat → Nat
  | 0, r => r
  | n + 1, r => largestWith p n (if p (r + 2 ^ n) then r + 2 ^ n else r)

/-- The first 80 primes. -/
def shaPrimes : List Nat := (rangeFrom 2 408).filter (fun n => (rangeFrom 2 19).all (fun d => n % d != 0 || n == d))

/-- The first 64 bits of the fractional part of the root of p of degree k. -/
def rootFraction (k p : Nat) : BitVec 64 := BitVec.ofNat 64 (largestWith (fun r => decide (r ^ k ≤ p * 2 ^ (64 * k))) 67 0)

/-- The round constants. -/
def shaK : List (BitVec 64) := shaPrimes.map (rootFraction 3)

/-- The initial hash value of SHA-384: from the ninth to the sixteenth prime. -/
def shaInit : List (BitVec 64) := ((shaPrimes.drop 8).take 8).map (rootFraction 2)

/-- The message schedule, newest word first, extended by n words. -/
def shaSchedule : Nat → List (BitVec 64) → List (BitVec 64)
  | 0, w => w
  | n + 1, w =>
    let a := w.getD 1 0
    let b := w.getD 14 0
    let s1 := a.rotateRight 19 ^^^ a.rotateRight 61 ^^^ (a >>> 6)
    let s0 := b.rotateRight 1 ^^^ b.rotateRight 8 ^^^ (b >>> 7)
    shaSchedule n ((s1 + w.getD 6 0 + s0 + w.getD 15 0) :: w)

/-- One round, with the sum of its constant and its schedule word. -/
def shaRound (v : List (BitVec 64)) (kw : BitVec 64) : List (BitVec 64) :=
  match v with
  | [a, b, c, d, e, f, g, h] =>
    let t1 := h + (e.rotateRight 14 ^^^ e.rotateRight 18 ^^^ e.rotateRight 41) + ((e &&& f) ^^^ (~~~e &&& g)) + kw
    let t2 := (a.rotateRight 28 ^^^ a.rotateRight 34 ^^^ a.rotateRight 39) + ((a &&& b) ^^^ (a &&& c) ^^^ (b &&& c))
    [t1 + t2, a, b, c, d + t1, e, f, g]
  | _ => v

/-- A block of 128 bytes enters the hash value. -/
def shaBlock (v : List (BitVec 64)) (b : List Byte) : List (BitVec 64) :=
  let w := (rangeFrom 0 16).map (fun i => BitVec.ofNat 64 (natOfBytes ((b.drop (8 * i)).take 8).reverse))
  let ws := (shaSchedule 64 w.reverse).reverse
  (v.zip ((shaK.zip ws).foldl (fun u p => shaRound u (p.1 + p.2)) v)).map (fun p => p.1 + p.2)

/-- `n` blocks of a padded message. -/
def shaBlocks : Nat → List (BitVec 64) → List Byte → List (BitVec 64)
  | 0, v, _ => v
  | n + 1, v, b => shaBlocks n (shaBlock v (b.take 128)) (b.drop 128)

/-- The message with a 1 bit, zeros and its length in bits, in whole blocks. -/
def shaPad (m : List Byte) : List Byte :=
  m ++ 0x80 :: List.replicate ((239 - m.length % 128) % 128) 0 ++ (bytesOfNat 16 (8 * m.length)).reverse

/-- SHA-384 as a number, its first byte the most significant. -/
def sha384 (m : List Byte) : Nat :=
  let p := shaPad m
  ((shaBlocks (p.length / 128) shaInit p).take 6).foldl (fun n w => n * 2 ^ 64 + w.toNat) 0

end Sys2Proof.Machine
end

