-- ==== Sys2Proof/Machine/Ecdsa.lean ====
section
/-!
DEFINITION. The ECDSA P-384 verification of FIPS 186-5, which R471 names for an image's SIG, with the curve's parameters (log entry 165).
-/
namespace Sys2Proof.Machine

open Sys2Proof

/-- The field's prime. -/
def p384P : Nat := 2 ^ 384 - 2 ^ 128 - 2 ^ 96 + 2 ^ 32 - 1
/-- The order of the base point. -/
def p384N : Nat := 0xffffffffffffffffffffffffffffffffffffffffffffffffc7634d81f4372ddf581a0db248b0a77aecec196accc52973
/-- The curve is y² = x³ − 3x + b. -/
def p384B : Nat := 0xb3312fa7e23ee7e4988e056be3f82d19181d9c6efe8141120314088f5013875ac656398d8a2ed19d2a85c8edd3ec2aef
/-- The base point. -/
def p384G : Nat × Nat :=
  (0xaa87ca22be8b05378eb1c71ef320ad746e1d3b628ba79b9859f741e082542a385502f25dbf55296c3a545e3872760ab7,
   0x3617de4a96262c6f5d9e98bf9292dc29f8f41dbd289a147ce9da3113b5f0b8c00a60b1ce1d7e819d7a431d7c90ea0e5f)

/-- The bits of a number below 2^384, the highest first. -/
def bits384 (e : Nat) : List Bool := (rangeFrom 0 384).reverse.map (natBit e)

def powMod (m b e : Nat) : Nat := (bits384 e).foldl (fun acc i => let a := acc * acc % m; if i then a * b % m else a) 1

/-- The inverse of a number modulo a prime. -/
def invMod (m a : Nat) : Nat := powMod m a (m - 2)

/-- a − b in the field. -/
def fieldSub (a b : Nat) : Nat := (a + (p384P - b % p384P)) % p384P

/-- The point on a line of slope g through two points, reflected. -/
def chord (g x1 y1 x2 : Nat) : Nat × Nat :=
  let x := fieldSub (fieldSub (g * g) x1) x2
  (x, fieldSub (g * fieldSub x1 x) y1)

/-- The sum of two points; none is the point at infinity. -/
def pointAdd : Option (Nat × Nat) → Option (Nat × Nat) → Option (Nat × Nat)
  | none, q => q
  | p, none => p
  | some (x1, y1), some (x2, y2) =>
    if x1 = x2 then
      if (y1 + y2) % p384P = 0 then none
      else some (chord (fieldSub (3 * x1 * x1) 3 * invMod p384P (2 * y1 % p384P) % p384P) x1 y1 x2)
    else some (chord (fieldSub y2 y1 * invMod p384P (fieldSub x2 x1) % p384P) x1 y1 x2)

/-- The multiple of a point. -/
def pointMul (k : Nat) (p : Option (Nat × Nat)) : Option (Nat × Nat) :=
  (bits384 k).foldl (fun acc i => let q := pointAdd acc acc; if i then pointAdd q p else q) none

/-- Whether (x, y) is a point of the curve. -/
def onCurve (x y : Nat) : Bool :=
  decide (x < p384P) && decide (y < p384P) && (y * y % p384P == fieldSub (x * x * x + p384B) (3 * x))

/-- A signature (r, then s) verifies over a hash under a key (x, then y), each number 48 bytes, most significant first. -/
def ecdsaOk (key : List Byte) (hash : Nat) (sig : List Byte) : Bool :=
  let num (l : List Byte) (i : Nat) : Nat := natOfBytes ((l.drop (48 * i)).take 48).reverse
  let r := num sig 0
  let s := num sig 1
  let w := invMod p384N s
  onCurve (num key 0) (num key 1) && decide (0 < r) && decide (r < p384N) && decide (0 < s) && decide (s < p384N) &&
    (match pointAdd (pointMul (hash * w % p384N) (some p384G)) (pointMul (r * w % p384N) (some (num key 0, num key 1))) with
     | some q => q.1 % p384N == r
     | none => false)

end Sys2Proof.Machine
end

