-- ==== Sys2Proof/Machine/Image.lean ====
section
/-!
DEFINITION. What an image's bytes say (spec/17 R471, R472, R486, R489): the header's fields, the section table, the sections whose format the
specification gives, and the bytes of the image copy.
-/
namespace Sys2Proof

open Machine

/- The header (R471). -/

/-- The bytes of a list from an offset on; a byte past its end counts as 0. -/
def Machine.bytesAt (l : List Byte) (o n : Nat) : List Byte := (rangeFrom o n).map (fun i => l.getD i 0)

/-- A little-endian field of the header. -/
def Plan.field (p : Plan) (o n : Nat) : Nat := natOfBytes (bytesAt p.header o n)

def Plan.magic (p : Plan) : Nat := p.field 0 4
def Plan.format (p : Plan) : Nat := p.field 4 2
def Plan.part (p : Plan) : Nat := p.field 6 2
def Plan.svn (p : Plan) : Nat := p.field 8 1
def Plan.raise (p : Plan) : Bool := natBit (p.field 9 1) 0
def Plan.bindKey (p : Plan) : Bool := natBit (p.field 9 1) 1
def Plan.nsect (p : Plan) : Nat := p.field 10 2
def Plan.copyBase (p : Plan) : Nat := p.field 0x10 8
def Plan.key (p : Plan) : List Byte := bytesAt p.header 0x20 96
/-- The SHA-384 of KEY. -/
def Plan.keyHash (p : Plan) : Nat := sha384 p.key

/-- Entry i of the section table. -/
def Plan.entry (p : Plan) (i : Nat) : Section :=
  let o := 0x80 + 64 * i
  { typ := p.field o 1, dest := p.field (o + 12) 4 + 2 ^ 32 * p.field (o + 2) 2, off := p.field (o + 4) 4, size := p.field (o + 8) 4,
    hash := natOfBytes (bytesAt p.header (o + 16) 48).reverse }

/-- The sections in use. -/
def Plan.sects (p : Plan) : List Section := (rangeFrom 0 (min 32 p.nsect)).map p.entry

/-- Every header byte and bit that R471 gives the value 0 is 0. -/
def Plan.zerosOk (p : Plan) : Bool :=
  let zero (o n : Nat) : Bool := (bytesAt p.header o n).all (fun b => b == 0)
  zero 0x0C 4 && zero 0x18 8 && zero (0x80 + 64 * p.nsect) (64 * (32 - p.nsect)) && zero 0x8E0 1824 && decide (p.field 9 1 < 4) &&
    (rangeFrom 0 32).all (fun i => zero (0x81 + 64 * i) 1)

/-- SIG is a signature of header bytes 0x000 to 0x87F under KEY. -/
def Plan.sigOk (p : Plan) : Bool := ecdsaOk p.key (sha384 (bytesAt p.header 0 0x880)) (bytesAt p.header 0x880 96)

/- Sections. -/

/-- Bytes read for a section have its length and its HASH. -/
def Section.verifies (x : Section) (l : List Byte) : Bool := l.length == x.size && sha384 l == x.hash

/-- The bytes of section i in the slot. -/
def Plan.bytes (p : Plan) (i : Nat) : List Byte := p.contents.getD i []

/-- The sections of a type, with their bytes. -/
def Plan.ofType (p : Plan) (t : Nat) : List (Section × List Byte) :=
  (p.sects.zipIdx.filter (fun x => x.1.typ == t)).map (fun x => (x.1, p.bytes x.2))

/-- The life-cycle request of the LCREQ section (R489): SYS_UID and target.  A section that is not of the rule's form asks for nothing
(DESIGN CHOICE, log entry 164). -/
def Plan.lcreq (p : Plan) : Option (Nat × Nat) :=
  match p.ofType 8 with
  | (_, l) :: _ =>
    if l.length = 16 ∧ (l.drop 9).all (fun b => b == 0) then some (natOfBytes (l.take 8), (l.getD 8 0).toNat) else none
  | [] => none

/-- An entry of the asset table (R472).  One whose bytes 9 to 15 are not 0 is no asset (DESIGN CHOICE, log entry 164). -/
def assetOf (l : List Byte) : Asset :=
  if (bytesAt l 9 7).all (fun b => b == 0) then
    { off := natOfBytes (bytesAt l 0 4), size := natOfBytes (bytesAt l 4 4), seats := BitVec.ofNat 8 (l.getD 8 0).toNat,
      hash := natOfBytes (bytesAt l 16 48).reverse }
  else { off := 0, size := 0, seats := 0 }

/-- The asset table: at most 256 entries. -/
def Plan.assets (p : Plan) : List Asset :=
  match p.ofType 0x11 with
  | (_, l) :: _ => (rangeFrom 0 (min 256 (l.length / 64))).map (fun a => assetOf ((l.drop (64 * a)).take 64))
  | [] => []

/-- The byte at an offset of the slot, of the header and the EARLY and MAIN sections; 0 between them. -/
def Plan.slotByte (p : Plan) (o : Nat) : Byte :=
  if o < 4096 then p.header.getD o 0
  else match p.sects.zipIdx.find? (fun x => x.1.typ != 0x12 && decide (x.1.off ≤ o) && decide (o < x.1.off + x.1.size)) with
    | some x => (p.bytes x.2).getD (o - x.1.off) 0
    | none => 0

/-- The word that the image copy holds at a DRAM address (R486). -/
def Plan.copyWord (p : Plan) (a : Nat) : Nat :=
  natOfBytes ((rangeFrom (8 * (a / 8)) 8).map (fun x => if p.copyBase ≤ x then p.slotByte (x - p.copyBase) else 0))

end Sys2Proof
end

