-- ==== Sys2Proof/Config.lean ====
section
/-!
DEFINITION. What an implementation fixes and the specification leaves open: free values, opaque so that nothing can be
proved of them, and the fixed contents of the root ROM.  Each is named in notes/assumptions.
-/
namespace Sys2Proof

/-- The contents of a T plane row word (P1984 to P2047) after the array instruction numbered by the first argument (R48);
the second argument is the row word's plane-window address. -/
opaque Config.tPlane : Nat → Nat → DWord

/-- The state bits of a row of 64 PEs at the start of an array instruction (R155): the first argument is 0 for C, 1 for T, 2 for L,
the second the number of the instruction, the third the row (8 × logical row + tile column). -/
opaque Config.peRow : Nat → Nat → Nat → DWord

/-- A free natural number: the first argument names its use, the second is the state's counter of free values drawn. -/
opaque Config.free : Nat → Nat → Nat

/-- The entries of a hand line of which a word is uncorrectable, by the line's number and the words as stored (R61, R323). -/
opaque Config.handLine : Nat → BitVec 384 → BitVec 384

/-- The step of a panel's component CRC that the eDP standard defines (R315): bits per channel, the CRC so far, the component's value. -/
opaque Config.sinkStep : Nat → Nat → Nat → BitVec 16

/-- The VESA DSC 1.2a encoder (R282, R292, R296): its next state, from the PPS, its state and a line of pixels. -/
opaque Config.dscNext : List Word → Nat → List Nat → Nat

/-- The bytes of the coded line, from the PPS, the encoder's state and a line of pixels. -/
opaque Config.dscBytes : List Word → Nat → List Nat → List Byte

/-- The microwords of the root ROM (R147): bits [143:0] of root microword m. -/
opaque Config.rootWord : Nat → BitVec 144

end Sys2Proof
end

