-- ==== Sys2Proof/Machine/SoftFloat.lean ====
section
/-!
DEFINITION. Floating-point arithmetic of spec/04 (R127 to R137) for binary16, binary32 and binary64.  Every operation is
computed exactly on integers and rounded once.  Exceptions are a mask in the order of FPC: bit 0 NV, 1 DZ, 2 OF, 3 UF,
4 NX.
-/
namespace Sys2Proof.Machine

/-- A binary format: exponent bits and fraction bits. -/
structure FFmt where
  eb : Nat
  mb : Nat
  deriving DecidableEq, Repr

def fmtH : FFmt := ⟨5, 10⟩
def fmtS : FFmt := ⟨8, 23⟩
def fmtD : FFmt := ⟨11, 52⟩

/-- Rounding modes of R131, as FPC.RM encodes them. -/
inductive Rm where
  | rne | rtz | rdn | rup
  deriving DecidableEq, Repr

def rmOfNat (v : Nat) : Rm := match v with | 0 => .rne | 1 => .rtz | 2 => .rdn | _ => .rup

/-- What a number's bits stand for: `fin s m e` is `(-1)^s × m × 2^e`. -/
inductive FVal where
  | nan (sig : Bool)
  | inf (s : Bool)
  | fin (s : Bool) (m : Nat) (e : Int)
  deriving DecidableEq, Repr

/-- Bits of a result and the exceptions it raises. -/
structure FRes where
  bits : Nat
  fl : Nat
  deriving DecidableEq, Repr

def flNV : Nat := 1
def flDZ : Nat := 2
def flOF : Nat := 4
def flUF : Nat := 8
def flNX : Nat := 16

/-- Smallest normal exponent of the format. -/
def FFmt.emin (f : FFmt) : Int := 2 - (2 ^ (f.eb - 1) : Int)

/-- The number of bits of the format. -/
def FFmt.width (f : FFmt) : Nat := 1 + f.eb + f.mb

/-- The sign bit in its place. -/
def FFmt.signBit (f : FFmt) (s : Bool) : Nat := if s then 2 ^ (f.eb + f.mb) else 0

/-- Infinity of a sign. -/
def FFmt.infBits (f : FFmt) (s : Bool) : Nat := f.signBit s + (2 ^ f.eb - 1) * 2 ^ f.mb

/-- The default NaN of R135. -/
def FFmt.qnan (f : FFmt) : Nat := (2 ^ f.eb - 1) * 2 ^ f.mb + 2 ^ (f.mb - 1)

/-- The largest finite number of a sign. -/
def FFmt.maxBits (f : FFmt) (s : Bool) : Nat := f.infBits s - 1

/-- Reads a number; with `ftz` a subnormal is read as a zero of its sign (R132). -/
def fUnpack (f : FFmt) (ftz : Bool) (x : Nat) : FVal :=
  let s := natBit x (f.eb + f.mb)
  let e := natBits x f.mb f.eb
  let m := natBits x 0 f.mb
  if e = 2 ^ f.eb - 1 then
    (if m = 0 then .inf s else .nan (!natBit x (f.mb - 1)))
  else if e = 0 then
    (if ftz then .fin s 0 0 else .fin s m (f.emin - f.mb))
  else .fin s (m + 2 ^ f.mb) ((e : Int) - 1 + f.emin - f.mb)

/-- Rounds `n + r` to an integer, where the discarded part r is compared with one half by `cmp` (lt, eq, gt) and
`inexact` says it is not zero. -/
def roundUp (rm : Rm) (s : Bool) (n : Nat) (inexact : Bool) (cmp : Ordering) : Bool :=
  match rm with
  | .rne => match cmp with | .lt => false | .gt => true | .eq => n % 2 == 1
  | .rtz => false
  | .rdn => s && inexact
  | .rup => !s && inexact

/-- `num / den × 2 ^ sh` rounded to an integer, and whether anything was discarded. -/
def roundAt (rm : Rm) (s : Bool) (num den : Nat) (sh : Int) : Nat × Bool :=
  let a := if 0 ≤ sh then num * 2 ^ sh.toNat else num
  let b := if 0 ≤ sh then den else den * 2 ^ (-sh).toNat
  let n := a / b
  let r := a % b
  let up := roundUp rm s n (r ≠ 0) (compare (2 * r) b)
  (if up then n + 1 else n, r ≠ 0)

/-- Rounds `(-1)^s × num / den × 2^e`, num and den not 0, to the format (R131 to R134). -/
def fRound (f : FFmt) (rm : Rm) (ftz : Bool) (s : Bool) (num den : Nat) (e : Int) : FRes :=
  let l : Int := (Nat.log2 num : Int) - (Nat.log2 den : Int)
  let ge : Bool := if 0 ≤ l then decide (den * 2 ^ l.toNat ≤ num) else decide (den ≤ num * 2 ^ (-l).toNat)
  let ex : Int := (if ge then l else l - 1) + e
  let q : Int := ex - f.mb
  let qmin : Int := f.emin - f.mb
  let unb := roundAt rm s num den (e - q)
  let tiny : Bool := decide (ex < f.emin) && !decide (ex = f.emin - 1 ∧ unb.1 = 2 ^ (f.mb + 1))
  let qb : Int := max q qmin
  let r := roundAt rm s num den (e - qb)
  let code : Nat := ((qb - qmin) * 2 ^ f.mb + r.1).toNat
  if tiny && ftz then ⟨f.signBit s, flUF + flNX⟩
  else if (2 ^ f.eb - 1) * 2 ^ f.mb ≤ code then
    let toInf : Bool := match rm with | .rne => true | .rtz => false | .rdn => s | .rup => !s
    ⟨if toInf then f.infBits s else f.maxBits s, flOF + flNX⟩
  else ⟨f.signBit s + code, (if tiny && r.2 then flUF else 0) + (if r.2 then flNX else 0)⟩

/-- A finite number rounded to the format; a zero keeps its sign. -/
def fPack (f : FFmt) (rm : Rm) (ftz : Bool) (s : Bool) (m : Nat) (e : Int) : FRes :=
  if m = 0 then ⟨f.signBit s, 0⟩ else fRound f rm ftz s m 1 e

/-- NV when an operand is a signalling NaN. -/
def sigFlag : List FVal → Nat
  | [] => 0
  | .nan true :: _ => flNV
  | _ :: vs => sigFlag vs

/-- Whether some operand is a NaN. -/
def anyNan (vs : List FVal) : Bool := vs.any (fun v => match v with | .nan _ => true | _ => false)

/-- The exact sum of two finite numbers, then one rounding; an exact zero sum takes the sign IEEE 754 gives it. -/
def fSumFin (f : FFmt) (rm : Rm) (ftz : Bool) (s1 : Bool) (m1 : Nat) (e1 : Int) (s2 : Bool) (m2 : Nat) (e2 : Int) : FRes :=
  let e := min e1 e2
  let a : Int := (if s1 then -1 else 1) * ((m1 * 2 ^ (e1 - e).toNat : Nat) : Int)
  let b : Int := (if s2 then -1 else 1) * ((m2 * 2 ^ (e2 - e).toNat : Nat) : Int)
  let t := a + b
  if t = 0 then
    ⟨f.signBit (if m1 = 0 ∧ m2 = 0 ∧ s1 = s2 then s1 else decide (rm = .rdn)), 0⟩
  else fPack f rm ftz (decide (t < 0)) t.natAbs e

/-- FADD, and FSUB with `neg` (R127). -/
def fAdd (f : FFmt) (rm : Rm) (ftz neg : Bool) (x y : Nat) : FRes :=
  let a := fUnpack f ftz x
  let b := match fUnpack f ftz y with
    | .inf s => FVal.inf (xor s neg)
    | .fin s m e => FVal.fin (xor s neg) m e
    | v => v
  if anyNan [a, b] then ⟨f.qnan, sigFlag [a, b]⟩ else
  match a, b with
  | .inf s1, .inf s2 => if s1 = s2 then ⟨f.infBits s1, 0⟩ else ⟨f.qnan, flNV⟩
  | .inf s1, _ => ⟨f.infBits s1, 0⟩
  | _, .inf s2 => ⟨f.infBits s2, 0⟩
  | .fin s1 m1 e1, .fin s2 m2 e2 => fSumFin f rm ftz s1 m1 e1 s2 m2 e2
  | _, _ => ⟨f.qnan, 0⟩

/-- FMUL. -/
def fMul (f : FFmt) (rm : Rm) (ftz : Bool) (x y : Nat) : FRes :=
  let a := fUnpack f ftz x
  let b := fUnpack f ftz y
  if anyNan [a, b] then ⟨f.qnan, sigFlag [a, b]⟩ else
  match a, b with
  | .inf s1, .inf s2 => ⟨f.infBits (xor s1 s2), 0⟩
  | .inf s1, .fin s2 m _ => if m = 0 then ⟨f.qnan, flNV⟩ else ⟨f.infBits (xor s1 s2), 0⟩
  | .fin s1 m _, .inf s2 => if m = 0 then ⟨f.qnan, flNV⟩ else ⟨f.infBits (xor s1 s2), 0⟩
  | .fin s1 m1 e1, .fin s2 m2 e2 => fPack f rm ftz (xor s1 s2) (m1 * m2) (e1 + e2)
  | _, _ => ⟨f.qnan, 0⟩

/-- FMA: x × y + z rounded once; 0 × ∞ raises NV whatever z is (R135). -/
def fFma (f : FFmt) (rm : Rm) (ftz : Bool) (x y z : Nat) : FRes :=
  let a := fUnpack f ftz x
  let b := fUnpack f ftz y
  let c := fUnpack f ftz z
  let bad : Bool := match a, b with
    | .inf _, .fin _ m _ => m == 0
    | .fin _ m _, .inf _ => m == 0
    | _, _ => false
  if bad then ⟨f.qnan, flNV⟩
  else if anyNan [a, b, c] then ⟨f.qnan, sigFlag [a, b, c]⟩ else
  let p : FVal := match a, b with
    | .fin s1 m1 e1, .fin s2 m2 e2 => .fin (xor s1 s2) (m1 * m2) (e1 + e2)
    | .inf s1, .inf s2 => .inf (xor s1 s2)
    | .inf s1, .fin s2 _ _ => .inf (xor s1 s2)
    | .fin s1 _ _, .inf s2 => .inf (xor s1 s2)
    | _, _ => .nan false
  match p, c with
  | .inf s1, .inf s2 => if s1 = s2 then ⟨f.infBits s1, 0⟩ else ⟨f.qnan, flNV⟩
  | .inf s1, _ => ⟨f.infBits s1, 0⟩
  | _, .inf s2 => ⟨f.infBits s2, 0⟩
  | .fin s1 m1 e1, .fin s2 m2 e2 => fSumFin f rm ftz s1 m1 e1 s2 m2 e2
  | _, _ => ⟨f.qnan, 0⟩

/-- FDIV. -/
def fDiv (f : FFmt) (rm : Rm) (ftz : Bool) (x y : Nat) : FRes :=
  let a := fUnpack f ftz x
  let b := fUnpack f ftz y
  if anyNan [a, b] then ⟨f.qnan, sigFlag [a, b]⟩ else
  match a, b with
  | .inf _, .inf _ => ⟨f.qnan, flNV⟩
  | .inf s1, .fin s2 _ _ => ⟨f.infBits (xor s1 s2), 0⟩
  | .fin s1 _ _, .inf s2 => ⟨f.signBit (xor s1 s2), 0⟩
  | .fin s1 m1 e1, .fin s2 m2 e2 =>
    if m2 = 0 then (if m1 = 0 then ⟨f.qnan, flNV⟩ else ⟨f.infBits (xor s1 s2), flDZ⟩)
    else if m1 = 0 then ⟨f.signBit (xor s1 s2), 0⟩
    else fRound f rm ftz (xor s1 s2) m1 m2 (e1 - e2)
  | _, _ => ⟨f.qnan, 0⟩

/-- The integer square root of `n`, found bit by bit from bit `k - 1` down, starting from `r`. -/
def isqrtFrom (n : Nat) : Nat → Nat → Nat
  | 0, r => r
  | k + 1, r => isqrtFrom n k (if (r + 2 ^ k) * (r + 2 ^ k) ≤ n then r + 2 ^ k else r)

/-- FSQRT. -/
def fSqrt (f : FFmt) (rm : Rm) (ftz : Bool) (x : Nat) : FRes :=
  match fUnpack f ftz x with
  | .nan sg => ⟨f.qnan, if sg then flNV else 0⟩
  | .inf s => if s then ⟨f.qnan, flNV⟩ else ⟨f.infBits false, 0⟩
  | .fin s m e =>
    if m = 0 then ⟨f.signBit s, 0⟩
    else if s then ⟨f.qnan, flNV⟩
    else
      let odd : Bool := e % 2 != 0
      let m2 := (if odd then 2 * m else m) * 2 ^ (2 * (f.mb + 3))
      let e2 : Int := ((if odd then e - 1 else e) - 2 * ((f.mb : Int) + 3)) / 2
      let r := isqrtFrom m2 (f.mb + f.mb + 10) 0
      fRound f rm ftz false (2 * r + (if r * r = m2 then 0 else 1)) 1 (e2 - 1)

/-- An order key for the numbers other than NaN, in which −0 lies below +0. -/
def fKey (f : FFmt) (x : Nat) : Int :=
  if natBit x (f.eb + f.mb) then -((natBits x 0 (f.eb + f.mb) : Nat) : Int) - 1 else (natBits x 0 (f.eb + f.mb) : Nat)

/-- A subnormal replaced by a zero of its sign when `ftz` holds (R132). -/
def fFlush (f : FFmt) (ftz : Bool) (x : Nat) : Nat :=
  if ftz && natBits x f.mb f.eb == 0 then f.signBit (natBit x (f.eb + f.mb)) else natBits x 0 f.width

/-- FMIN and FMAX (R136). -/
def fMinMax (f : FFmt) (ftz isMax : Bool) (x y : Nat) : FRes :=
  let a := fUnpack f ftz x
  let b := fUnpack f ftz y
  if anyNan [a, b] then ⟨f.qnan, sigFlag [a, b]⟩ else
  let x' := fFlush f ftz x
  let y' := fFlush f ftz y
  let le : Bool := decide (fKey f x' ≤ fKey f y')
  ⟨if isMax then (if le then y' else x') else (if le then x' else y'), 0⟩

/-- The three comparisons of R136. -/
inductive FCmp where
  | eq | lt | le
  deriving DecidableEq, Repr

/-- The value of a finite or infinite number as a comparison sees it: the two zeros are equal. -/
def fCmpKey (f : FFmt) (ftz : Bool) (x : Nat) : Int :=
  let x' := fFlush f ftz x
  if natBits x' 0 (f.eb + f.mb) = 0 then 0
  else if natBit x' (f.eb + f.mb) then -((natBits x' 0 (f.eb + f.mb) : Nat) : Int) else (natBits x' 0 (f.eb + f.mb) : Nat)

/-- FCMPEQ, FCMPLT and FCMPLE: the result is 0 or 1. -/
def fCompare (f : FFmt) (ftz : Bool) (c : FCmp) (x y : Nat) : FRes :=
  let a := fUnpack f ftz x
  let b := fUnpack f ftz y
  if anyNan [a, b] then ⟨0, match c with | .eq => sigFlag [a, b] | _ => flNV⟩ else
  let p := fCmpKey f ftz x
  let q := fCmpKey f ftz y
  ⟨b2n (match c with | .eq => decide (p = q) | .lt => decide (p < q) | .le => decide (p ≤ q)), 0⟩

/-- FNEG and FABS change only the sign bit (R135). -/
def fNeg (f : FFmt) (x : Nat) : Nat := setNatBit (natBits x 0 f.width) (f.eb + f.mb) (!natBit x (f.eb + f.mb))

def fAbs (f : FFmt) (x : Nat) : Nat := natBits x 0 (f.eb + f.mb)

/-- Conversion to an integer of `n` bits (R137); the result is its two's complement bits. -/
def fToInt (f : FFmt) (rm : Rm) (ftz signed : Bool) (n : Nat) (x : Nat) : FRes :=
  let lo : Int := if signed then -(2 ^ (n - 1) : Int) else 0
  let hi : Int := if signed then 2 ^ (n - 1) - 1 else 2 ^ n - 1
  match fUnpack f ftz x with
  | .nan _ => ⟨hi.toNat, flNV⟩
  | .inf s => if s then ⟨ofSigned n lo, flNV⟩ else ⟨hi.toNat, flNV⟩
  | .fin s m e =>
    let r := roundAt rm s m 1 e
    let v : Int := if s then -(r.1 : Int) else r.1
    if v < lo then ⟨ofSigned n lo, flNV⟩
    else if hi < v then ⟨hi.toNat, flNV⟩
    else ⟨ofSigned n v, if r.2 then flNX else 0⟩

/-- Conversion of an `n`-bit integer (its bits `v`) to a format. -/
def fFromInt (f : FFmt) (rm : Rm) (signed : Bool) (n v : Nat) : FRes :=
  let i : Int := if signed then toSigned n v else v
  if i = 0 then ⟨0, 0⟩ else fRound f rm false (decide (i < 0)) i.natAbs 1 0

/-- Conversion between formats. -/
def fConvert (src dst : FFmt) (rm : Rm) (ftz : Bool) (x : Nat) : FRes :=
  match fUnpack src ftz x with
  | .nan sg => ⟨dst.qnan, if sg then flNV else 0⟩
  | .inf s => ⟨dst.infBits s, 0⟩
  | .fin s m e => fPack dst rm ftz s m e

end Sys2Proof.Machine
end

