-- ==== Sys2Proof/Machine/Flags.lean ====
section
/-!
DEFINITION. The flag computations: the condition flags C, Z, N and V of ST (spec/06 SGn and ST tables, R123, R187, R188,
R193), the conditions of B, and the exception masks of FPC (spec/04, register FPC).
-/
namespace Sys2Proof.Machine

open Sys2Proof

/-- The four condition flags. -/
structure CFlags where
  c : Bool
  z : Bool
  n : Bool
  v : Bool
  deriving DecidableEq, Repr

/-- Sum of two `wid`-bit numbers and a carry in: the result and the flags "arith" sets for it (R123). -/
def addFlags (wid a b cin : Nat) : Nat × CFlags :=
  let t := a + b + cin
  let r := t % 2 ^ wid
  let sgn := toSigned wid a + toSigned wid b + cin
  (r, ⟨decide (2 ^ wid ≤ t), r == 0, natBit r (wid - 1), decide (sgn ≠ toSigned wid r)⟩)

/-- Difference of two `wid`-bit numbers and a borrow in: C is the borrow, 1 when a < b + c (R123). -/
def subFlags (wid a b cin : Nat) : Nat × CFlags :=
  let r := (a + 2 ^ (wid + 1) - b - cin) % 2 ^ wid
  let sgn := toSigned wid a - toSigned wid b - cin
  (r, ⟨decide (a < b + cin), r == 0, natBit r (wid - 1), decide (sgn ≠ toSigned wid r)⟩)

/-- ST with its four condition flags replaced: bit 3 V, 2 N, 1 Z, 0 C. -/
def stWithFlags (st : Word) (f : CFlags) : Word :=
  putField st 0 4 (b2n f.c + 2 * b2n f.z + 4 * b2n f.n + 8 * b2n f.v)

/-- ST with Z and N taken from a 32-bit result, C and V kept. -/
def stWithZN (st : Word) (r : Nat) : Word :=
  putField st 1 2 (b2n (r == 0) + 2 * b2n (natBit r 31))

def stC (st : Word) : Bool := natBit st.toNat 0
def stZ (st : Word) : Bool := natBit st.toNat 1
def stN (st : Word) : Bool := natBit st.toNat 2
def stV (st : Word) : Bool := natBit st.toNat 3
def stAE (st : Word) : Bool := natBit st.toNat 4
def stTRP (st : Word) : Bool := natBit st.toNat 15

/-- The conditions of B. -/
def condHolds (st : Word) (cond : Nat) : Bool :=
  match cond with
  | 0x0 => true
  | 0x1 => stZ st
  | 0x2 => !stZ st
  | 0x3 => stC st
  | 0x4 => !stC st
  | 0x5 => stN st != stV st
  | 0x6 => stN st == stV st
  | 0x7 => stZ st || stN st != stV st
  | 0x8 => !stZ st && stN st == stV st
  | 0x9 => stC st || stZ st
  | 0xA => !stC st && !stZ st
  | 0xB => stN st
  | 0xC => !stN st
  | 0xD => stV st
  | 0xE => !stV st
  | _ => stAE st

/-- Shifts of R188 for a count from 1 to 63. -/
def shlW (a k : Nat) : Nat := if 32 ≤ k then 0 else a * 2 ^ k % 2 ^ 32
def shruW (a k : Nat) : Nat := if 32 ≤ k then 0 else a / 2 ^ k
def shrsW (a k : Nat) : Nat := ofSigned 32 (toSigned 32 a / (2 ^ (min k 32) : Int))

/-- FPC fields. -/
def fpcRM (fpc : Word) : Rm := rmOfNat (getField fpc 0 2)
def fpcFTZ (fpc : Word) : Bool := natBit fpc.toNat 2
def fpcTE (fpc : Word) : Nat := getField fpc 3 5
def fpcASF (fpc : Word) : Nat := getField fpc 8 5
def fpcSSF (fpc : Word) : Nat := getField fpc 13 5

/-- FPC with the scalar sticky flags of a result added. -/
def fpcRaiseS (fpc : Word) (fl : Nat) : Word := putField fpc 13 5 (fpcSSF fpc ||| fl)

/-- FPC with array sticky flags added. -/
def fpcRaiseA (fpc : Word) (fl : Nat) : Word := putField fpc 8 5 (fpcASF fpc ||| fl)

/-- FPC as a floating-point trap leaves it: TCAUSE the enabled exceptions raised, TSRC the unit. -/
def fpcTrapped (fpc : Word) (fl : Nat) (array : Bool) : Word :=
  putField (putField fpc 18 5 (fl &&& fpcTE fpc)) 23 1 (b2n array)

end Sys2Proof.Machine
end

