-- ==== Sys2Proof/Machine/Regs.lean ====
section
/-!
DEFINITION. The device registers (spec/01 R32, R36 and the register tables of every chapter): where each register stands
in the device register range 0x0050_0000_0000 to 0x0050_007F_FFFF (offsets below are from its first address), its fields
with the access code of R7 and the values a field may take, and the value each register has after reset.  A field is
named as the specification names it: `BANK_OWNER.OWNER b` is the field OWNER of the register BANK_OWNER of bank b.
-/
namespace Sys2Proof.Machine

open Sys2Proof

/-- A register field: the register's offset in the device register range, the field's lowest bit and its width. -/
structure Fld where
  off : Nat
  lo : Nat
  wid : Nat
  deriving DecidableEq, Repr

/-- The access codes of R7; the SK mark stands beside them. -/
inductive Acc where
  | rw | ro | rv | w1c | wo | rwl
  deriving DecidableEq, Repr

/-- One row of a register table.  `ok` lists the ranges of values that are not reserved; an empty list means all. -/
structure FieldSpec where
  lo : Nat
  wid : Nat
  acc : Acc
  sk : Bool
  ok : List (Nat × Nat)
  deriving DecidableEq, Repr

/-- One register or array of registers: the first offset, the (count, stride) of each index, the fields. -/
structure RegGroup where
  base : Nat
  dims : List (Nat × Nat)
  fields : List FieldSpec
  deriving DecidableEq, Repr

/-- SYS_ID: spec/01, block SYS. -/
def SYS_ID.reg : Nat := 0x0
def SYS_ID.PART : Fld := ⟨SYS_ID.reg, 16, 16⟩
def SYS_ID.REV : Fld := ⟨SYS_ID.reg, 8, 8⟩
def SYS_ID.STEP : Fld := ⟨SYS_ID.reg, 0, 8⟩

/-- ARRAY_MODE: spec/02, block ARRAY. -/
def ARRAY_MODE.reg : Nat := 0x700000
def ARRAY_MODE.MODE : Fld := ⟨ARRAY_MODE.reg, 0, 2⟩

/-- ARRAY_EDGE: spec/02, block ARRAY. -/
def ARRAY_EDGE.reg (i : Nat) : Nat := 0x700010 + 0x4 * i
def ARRAY_EDGE.WEST (i : Nat) : Fld := ⟨(ARRAY_EDGE.reg i), 6, 2⟩
def ARRAY_EDGE.SOUTH (i : Nat) : Fld := ⟨(ARRAY_EDGE.reg i), 4, 2⟩
def ARRAY_EDGE.EAST (i : Nat) : Fld := ⟨(ARRAY_EDGE.reg i), 2, 2⟩
def ARRAY_EDGE.NORTH (i : Nat) : Fld := ⟨(ARRAY_EDGE.reg i), 0, 2⟩

/-- ARRAY_TMAP: spec/02, block ARRAY. -/
def ARRAY_TMAP.reg (i : Nat) : Nat := 0x700100 + 0x4 * i
def ARRAY_TMAP.D1BAD (i : Nat) : Fld := ⟨(ARRAY_TMAP.reg i), 17, 1⟩
def ARRAY_TMAP.D0BAD (i : Nat) : Fld := ⟨(ARRAY_TMAP.reg i), 16, 1⟩
def ARRAY_TMAP.G1V (i : Nat) : Fld := ⟨(ARRAY_TMAP.reg i), 15, 1⟩
def ARRAY_TMAP.G1COL (i : Nat) : Fld := ⟨(ARRAY_TMAP.reg i), 9, 6⟩
def ARRAY_TMAP.G0V (i : Nat) : Fld := ⟨(ARRAY_TMAP.reg i), 8, 1⟩
def ARRAY_TMAP.G0COL (i : Nat) : Fld := ⟨(ARRAY_TMAP.reg i), 2, 6⟩
def ARRAY_TMAP.STATE (i : Nat) : Fld := ⟨(ARRAY_TMAP.reg i), 0, 2⟩

/-- ARRAY_PRUNE_LO: spec/02, block ARRAY. -/
def ARRAY_PRUNE_LO.reg : Nat := 0x700200
def ARRAY_PRUNE_LO.PRUNED : Fld := ⟨ARRAY_PRUNE_LO.reg, 0, 32⟩

/-- ARRAY_PRUNE_HI: spec/02, block ARRAY. -/
def ARRAY_PRUNE_HI.reg : Nat := 0x700204
def ARRAY_PRUNE_HI.PRUNED : Fld := ⟨ARRAY_PRUNE_HI.reg, 0, 32⟩

/-- ARRAY_HSEL: spec/02, block ARRAY. -/
def ARRAY_HSEL.reg : Nat := 0x700300
def ARRAY_HSEL.WORD : Fld := ⟨ARRAY_HSEL.reg, 16, 4⟩
def ARRAY_HSEL.TILE : Fld := ⟨ARRAY_HSEL.reg, 10, 6⟩
def ARRAY_HSEL.HAND : Fld := ⟨ARRAY_HSEL.reg, 6, 4⟩
def ARRAY_HSEL.LINE : Fld := ⟨ARRAY_HSEL.reg, 0, 6⟩

/-- ARRAY_HDATA: spec/02, block ARRAY. -/
def ARRAY_HDATA.reg : Nat := 0x700304
def ARRAY_HDATA.DATA : Fld := ⟨ARRAY_HDATA.reg, 0, 32⟩

/-- ARRAY_HSTAT: spec/02, block ARRAY. -/
def ARRAY_HSTAT.reg : Nat := 0x700308
def ARRAY_HSTAT.HELD : Fld := ⟨ARRAY_HSTAT.reg, 2, 1⟩
def ARRAY_HSTAT.BADLINE : Fld := ⟨ARRAY_HSTAT.reg, 1, 1⟩
def ARRAY_HSTAT.STAGED : Fld := ⟨ARRAY_HSTAT.reg, 0, 1⟩

/-- CTU_ADDR_LO: spec/02, block ARRAY. -/
def CTU_ADDR_LO.reg (i : Nat) : Nat := 0x710000 + 0x40 * i
def CTU_ADDR_LO.ADDR_LO (i : Nat) : Fld := ⟨(CTU_ADDR_LO.reg i), 3, 29⟩

/-- CTU_ADDR_HI: spec/02, block ARRAY. -/
def CTU_ADDR_HI.reg (i : Nat) : Nat := 0x710004 + 0x40 * i
def CTU_ADDR_HI.ADDR_HI (i : Nat) : Fld := ⟨(CTU_ADDR_HI.reg i), 0, 16⟩

/-- CTU_STRIDE: spec/02, block ARRAY. -/
def CTU_STRIDE.reg (i : Nat) : Nat := 0x710008 + 0x40 * i
def CTU_STRIDE.STRIDE (i : Nat) : Fld := ⟨(CTU_STRIDE.reg i), 3, 21⟩

/-- CTU_ROWS: spec/02, block ARRAY. -/
def CTU_ROWS.reg (i : Nat) : Nat := 0x71000c + 0x40 * i
def CTU_ROWS.COUNT (i : Nat) : Fld := ⟨(CTU_ROWS.reg i), 8, 7⟩
def CTU_ROWS.ROW0 (i : Nat) : Fld := ⟨(CTU_ROWS.reg i), 0, 6⟩

/-- CTU_PLANES: spec/02, block ARRAY. -/
def CTU_PLANES.reg (i : Nat) : Nat := 0x710010 + 0x40 * i
def CTU_PLANES.NPL (i : Nat) : Fld := ⟨(CTU_PLANES.reg i), 24, 7⟩
def CTU_PLANES.EW (i : Nat) : Fld := ⟨(CTU_PLANES.reg i), 16, 3⟩
def CTU_PLANES.PBASE (i : Nat) : Fld := ⟨(CTU_PLANES.reg i), 0, 11⟩

/-- CTU_CTRL: spec/02, block ARRAY. -/
def CTU_CTRL.reg (i : Nat) : Nat := 0x710014 + 0x40 * i
def CTU_CTRL.MODE (i : Nat) : Fld := ⟨(CTU_CTRL.reg i), 2, 1⟩
def CTU_CTRL.DIR (i : Nat) : Fld := ⟨(CTU_CTRL.reg i), 1, 1⟩
def CTU_CTRL.GO (i : Nat) : Fld := ⟨(CTU_CTRL.reg i), 0, 1⟩

/-- CTU_STAT: spec/02, block ARRAY. -/
def CTU_STAT.reg (i : Nat) : Nat := 0x710018 + 0x40 * i
def CTU_STAT.STATUS (i : Nat) : Fld := ⟨(CTU_STAT.reg i), 8, 8⟩
def CTU_STAT.POISON (i : Nat) : Fld := ⟨(CTU_STAT.reg i), 2, 1⟩
def CTU_STAT.DONE (i : Nat) : Fld := ⟨(CTU_STAT.reg i), 1, 1⟩
def CTU_STAT.BUSY (i : Nat) : Fld := ⟨(CTU_STAT.reg i), 0, 1⟩

/-- UCVER: spec/05, block DEALER. -/
def UCVER.reg (n : Nat) : Nat := 0x1000c0 + 0x10000 * n
def UCVER.VPATCH (n : Nat) : Fld := ⟨(UCVER.reg n), 16, 16⟩
def UCVER.CVER (n : Nat) : Fld := ⟨(UCVER.reg n), 0, 16⟩

/-- UCCRC: spec/05, block DEALER. -/
def UCCRC.reg (n : Nat) : Nat := 0x1000c4 + 0x10000 * n
def UCCRC.CRC (n : Nat) : Fld := ⟨(UCCRC.reg n), 0, 32⟩

/-- MCCAUSE: spec/05, block DEALER. -/
def MCCAUSE.reg (n : Nat) : Nat := 0x1000c8 + 0x10000 * n
def MCCAUSE.AOP (n : Nat) : Fld := ⟨(MCCAUSE.reg n), 16, 10⟩
def MCCAUSE.LEVEL (n : Nat) : Fld := ⟨(MCCAUSE.reg n), 12, 3⟩
def MCCAUSE.ACTION (n : Nat) : Fld := ⟨(MCCAUSE.reg n), 8, 4⟩
def MCCAUSE.CAUSE (n : Nat) : Fld := ⟨(MCCAUSE.reg n), 0, 4⟩

/-- MCADDR: spec/05, block DEALER. -/
def MCADDR.reg (n : Nat) : Nat := 0x1000cc + 0x10000 * n
def MCADDR.ROOT (n : Nat) : Fld := ⟨(MCADDR.reg n), 31, 1⟩
def MCADDR.LINE (n : Nat) : Fld := ⟨(MCADDR.reg n), 14, 16⟩
def MCADDR.ADDR (n : Nat) : Fld := ⟨(MCADDR.reg n), 0, 14⟩

/-- MCCOUNT: spec/05, block DEALER. -/
def MCCOUNT.reg (n : Nat) : Nat := 0x1000d0 + 0x10000 * n
def MCCOUNT.COUNT (n : Nat) : Fld := ⟨(MCCOUNT.reg n), 0, 16⟩

/-- LVLPRIV: spec/06, block DEALER. -/
def LVLPRIV.reg (n : Nat) : Nat := 0x1000e0 + 0x10000 * n
def LVLPRIV.PRIV (n : Nat) : Fld := ⟨(LVLPRIV.reg n), 0, 8⟩

/-- ACCSTAT: spec/06, block DEALER. -/
def ACCSTAT.reg (n : Nat) : Nat := 0x1000e4 + 0x10000 * n
def ACCSTAT.LEVEL (n : Nat) : Fld := ⟨(ACCSTAT.reg n), 17, 3⟩
def ACCSTAT.WR (n : Nat) : Fld := ⟨(ACCSTAT.reg n), 16, 1⟩
def ACCSTAT.SEG (n : Nat) : Fld := ⟨(ACCSTAT.reg n), 8, 3⟩
def ACCSTAT.STATUS (n : Nat) : Fld := ⟨(ACCSTAT.reg n), 0, 8⟩

/-- ACCADDR_LO: spec/06, block DEALER. -/
def ACCADDR_LO.reg (n : Nat) : Nat := 0x1000e8 + 0x10000 * n
def ACCADDR_LO.ADDR_LO (n : Nat) : Fld := ⟨(ACCADDR_LO.reg n), 0, 32⟩

/-- ACCADDR_HI: spec/06, block DEALER. -/
def ACCADDR_HI.reg (n : Nat) : Nat := 0x1000ec + 0x10000 * n
def ACCADDR_HI.ADDR_HI (n : Nat) : Fld := ⟨(ACCADDR_HI.reg n), 0, 16⟩

/-- EVT_ROUTE: spec/07, block EVT. -/
def EVT_ROUTE.reg (i : Nat) : Nat := 0x30000 + 0x4 * i
def EVT_ROUTE.ELINE (i : Nat) : Fld := ⟨(EVT_ROUTE.reg i), 13, 6⟩
def EVT_ROUTE.SEAT (i : Nat) : Fld := ⟨(EVT_ROUTE.reg i), 11, 2⟩
def EVT_ROUTE.TASK (i : Nat) : Fld := ⟨(EVT_ROUTE.reg i), 8, 3⟩
def EVT_ROUTE.LEVEL (i : Nat) : Fld := ⟨(EVT_ROUTE.reg i), 5, 3⟩
def EVT_ROUTE.DEALER (i : Nat) : Fld := ⟨(EVT_ROUTE.reg i), 3, 2⟩
def EVT_ROUTE.KIND (i : Nat) : Fld := ⟨(EVT_ROUTE.reg i), 0, 3⟩

/-- EVT_PEND: spec/07, block EVT. -/
def EVT_PEND.reg (i : Nat) : Nat := 0x30800 + 0x4 * i
def EVT_PEND.PEND (i : Nat) : Fld := ⟨(EVT_PEND.reg i), 0, 32⟩

/-- EVT_MERGE: spec/07, block EVT. -/
def EVT_MERGE.reg : Nat := 0x30840
def EVT_MERGE.COUNT : Fld := ⟨EVT_MERGE.reg, 0, 32⟩

/-- LVLCFG: spec/07, block DEALER. -/
def LVLCFG.reg (n : Nat) : Nat := 0x100100 + 0x10000 * n
def LVLCFG.KIND (n : Nat) : Fld := ⟨(LVLCFG.reg n), 0, 16⟩

/-- LBASE: spec/07, block DEALER. -/
def LBASE.reg (n : Nat) : Nat := 0x100104 + 0x10000 * n
def LBASE.BANK (n : Nat) : Fld := ⟨(LBASE.reg n), 27, 5⟩
def LBASE.BLK (n : Nat) : Fld := ⟨(LBASE.reg n), 0, 6⟩

/-- SPOOL: spec/07, block DEALER. -/
def SPOOL.reg (n : Nat) : Nat := 0x100108 + 0x10000 * n
def SPOOL.BANK (n : Nat) : Fld := ⟨(SPOOL.reg n), 27, 5⟩
def SPOOL.FIRST (n : Nat) : Fld := ⟨(SPOOL.reg n), 17, 10⟩
def SPOOL.COUNT (n : Nat) : Fld := ⟨(SPOOL.reg n), 0, 10⟩

/-- SFL: spec/07, block DEALER. -/
def SFL.reg (n : Nat) : Nat := 0x10010c + 0x10000 * n
def SFL.VALID (n : Nat) : Fld := ⟨(SFL.reg n), 15, 1⟩
def SFL.AREA (n : Nat) : Fld := ⟨(SFL.reg n), 0, 10⟩

/-- SAH: spec/07, block DEALER. -/
def SAH.reg (n : Nat) (i : Nat) : Nat := 0x100120 + 0x10000 * n + 0x4 * i
def SAH.VALID (n : Nat) (i : Nat) : Fld := ⟨(SAH.reg n i), 15, 1⟩
def SAH.AREA (n : Nat) (i : Nat) : Fld := ⟨(SAH.reg n i), 0, 10⟩

/-- LVLSTAT: spec/07, block DEALER. -/
def LVLSTAT.reg (n : Nat) : Nat := 0x100110 + 0x10000 * n
def LVLSTAT.CUR (n : Nat) : Fld := ⟨(LVLSTAT.reg n), 24, 3⟩
def LVLSTAT.EMBUSY (n : Nat) : Fld := ⟨(LVLSTAT.reg n), 16, 8⟩
def LVLSTAT.PEND (n : Nat) : Fld := ⟨(LVLSTAT.reg n), 8, 8⟩
def LVLSTAT.ACTIVE (n : Nat) : Fld := ⟨(LVLSTAT.reg n), 0, 8⟩

/-- LVEC: spec/07, block DEALER. -/
def LVEC.reg (n : Nat) (i : Nat) : Nat := 0x100140 + 0x10000 * n + 0x4 * i
def LVEC.VEC (n : Nat) (i : Nat) : Fld := ⟨(LVEC.reg n i), 2, 16⟩

/-- TASKSTAT: spec/07, block DEALER. -/
def TASKSTAT.reg (n : Nat) (i : Nat) : Nat := 0x100160 + 0x10000 * n + 0x4 * i
def TASKSTAT.RESV (n : Nat) (i : Nat) : Fld := ⟨(TASKSTAT.reg n i), 19, 1⟩
def TASKSTAT.RES (n : Nat) (i : Nat) : Fld := ⟨(TASKSTAT.reg n i), 16, 3⟩
def TASKSTAT.READY (n : Nat) (i : Nat) : Fld := ⟨(TASKSTAT.reg n i), 8, 8⟩
def TASKSTAT.EXIST (n : Nat) (i : Nat) : Fld := ⟨(TASKSTAT.reg n i), 0, 8⟩

/-- EVT_CAP: spec/08, block EVT. -/
def EVT_CAP.reg (i : Nat) : Nat := 0x30c00 + 0x4 * i
def EVT_CAP.CAP (i : Nat) : Fld := ⟨(EVT_CAP.reg i), 0, 8⟩

/-- TICK_CFG: spec/08, block SYS. -/
def TICK_CFG.reg : Nat := 0x200
def TICK_CFG.SRC : Fld := ⟨TICK_CFG.reg, 0, 1⟩

/-- TICK_NOM: spec/08, block SYS. -/
def TICK_NOM.reg : Nat := 0x204
def TICK_NOM.CYCLES : Fld := ⟨TICK_NOM.reg, 0, 25⟩

/-- TICK_MIN: spec/08, block SYS. -/
def TICK_MIN.reg : Nat := 0x208
def TICK_MIN.CYCLES : Fld := ⟨TICK_MIN.reg, 0, 25⟩

/-- TICK_MAX: spec/08, block SYS. -/
def TICK_MAX.reg : Nat := 0x20c
def TICK_MAX.CYCLES : Fld := ⟨TICK_MAX.reg, 0, 25⟩

/-- TICK_STAT: spec/08, block SYS. -/
def TICK_STAT.reg : Nat := 0x210
def TICK_STAT.MISSES : Fld := ⟨TICK_STAT.reg, 16, 8⟩
def TICK_STAT.HOLDS : Fld := ⟨TICK_STAT.reg, 8, 8⟩
def TICK_STAT.ONTIMER : Fld := ⟨TICK_STAT.reg, 0, 1⟩

/-- TICK_COUNT: spec/08, block SYS. -/
def TICK_COUNT.reg : Nat := 0x214
def TICK_COUNT.COUNT : Fld := ⟨TICK_COUNT.reg, 0, 32⟩

/-- TICK_LAST: spec/08, block SYS. -/
def TICK_LAST.reg : Nat := 0x218
def TICK_LAST.CYCLES : Fld := ⟨TICK_LAST.reg, 0, 25⟩

/-- DEAL_STAT: spec/08, block DEALER. -/
def DEAL_STAT.reg (n : Nat) : Nat := 0x100200 + 0x10000 * n
def DEAL_STAT.RAISED (n : Nat) : Fld := ⟨(DEAL_STAT.reg n), 13, 1⟩
def DEAL_STAT.OVRPH (n : Nat) : Fld := ⟨(DEAL_STAT.reg n), 10, 3⟩
def DEAL_STAT.LASTEND (n : Nat) : Fld := ⟨(DEAL_STAT.reg n), 8, 2⟩
def DEAL_STAT.VAR (n : Nat) : Fld := ⟨(DEAL_STAT.reg n), 4, 3⟩
def DEAL_STAT.PHASE (n : Nat) : Fld := ⟨(DEAL_STAT.reg n), 0, 3⟩

/-- DEAL_COND: spec/08, block DEALER. -/
def DEAL_COND.reg (n : Nat) : Nat := 0x100204 + 0x10000 * n
def DEAL_COND.PTV (n : Nat) : Fld := ⟨(DEAL_COND.reg n), 14, 1⟩
def DEAL_COND.PTILE (n : Nat) : Fld := ⟨(DEAL_COND.reg n), 8, 6⟩
def DEAL_COND.COND (n : Nat) : Fld := ⟨(DEAL_COND.reg n), 0, 3⟩

/-- DEAL_BUDGET: spec/08, block DEALER. -/
def DEAL_BUDGET.reg (n : Nat) : Nat := 0x100208 + 0x10000 * n
def DEAL_BUDGET.CYCLES (n : Nat) : Fld := ⟨(DEAL_BUDGET.reg n), 0, 25⟩

/-- DEAL_USED: spec/08, block DEALER. -/
def DEAL_USED.reg (n : Nat) : Nat := 0x10020c + 0x10000 * n
def DEAL_USED.CYCLES (n : Nat) : Fld := ⟨(DEAL_USED.reg n), 0, 25⟩

/-- DEAL_PEAK: spec/08, block DEALER. -/
def DEAL_PEAK.reg (n : Nat) : Nat := 0x100210 + 0x10000 * n
def DEAL_PEAK.CYCLES (n : Nat) : Fld := ⟨(DEAL_PEAK.reg n), 0, 25⟩

/-- DEAL_OVR: spec/08, block DEALER. -/
def DEAL_OVR.reg (n : Nat) : Nat := 0x100214 + 0x10000 * n
def DEAL_OVR.RESTARTS (n : Nat) : Fld := ⟨(DEAL_OVR.reg n), 16, 16⟩
def DEAL_OVR.OVERRUNS (n : Nat) : Fld := ⟨(DEAL_OVR.reg n), 0, 16⟩

/-- DEAL_PHT: spec/08, block DEALER. -/
def DEAL_PHT.reg (n : Nat) (i : Nat) : Nat := 0x100220 + 0x10000 * n + 0x4 * i
def DEAL_PHT.CYCLES (n : Nat) (i : Nat) : Fld := ⟨(DEAL_PHT.reg n i), 0, 25⟩

/-- CAM_CFG: spec/09, block CAM. -/
def CAM_CFG.reg (c : Nat) : Nat := 0x480000 + 0x10000 * c
def CAM_CFG.RATE (c : Nat) : Fld := ⟨(CAM_CFG.reg c), 16, 13⟩
def CAM_CFG.EN (c : Nat) : Fld := ⟨(CAM_CFG.reg c), 3, 1⟩
def CAM_CFG.CLKCONT (c : Nat) : Fld := ⟨(CAM_CFG.reg c), 2, 1⟩
def CAM_CFG.LANES (c : Nat) : Fld := ⟨(CAM_CFG.reg c), 0, 2⟩

/-- CAM_SYNC: spec/09, block CAM. -/
def CAM_SYNC.reg (c : Nat) : Nat := 0x480004 + 0x10000 * c
def CAM_SYNC.EN (c : Nat) : Fld := ⟨(CAM_SYNC.reg c), 31, 1⟩
def CAM_SYNC.OFFSET (c : Nat) : Fld := ⟨(CAM_SYNC.reg c), 0, 25⟩

/-- CAM_STAT: spec/09, block CAM. -/
def CAM_STAT.reg (c : Nat) : Nat := 0x480008 + 0x10000 * c
def CAM_STAT.DROPPED (c : Nat) : Fld := ⟨(CAM_STAT.reg c), 16, 16⟩
def CAM_STAT.POC (c : Nat) : Fld := ⟨(CAM_STAT.reg c), 14, 1⟩
def CAM_STAT.STALE (c : Nat) : Fld := ⟨(CAM_STAT.reg c), 13, 1⟩
def CAM_STAT.LATE (c : Nat) : Fld := ⟨(CAM_STAT.reg c), 12, 1⟩
def CAM_STAT.OVERRUN (c : Nat) : Fld := ⟨(CAM_STAT.reg c), 11, 1⟩
def CAM_STAT.SHORT (c : Nat) : Fld := ⟨(CAM_STAT.reg c), 10, 1⟩
def CAM_STAT.CRC (c : Nat) : Fld := ⟨(CAM_STAT.reg c), 9, 1⟩
def CAM_STAT.HDR (c : Nat) : Fld := ⟨(CAM_STAT.reg c), 8, 1⟩
def CAM_STAT.LINK (c : Nat) : Fld := ⟨(CAM_STAT.reg c), 0, 1⟩

/-- CAM_CTX_FMT: spec/09, block CAM. -/
def CAM_CTX_FMT.reg (c : Nat) (i : Nat) : Nat := 0x480010 + 0x10000 * c + 0x10 * i
def CAM_CTX_FMT.EN (c : Nat) (i : Nat) : Fld := ⟨(CAM_CTX_FMT.reg c i), 31, 1⟩
def CAM_CTX_FMT.STALELIM (c : Nat) (i : Nat) : Fld := ⟨(CAM_CTX_FMT.reg c i), 16, 8⟩
def CAM_CTX_FMT.DT (c : Nat) (i : Nat) : Fld := ⟨(CAM_CTX_FMT.reg c i), 4, 6⟩
def CAM_CTX_FMT.VC (c : Nat) (i : Nat) : Fld := ⟨(CAM_CTX_FMT.reg c i), 0, 4⟩

/-- CAM_CTX_RING: spec/09, block CAM. -/
def CAM_CTX_RING.reg (c : Nat) (i : Nat) : Nat := 0x480014 + 0x10000 * c + 0x10 * i
def CAM_CTX_RING.N4 (c : Nat) (i : Nat) : Fld := ⟨(CAM_CTX_RING.reg c i), 25, 1⟩
def CAM_CTX_RING.BASE (c : Nat) (i : Nat) : Fld := ⟨(CAM_CTX_RING.reg c i), 0, 25⟩

/-- CAM_CTX_SIZE: spec/09, block CAM. -/
def CAM_CTX_SIZE.reg (c : Nat) (i : Nat) : Nat := 0x480018 + 0x10000 * c + 0x10 * i
def CAM_CTX_SIZE.HEIGHT (c : Nat) (i : Nat) : Fld := ⟨(CAM_CTX_SIZE.reg c i), 16, 13⟩
def CAM_CTX_SIZE.WIDTH (c : Nat) (i : Nat) : Fld := ⟨(CAM_CTX_SIZE.reg c i), 0, 13⟩

/-- CAM_CTX_LATCH: spec/09, block CAM. -/
def CAM_CTX_LATCH.reg (c : Nat) (i : Nat) : Nat := 0x48001c + 0x10000 * c + 0x10 * i
def CAM_CTX_LATCH.FNUM (c : Nat) (i : Nat) : Fld := ⟨(CAM_CTX_LATCH.reg c i), 16, 16⟩
def CAM_CTX_LATCH.AGE (c : Nat) (i : Nat) : Fld := ⟨(CAM_CTX_LATCH.reg c i), 8, 8⟩
def CAM_CTX_LATCH.STALE (c : Nat) (i : Nat) : Fld := ⟨(CAM_CTX_LATCH.reg c i), 4, 1⟩
def CAM_CTX_LATCH.FRESH (c : Nat) (i : Nat) : Fld := ⟨(CAM_CTX_LATCH.reg c i), 3, 1⟩
def CAM_CTX_LATCH.VALID (c : Nat) (i : Nat) : Fld := ⟨(CAM_CTX_LATCH.reg c i), 2, 1⟩
def CAM_CTX_LATCH.SLOT (c : Nat) (i : Nat) : Fld := ⟨(CAM_CTX_LATCH.reg c i), 0, 2⟩

/-- DSP_CFG: spec/09, block DSP. -/
def DSP_CFG.reg (p : Nat) : Nat := 0x400000 + 0x10000 * p
def DSP_CFG.DSIRATE (p : Nat) : Fld := ⟨(DSP_CFG.reg p), 19, 13⟩
def DSP_CFG.PLV (p : Nat) : Fld := ⟨(DSP_CFG.reg p), 18, 1⟩
def DSP_CFG.DITHER (p : Nat) : Fld := ⟨(DSP_CFG.reg p), 16, 2⟩
def DSP_CFG.SSC (p : Nat) : Fld := ⟨(DSP_CFG.reg p), 15, 1⟩
def DSP_CFG.DSC (p : Nat) : Fld := ⟨(DSP_CFG.reg p), 14, 1⟩
def DSP_CFG.BPC (p : Nat) : Fld := ⟨(DSP_CFG.reg p), 12, 2⟩
def DSP_CFG.RATE (p : Nat) : Fld := ⟨(DSP_CFG.reg p), 8, 4⟩
def DSP_CFG.LANES (p : Nat) : Fld := ⟨(DSP_CFG.reg p), 4, 2⟩
def DSP_CFG.KIND (p : Nat) : Fld := ⟨(DSP_CFG.reg p), 0, 3⟩

/-- DSP_HTIM: spec/09, block DSP. -/
def DSP_HTIM.reg (p : Nat) : Nat := 0x400004 + 0x10000 * p
def DSP_HTIM.TOTAL (p : Nat) : Fld := ⟨(DSP_HTIM.reg p), 16, 14⟩
def DSP_HTIM.ACTIVE (p : Nat) : Fld := ⟨(DSP_HTIM.reg p), 0, 14⟩

/-- DSP_VTIM: spec/09, block DSP. -/
def DSP_VTIM.reg (p : Nat) : Nat := 0x400008 + 0x10000 * p
def DSP_VTIM.TOTAL (p : Nat) : Fld := ⟨(DSP_VTIM.reg p), 16, 14⟩
def DSP_VTIM.ACTIVE (p : Nat) : Fld := ⟨(DSP_VTIM.reg p), 0, 14⟩

/-- DSP_HSYNC: spec/09, block DSP. -/
def DSP_HSYNC.reg (p : Nat) : Nat := 0x40000c + 0x10000 * p
def DSP_HSYNC.POL (p : Nat) : Fld := ⟨(DSP_HSYNC.reg p), 31, 1⟩
def DSP_HSYNC.WIDTH (p : Nat) : Fld := ⟨(DSP_HSYNC.reg p), 16, 14⟩
def DSP_HSYNC.FP (p : Nat) : Fld := ⟨(DSP_HSYNC.reg p), 0, 14⟩

/-- DSP_VSYNC: spec/09, block DSP. -/
def DSP_VSYNC.reg (p : Nat) : Nat := 0x400010 + 0x10000 * p
def DSP_VSYNC.POL (p : Nat) : Fld := ⟨(DSP_VSYNC.reg p), 31, 1⟩
def DSP_VSYNC.WIDTH (p : Nat) : Fld := ⟨(DSP_VSYNC.reg p), 16, 14⟩
def DSP_VSYNC.FP (p : Nat) : Fld := ⟨(DSP_VSYNC.reg p), 0, 14⟩

/-- DSP_PCLK: spec/09, block DSP. -/
def DSP_PCLK.reg (p : Nat) : Nat := 0x400014 + 0x10000 * p
def DSP_PCLK.KHZ (p : Nat) : Fld := ⟨(DSP_PCLK.reg p), 0, 24⟩

/-- DSP_FSOFF: spec/09, block DSP. -/
def DSP_FSOFF.reg (p : Nat) : Nat := 0x400018 + 0x10000 * p
def DSP_FSOFF.CYCLES (p : Nat) : Fld := ⟨(DSP_FSOFF.reg p), 0, 25⟩

/-- DSP_FB: spec/09, block DSP. -/
def DSP_FB.reg (p : Nat) (i : Nat) : Nat := 0x400020 + 0x10000 * p + 0x4 * i
def DSP_FB.BASE (p : Nat) (i : Nat) : Fld := ⟨(DSP_FB.reg p i), 0, 25⟩

/-- DSP_FBP: spec/09, block DSP. -/
def DSP_FBP.reg (p : Nat) : Nat := 0x40002c + 0x10000 * p
def DSP_FBP.LBGRAN (p : Nat) : Fld := ⟨(DSP_FBP.reg p), 16, 6⟩
def DSP_FBP.PITCH (p : Nat) : Fld := ⟨(DSP_FBP.reg p), 0, 12⟩

/-- DSP_LAYER: spec/09, block DSP. -/
def DSP_LAYER.reg (p : Nat) (i : Nat) : Nat := 0x400040 + 0x10000 * p + 0x4 * i
def DSP_LAYER.EN (p : Nat) (i : Nat) : Fld := ⟨(DSP_LAYER.reg p i), 20, 1⟩
def DSP_LAYER.OWNER (p : Nat) (i : Nat) : Fld := ⟨(DSP_LAYER.reg p i), 16, 2⟩
def DSP_LAYER.LAST (p : Nat) (i : Nat) : Fld := ⟨(DSP_LAYER.reg p i), 8, 6⟩
def DSP_LAYER.FIRST (p : Nat) (i : Nat) : Fld := ⟨(DSP_LAYER.reg p i), 0, 6⟩

/-- DSP_COMMIT: spec/09, block DSP. -/
def DSP_COMMIT.reg (p : Nat) : Nat := 0x400080 + 0x10000 * p
def DSP_COMMIT.LAYERS (p : Nat) : Fld := ⟨(DSP_COMMIT.reg p), 0, 16⟩

/-- DSP_CMTD: spec/09, block DSP. -/
def DSP_CMTD.reg (p : Nat) : Nat := 0x400084 + 0x10000 * p
def DSP_CMTD.LAYERS (p : Nat) : Fld := ⟨(DSP_CMTD.reg p), 0, 16⟩

/-- DSP_WBUF: spec/09, block DSP. -/
def DSP_WBUF.reg (p : Nat) (i : Nat) : Nat := 0x400090 + 0x10000 * p + 0x4 * i
def DSP_WBUF.WBUF (p : Nat) (i : Nat) : Fld := ⟨(DSP_WBUF.reg p i), 0, 32⟩

/-- DSP_STAT: spec/09, block DSP. -/
def DSP_STAT.reg (p : Nat) : Nat := 0x4000a0 + 0x10000 * p
def DSP_STAT.POC (p : Nat) : Fld := ⟨(DSP_STAT.reg p), 10, 1⟩
def DSP_STAT.LINKLOST (p : Nat) : Fld := ⟨(DSP_STAT.reg p), 9, 1⟩
def DSP_STAT.UNDERRUN (p : Nat) : Fld := ⟨(DSP_STAT.reg p), 8, 1⟩
def DSP_STAT.LOCKED (p : Nat) : Fld := ⟨(DSP_STAT.reg p), 1, 1⟩
def DSP_STAT.LINKUP (p : Nat) : Fld := ⟨(DSP_STAT.reg p), 0, 1⟩

/-- DSP_EPAL: spec/09, block DSP. -/
def DSP_EPAL.reg (p : Nat) (i : Nat) : Nat := 0x4000c0 + 0x10000 * p + 0x4 * i
def DSP_EPAL.RED (p : Nat) (i : Nat) : Fld := ⟨(DSP_EPAL.reg p i), 16, 8⟩
def DSP_EPAL.GREEN (p : Nat) (i : Nat) : Fld := ⟨(DSP_EPAL.reg p i), 8, 8⟩
def DSP_EPAL.BLUE (p : Nat) (i : Nat) : Fld := ⟨(DSP_EPAL.reg p i), 0, 8⟩

/-- DSP_LUT: spec/09, block DSP. -/
def DSP_LUT.reg (p : Nat) (i : Nat) : Nat := 0x400400 + 0x10000 * p + 0x4 * i
def DSP_LUT.RED (p : Nat) (i : Nat) : Fld := ⟨(DSP_LUT.reg p i), 20, 10⟩
def DSP_LUT.GREEN (p : Nat) (i : Nat) : Fld := ⟨(DSP_LUT.reg p i), 10, 10⟩
def DSP_LUT.BLUE (p : Nat) (i : Nat) : Fld := ⟨(DSP_LUT.reg p i), 0, 10⟩

/-- DSP_PPS: spec/09, block DSP. -/
def DSP_PPS.reg (p : Nat) (i : Nat) : Nat := 0x400800 + 0x10000 * p + 0x4 * i
def DSP_PPS.PPS (p : Nat) (i : Nat) : Fld := ⟨(DSP_PPS.reg p i), 0, 32⟩

/-- TELL_DEF_W0: spec/10, block TELL. -/
def TELL_DEF_W0.reg (i : Nat) : Nat := 0x510000 + 0x10 * i
def TELL_DEF_W0.EN (i : Nat) : Fld := ⟨(TELL_DEF_W0.reg i), 31, 1⟩
def TELL_DEF_W0.TIMEOUT (i : Nat) : Fld := ⟨(TELL_DEF_W0.reg i), 16, 9⟩
def TELL_DEF_W0.ELINE (i : Nat) : Fld := ⟨(TELL_DEF_W0.reg i), 8, 6⟩
def TELL_DEF_W0.SRC (i : Nat) : Fld := ⟨(TELL_DEF_W0.reg i), 4, 3⟩
def TELL_DEF_W0.PIPE (i : Nat) : Fld := ⟨(TELL_DEF_W0.reg i), 0, 3⟩

/-- TELL_DEF_W1: spec/10, block TELL. -/
def TELL_DEF_W1.reg (i : Nat) : Nat := 0x510004 + 0x10 * i
def TELL_DEF_W1.Y (i : Nat) : Fld := ⟨(TELL_DEF_W1.reg i), 16, 13⟩
def TELL_DEF_W1.X (i : Nat) : Fld := ⟨(TELL_DEF_W1.reg i), 0, 13⟩

/-- TELL_DEF_W2: spec/10, block TELL. -/
def TELL_DEF_W2.reg (i : Nat) : Nat := 0x510008 + 0x10 * i
def TELL_DEF_W2.SREC (i : Nat) : Fld := ⟨(TELL_DEF_W2.reg i), 16, 11⟩
def TELL_DEF_W2.SAFE (i : Nat) : Fld := ⟨(TELL_DEF_W2.reg i), 8, 3⟩
def TELL_DEF_W2.INIT (i : Nat) : Fld := ⟨(TELL_DEF_W2.reg i), 4, 3⟩
def TELL_DEF_W2.NST (i : Nat) : Fld := ⟨(TELL_DEF_W2.reg i), 0, 3⟩

/-- TELL_DEF_W3: spec/10, block TELL. -/
def TELL_DEF_W3.reg (i : Nat) : Nat := 0x51000c + 0x10 * i

/-- TELL_SREC_W0: spec/10, block TELL. -/
def TELL_SREC_W0.reg (i : Nat) : Nat := 0x520000 + 0x20 * i
def TELL_SREC_W0.FBICON (i : Nat) : Fld := ⟨(TELL_SREC_W0.reg i), 16, 13⟩
def TELL_SREC_W0.ICON (i : Nat) : Fld := ⟨(TELL_SREC_W0.reg i), 0, 13⟩

/-- TELL_SREC_W1: spec/10, block TELL. -/
def TELL_SREC_W1.reg (i : Nat) : Nat := 0x520004 + 0x20 * i
def TELL_SREC_W1.COLA (i : Nat) : Fld := ⟨(TELL_SREC_W1.reg i), 0, 30⟩

/-- TELL_SREC_W2: spec/10, block TELL. -/
def TELL_SREC_W2.reg (i : Nat) : Nat := 0x520008 + 0x20 * i
def TELL_SREC_W2.COLB (i : Nat) : Fld := ⟨(TELL_SREC_W2.reg i), 0, 30⟩

/-- TELL_SREC_W3: spec/10, block TELL. -/
def TELL_SREC_W3.reg (i : Nat) : Nat := 0x52000c + 0x20 * i
def TELL_SREC_W3.BLINK (i : Nat) : Fld := ⟨(TELL_SREC_W3.reg i), 0, 8⟩

/-- TELL_SREC_W4: spec/10, block TELL. -/
def TELL_SREC_W4.reg (i : Nat) : Nat := 0x520010 + 0x20 * i
def TELL_SREC_W4.GOLD (i : Nat) : Fld := ⟨(TELL_SREC_W4.reg i), 0, 32⟩

/-- TELL_SREC_W5: spec/10, block TELL. -/
def TELL_SREC_W5.reg (i : Nat) : Nat := 0x520014 + 0x20 * i
def TELL_SREC_W5.FBGOLD (i : Nat) : Fld := ⟨(TELL_SREC_W5.reg i), 0, 32⟩

/-- TELL_SREC_W6: spec/10, block TELL. -/
def TELL_SREC_W6.reg (i : Nat) : Nat := 0x520018 + 0x20 * i
def TELL_SREC_W6.NPIX (i : Nat) : Fld := ⟨(TELL_SREC_W6.reg i), 0, 17⟩

/-- TELL_SREC_W7: spec/10, block TELL. -/
def TELL_SREC_W7.reg (i : Nat) : Nat := 0x52001c + 0x20 * i

/-- TELL_DBOX_W0: spec/10, block TELL. -/
def TELL_DBOX_W0.reg (i : Nat) : Nat := 0x530000 + 0x80 * i
def TELL_DBOX_W0.EN (i : Nat) : Fld := ⟨(TELL_DBOX_W0.reg i), 31, 1⟩
def TELL_DBOX_W0.OWNER (i : Nat) : Fld := ⟨(TELL_DBOX_W0.reg i), 16, 2⟩
def TELL_DBOX_W0.PIPE (i : Nat) : Fld := ⟨(TELL_DBOX_W0.reg i), 0, 3⟩

/-- TELL_DBOX_W1: spec/10, block TELL. -/
def TELL_DBOX_W1.reg (i : Nat) : Nat := 0x530004 + 0x80 * i
def TELL_DBOX_W1.Y (i : Nat) : Fld := ⟨(TELL_DBOX_W1.reg i), 16, 13⟩
def TELL_DBOX_W1.X (i : Nat) : Fld := ⟨(TELL_DBOX_W1.reg i), 0, 13⟩

/-- TELL_DBOX_W2: spec/10, block TELL. -/
def TELL_DBOX_W2.reg (i : Nat) : Nat := 0x530008 + 0x80 * i
def TELL_DBOX_W2.H (i : Nat) : Fld := ⟨(TELL_DBOX_W2.reg i), 16, 9⟩
def TELL_DBOX_W2.W (i : Nat) : Fld := ⟨(TELL_DBOX_W2.reg i), 0, 9⟩

/-- TELL_DBOX_RES: spec/10, block TELL. -/
def TELL_DBOX_RES.reg (i : Nat) (j : Nat) : Nat := 0x53000c + 0x80 * i + 0x4 * j

/-- TELL_DBOX_GOLD: spec/10, block TELL. -/
def TELL_DBOX_GOLD.reg (i : Nat) (j : Nat) : Nat := 0x530040 + 0x80 * i + 0x4 * j
def TELL_DBOX_GOLD.GOLD (i : Nat) (j : Nat) : Fld := ⟨(TELL_DBOX_GOLD.reg i j), 0, 32⟩

/-- TELL_HBOX: spec/10, block TELL. -/
def TELL_HBOX.reg (i : Nat) : Nat := 0x501000 + 0x4 * i
def TELL_HBOX.ACT (i : Nat) : Fld := ⟨(TELL_HBOX.reg i), 4, 1⟩
def TELL_HBOX.SEL (i : Nat) : Fld := ⟨(TELL_HBOX.reg i), 0, 4⟩

/-- TELL_HCMT: spec/10, block TELL. -/
def TELL_HCMT.reg : Nat := 0x501100
def TELL_HCMT.GO : Fld := ⟨TELL_HCMT.reg, 0, 1⟩

/-- TELL_ST: spec/10, block TELL. -/
def TELL_ST.reg (i : Nat) : Nat := 0x500400 + 0x4 * i
def TELL_ST.VERD (i : Nat) : Fld := ⟨(TELL_ST.reg i), 9, 2⟩
def TELL_ST.CNTV (i : Nat) : Fld := ⟨(TELL_ST.reg i), 8, 1⟩
def TELL_ST.CNT (i : Nat) : Fld := ⟨(TELL_ST.reg i), 4, 4⟩
def TELL_ST.FBL (i : Nat) : Fld := ⟨(TELL_ST.reg i), 3, 1⟩
def TELL_ST.SAFE (i : Nat) : Fld := ⟨(TELL_ST.reg i), 2, 1⟩

/-- TELL_SST: spec/10, block TELL. -/
def TELL_SST.reg (i : Nat) : Nat := 0x500800 + 0x4 * i
def TELL_SST.STATE (i : Nat) : Fld := ⟨(TELL_SST.reg i), 0, 3⟩

/-- TELL_TAL: spec/10, block TELL. -/
def TELL_TAL.reg (i : Nat) : Nat := 0x500c00 + 0x4 * i
def TELL_TAL.SKIPS (i : Nat) : Fld := ⟨(TELL_TAL.reg i), 24, 8⟩
def TELL_TAL.LASTDB (i : Nat) : Fld := ⟨(TELL_TAL.reg i), 23, 1⟩
def TELL_TAL.LASTID (i : Nat) : Fld := ⟨(TELL_TAL.reg i), 8, 8⟩
def TELL_TAL.FAILS (i : Nat) : Fld := ⟨(TELL_TAL.reg i), 0, 8⟩

/-- TELL_RB: spec/10, block TELL. -/
def TELL_RB.reg (i : Nat) : Nat := 0x500c20 + 0x4 * i
def TELL_RB.FAILS (i : Nat) : Fld := ⟨(TELL_RB.reg i), 24, 8⟩
def TELL_RB.MISSES (i : Nat) : Fld := ⟨(TELL_RB.reg i), 16, 8⟩
def TELL_RB.SUP (i : Nat) : Fld := ⟨(TELL_RB.reg i), 1, 1⟩
def TELL_RB.EN (i : Nat) : Fld := ⟨(TELL_RB.reg i), 0, 1⟩

/-- BANK_OWNER: spec/11, block BANK. -/
def BANK_OWNER.reg (b : Nat) : Nat := 0x200000 + 0x1000 * b
def BANK_OWNER.CLR (b : Nat) : Fld := ⟨(BANK_OWNER.reg b), 4, 1⟩
def BANK_OWNER.OWNER (b : Nat) : Fld := ⟨(BANK_OWNER.reg b), 0, 4⟩

/-- BANK_GRANT: spec/11, block BANK. -/
def BANK_GRANT.reg (b : Nat) : Nat := 0x200004 + 0x1000 * b
def BANK_GRANT.GRANT (b : Nat) : Fld := ⟨(BANK_GRANT.reg b), 0, 10⟩

/-- BANK_STAT: spec/11, block BANK. -/
def BANK_STAT.reg (b : Nat) : Nat := 0x200008 + 0x1000 * b
def BANK_STAT.SV (b : Nat) : Fld := ⟨(BANK_STAT.reg b), 21, 1⟩
def BANK_STAT.SERVES (b : Nat) : Fld := ⟨(BANK_STAT.reg b), 16, 5⟩
def BANK_STAT.CLEARING (b : Nat) : Fld := ⟨(BANK_STAT.reg b), 3, 1⟩
def BANK_STAT.WEED (b : Nat) : Fld := ⟨(BANK_STAT.reg b), 0, 3⟩

/-- BANK_COLL: spec/11, block BANK. -/
def BANK_COLL.reg (b : Nat) : Nat := 0x20000c + 0x1000 * b
def BANK_COLL.MASK (b : Nat) : Fld := ⟨(BANK_COLL.reg b), 31, 1⟩
def BANK_COLL.COUNT (b : Nat) : Fld := ⟨(BANK_COLL.reg b), 0, 16⟩

/-- COLD_CFG: spec/11, block COLD. -/
def COLD_CFG.reg : Nat := 0x280000
def COLD_CFG.OWN1 : Fld := ⟨COLD_CFG.reg, 16, 4⟩
def COLD_CFG.OWN0 : Fld := ⟨COLD_CFG.reg, 0, 4⟩

/-- COLD_STAT: spec/11, block COLD. -/
def COLD_STAT.reg : Nat := 0x280004
def COLD_STAT.WIPES : Fld := ⟨COLD_STAT.reg, 24, 8⟩
def COLD_STAT.MERGED : Fld := ⟨COLD_STAT.reg, 16, 8⟩
def COLD_STAT.CAUSE : Fld := ⟨COLD_STAT.reg, 8, 3⟩
def COLD_STAT.FAILED : Fld := ⟨COLD_STAT.reg, 1, 1⟩
def COLD_STAT.WIPING : Fld := ⟨COLD_STAT.reg, 0, 1⟩

/-- DRAM_STAT: spec/11, block DRAM. -/
def DRAM_STAT.reg : Nat := 0x380000
def DRAM_STAT.SFAULT : Fld := ⟨DRAM_STAT.reg, 8, 4⟩
def DRAM_STAT.RSV : Fld := ⟨DRAM_STAT.reg, 6, 1⟩
def DRAM_STAT.RSUIT : Fld := ⟨DRAM_STAT.reg, 4, 2⟩
def DRAM_STAT.SREF : Fld := ⟨DRAM_STAT.reg, 2, 1⟩
def DRAM_STAT.TRAIN : Fld := ⟨DRAM_STAT.reg, 0, 2⟩

/-- DRAM_SCRUB: spec/11, block DRAM. -/
def DRAM_SCRUB.reg : Nat := 0x380004
def DRAM_SCRUB.PASSES : Fld := ⟨DRAM_SCRUB.reg, 16, 16⟩
def DRAM_SCRUB.PROG : Fld := ⟨DRAM_SCRUB.reg, 0, 16⟩

/-- TRL_STAT: spec/12, block TRELLIS. -/
def TRL_STAT.reg : Nat := 0x300000
def TRL_STAT.INFLIGHT : Fld := ⟨TRL_STAT.reg, 16, 12⟩
def TRL_STAT.SWAP : Fld := ⟨TRL_STAT.reg, 0, 2⟩

/-- TRL_SWAP: spec/12, block TRELLIS. -/
def TRL_SWAP.reg : Nat := 0x300004
def TRL_SWAP.COMMIT : Fld := ⟨TRL_SWAP.reg, 0, 1⟩

/-- TRL_LATE: spec/12, block TRELLIS. -/
def TRL_LATE.reg : Nat := 0x300008
def TRL_LATE.TIMEOUTS : Fld := ⟨TRL_LATE.reg, 20, 12⟩
def TRL_LATE.LATE : Fld := ⟨TRL_LATE.reg, 10, 10⟩
def TRL_LATE.DROPS : Fld := ⟨TRL_LATE.reg, 0, 10⟩

/-- TRL_DMAP: spec/12, block TRELLIS. -/
def TRL_DMAP.reg : Nat := 0x30000c
def TRL_DMAP.MAP : Fld := ⟨TRL_DMAP.reg, 0, 24⟩

/-- TRL_DMAP_SH: spec/12, block TRELLIS. -/
def TRL_DMAP_SH.reg : Nat := 0x300010
def TRL_DMAP_SH.MAP : Fld := ⟨TRL_DMAP_SH.reg, 0, 24⟩

/-- TRL_RTR: spec/12, block TRELLIS. -/
def TRL_RTR.reg (i : Nat) : Nat := 0x300100 + 0x4 * i
def TRL_RTR.TOKEN (i : Nat) : Fld := ⟨(TRL_RTR.reg i), 16, 8⟩
def TRL_RTR.ABSP (i : Nat) : Fld := ⟨(TRL_RTR.reg i), 4, 8⟩
def TRL_RTR.STATE (i : Nat) : Fld := ⟨(TRL_RTR.reg i), 0, 2⟩

/-- TRL_ABS: spec/12, block TRELLIS. -/
def TRL_ABS.reg (i : Nat) : Nat := 0x300200 + 0x4 * i
def TRL_ABS.COUNT (i : Nat) : Fld := ⟨(TRL_ABS.reg i), 0, 32⟩

/-- TRL_LINK: spec/12, block TRELLIS. -/
def TRL_LINK.reg (i : Nat) : Nat := 0x300300 + 0x4 * i
def TRL_LINK.UE (i : Nat) : Fld := ⟨(TRL_LINK.reg i), 16, 16⟩
def TRL_LINK.CE (i : Nat) : Fld := ⟨(TRL_LINK.reg i), 0, 16⟩

/-- TRL_TAG: spec/12, block TRELLIS. -/
def TRL_TAG.reg (i : Nat) : Nat := 0x300400 + 0x4 * i
def TRL_TAG.V (i : Nat) : Fld := ⟨(TRL_TAG.reg i), 31, 1⟩
def TRL_TAG.SIZE (i : Nat) : Fld := ⟨(TRL_TAG.reg i), 16, 11⟩
def TRL_TAG.BASE (i : Nat) : Fld := ⟨(TRL_TAG.reg i), 0, 11⟩

/-- TRL_RTE: spec/12, block TRELLIS. -/
def TRL_RTE.reg (i : Nat) (j : Nat) : Nat := 0x310000 + 0x100 * i + 0x4 * j
def TRL_RTE.SHADOW (i : Nat) (j : Nat) : Fld := ⟨(TRL_RTE.reg i j), 8, 3⟩
def TRL_RTE.ACTIVE (i : Nat) (j : Nat) : Fld := ⟨(TRL_RTE.reg i j), 0, 3⟩

/-- SEAT_CFG: spec/13, block SEAT. -/
def SEAT_CFG.reg (s : Nat) : Nat := 0x580000 + 0x10000 * s
def SEAT_CFG.EN (s : Nat) : Fld := ⟨(SEAT_CFG.reg s), 31, 1⟩
def SEAT_CFG.CMDP (s : Nat) : Fld := ⟨(SEAT_CFG.reg s), 27, 4⟩
def SEAT_CFG.NTCP (s : Nat) : Fld := ⟨(SEAT_CFG.reg s), 24, 3⟩
def SEAT_CFG.IRQ (s : Nat) : Fld := ⟨(SEAT_CFG.reg s), 21, 3⟩
def SEAT_CFG.SAFE (s : Nat) : Fld := ⟨(SEAT_CFG.reg s), 20, 1⟩
def SEAT_CFG.DIAG (s : Nat) : Fld := ⟨(SEAT_CFG.reg s), 19, 1⟩
def SEAT_CFG.WDOG (s : Nat) : Fld := ⟨(SEAT_CFG.reg s), 11, 8⟩
def SEAT_CFG.STEP (s : Nat) : Fld := ⟨(SEAT_CFG.reg s), 3, 8⟩

/-- SEAT_EXP: spec/13, block SEAT. -/
def SEAT_EXP.reg (s : Nat) : Nat := 0x580004 + 0x10000 * s
def SEAT_EXP.PIPES (s : Nat) : Fld := ⟨(SEAT_EXP.reg s), 16, 6⟩
def SEAT_EXP.CTXS (s : Nat) : Fld := ⟨(SEAT_EXP.reg s), 0, 16⟩

/-- SEAT_STAT: spec/13, block SEAT. -/
def SEAT_STAT.reg (s : Nat) : Nat := 0x580008 + 0x10000 * s
def SEAT_STAT.PORTUP (s : Nat) : Fld := ⟨(SEAT_STAT.reg s), 31, 1⟩
def SEAT_STAT.NLOST (s : Nat) : Fld := ⟨(SEAT_STAT.reg s), 24, 7⟩
def SEAT_STAT.APERR (s : Nat) : Fld := ⟨(SEAT_STAT.reg s), 16, 8⟩
def SEAT_STAT.CRCERR (s : Nat) : Fld := ⟨(SEAT_STAT.reg s), 8, 8⟩
def SEAT_STAT.DROPS (s : Nat) : Fld := ⟨(SEAT_STAT.reg s), 0, 8⟩

/-- SEAT_AP: spec/13, block SEAT. -/
def SEAT_AP.reg (s : Nat) : Nat := 0x58000c + 0x10000 * s
def SEAT_AP.APSZ (s : Nat) : Fld := ⟨(SEAT_AP.reg s), 8, 6⟩
def SEAT_AP.APBW (s : Nat) : Fld := ⟨(SEAT_AP.reg s), 0, 4⟩

/-- SEAT_CMDIDX: spec/13, block SEAT. -/
def SEAT_CMDIDX.reg (s : Nat) : Nat := 0x580010 + 0x10000 * s
def SEAT_CMDIDX.CI (s : Nat) : Fld := ⟨(SEAT_CMDIDX.reg s), 8, 8⟩
def SEAT_CMDIDX.PI (s : Nat) : Fld := ⟨(SEAT_CMDIDX.reg s), 0, 8⟩

/-- SEAT_CMPIDX: spec/13, block SEAT. -/
def SEAT_CMPIDX.reg (s : Nat) : Nat := 0x580014 + 0x10000 * s
def SEAT_CMPIDX.CI (s : Nat) : Fld := ⟨(SEAT_CMPIDX.reg s), 8, 8⟩
def SEAT_CMPIDX.PI (s : Nat) : Fld := ⟨(SEAT_CMPIDX.reg s), 0, 8⟩

/-- SEAT_NTCIDX: spec/13, block SEAT. -/
def SEAT_NTCIDX.reg (s : Nat) : Nat := 0x580018 + 0x10000 * s
def SEAT_NTCIDX.CI (s : Nat) : Fld := ⟨(SEAT_NTCIDX.reg s), 8, 8⟩
def SEAT_NTCIDX.PI (s : Nat) : Fld := ⟨(SEAT_NTCIDX.reg s), 0, 8⟩

/-- SEAT_CMDID: spec/13, block SEAT. -/
def SEAT_CMDID.reg (s : Nat) : Nat := 0x580030 + 0x10000 * s
def SEAT_CMDID.IDE (s : Nat) : Fld := ⟨(SEAT_CMDID.reg s), 31, 1⟩
def SEAT_CMDID.ID (s : Nat) : Fld := ⟨(SEAT_CMDID.reg s), 0, 29⟩

/-- SEAT_CMPID: spec/13, block SEAT. -/
def SEAT_CMPID.reg (s : Nat) : Nat := 0x580034 + 0x10000 * s
def SEAT_CMPID.IDE (s : Nat) : Fld := ⟨(SEAT_CMPID.reg s), 31, 1⟩
def SEAT_CMPID.ID (s : Nat) : Fld := ⟨(SEAT_CMPID.reg s), 0, 29⟩

/-- SEAT_NTCID: spec/13, block SEAT. -/
def SEAT_NTCID.reg (s : Nat) : Nat := 0x580038 + 0x10000 * s
def SEAT_NTCID.IDE (s : Nat) : Fld := ⟨(SEAT_NTCID.reg s), 31, 1⟩
def SEAT_NTCID.ID (s : Nat) : Fld := ⟨(SEAT_NTCID.reg s), 0, 29⟩

/-- SEAT_SEG_W0: spec/13, block SEAT. -/
def SEAT_SEG_W0.reg (s : Nat) (i : Nat) : Nat := 0x580100 + 0x10000 * s + 0x10 * i
def SEAT_SEG_W0.BASE_LO (s : Nat) (i : Nat) : Fld := ⟨(SEAT_SEG_W0.reg s i), 0, 32⟩

/-- SEAT_SEG_W1: spec/13, block SEAT. -/
def SEAT_SEG_W1.reg (s : Nat) (i : Nat) : Nat := 0x580104 + 0x10000 * s + 0x10 * i
def SEAT_SEG_W1.PRESENT (s : Nat) (i : Nat) : Fld := ⟨(SEAT_SEG_W1.reg s i), 31, 1⟩
def SEAT_SEG_W1.WRA (s : Nat) (i : Nat) : Fld := ⟨(SEAT_SEG_W1.reg s i), 20, 1⟩
def SEAT_SEG_W1.RDA (s : Nat) (i : Nat) : Fld := ⟨(SEAT_SEG_W1.reg s i), 19, 1⟩
def SEAT_SEG_W1.BASE_HI (s : Nat) (i : Nat) : Fld := ⟨(SEAT_SEG_W1.reg s i), 0, 16⟩

/-- SEAT_SEG_W2: spec/13, block SEAT. -/
def SEAT_SEG_W2.reg (s : Nat) (i : Nat) : Nat := 0x580108 + 0x10000 * s + 0x10 * i
def SEAT_SEG_W2.LIMIT (s : Nat) (i : Nat) : Fld := ⟨(SEAT_SEG_W2.reg s i), 0, 32⟩

/-- SEAT_SEG_W3: spec/13, block SEAT. -/
def SEAT_SEG_W3.reg (s : Nat) (i : Nat) : Nat := 0x58010c + 0x10000 * s + 0x10 * i
def SEAT_SEG_W3.APOFF (s : Nat) (i : Nat) : Fld := ⟨(SEAT_SEG_W3.reg s i), 0, 16⟩

/-- SEAT_LAYER: spec/13, block SEAT. -/
def SEAT_LAYER.reg (s : Nat) (i : Nat) : Nat := 0x580200 + 0x10000 * s + 0x4 * i
def SEAT_LAYER.EN (s : Nat) (i : Nat) : Fld := ⟨(SEAT_LAYER.reg s i), 31, 1⟩
def SEAT_LAYER.PIPE (s : Nat) (i : Nat) : Fld := ⟨(SEAT_LAYER.reg s i), 16, 3⟩
def SEAT_LAYER.LAYER (s : Nat) (i : Nat) : Fld := ⟨(SEAT_LAYER.reg s i), 0, 4⟩

/-- SEAT_EVP: spec/13, block SEAT. -/
def SEAT_EVP.reg (s : Nat) (i : Nat) : Nat := 0x580300 + 0x10000 * s + 0x4 * i
def SEAT_EVP.BITS (s : Nat) (i : Nat) : Fld := ⟨(SEAT_EVP.reg s i), 0, 32⟩

/-- SEAT_EVM: spec/13, block SEAT. -/
def SEAT_EVM.reg (s : Nat) (i : Nat) : Nat := 0x580340 + 0x10000 * s + 0x4 * i
def SEAT_EVM.BITS (s : Nat) (i : Nat) : Fld := ⟨(SEAT_EVM.reg s i), 0, 32⟩

/-- SEAT_EVVEC: spec/13, block SEAT. -/
def SEAT_EVVEC.reg (s : Nat) (i : Nat) : Nat := 0x580380 + 0x10000 * s + 0x4 * i
def SEAT_EVVEC.VEC0 (s : Nat) (i : Nat) : Fld := ⟨(SEAT_EVVEC.reg s i), 0, 6⟩
def SEAT_EVVEC.VEC1 (s : Nat) (i : Nat) : Fld := ⟨(SEAT_EVVEC.reg s i), 8, 6⟩
def SEAT_EVVEC.VEC2 (s : Nat) (i : Nat) : Fld := ⟨(SEAT_EVVEC.reg s i), 16, 6⟩
def SEAT_EVVEC.VEC3 (s : Nat) (i : Nat) : Fld := ⟨(SEAT_EVVEC.reg s i), 24, 6⟩

/-- SEAT_JOB_W0: spec/13, block SEAT. -/
def SEAT_JOB_W0.reg (s : Nat) (i : Nat) : Nat := 0x580500 + 0x10000 * s + 0x8 * i
def SEAT_JOB_W0.JSER (s : Nat) (i : Nat) : Fld := ⟨(SEAT_JOB_W0.reg s i), 16, 16⟩
def SEAT_JOB_W0.STATUS (s : Nat) (i : Nat) : Fld := ⟨(SEAT_JOB_W0.reg s i), 8, 8⟩
def SEAT_JOB_W0.PC (s : Nat) (i : Nat) : Fld := ⟨(SEAT_JOB_W0.reg s i), 4, 1⟩
def SEAT_JOB_W0.PS (s : Nat) (i : Nat) : Fld := ⟨(SEAT_JOB_W0.reg s i), 3, 1⟩
def SEAT_JOB_W0.STATE (s : Nat) (i : Nat) : Fld := ⟨(SEAT_JOB_W0.reg s i), 0, 3⟩

/-- SEAT_JOB_W1: spec/13, block SEAT. -/
def SEAT_JOB_W1.reg (s : Nat) (i : Nat) : Nat := 0x580504 + 0x10000 * s + 0x8 * i
def SEAT_JOB_W1.PROG (s : Nat) (i : Nat) : Fld := ⟨(SEAT_JOB_W1.reg s i), 0, 32⟩

/-- GARD_STAT: spec/14, block GARD. -/
def GARD_STAT.reg : Nat := 0x20000
def GARD_STAT.STATE : Fld := ⟨GARD_STAT.reg, 30, 2⟩
def GARD_STAT.WARMS : Fld := ⟨GARD_STAT.reg, 24, 2⟩
def GARD_STAT.CAUSE : Fld := ⟨GARD_STAT.reg, 16, 4⟩
def GARD_STAT.TRACK : Fld := ⟨GARD_STAT.reg, 0, 11⟩

/-- GARD_DROP: spec/14, block GARD. -/
def GARD_DROP.reg : Nat := 0x20004
def GARD_DROP.EVICT : Fld := ⟨GARD_DROP.reg, 16, 16⟩
def GARD_DROP.DROPS : Fld := ⟨GARD_DROP.reg, 0, 16⟩

/-- GARD_CLASS: spec/14, block GARD. -/
def GARD_CLASS.reg (i : Nat) : Nat := 0x20100 + 0x4 * i
def GARD_CLASS.WINDOW (i : Nat) : Fld := ⟨(GARD_CLASS.reg i), 16, 16⟩
def GARD_CLASS.STRIKES (i : Nat) : Fld := ⟨(GARD_CLASS.reg i), 0, 4⟩

/-- GARD_DLR: spec/14, block GARD. -/
def GARD_DLR.reg : Nat := 0x20200
def GARD_DLR.ROLE : Fld := ⟨GARD_DLR.reg, 0, 8⟩

/-- GARD_SPARE: spec/14, block GARD. -/
def GARD_SPARE.reg : Nat := 0x20204
def GARD_SPARE.NURS : Fld := ⟨GARD_SPARE.reg, 24, 1⟩
def GARD_SPARE.NBANK : Fld := ⟨GARD_SPARE.reg, 19, 5⟩
def GARD_SPARE.SETV : Fld := ⟨GARD_SPARE.reg, 18, 1⟩
def GARD_SPARE.SET : Fld := ⟨GARD_SPARE.reg, 12, 6⟩

/-- GARD_LOG0: spec/14, block GARD. -/
def GARD_LOG0.reg : Nat := 0x20300
def GARD_LOG0.ACTION : Fld := ⟨GARD_LOG0.reg, 28, 4⟩
def GARD_LOG0.CLASS : Fld := ⟨GARD_LOG0.reg, 24, 4⟩
def GARD_LOG0.KIND : Fld := ⟨GARD_LOG0.reg, 20, 4⟩
def GARD_LOG0.TICK : Fld := ⟨GARD_LOG0.reg, 0, 16⟩

/-- GARD_LOG1: spec/14, block GARD. -/
def GARD_LOG1.reg : Nat := 0x20304
def GARD_LOG1.LOC_LO : Fld := ⟨GARD_LOG1.reg, 0, 32⟩

/-- GARD_LOG2: spec/14, block GARD. -/
def GARD_LOG2.reg : Nat := 0x20308
def GARD_LOG2.LOC_HI : Fld := ⟨GARD_LOG2.reg, 0, 16⟩

/-- GARD_LEDGER: spec/14, block GARD. -/
def GARD_LEDGER.reg (i : Nat) : Nat := 0x20400 + 0x4 * i
def GARD_LEDGER.WORD (i : Nat) : Fld := ⟨(GARD_LEDGER.reg i), 0, 32⟩

/-- ESP_STAT: spec/15, block ESP. -/
def ESP_STAT.reg : Nat := 0x600000
def ESP_STAT.STAGE : Fld := ⟨ESP_STAT.reg, 4, 2⟩
def ESP_STAT.STATE : Fld := ⟨ESP_STAT.reg, 0, 3⟩

/-- ESP_EIBANK: spec/15, block ESP. -/
def ESP_EIBANK.reg : Nat := 0x600004
def ESP_EIBANK.BANKS : Fld := ⟨ESP_EIBANK.reg, 0, 8⟩

/-- ESP_FCLK: spec/15, block ESP. -/
def ESP_FCLK.reg : Nat := 0x600008
def ESP_FCLK.KHZ : Fld := ⟨ESP_FCLK.reg, 0, 18⟩

/-- ESP_FG: spec/15, block ESP. -/
def ESP_FG.reg (i : Nat) : Nat := 0x600010 + 0x4 * i
def ESP_FG.SRC (i : Nat) : Fld := ⟨(ESP_FG.reg i), 8, 1⟩
def ESP_FG.DIV (i : Nat) : Fld := ⟨(ESP_FG.reg i), 0, 8⟩

/-- ESP_EO_LO: spec/15, block ESP. -/
def ESP_EO_LO.reg : Nat := 0x600020
def ESP_EO_LO.EO : Fld := ⟨ESP_EO_LO.reg, 0, 32⟩

/-- ESP_EO_HI: spec/15, block ESP. -/
def ESP_EO_HI.reg : Nat := 0x600024
def ESP_EO_HI.EO : Fld := ⟨ESP_EO_HI.reg, 0, 32⟩

/-- ESP_GPI: spec/15, block ESP. -/
def ESP_GPI.reg (i : Nat) : Nat := 0x600030 + 0x4 * i
def ESP_GPI.LEVEL (i : Nat) : Fld := ⟨(ESP_GPI.reg i), 0, 32⟩

/-- ESP_TEST: spec/15, block ESP. -/
def ESP_TEST.reg : Nat := 0x600040
def ESP_TEST.STEP : Fld := ⟨ESP_TEST.reg, 2, 1⟩
def ESP_TEST.STOP : Fld := ⟨ESP_TEST.reg, 1, 1⟩
def ESP_TEST.ENTER : Fld := ⟨ESP_TEST.reg, 0, 1⟩

/-- CLK_STAT: spec/16, block CLK. -/
def CLK_STAT.reg : Nat := 0x10000
def CLK_STAT.XBFAIL : Fld := ⟨CLK_STAT.reg, 15, 1⟩
def CLK_STAT.XAFAIL : Fld := ⟨CLK_STAT.reg, 14, 1⟩
def CLK_STAT.TRIMMED : Fld := ⟨CLK_STAT.reg, 13, 1⟩
def CLK_STAT.PLLR : Fld := ⟨CLK_STAT.reg, 4, 6⟩
def CLK_STAT.XBR : Fld := ⟨CLK_STAT.reg, 3, 1⟩
def CLK_STAT.XAR : Fld := ⟨CLK_STAT.reg, 2, 1⟩
def CLK_STAT.SIRCR : Fld := ⟨CLK_STAT.reg, 1, 1⟩
def CLK_STAT.FIRCR : Fld := ⟨CLK_STAT.reg, 0, 1⟩

/-- CLK_SEL: spec/16, block CLK. -/
def CLK_SEL.reg (i : Nat) : Nat := 0x10010 + 0x4 * i
def CLK_SEL.STEP (i : Nat) : Fld := ⟨(CLK_SEL.reg i), 16, 2⟩
def CLK_SEL.BUSY (i : Nat) : Fld := ⟨(CLK_SEL.reg i), 8, 1⟩
def CLK_SEL.RAMP (i : Nat) : Fld := ⟨(CLK_SEL.reg i), 1, 1⟩
def CLK_SEL.SRC (i : Nat) : Fld := ⟨(CLK_SEL.reg i), 0, 1⟩

/-- CLK_PLL: spec/16, block CLK. -/
def CLK_PLL.reg (i : Nat) : Nat := 0x10040 + 0x8 * i
def CLK_PLL.READY (i : Nat) : Fld := ⟨(CLK_PLL.reg i), 31, 1⟩
def CLK_PLL.FBREF (i : Nat) : Fld := ⟨(CLK_PLL.reg i), 4, 2⟩
def CLK_PLL.REF (i : Nat) : Fld := ⟨(CLK_PLL.reg i), 0, 2⟩

/-- CLK_PLLF: spec/16, block CLK. -/
def CLK_PLLF.reg (i : Nat) : Nat := 0x10044 + 0x8 * i
def CLK_PLLF.SSC (i : Nat) : Fld := ⟨(CLK_PLLF.reg i), 28, 4⟩
def CLK_PLLF.KHZ (i : Nat) : Fld := ⟨(CLK_PLLF.reg i), 0, 24⟩

/-- CLK_TRIM: spec/16, block CLK. -/
def CLK_TRIM.reg : Nat := 0x100a0
def CLK_TRIM.CODE : Fld := ⟨CLK_TRIM.reg, 16, 10⟩
def CLK_TRIM.NBR : Fld := ⟨CLK_TRIM.reg, 4, 12⟩
def CLK_TRIM.REF : Fld := ⟨CLK_TRIM.reg, 0, 3⟩

/-- CLK_GATE: spec/16, block CLK. -/
def CLK_GATE.reg (i : Nat) : Nat := 0x10100 + 0x4 * i
def CLK_GATE.USE (i : Nat) : Fld := ⟨(CLK_GATE.reg i), 8, 5⟩
def CLK_GATE.EN (i : Nat) : Fld := ⟨(CLK_GATE.reg i), 0, 1⟩

/-- CLK_MON: spec/16, block CLK. -/
def CLK_MON.reg : Nat := 0x10200
def CLK_MON.FIRCA : Fld := ⟨CLK_MON.reg, 8, 1⟩
def CLK_MON.PLLA : Fld := ⟨CLK_MON.reg, 2, 6⟩
def CLK_MON.XBA : Fld := ⟨CLK_MON.reg, 1, 1⟩
def CLK_MON.XAA : Fld := ⟨CLK_MON.reg, 0, 1⟩

/-- RST_CAUSE: spec/16, block CLK. -/
def RST_CAUSE.reg : Nat := 0x10300
def RST_CAUSE.COLDS : Fld := ⟨RST_CAUSE.reg, 24, 8⟩
def RST_CAUSE.ALSO : Fld := ⟨RST_CAUSE.reg, 16, 8⟩
def RST_CAUSE.SRC : Fld := ⟨RST_CAUSE.reg, 8, 4⟩
def RST_CAUSE.CAUSE : Fld := ⟨RST_CAUSE.reg, 0, 4⟩

/-- LOAD_STAT: spec/17, block LOAD. -/
def LOAD_STAT.reg : Nat := 0x40000
def LOAD_STAT.STATE : Fld := ⟨LOAD_STAT.reg, 8, 3⟩
def LOAD_STAT.MIRROR : Fld := ⟨LOAD_STAT.reg, 4, 1⟩
def LOAD_STAT.SLOT : Fld := ⟨LOAD_STAT.reg, 0, 1⟩

/-- LOAD_FAULT: spec/17, block LOAD. -/
def LOAD_FAULT.reg : Nat := 0x40004
def LOAD_FAULT.SECT : Fld := ⟨LOAD_FAULT.reg, 24, 5⟩
def LOAD_FAULT.MCODE : Fld := ⟨LOAD_FAULT.reg, 16, 8⟩
def LOAD_FAULT.BCODE : Fld := ⟨LOAD_FAULT.reg, 8, 8⟩
def LOAD_FAULT.ACODE : Fld := ⟨LOAD_FAULT.reg, 0, 8⟩

/-- LOAD_T: spec/17, block LOAD. -/
def LOAD_T.reg (i : Nat) : Nat := 0x40010 + 0x4 * i
def LOAD_T.TIME (i : Nat) : Fld := ⟨(LOAD_T.reg i), 0, 20⟩

/-- LOAD_COPY: spec/17, block LOAD. -/
def LOAD_COPY.reg : Nat := 0x40030
def LOAD_COPY.SIZE : Fld := ⟨LOAD_COPY.reg, 16, 16⟩
def LOAD_COPY.BASE : Fld := ⟨LOAD_COPY.reg, 0, 16⟩

/-- SYS_LCS: spec/17, block SYS. -/
def SYS_LCS.reg : Nat := 0x4
def SYS_LCS.MINSVN : Fld := ⟨SYS_LCS.reg, 8, 6⟩
def SYS_LCS.KEYSET : Fld := ⟨SYS_LCS.reg, 4, 1⟩
def SYS_LCS.DBG : Fld := ⟨SYS_LCS.reg, 3, 1⟩
def SYS_LCS.ES : Fld := ⟨SYS_LCS.reg, 2, 1⟩
def SYS_LCS.STATE : Fld := ⟨SYS_LCS.reg, 0, 2⟩

/-- SYS_LCREQ: spec/17, block SYS. -/
def SYS_LCREQ.reg : Nat := 0x8
def SYS_LCREQ.CONFIRM : Fld := ⟨SYS_LCREQ.reg, 24, 8⟩
def SYS_LCREQ.TARGET : Fld := ⟨SYS_LCREQ.reg, 0, 2⟩

/-- SYS_UID_LO: spec/17, block SYS. -/
def SYS_UID_LO.reg : Nat := 0xc
def SYS_UID_LO.UID : Fld := ⟨SYS_UID_LO.reg, 0, 32⟩

/-- SYS_UID_HI: spec/17, block SYS. -/
def SYS_UID_HI.reg : Nat := 0x10
def SYS_UID_HI.UID : Fld := ⟨SYS_UID_HI.reg, 0, 32⟩

/-- SYS_STRAP: spec/17, block SYS. -/
def SYS_STRAP.reg : Nat := 0x14
def SYS_STRAP.BOOTCFG : Fld := ⟨SYS_STRAP.reg, 0, 4⟩

/-- PAD_THERM: spec/18, block PAD. -/
def PAD_THERM.reg : Nat := 0x680000
def PAD_THERM.CRIT : Fld := ⟨PAD_THERM.reg, 17, 1⟩
def PAD_THERM.WARN : Fld := ⟨PAD_THERM.reg, 16, 1⟩
def PAD_THERM.TJ : Fld := ⟨PAD_THERM.reg, 0, 9⟩

/-- PAD_POC: spec/18, block PAD. -/
def PAD_POC.reg (i : Nat) : Nat := 0x680100 + 0x4 * i
def PAD_POC.EN (i : Nat) : Fld := ⟨(PAD_POC.reg i), 31, 1⟩
def PAD_POC.STATE (i : Nat) : Fld := ⟨(PAD_POC.reg i), 29, 2⟩
def PAD_POC.STRIKES (i : Nat) : Fld := ⟨(PAD_POC.reg i), 24, 2⟩
def PAD_POC.CUTS (i : Nat) : Fld := ⟨(PAD_POC.reg i), 16, 8⟩
def PAD_POC.VTRIP (i : Nat) : Fld := ⟨(PAD_POC.reg i), 0, 11⟩

/-- PAD_MUX: spec/18, block PAD. -/
def PAD_MUX.reg (i : Nat) : Nat := 0x680200 + 0x4 * i
def PAD_MUX.DRIVE (i : Nat) : Fld := ⟨(PAD_MUX.reg i), 8, 2⟩
def PAD_MUX.SEL (i : Nat) : Fld := ⟨(PAD_MUX.reg i), 4, 3⟩
def PAD_MUX.FUNC (i : Nat) : Fld := ⟨(PAD_MUX.reg i), 0, 4⟩

/-- BANK_ERR_SYN: spec/11, block BANK. -/
def BANK_ERR_SYN.reg (b : Nat) : Nat := 0x200040 + 0x1000 * b
def BANK_ERR_SYN.KIND (b : Nat) : Fld := ⟨(BANK_ERR_SYN.reg b), 30, 2⟩
def BANK_ERR_SYN.POS1 (b : Nat) : Fld := ⟨(BANK_ERR_SYN.reg b), 23, 7⟩
def BANK_ERR_SYN.POS0 (b : Nat) : Fld := ⟨(BANK_ERR_SYN.reg b), 16, 7⟩
def BANK_ERR_SYN.SYN (b : Nat) : Fld := ⟨(BANK_ERR_SYN.reg b), 0, 16⟩

/-- BANK_ERR_ADDR_LO: spec/11, block BANK. -/
def BANK_ERR_ADDR_LO.reg (b : Nat) : Nat := 0x200044 + 0x1000 * b
def BANK_ERR_ADDR_LO.ADDR (b : Nat) : Fld := ⟨(BANK_ERR_ADDR_LO.reg b), 0, 32⟩

/-- BANK_ERR_ADDR_HI: spec/11, block BANK. -/
def BANK_ERR_ADDR_HI.reg (b : Nat) : Nat := 0x200048 + 0x1000 * b
def BANK_ERR_ADDR_HI.ADDR (b : Nat) : Fld := ⟨(BANK_ERR_ADDR_HI.reg b), 0, 16⟩

/-- BANK_ERR_CNT: spec/11, block BANK. -/
def BANK_ERR_CNT.reg (b : Nat) : Nat := 0x20004c + 0x1000 * b
def BANK_ERR_CNT.UE (b : Nat) : Fld := ⟨(BANK_ERR_CNT.reg b), 16, 16⟩
def BANK_ERR_CNT.CE (b : Nat) : Fld := ⟨(BANK_ERR_CNT.reg b), 0, 16⟩

/-- COLD_ERR_SYN: spec/11, block COLD. -/
def COLD_ERR_SYN.reg (i : Nat) : Nat := 0x280040 + 0x10 * i
def COLD_ERR_SYN.KIND (i : Nat) : Fld := ⟨(COLD_ERR_SYN.reg i), 30, 2⟩
def COLD_ERR_SYN.POS1 (i : Nat) : Fld := ⟨(COLD_ERR_SYN.reg i), 23, 7⟩
def COLD_ERR_SYN.POS0 (i : Nat) : Fld := ⟨(COLD_ERR_SYN.reg i), 16, 7⟩
def COLD_ERR_SYN.SYN (i : Nat) : Fld := ⟨(COLD_ERR_SYN.reg i), 0, 16⟩

/-- COLD_ERR_ADDR_LO: spec/11, block COLD. -/
def COLD_ERR_ADDR_LO.reg (i : Nat) : Nat := 0x280044 + 0x10 * i
def COLD_ERR_ADDR_LO.ADDR (i : Nat) : Fld := ⟨(COLD_ERR_ADDR_LO.reg i), 0, 32⟩

/-- COLD_ERR_ADDR_HI: spec/11, block COLD. -/
def COLD_ERR_ADDR_HI.reg (i : Nat) : Nat := 0x280048 + 0x10 * i
def COLD_ERR_ADDR_HI.ADDR (i : Nat) : Fld := ⟨(COLD_ERR_ADDR_HI.reg i), 0, 16⟩

/-- COLD_ERR_CNT: spec/11, block COLD. -/
def COLD_ERR_CNT.reg (i : Nat) : Nat := 0x28004c + 0x10 * i
def COLD_ERR_CNT.UE (i : Nat) : Fld := ⟨(COLD_ERR_CNT.reg i), 16, 16⟩
def COLD_ERR_CNT.CE (i : Nat) : Fld := ⟨(COLD_ERR_CNT.reg i), 0, 16⟩

/-- DRAM_ERR_SYN: spec/11, block DRAM. -/
def DRAM_ERR_SYN.reg (i : Nat) : Nat := 0x380100 + 0x10 * i
def DRAM_ERR_SYN.KIND (i : Nat) : Fld := ⟨(DRAM_ERR_SYN.reg i), 30, 2⟩
def DRAM_ERR_SYN.POS1 (i : Nat) : Fld := ⟨(DRAM_ERR_SYN.reg i), 23, 7⟩
def DRAM_ERR_SYN.POS0 (i : Nat) : Fld := ⟨(DRAM_ERR_SYN.reg i), 16, 7⟩
def DRAM_ERR_SYN.SYN (i : Nat) : Fld := ⟨(DRAM_ERR_SYN.reg i), 0, 16⟩

/-- DRAM_ERR_ADDR_LO: spec/11, block DRAM. -/
def DRAM_ERR_ADDR_LO.reg (i : Nat) : Nat := 0x380104 + 0x10 * i
def DRAM_ERR_ADDR_LO.ADDR (i : Nat) : Fld := ⟨(DRAM_ERR_ADDR_LO.reg i), 0, 32⟩

/-- DRAM_ERR_ADDR_HI: spec/11, block DRAM. -/
def DRAM_ERR_ADDR_HI.reg (i : Nat) : Nat := 0x380108 + 0x10 * i
def DRAM_ERR_ADDR_HI.ADDR (i : Nat) : Fld := ⟨(DRAM_ERR_ADDR_HI.reg i), 0, 16⟩

/-- DRAM_ERR_CNT: spec/11, block DRAM. -/
def DRAM_ERR_CNT.reg (i : Nat) : Nat := 0x38010c + 0x10 * i
def DRAM_ERR_CNT.UE (i : Nat) : Fld := ⟨(DRAM_ERR_CNT.reg i), 16, 16⟩
def DRAM_ERR_CNT.CE (i : Nat) : Fld := ⟨(DRAM_ERR_CNT.reg i), 0, 16⟩

/-- SEAT_LATCH: spec/13, block SEAT. -/
def SEAT_LATCH.reg (s : Nat) (i : Nat) (j : Nat) : Nat := 0x580800 + 0x10000 * s + 0x40 * i + 0x4 * j
def SEAT_LATCH.DATA (s : Nat) (i : Nat) (j : Nat) : Fld := ⟨(SEAT_LATCH.reg s i j), 0, 32⟩

/-- SEAT_CMDRING: spec/13, block SEAT. -/
def SEAT_CMDRING.reg (s : Nat) (i : Nat) (j : Nat) : Nat := 0x581000 + 0x10000 * s + 0x40 * i + 0x4 * j
def SEAT_CMDRING.DATA (s : Nat) (i : Nat) (j : Nat) : Fld := ⟨(SEAT_CMDRING.reg s i j), 0, 32⟩

/-- SEAT_CMPRING: spec/13, block SEAT. -/
def SEAT_CMPRING.reg (s : Nat) (i : Nat) (j : Nat) : Nat := 0x582000 + 0x10000 * s + 0x10 * i + 0x4 * j
def SEAT_CMPRING.DATA (s : Nat) (i : Nat) (j : Nat) : Fld := ⟨(SEAT_CMPRING.reg s i j), 0, 32⟩

/-- SEAT_NTCRING: spec/13, block SEAT. -/
def SEAT_NTCRING.reg (s : Nat) (i : Nat) (j : Nat) : Nat := 0x583000 + 0x10000 * s + 0x10 * i + 0x4 * j
def SEAT_NTCRING.DATA (s : Nat) (i : Nat) (j : Nat) : Fld := ⟨(SEAT_NTCRING.reg s i j), 0, 32⟩

/-- SEAT_MSIX: spec/13, block SEAT. -/
def SEAT_MSIX.reg (s : Nat) (i : Nat) (j : Nat) : Nat := 0x584000 + 0x10000 * s + 0x10 * i + 0x4 * j
def SEAT_MSIX.DATA (s : Nat) (i : Nat) (j : Nat) : Fld := ⟨(SEAT_MSIX.reg s i j), 0, 32⟩

/-- SEAT_PBA: spec/13, block SEAT. -/
def SEAT_PBA.reg (s : Nat) (i : Nat) : Nat := 0x585000 + 0x10000 * s + 0x4 * i
def SEAT_PBA.DATA (s : Nat) (i : Nat) : Fld := ⟨(SEAT_PBA.reg s i), 0, 32⟩

/-- The registers of block SYS. -/
def regMapSYS : List RegGroup := [
  ⟨0x0, [], [⟨16, 16, .ro, false, []⟩, ⟨8, 8, .ro, false, []⟩, ⟨0, 8, .ro, false, []⟩]⟩,
  ⟨0x200, [], [⟨0, 1, .ro, false, []⟩]⟩,
  ⟨0x204, [], [⟨0, 25, .ro, false, []⟩]⟩,
  ⟨0x208, [], [⟨0, 25, .ro, false, []⟩]⟩,
  ⟨0x20c, [], [⟨0, 25, .ro, false, []⟩]⟩,
  ⟨0x210, [], [⟨16, 8, .rv, true, []⟩, ⟨8, 8, .rv, true, []⟩, ⟨0, 1, .rv, false, []⟩]⟩,
  ⟨0x214, [], [⟨0, 32, .rv, false, []⟩]⟩,
  ⟨0x218, [], [⟨0, 25, .rv, false, []⟩]⟩,
  ⟨0x4, [], [⟨8, 6, .ro, false, []⟩, ⟨4, 1, .ro, false, []⟩, ⟨3, 1, .rv, false, []⟩, ⟨2, 1, .ro, false, []⟩, ⟨0, 2, .ro, false, []⟩]⟩,
  ⟨0x8, [], [⟨24, 8, .wo, false, []⟩, ⟨0, 2, .wo, false, []⟩]⟩,
  ⟨0xc, [], [⟨0, 32, .ro, false, []⟩]⟩,
  ⟨0x10, [], [⟨0, 32, .ro, false, []⟩]⟩,
  ⟨0x14, [], [⟨0, 4, .rv, false, []⟩]⟩]

/-- The registers of block ARRAY. -/
def regMapARRAY : List RegGroup := [
  ⟨0x700000, [], [⟨0, 2, .ro, false, []⟩]⟩,
  ⟨0x700010, [(4, 4)], [⟨6, 2, .rw, false, [(0, 2)]⟩, ⟨4, 2, .rw, false, [(0, 2)]⟩, ⟨2, 2, .rw, false, [(0, 2)]⟩, ⟨0, 2, .rw, false, [(0, 2)]⟩]⟩,
  ⟨0x700100, [(64, 4)], [⟨17, 1, .rv, true, []⟩, ⟨16, 1, .rv, true, []⟩, ⟨15, 1, .rv, true, []⟩, ⟨9, 6, .rv, true, []⟩, ⟨8, 1, .rv, true, []⟩, ⟨2, 6, .rv, true, []⟩, ⟨0, 2, .rv, true, []⟩]⟩,
  ⟨0x700200, [], [⟨0, 32, .rv, true, []⟩]⟩,
  ⟨0x700204, [], [⟨0, 32, .rv, true, []⟩]⟩,
  ⟨0x700300, [], [⟨16, 4, .rw, false, [(0, 11)]⟩, ⟨10, 6, .rw, false, []⟩, ⟨6, 4, .rw, false, []⟩, ⟨0, 6, .rw, false, []⟩]⟩,
  ⟨0x700304, [], [⟨0, 32, .rw, false, []⟩]⟩,
  ⟨0x700308, [], [⟨2, 1, .rv, false, []⟩, ⟨1, 1, .w1c, false, []⟩, ⟨0, 1, .rv, false, []⟩]⟩,
  ⟨0x710000, [(64, 64)], [⟨3, 29, .rw, false, []⟩]⟩,
  ⟨0x710004, [(64, 64)], [⟨0, 16, .rw, false, []⟩]⟩,
  ⟨0x710008, [(64, 64)], [⟨3, 21, .rw, false, []⟩]⟩,
  ⟨0x71000c, [(64, 64)], [⟨8, 7, .rw, false, [(0, 64)]⟩, ⟨0, 6, .rw, false, []⟩]⟩,
  ⟨0x710010, [(64, 64)], [⟨24, 7, .rw, false, [(0, 64)]⟩, ⟨16, 3, .rw, false, [(0, 6)]⟩, ⟨0, 11, .rw, false, []⟩]⟩,
  ⟨0x710014, [(64, 64)], [⟨2, 1, .rw, false, []⟩, ⟨1, 1, .rw, false, []⟩, ⟨0, 1, .wo, false, []⟩]⟩,
  ⟨0x710018, [(64, 64)], [⟨8, 8, .rv, false, []⟩, ⟨2, 1, .w1c, false, []⟩, ⟨1, 1, .w1c, false, []⟩, ⟨0, 1, .rv, false, []⟩]⟩]

/-- The registers of block DEALER. -/
def regMapDEALER : List RegGroup := [
  ⟨0x1000c0, [(4, 65536)], [⟨16, 16, .ro, false, []⟩, ⟨0, 16, .ro, false, []⟩]⟩,
  ⟨0x1000c4, [(4, 65536)], [⟨0, 32, .ro, false, []⟩]⟩,
  ⟨0x1000c8, [(4, 65536)], [⟨16, 10, .rv, true, []⟩, ⟨12, 3, .rv, true, []⟩, ⟨8, 4, .rv, true, []⟩, ⟨0, 4, .rv, true, []⟩]⟩,
  ⟨0x1000cc, [(4, 65536)], [⟨31, 1, .rv, true, []⟩, ⟨14, 16, .rv, true, []⟩, ⟨0, 14, .rv, true, []⟩]⟩,
  ⟨0x1000d0, [(4, 65536)], [⟨0, 16, .rv, true, []⟩]⟩,
  ⟨0x1000e0, [(4, 65536)], [⟨0, 8, .ro, false, []⟩]⟩,
  ⟨0x1000e4, [(4, 65536)], [⟨17, 3, .rv, false, []⟩, ⟨16, 1, .rv, false, []⟩, ⟨8, 3, .rv, false, []⟩, ⟨0, 8, .rv, false, []⟩]⟩,
  ⟨0x1000e8, [(4, 65536)], [⟨0, 32, .rv, false, []⟩]⟩,
  ⟨0x1000ec, [(4, 65536)], [⟨0, 16, .rv, false, []⟩]⟩,
  ⟨0x100100, [(4, 65536)], [⟨0, 16, .ro, false, []⟩]⟩,
  ⟨0x100104, [(4, 65536)], [⟨27, 5, .ro, false, []⟩, ⟨0, 6, .ro, false, []⟩]⟩,
  ⟨0x100108, [(4, 65536)], [⟨27, 5, .ro, false, []⟩, ⟨17, 10, .ro, false, []⟩, ⟨0, 10, .ro, false, []⟩]⟩,
  ⟨0x10010c, [(4, 65536)], [⟨15, 1, .rw, false, []⟩, ⟨0, 10, .rw, false, []⟩]⟩,
  ⟨0x100120, [(4, 65536), (8, 4)], [⟨15, 1, .rw, false, []⟩, ⟨0, 10, .rw, false, []⟩]⟩,
  ⟨0x100110, [(4, 65536)], [⟨24, 3, .rv, false, []⟩, ⟨16, 8, .rv, false, []⟩, ⟨8, 8, .rv, false, []⟩, ⟨0, 8, .rv, false, []⟩]⟩,
  ⟨0x100140, [(4, 65536), (8, 4)], [⟨2, 16, .ro, false, []⟩]⟩,
  ⟨0x100160, [(4, 65536), (8, 4)], [⟨19, 1, .rv, false, []⟩, ⟨16, 3, .rv, false, []⟩, ⟨8, 8, .rv, false, []⟩, ⟨0, 8, .ro, false, []⟩]⟩,
  ⟨0x100200, [(4, 65536)], [⟨13, 1, .rv, false, []⟩, ⟨10, 3, .rv, true, []⟩, ⟨8, 2, .rv, false, []⟩, ⟨4, 3, .rv, false, []⟩, ⟨0, 3, .rv, false, []⟩]⟩,
  ⟨0x100204, [(4, 65536)], [⟨14, 1, .rv, true, []⟩, ⟨8, 6, .rv, true, []⟩, ⟨0, 3, .rv, true, []⟩]⟩,
  ⟨0x100208, [(4, 65536)], [⟨0, 25, .ro, false, []⟩]⟩,
  ⟨0x10020c, [(4, 65536)], [⟨0, 25, .rv, false, []⟩]⟩,
  ⟨0x100210, [(4, 65536)], [⟨0, 25, .rv, true, []⟩]⟩,
  ⟨0x100214, [(4, 65536)], [⟨16, 16, .rv, true, []⟩, ⟨0, 16, .rv, true, []⟩]⟩,
  ⟨0x100220, [(4, 65536), (3, 4)], [⟨0, 25, .rv, false, []⟩]⟩]

/-- The registers of block EVT. -/
def regMapEVT : List RegGroup := [
  ⟨0x30000, [(320, 4)], [⟨13, 6, .rwl, false, []⟩, ⟨11, 2, .rwl, false, []⟩, ⟨8, 3, .rwl, false, []⟩, ⟨5, 3, .rwl, false, []⟩, ⟨3, 2, .rwl, false, []⟩, ⟨0, 3, .rwl, false, [(0, 4)]⟩]⟩,
  ⟨0x30800, [(10, 4)], [⟨0, 32, .rv, false, []⟩]⟩,
  ⟨0x30840, [], [⟨0, 32, .rv, false, []⟩]⟩,
  ⟨0x30c00, [(320, 4)], [⟨0, 8, .rwl, false, []⟩]⟩]

/-- The registers of block CAM. -/
def regMapCAM : List RegGroup := [
  ⟨0x480000, [(8, 65536)], [⟨16, 13, .ro, false, []⟩, ⟨3, 1, .ro, false, []⟩, ⟨2, 1, .ro, false, []⟩, ⟨0, 2, .ro, false, [(0, 2)]⟩]⟩,
  ⟨0x480004, [(8, 65536)], [⟨31, 1, .ro, false, []⟩, ⟨0, 25, .ro, false, []⟩]⟩,
  ⟨0x480008, [(8, 65536)], [⟨16, 16, .rv, false, []⟩, ⟨14, 1, .w1c, false, []⟩, ⟨13, 1, .w1c, false, []⟩, ⟨12, 1, .w1c, false, []⟩, ⟨11, 1, .w1c, false, []⟩, ⟨10, 1, .w1c, false, []⟩, ⟨9, 1, .w1c, false, []⟩, ⟨8, 1, .w1c, false, []⟩, ⟨0, 1, .rv, false, []⟩]⟩,
  ⟨0x480010, [(8, 65536), (2, 16)], [⟨31, 1, .ro, false, []⟩, ⟨16, 8, .ro, false, []⟩, ⟨4, 6, .ro, false, []⟩, ⟨0, 4, .ro, false, []⟩]⟩,
  ⟨0x480014, [(8, 65536), (2, 16)], [⟨25, 1, .ro, false, []⟩, ⟨0, 25, .ro, false, []⟩]⟩,
  ⟨0x480018, [(8, 65536), (2, 16)], [⟨16, 13, .ro, false, []⟩, ⟨0, 13, .ro, false, []⟩]⟩,
  ⟨0x48001c, [(8, 65536), (2, 16)], [⟨16, 16, .rv, false, []⟩, ⟨8, 8, .rv, false, []⟩, ⟨4, 1, .rv, false, []⟩, ⟨3, 1, .rv, false, []⟩, ⟨2, 1, .rv, false, []⟩, ⟨0, 2, .rv, false, []⟩]⟩]

/-- The registers of block DSP. -/
def regMapDSP : List RegGroup := [
  ⟨0x400000, [(6, 65536)], [⟨19, 13, .ro, false, []⟩, ⟨18, 1, .ro, false, []⟩, ⟨16, 2, .ro, false, [(0, 1)]⟩, ⟨15, 1, .ro, false, []⟩, ⟨14, 1, .ro, false, []⟩, ⟨12, 2, .ro, false, [(0, 2)]⟩, ⟨8, 4, .ro, false, [(0, 7)]⟩, ⟨4, 2, .ro, false, [(0, 2)]⟩, ⟨0, 3, .ro, false, [(0, 3)]⟩]⟩,
  ⟨0x400004, [(6, 65536)], [⟨16, 14, .ro, false, []⟩, ⟨0, 14, .ro, false, []⟩]⟩,
  ⟨0x400008, [(6, 65536)], [⟨16, 14, .ro, false, []⟩, ⟨0, 14, .ro, false, []⟩]⟩,
  ⟨0x40000c, [(6, 65536)], [⟨31, 1, .ro, false, []⟩, ⟨16, 14, .ro, false, []⟩, ⟨0, 14, .ro, false, []⟩]⟩,
  ⟨0x400010, [(6, 65536)], [⟨31, 1, .ro, false, []⟩, ⟨16, 14, .ro, false, []⟩, ⟨0, 14, .ro, false, []⟩]⟩,
  ⟨0x400014, [(6, 65536)], [⟨0, 24, .ro, false, []⟩]⟩,
  ⟨0x400018, [(6, 65536)], [⟨0, 25, .ro, false, []⟩]⟩,
  ⟨0x400020, [(6, 65536), (3, 4)], [⟨0, 25, .ro, false, []⟩]⟩,
  ⟨0x40002c, [(6, 65536)], [⟨16, 6, .ro, false, []⟩, ⟨0, 12, .ro, false, []⟩]⟩,
  ⟨0x400040, [(6, 65536), (16, 4)], [⟨20, 1, .ro, false, []⟩, ⟨16, 2, .rv, true, []⟩, ⟨8, 6, .ro, false, []⟩, ⟨0, 6, .ro, false, []⟩]⟩,
  ⟨0x400080, [(6, 65536)], [⟨0, 16, .wo, false, []⟩]⟩,
  ⟨0x400084, [(6, 65536)], [⟨0, 16, .rv, false, []⟩]⟩,
  ⟨0x400090, [(6, 65536), (4, 4)], [⟨0, 32, .rv, false, []⟩]⟩,
  ⟨0x4000a0, [(6, 65536)], [⟨10, 1, .w1c, false, []⟩, ⟨9, 1, .w1c, false, []⟩, ⟨8, 1, .w1c, false, []⟩, ⟨1, 1, .rv, false, []⟩, ⟨0, 1, .rv, false, []⟩]⟩,
  ⟨0x4000c0, [(6, 65536), (16, 4)], [⟨16, 8, .ro, false, []⟩, ⟨8, 8, .ro, false, []⟩, ⟨0, 8, .ro, false, []⟩]⟩,
  ⟨0x400400, [(6, 65536), (256, 4)], [⟨20, 10, .ro, false, []⟩, ⟨10, 10, .ro, false, []⟩, ⟨0, 10, .ro, false, []⟩]⟩,
  ⟨0x400800, [(6, 65536), (32, 4)], [⟨0, 32, .ro, false, []⟩]⟩]

/-- The registers of block TELL. -/
def regMapTELL : List RegGroup := [
  ⟨0x510000, [(256, 16)], [⟨31, 1, .ro, false, []⟩, ⟨16, 9, .ro, false, []⟩, ⟨8, 6, .ro, false, []⟩, ⟨4, 3, .ro, false, [(0, 4)]⟩, ⟨0, 3, .ro, false, [(0, 5)]⟩]⟩,
  ⟨0x510004, [(256, 16)], [⟨16, 13, .ro, false, []⟩, ⟨0, 13, .ro, false, []⟩]⟩,
  ⟨0x510008, [(256, 16)], [⟨16, 11, .ro, false, []⟩, ⟨8, 3, .ro, false, []⟩, ⟨4, 3, .ro, false, []⟩, ⟨0, 3, .ro, false, []⟩]⟩,
  ⟨0x51000c, [(256, 16)], []⟩,
  ⟨0x520000, [(2048, 32)], [⟨16, 13, .ro, false, []⟩, ⟨0, 13, .ro, false, []⟩]⟩,
  ⟨0x520004, [(2048, 32)], [⟨0, 30, .ro, false, []⟩]⟩,
  ⟨0x520008, [(2048, 32)], [⟨0, 30, .ro, false, []⟩]⟩,
  ⟨0x52000c, [(2048, 32)], [⟨0, 8, .ro, false, []⟩]⟩,
  ⟨0x520010, [(2048, 32)], [⟨0, 32, .ro, false, []⟩]⟩,
  ⟨0x520014, [(2048, 32)], [⟨0, 32, .ro, false, []⟩]⟩,
  ⟨0x520018, [(2048, 32)], [⟨0, 17, .ro, false, []⟩]⟩,
  ⟨0x52001c, [(2048, 32)], []⟩,
  ⟨0x530000, [(64, 128)], [⟨31, 1, .ro, false, []⟩, ⟨16, 2, .rv, true, []⟩, ⟨0, 3, .ro, false, [(0, 5)]⟩]⟩,
  ⟨0x530004, [(64, 128)], [⟨16, 13, .ro, false, []⟩, ⟨0, 13, .ro, false, []⟩]⟩,
  ⟨0x530008, [(64, 128)], [⟨16, 9, .ro, false, []⟩, ⟨0, 9, .ro, false, []⟩]⟩,
  ⟨0x53000c, [(64, 128), (13, 4)], []⟩,
  ⟨0x530040, [(64, 128), (16, 4)], [⟨0, 32, .ro, false, []⟩]⟩,
  ⟨0x501000, [(64, 4)], [⟨4, 1, .rw, false, []⟩, ⟨0, 4, .rw, false, []⟩]⟩,
  ⟨0x501100, [], [⟨0, 1, .wo, false, []⟩]⟩,
  ⟨0x500400, [(256, 4)], [⟨9, 2, .rv, false, []⟩, ⟨8, 1, .rv, true, []⟩, ⟨4, 4, .rv, true, []⟩, ⟨3, 1, .rv, true, []⟩, ⟨2, 1, .rv, true, []⟩]⟩,
  ⟨0x500800, [(256, 4)], [⟨0, 3, .rv, true, []⟩]⟩,
  ⟨0x500c00, [(6, 4)], [⟨24, 8, .rv, true, []⟩, ⟨23, 1, .rv, true, []⟩, ⟨8, 8, .rv, true, []⟩, ⟨0, 8, .rv, true, []⟩]⟩,
  ⟨0x500c20, [(4, 4)], [⟨24, 8, .rv, true, []⟩, ⟨16, 8, .rv, true, []⟩, ⟨1, 1, .rv, false, []⟩, ⟨0, 1, .ro, false, []⟩]⟩]

/-- The registers of block BANK. -/
def regMapBANK : List RegGroup := [
  ⟨0x200000, [(33, 4096)], [⟨4, 1, .wo, false, []⟩, ⟨0, 4, .rw, false, [(0, 9)]⟩]⟩,
  ⟨0x200004, [(33, 4096)], [⟨0, 10, .ro, false, []⟩]⟩,
  ⟨0x200008, [(33, 4096)], [⟨21, 1, .rv, false, []⟩, ⟨16, 5, .rv, false, []⟩, ⟨3, 1, .rv, false, []⟩, ⟨0, 3, .rv, true, []⟩]⟩,
  ⟨0x20000c, [(33, 4096)], [⟨31, 1, .rw, false, []⟩, ⟨0, 16, .rv, false, []⟩]⟩,
  ⟨0x200040, [(33, 4096)], [⟨30, 2, .rv, true, []⟩, ⟨23, 7, .rv, true, []⟩, ⟨16, 7, .rv, true, []⟩, ⟨0, 16, .rv, true, []⟩]⟩,
  ⟨0x200044, [(33, 4096)], [⟨0, 32, .rv, true, []⟩]⟩,
  ⟨0x200048, [(33, 4096)], [⟨0, 16, .rv, true, []⟩]⟩,
  ⟨0x20004c, [(33, 4096)], [⟨16, 16, .rv, true, []⟩, ⟨0, 16, .rv, true, []⟩]⟩]

/-- The registers of block COLD. -/
def regMapCOLD : List RegGroup := [
  ⟨0x280000, [], [⟨16, 4, .ro, false, []⟩, ⟨0, 4, .ro, false, []⟩]⟩,
  ⟨0x280004, [], [⟨24, 8, .rv, true, []⟩, ⟨16, 8, .rv, true, []⟩, ⟨8, 3, .rv, true, []⟩, ⟨1, 1, .rv, false, []⟩, ⟨0, 1, .rv, false, []⟩]⟩,
  ⟨0x280040, [(2, 16)], [⟨30, 2, .rv, true, []⟩, ⟨23, 7, .rv, true, []⟩, ⟨16, 7, .rv, true, []⟩, ⟨0, 16, .rv, true, []⟩]⟩,
  ⟨0x280044, [(2, 16)], [⟨0, 32, .rv, true, []⟩]⟩,
  ⟨0x280048, [(2, 16)], [⟨0, 16, .rv, true, []⟩]⟩,
  ⟨0x28004c, [(2, 16)], [⟨16, 16, .rv, true, []⟩, ⟨0, 16, .rv, true, []⟩]⟩]

/-- The registers of block DRAM. -/
def regMapDRAM : List RegGroup := [
  ⟨0x380000, [], [⟨8, 4, .rv, true, []⟩, ⟨6, 1, .rv, true, []⟩, ⟨4, 2, .rv, true, []⟩, ⟨2, 1, .rv, false, []⟩, ⟨0, 2, .rv, false, []⟩]⟩,
  ⟨0x380004, [], [⟨16, 16, .rv, true, []⟩, ⟨0, 16, .rv, false, []⟩]⟩,
  ⟨0x380100, [(4, 16)], [⟨30, 2, .rv, true, []⟩, ⟨23, 7, .rv, true, []⟩, ⟨16, 7, .rv, true, []⟩, ⟨0, 16, .rv, true, []⟩]⟩,
  ⟨0x380104, [(4, 16)], [⟨0, 32, .rv, true, []⟩]⟩,
  ⟨0x380108, [(4, 16)], [⟨0, 16, .rv, true, []⟩]⟩,
  ⟨0x38010c, [(4, 16)], [⟨16, 16, .rv, true, []⟩, ⟨0, 16, .rv, true, []⟩]⟩]

/-- The registers of block TRELLIS. -/
def regMapTRELLIS : List RegGroup := [
  ⟨0x300000, [], [⟨16, 12, .rv, false, []⟩, ⟨0, 2, .rv, false, []⟩]⟩,
  ⟨0x300004, [], [⟨0, 1, .wo, false, []⟩]⟩,
  ⟨0x300008, [], [⟨20, 12, .rv, true, []⟩, ⟨10, 10, .rv, true, []⟩, ⟨0, 10, .rv, true, []⟩]⟩,
  ⟨0x30000c, [], [⟨0, 24, .rv, true, []⟩]⟩,
  ⟨0x300010, [], [⟨0, 24, .rw, false, []⟩]⟩,
  ⟨0x300100, [(24, 4)], [⟨16, 8, .rv, false, []⟩, ⟨4, 8, .rv, true, []⟩, ⟨0, 2, .rv, true, []⟩]⟩,
  ⟨0x300200, [(24, 4)], [⟨0, 32, .rv, true, []⟩]⟩,
  ⟨0x300300, [(24, 4)], [⟨16, 16, .rv, true, []⟩, ⟨0, 16, .rv, true, []⟩]⟩,
  ⟨0x300400, [(96, 4)], [⟨31, 1, .ro, false, []⟩, ⟨16, 11, .ro, false, []⟩, ⟨0, 11, .ro, false, []⟩]⟩,
  ⟨0x310000, [(24, 256), (64, 4)], [⟨8, 3, .rw, false, []⟩, ⟨0, 3, .rv, true, []⟩]⟩]

/-- The registers of block SEAT. -/
def regMapSEAT : List RegGroup := [
  ⟨0x580000, [(4, 65536)], [⟨31, 1, .ro, false, []⟩, ⟨27, 4, .ro, false, [(0, 8)]⟩, ⟨24, 3, .ro, false, [(0, 4)]⟩, ⟨21, 3, .ro, false, [(0, 4)]⟩, ⟨20, 1, .ro, false, []⟩, ⟨19, 1, .ro, false, []⟩, ⟨11, 8, .ro, false, []⟩, ⟨3, 8, .ro, false, []⟩]⟩,
  ⟨0x580004, [(4, 65536)], [⟨16, 6, .ro, false, []⟩, ⟨0, 16, .ro, false, []⟩]⟩,
  ⟨0x580008, [(4, 65536)], [⟨31, 1, .rv, false, []⟩, ⟨24, 7, .rv, false, []⟩, ⟨16, 8, .rv, false, []⟩, ⟨8, 8, .rv, false, []⟩, ⟨0, 8, .rv, false, []⟩]⟩,
  ⟨0x58000c, [(4, 65536)], [⟨8, 6, .ro, false, [(20, 36)]⟩, ⟨0, 4, .ro, false, [(0, 10)]⟩]⟩,
  ⟨0x580010, [(4, 65536)], [⟨8, 8, .rv, false, []⟩, ⟨0, 8, .rw, false, []⟩]⟩,
  ⟨0x580014, [(4, 65536)], [⟨8, 8, .rw, false, []⟩, ⟨0, 8, .rv, false, []⟩]⟩,
  ⟨0x580018, [(4, 65536)], [⟨8, 8, .rw, false, []⟩, ⟨0, 8, .rv, false, []⟩]⟩,
  ⟨0x580030, [(4, 65536)], [⟨31, 1, .ro, false, []⟩, ⟨0, 29, .ro, false, []⟩]⟩,
  ⟨0x580034, [(4, 65536)], [⟨31, 1, .ro, false, []⟩, ⟨0, 29, .ro, false, []⟩]⟩,
  ⟨0x580038, [(4, 65536)], [⟨31, 1, .ro, false, []⟩, ⟨0, 29, .ro, false, []⟩]⟩,
  ⟨0x580100, [(4, 65536), (16, 16)], [⟨0, 32, .ro, false, []⟩]⟩,
  ⟨0x580104, [(4, 65536), (16, 16)], [⟨31, 1, .ro, false, []⟩, ⟨20, 1, .ro, false, []⟩, ⟨19, 1, .ro, false, []⟩, ⟨0, 16, .ro, false, []⟩]⟩,
  ⟨0x580108, [(4, 65536), (16, 16)], [⟨0, 32, .ro, false, []⟩]⟩,
  ⟨0x58010c, [(4, 65536), (16, 16)], [⟨0, 16, .ro, false, []⟩]⟩,
  ⟨0x580200, [(4, 65536), (16, 4)], [⟨31, 1, .ro, false, []⟩, ⟨16, 3, .ro, false, [(0, 5)]⟩, ⟨0, 4, .ro, false, []⟩]⟩,
  ⟨0x580300, [(4, 65536), (10, 4)], [⟨0, 32, .w1c, false, []⟩]⟩,
  ⟨0x580340, [(4, 65536), (10, 4)], [⟨0, 32, .rw, false, []⟩]⟩,
  ⟨0x580380, [(4, 65536), (80, 4)], [⟨0, 6, .ro, false, []⟩, ⟨8, 6, .ro, false, []⟩, ⟨16, 6, .ro, false, []⟩, ⟨24, 6, .ro, false, []⟩]⟩,
  ⟨0x580500, [(4, 65536), (16, 8)], [⟨16, 16, .rv, true, []⟩, ⟨8, 8, .rv, true, []⟩, ⟨4, 1, .rv, true, []⟩, ⟨3, 1, .rv, true, []⟩, ⟨0, 3, .rv, true, []⟩]⟩,
  ⟨0x580504, [(4, 65536), (16, 8)], [⟨0, 32, .rv, true, []⟩]⟩,
  ⟨0x580800, [(4, 65536), (16, 64), (16, 4)], [⟨0, 32, .rv, false, []⟩]⟩,
  ⟨0x581000, [(4, 65536), (64, 64), (16, 4)], [⟨0, 32, .rw, false, []⟩]⟩,
  ⟨0x582000, [(4, 65536), (64, 16), (4, 4)], [⟨0, 32, .ro, false, []⟩]⟩,
  ⟨0x583000, [(4, 65536), (64, 16), (4, 4)], [⟨0, 32, .ro, false, []⟩]⟩,
  ⟨0x584000, [(4, 65536), (64, 16), (4, 4)], [⟨0, 32, .rw, false, []⟩]⟩,
  ⟨0x585000, [(4, 65536), (2, 4)], [⟨0, 32, .rv, false, []⟩]⟩]

/-- The registers of block GARD. -/
def regMapGARD : List RegGroup := [
  ⟨0x20000, [], [⟨30, 2, .rv, true, []⟩, ⟨24, 2, .rv, true, []⟩, ⟨16, 4, .rv, true, []⟩, ⟨0, 11, .rv, false, []⟩]⟩,
  ⟨0x20004, [], [⟨16, 16, .rv, true, []⟩, ⟨0, 16, .rv, true, []⟩]⟩,
  ⟨0x20100, [(12, 4)], [⟨16, 16, .ro, false, [(0, 64999)]⟩, ⟨0, 4, .ro, false, [(0, 14)]⟩]⟩,
  ⟨0x20200, [], [⟨0, 8, .rv, true, []⟩]⟩,
  ⟨0x20204, [], [⟨24, 1, .rv, true, []⟩, ⟨19, 5, .rv, true, []⟩, ⟨18, 1, .rv, true, []⟩, ⟨12, 6, .rv, true, []⟩]⟩,
  ⟨0x20300, [], [⟨28, 4, .rv, true, []⟩, ⟨24, 4, .rv, true, []⟩, ⟨20, 4, .rv, true, []⟩, ⟨0, 16, .rv, true, []⟩]⟩,
  ⟨0x20304, [], [⟨0, 32, .rv, true, []⟩]⟩,
  ⟨0x20308, [], [⟨0, 16, .rv, true, []⟩]⟩,
  ⟨0x20400, [(28, 4)], [⟨0, 32, .rv, true, []⟩]⟩]

/-- The registers of block ESP. -/
def regMapESP : List RegGroup := [
  ⟨0x600000, [], [⟨4, 2, .rv, false, []⟩, ⟨0, 3, .rv, false, []⟩]⟩,
  ⟨0x600004, [], [⟨0, 8, .ro, false, []⟩]⟩,
  ⟨0x600008, [], [⟨0, 18, .ro, false, []⟩]⟩,
  ⟨0x600010, [(4, 4)], [⟨8, 1, .ro, false, []⟩, ⟨0, 8, .ro, false, []⟩]⟩,
  ⟨0x600020, [], [⟨0, 32, .rv, false, []⟩]⟩,
  ⟨0x600024, [], [⟨0, 32, .rv, false, []⟩]⟩,
  ⟨0x600030, [(3, 4)], [⟨0, 32, .rv, false, []⟩]⟩,
  ⟨0x600040, [], [⟨2, 1, .wo, false, []⟩, ⟨1, 1, .rw, false, []⟩, ⟨0, 1, .rw, false, []⟩]⟩]

/-- The registers of block CLK. -/
def regMapCLK : List RegGroup := [
  ⟨0x10000, [], [⟨15, 1, .rv, false, []⟩, ⟨14, 1, .rv, false, []⟩, ⟨13, 1, .rv, false, []⟩, ⟨4, 6, .rv, false, []⟩, ⟨3, 1, .rv, false, []⟩, ⟨2, 1, .rv, false, []⟩, ⟨1, 1, .rv, false, []⟩, ⟨0, 1, .rv, false, []⟩]⟩,
  ⟨0x10010, [(7, 4)], [⟨16, 2, .rv, false, []⟩, ⟨8, 1, .rv, false, []⟩, ⟨1, 1, .rwl, false, []⟩, ⟨0, 1, .rwl, false, []⟩]⟩,
  ⟨0x10040, [(6, 8)], [⟨31, 1, .rv, false, []⟩, ⟨4, 2, .rwl, false, []⟩, ⟨0, 2, .rwl, false, []⟩]⟩,
  ⟨0x10044, [(6, 8)], [⟨28, 4, .rwl, false, [(0, 10)]⟩, ⟨0, 24, .rwl, false, []⟩]⟩,
  ⟨0x100a0, [], [⟨16, 10, .rv, false, []⟩, ⟨4, 12, .rwl, false, []⟩, ⟨0, 3, .rwl, false, [(0, 6)]⟩]⟩,
  ⟨0x10100, [(25, 4)], [⟨8, 5, .rv, false, []⟩, ⟨0, 1, .rw, false, []⟩]⟩,
  ⟨0x10200, [], [⟨8, 1, .rv, false, []⟩, ⟨2, 6, .rv, false, []⟩, ⟨1, 1, .rv, false, []⟩, ⟨0, 1, .rv, false, []⟩]⟩,
  ⟨0x10300, [], [⟨24, 8, .rv, false, []⟩, ⟨16, 8, .rv, false, []⟩, ⟨8, 4, .rv, false, []⟩, ⟨0, 4, .rv, false, []⟩]⟩]

/-- The registers of block LOAD. -/
def regMapLOAD : List RegGroup := [
  ⟨0x40000, [], [⟨8, 3, .rv, false, []⟩, ⟨4, 1, .rv, false, []⟩, ⟨0, 1, .rv, false, []⟩]⟩,
  ⟨0x40004, [], [⟨24, 5, .rv, false, []⟩, ⟨16, 8, .rv, false, []⟩, ⟨8, 8, .rv, false, []⟩, ⟨0, 8, .rv, false, []⟩]⟩,
  ⟨0x40010, [(8, 4)], [⟨0, 20, .rv, false, []⟩]⟩,
  ⟨0x40030, [], [⟨16, 16, .rv, false, []⟩, ⟨0, 16, .rv, false, []⟩]⟩]

/-- The registers of block PAD. -/
def regMapPAD : List RegGroup := [
  ⟨0x680000, [], [⟨17, 1, .rv, false, []⟩, ⟨16, 1, .rv, false, []⟩, ⟨0, 9, .rv, false, []⟩]⟩,
  ⟨0x680100, [(14, 4)], [⟨31, 1, .ro, false, []⟩, ⟨29, 2, .rv, true, []⟩, ⟨24, 2, .rv, true, []⟩, ⟨16, 8, .rv, true, []⟩, ⟨0, 11, .ro, false, []⟩]⟩,
  ⟨0x680200, [(96, 4)], [⟨8, 2, .ro, false, [(0, 2)]⟩, ⟨4, 3, .ro, false, []⟩, ⟨0, 4, .ro, false, [(0, 3)]⟩]⟩]

/-- The registers of the block a register offset falls in (R36). -/
def regMapAt (off : Nat) : List RegGroup :=
  if off < 0x10000 then regMapSYS
  else if off < 0x20000 then regMapCLK
  else if off < 0x30000 then regMapGARD
  else if off < 0x40000 then regMapEVT
  else if off < 0x50000 then regMapLOAD
  else if off < 0x100000 then []
  else if off < 0x140000 then regMapDEALER
  else if off < 0x200000 then []
  else if off < 0x221000 then regMapBANK
  else if off < 0x280000 then []
  else if off < 0x300000 then regMapCOLD
  else if off < 0x380000 then regMapTRELLIS
  else if off < 0x400000 then regMapDRAM
  else if off < 0x460000 then regMapDSP
  else if off < 0x480000 then []
  else if off < 0x500000 then regMapCAM
  else if off < 0x580000 then regMapTELL
  else if off < 0x5C0000 then regMapSEAT
  else if off < 0x600000 then []
  else if off < 0x680000 then regMapESP
  else if off < 0x700000 then regMapPAD
  else if off < 0x800000 then regMapARRAY
  else []

/-- Whether an offset, counted from a group's first register, is one of the group's registers. -/
def inDims : List (Nat × Nat) → Nat → Bool
  | [], r => r == 0
  | (n, st) :: ds, r => decide (r / st < n) && inDims ds (r % st)

/-- The register at an offset of the device register range; none where no register stands (R36: unmapped). -/
def regGroupAt (off : Nat) : Option RegGroup :=
  (regMapAt off).find? (fun g => decide (g.base ≤ off) && inDims g.dims (off - g.base))

/-- A field's specification holds at the offset: some register there has a field of that place. -/
def fieldAccess (off lo : Nat) : Option Acc :=
  (regGroupAt off).bind (fun g => (g.fields.find? (fun f => f.lo == lo)).map (fun f => f.acc))

/-- Registers whose value after reset is not zero, part 1. -/
def resetRegs1 : List (Nat × Word) := [
  (0x0, 0x92620a01),
  (0x10000, 0x1),
  (0x100a0, 0x2000001),
  (0x20100, 0x3e70002),
  (0x20104, 0x3e70002),
  (0x20108, 0x3e70002),
  (0x2010c, 0x3e70002),
  (0x20110, 0x3e70002),
  (0x20114, 0x3e70002),
  (0x20118, 0x270f0001),
  (0x2011c, 0x3e70007),
  (0x20124, 0x3e70007),
  (0x20128, 0x270f0001),
  (0x2012c, 0x270f0001),
  (0x1000e0, 0x80),
  (0x100100, 0xc003),
  (0x100200, 0x300),
  (0x1100e0, 0x80),
  (0x110100, 0xc003),
  (0x110200, 0x300),
  (0x1200e0, 0x80),
  (0x120100, 0xc003),
  (0x120200, 0x300),
  (0x1300e0, 0x80),
  (0x130100, 0xc003),
  (0x130200, 0x300),
  (0x200004, 0x1),
  (0x201004, 0x1),
  (0x202004, 0x1),
  (0x203004, 0x1),
  (0x204004, 0x1),
  (0x205004, 0x1),
  (0x206004, 0x1),
  (0x207004, 0x1),
  (0x208004, 0x1),
  (0x209004, 0x1),
  (0x20a004, 0x1),
  (0x20b004, 0x1),
  (0x20c004, 0x1),
  (0x20d004, 0x1)]

/-- Registers whose value after reset is not zero, part 2. -/
def resetRegs2 : List (Nat × Word) := [
  (0x20e004, 0x1),
  (0x20f004, 0x1),
  (0x210004, 0x1),
  (0x211004, 0x1),
  (0x212004, 0x1),
  (0x213004, 0x1),
  (0x214004, 0x1),
  (0x215004, 0x1),
  (0x216004, 0x1),
  (0x217004, 0x1),
  (0x218004, 0x1),
  (0x219004, 0x1),
  (0x21a004, 0x1),
  (0x21b004, 0x1),
  (0x21c004, 0x1),
  (0x21d004, 0x1),
  (0x21e004, 0x1),
  (0x21f004, 0x1),
  (0x220000, 0x9),
  (0x220004, 0x1),
  (0x30000c, 0xfac688),
  (0x300010, 0xfac688),
  (0x400000, 0x1000),
  (0x410000, 0x1000),
  (0x420000, 0x1000),
  (0x430000, 0x1000),
  (0x440000, 0x1000),
  (0x450000, 0x1000),
  (0x58000c, 0x1400),
  (0x59000c, 0x1400),
  (0x5a000c, 0x1400),
  (0x5b000c, 0x1400)]

/-- Every register whose value after a power-on reset is not zero, in rising order (the Reset columns). -/
def resetRegs : List (Nat × Word) := resetRegs1 ++ resetRegs2

end Sys2Proof.Machine
end

