-- ==== Sys2Proof/Machine/Sparse.lean ====
section
/-!
DEFINITION. Sparse maps: lists of (key, value) pairs whose keys rise strictly and which hold no entry equal to the
value an unlisted key reads as.  Equal maps are equal lists.  Memory, the device registers, the syndromes of stored
words, the hands and the mask rows of the tiles are held this way.
-/
namespace Sys2Proof.Machine

variable {α : Type}

/-- What key `k` reads as: the first entry listed for it, or the default `d`. -/
def Sparse.get (d : α) : List (Nat × α) → Nat → α
  | [], _ => d
  | (k', v) :: m, k => if k = k' then v else Sparse.get d m k

/-- The map with nothing listed at `k`. -/
def Sparse.erase : List (Nat × α) → Nat → List (Nat × α)
  | [], _ => []
  | (k', v) :: m, k => if k = k' then Sparse.erase m k else (k', v) :: Sparse.erase m k

/-- The map with `v` listed at `k`, the keys kept rising. -/
def Sparse.insert : List (Nat × α) → Nat → α → List (Nat × α)
  | [], k, v => [(k, v)]
  | (k', v') :: m, k, v =>
    if k < k' then (k, v) :: (k', v') :: m
    else if k = k' then (k, v) :: m
    else (k', v') :: Sparse.insert m k v

/-- A write: storing the default value removes the entry. -/
def Sparse.set [DecidableEq α] (d : α) (m : List (Nat × α)) (k : Nat) (v : α) : List (Nat × α) :=
  if v = d then Sparse.erase m k else Sparse.insert m k v

/-- Every key of the list is above `b`, rises strictly, and no value is the default. -/
def Sparse.wfFrom [DecidableEq α] (d : α) : Option Nat → List (Nat × α) → Bool
  | _, [] => true
  | b, (k, v) :: m => (match b with | none => true | some x => decide (x < k)) && !decide (v = d) && Sparse.wfFrom d (some k) m

/-- The canonical form of a sparse map. -/
def Sparse.wf [DecidableEq α] (d : α) (m : List (Nat × α)) : Bool := Sparse.wfFrom d none m

/-- Byte memory reads an unlisted byte as this value (spec/11, spec/17: the planes, the stores and the cold frame start at
zero; DRAM and scratch contents after power-on are a DESIGN CHOICE, log entry 5). -/
def memDefault : Sys2Proof.Byte := 0

/-- The canonical form of byte memory. -/
def Memory.wf (m : List Host.Cell) : Bool := Sparse.wf memDefault m

end Sys2Proof.Machine
end

