-- ==== Sys2Proof/Machine/State.lean ====
section
/-!
DEFINITION. The state of the GN9262 as plain data: the device registers, the byte memories (DRAM, scratch banks, nursery,
cold frame, planes, control stores, deal stores), the syndromes of their stored words, the four Dealer cores, the array's
mask rows, T planes and hands, the packets on the Trellis, and the working state of every block; the queue of waiting
commands; and the state after reset.
-/
namespace Sys2Proof.Machine

open Sys2Proof

/-- Why a step stops with a fault.  `dealerHalted`: a command that executes an instruction on a Dealer that a ROOT_PARITY
machine check has halted (R169); safe, the specification gives a halted Dealer no further instruction. -/
inductive Fault where
  | dealerHalted
  deriving DecidableEq, Repr

/-- Why a command is refused.  `notModelled`: raised by exec for a row without a meaning; safe. -/
inductive Refusal where
  | notModelled (mnemonic : String)
  deriving DecidableEq, Repr

/-- The registers of one priority level's bank (R177). -/
structure Bank where
  w : Vector Word 32
  f : Vector DWord 16
  pd : Vector Word 16
  sg : Vector Desc 8
  st : Word
  fpc : Word
  pc : Word
  xpc : Word
  xcause : Word
  xinfo : Word
  xvec : Word
  deriving DecidableEq, Repr

/-- One Dealer core: the eight banks and what belongs to the Dealer (R177, R99, R204, R213, R217, R218, R223, R224), with
the progress of its deal and its machine checks.  `wake` lists, for task j of level k at key 8k + j, the source number plus
one that its W1 receives when it next runs.  `cyc` counts the ACLK cycles its instructions were charged since the last tick
edge.  `tickEnd` is how
the tick in progress has ended so far, as W1 [1:0] encodes it (R242); `restartRun` counts consecutive ticks with a deal restart
(R425); `live` is set from the first deal start after start-up or a warm restart (R208).  `ramping` holds
from the tick edge, or from an array instruction that finds tiles lowered, until the ramp ends, and bit k of `arrayHeld` says that an
array instruction of level k waits at its boundary for that end (R262, R263).  `drainTo` is the value of `cyc` at which the tiles have executed every microword
and every result has returned (R209).  `again` is set while an instruction that a machine check cut has not ended its re-execution, and
`reload` while the root waits for a word to reload, `pendMC` then naming the machine check (R169, R172).  `lowering` says that the tiles
of the region are being lowered (R263), `startDue` that step 4 of the tick edge has not yet started or skipped L0 (R255), and `restarted`
that the Dealer made a deal restart in this tick (R425).  `cutDue` says that an overrun was detected and L0 executes nothing further
(R29, R257), and `recover` that the next deal start is at RECOVERY (R242). -/
structure DealerCore where
  banks : Vector Bank 8
  msp : Nat
  mspRec : Vector Nat 8
  win : Word
  stage : Vector Word 3
  dirty : Vector Nat 8
  filled : Vector Nat 8
  wake : List (Nat × Nat)
  pendMC : Option MCheck
  again : Option MCheck
  reload : Bool
  halted : Bool
  cyc : Nat
  tickEnd : Nat
  restartRun : Nat
  live : Bool
  ramping : Bool
  arrayHeld : Nat
  drainTo : Nat
  lowering : Bool
  startDue : Bool
  restarted : Bool
  cutDue : Bool
  recover : Bool
  deriving DecidableEq, Repr

/-- A bank as State.reset leaves it: every register zero (log entry 3). -/
def Bank.zero : Bank :=
  { w := Vector.replicate 32 0, f := Vector.replicate 16 0, pd := Vector.replicate 16 0, sg := Vector.replicate 8 0,
    st := 0, fpc := 0, pc := 0, xpc := 0, xcause := 0, xinfo := 0, xvec := 0 }

def DealerCore.zero : DealerCore :=
  { banks := Vector.replicate 8 Bank.zero, msp := 0, mspRec := Vector.replicate 8 0, win := 0,
    stage := Vector.replicate 3 0, dirty := Vector.replicate 8 0, filled := Vector.replicate 8 0, wake := [],
    pendMC := none, again := none, reload := false, halted := false, cyc := 0, tickEnd := 3, restartRun := 0,
    live := false, ramping := false, arrayHeld := 0, drainTo := 0,
    lowering := false, startDue := false, restarted := false, cutDue := false, recover := false }

/-- What the device has sent out of its pins and ports, oldest first; the model's own record (log entry 9). -/
inductive Out where
  | msix (seat vector : Nat)
  | status (agent : Agent) (code : Nat) (data : Nat)
  | gardEvent (source : Nat)
  | spi (port : Nat) (bytes : List Byte)
  | can (ctrl : Nat) (ide : Bool) (id : Nat) (bytes : List Byte)
  | pcieCfg (port answer : Nat) (v : Word)
  | tlp (seat status : Nat) (bytes : List Byte)
  | pixels (pipe line : Nat) (px : List Nat)
  | coded (pipe line : Nat) (bytes : List Byte)
  | pps (pipe : Nat) (words : List Word)
  deriving DecidableEq, Repr

/-- A tag in use (R360 to R362, R378): who holds it, the address and direction of its request, and whether its request has timed out, or
its requester's side has reset. -/
structure TagRec where
  ag : Agent
  addr : Nat := 0
  wr : Bool := false
  timedOut : Bool := false
  orphan : Bool := false
  deriving DecidableEq, Repr

/-- A packet of a corner-turn transfer: the transfer's row it belongs to, its address, its units, and the first unit's place in the
row. -/
structure CtuPart where
  row : Nat
  addr : Nat
  units : Nat
  first : Nat
  deriving DecidableEq, Repr

/-- A corner-turn transfer in progress (R66 to R72): its descriptor as GO took it, the packets not yet issued, those in flight under
their tags, the units that have arrived (key 64 × row + unit) with their poison, its status so far, and the row words last read for an
OUT transfer, each with whether it was uncorrectable. -/
structure CtuRec where
  out : Bool
  corner : Bool
  e : Nat
  npl : Nat
  pbase : Nat
  row0 : Nat
  count : Nat
  todo : List CtuPart
  flight : List (Nat × CtuPart)
  got : List (Nat × DWord × Bool)
  status : Nat
  poison : Bool
  row : Option (Nat × List (Nat × Bool)) := none
  deriving DecidableEq, Repr

/-- A frame a camera context is receiving (R270, R275, R279): its slot, frame number, the long packets counted so far, what is bad
about it (bit 0 header, 1 CRC, 2 count or length, 3 overrun), and the tick of the sync pulse its start followed. -/
structure OpenFrame where
  slot : Nat
  fnum : Nat
  lines : Nat
  bad : Nat
  pulse : Option Nat
  deriving DecidableEq, Repr

/-- A capture context: the open frame, the slot and number of the newest complete frame, and whether no edge has latched it yet. -/
structure CtxRec where
  opn : Option OpenFrame := none
  newest : Option (Nat × Nat) := none
  fresh : Bool := false
  deriving DecidableEq, Repr

/-- A camera line in the camera buffer, on its way to DRAM (R274). -/
structure CamLine where
  cam : Nat
  ctx : Nat
  slot : Nat
  row : Nat
  px : List (BitVec 16)
  deriving DecidableEq, Repr

/-- A box of the frame a pipe sends (R306 to R311): a tell-tale as drawn, or a deal box with its selected CRC.  `key` is the tell-tale's
number, or 256 plus the deal box's; `crc` runs over the pixels sent. -/
structure BoxRec where
  key : Nat
  icon : Nat
  cola : Nat
  colb : Nat
  x : Nat
  y : Nat
  w : Nat
  h : Nat
  gold : Nat
  crc : Nat := 0xFFFFFFFF
  ue : Bool := false
  notSent : Bool := false
  ended : Bool := false
  deriving DecidableEq, Repr

/-- A display pipe (R284 to R287, R306): the front buffer of each band and the buffer the frame in progress scans it from (0 to 2 are
the full buffers, 4 to 6 the early ones), whether a frame is in progress, the next active line, the frame's boxes, the icon words already
reported in it, the bands the last edge swapped, the layers committed in the tick before it, and whether the bands scanned hold content
of the deals after a warm restart or, for a start-up, of the full deals.  `sent` says that the pipe has begun the frame of this
tick (R290), or DSP0 as the tick source the frame of its last frame start; `enc` is the DSC encoder's state (R282); `sink` that the panel's CRC is started, `whole` that a frame has begun since, `sums` the component CRCs of the frame so
far, `count` the frames it has summed, and `last` the CRCs of the newest whole frame, not yet read back (R315). -/
structure PipeRec where
  front : List (Nat × Nat) := []
  scan : List (Nat × Nat) := []
  live : Bool := false
  line : Nat := 0
  boxes : List BoxRec := []
  seen : List Nat := []
  swapped : List Nat := []
  prevCmtd : Nat := 0
  told : Bool := false
  warmSwap : Bool := false
  warmShown : Bool := false
  sent : Bool := false
  enc : Nat := 0
  sink : Bool := false
  whole : Bool := false
  sums : Nat × Nat × Nat := (0, 0, 0)
  count : Nat := 0
  last : Option SinkCrc := none
  deriving DecidableEq, Repr

/-- A tell-tale's overlay phase and timer (R303, R306): the state its last frame start latched, frames since that state first showed, whether
its timeout has been started and when, and whether it had expired when an entry was applied that came before the check. -/
structure TellRec where
  shown : Nat := 0
  phase : Nat := 0
  running : Bool := false
  start : Nat := 0
  expired : Bool := false
  deriving DecidableEq, Repr

/-- A deal box's hand-off (R314): the selection in force, whether the box is skipped, and the hand-off committed in the tick. -/
structure DealBox where
  act : Bool := false
  sel : Nat := 0
  skip : Bool := false
  cmt : Option (Bool × Nat) := none
  deriving DecidableEq, Repr

/-- A safety notice decided and not yet posted (R313). -/
structure Notice where
  kind : Nat
  pipe : Nat
  id : Nat
  flags : Nat
  code : Nat
  data : Nat
  deriving DecidableEq, Repr

/-- A job in a seat's slot (R400 to R404): 0 ASSET_IMPORT, 1 EXPORT, 2 DRAM_FILL; its destination, source, length and pattern, its place
in the order of acceptance, the first failing status of its steps, whether the step of this tick has ended, and the bytes an ASSET_IMPORT has read, which its
SHA-384 covers (R402). -/
structure JobRec where
  kind : Nat
  seg : Nat
  off : Nat
  len : Nat
  src : Nat
  pat : Nat
  order : Nat
  fail : Nat := 0
  ended : Bool := false
  read : List Byte := []
  deriving DecidableEq, Repr

/-- A seat's mailbox beyond its registers: accepted posts not yet latched (the twelve words of bytes 16 to 63, by seat layer), its jobs by
slot, jobs accepted so far, and whether its watchdog has fired since the last command. -/
structure SeatRec where
  posts : List (Nat × List Word) := []
  jobs : List (Nat × JobRec) := []
  order : Nat := 0
  wdog : Bool := false
  deriving DecidableEq, Repr

/-- The Espalier fabric (R433 to R447): the macrocells' flip-flops, the pad inputs, the EI lines at 1, the FCLK phase, the tree
dividers' counts, the level of each wire an alternate clock takes at the last change, the COMB outputs and the flip-flops whose set or reset was
active as the wires last settled, and those whose set or reset last went inactive, with the time. -/
structure EspState where
  ff : Nat := 0
  pads : Nat := 0
  ei : Nat := 0
  phase : Nat := 0
  fg : List (Nat × Nat) := []
  alts : List (Nat × Bool) := []
  comb : Nat := 0
  ctl : Nat := 0
  fell : Nat := 0
  fellAt : Nat := 0
  deriving DecidableEq, Repr

/-- The function of a PCIe endpoint (R383, R384, R405): whether it is in D3hot, MSI-X enable and the function mask, memory and bus-master
enable of the Command register, and the addresses in BAR0 and in BAR2 with BAR3. -/
structure PcieFn where
  d3hot : Bool := false
  msixOn : Bool := false
  masked : Bool := false
  memOn : Bool := false
  busOn : Bool := false
  bar0 : Nat := 0
  bar2 : Nat := 0
  deriving DecidableEq, Repr

/-- A tracker (R413): the key of a location under the class it is judged by, and its recent strike times in ms, newest first. -/
structure Tracker where
  cls : Nat
  key : Nat
  times : List Nat
  deriving DecidableEq, Repr

/-- A column graft under way (R76): tile, logical column, dummy column, row words copied. -/
structure ColCopy where
  tile : Nat
  col : Nat
  dummy : Nat
  prog : Nat
  deriving DecidableEq, Repr

/-- The Gardener's working state (R410 to R430): its two queues with the millisecond each report arrived, oldest first; the trackers; the
transient locations not yet scrubbed, and the lasting ones (`held`); row words to locate by test; UE words of the image copy to repair; column copies; the bank the
nursery is to be grafted for, and whether the nursery itself is faulty; tile prunes, bank prunes, lost Dealers, those of them that a waiting
bank prune alone makes lost (Dealer, bank, whether a UE asked for it: R421), and the suit that take effect at the next edge switch; the replacements made since power-on, oldest first, and the edge modes set with them; the times of the warm restarts; the start-up state a
warm restart returns to; and the next row word of each tile's scrub pass, with the tiles whose pass has ended. -/
structure GardRec where
  queue : List (Report × Nat) := []
  ueQueue : List (Report × Nat) := []
  trackers : List Tracker := []
  scrubs : List Report := []
  held : List Report := []
  tests : List Nat := []
  repairs : List Nat := []
  copies : List ColCopy := []
  graft : Option Nat := none
  nurseryBad : Bool := false
  tilePrunes : List Nat := []
  bankPrunes : List Nat := []
  lost : List Dealer := []
  bankLost : List (Dealer × Nat × Bool) := []
  suit : Option Nat := none
  moves : List (Dealer × Dealer) := []
  edges : List (Nat × Word) := []
  warms : List Nat := []
  loadState : Nat := 0
  scrubPos : List (Nat × Nat) := []
  scrubDone : List Nat := []
  deriving DecidableEq, Repr

/-- The whole device: the registers by offset, the memories and the syndromes of their words, the Dealers, and the working state of every
block, grouped as the spec's chapters name them; the stimuli still to come are in `pending` (log entry 1).  `tZero` and `tbad` belong to the
T planes (R45, R72, R322), `netOld` is the number of packets in the network that left before the latest table swap (R372), and `recorded` the
requests delivered to a local port and not yet answered (R374). -/
structure State where
  regs : List (Nat × Word)
  mem : List Host.Cell
  tmem : List (Nat × DWord)
  tEpoch : Nat
  tZero : Bool
  tbad : List (Nat × Bool)
  syn : List (Nat × BitVec 16)
  dealers : Vector DealerCore 4
  evAcc : List (Nat × Nat)
  net : List Packet
  netOld : Nat
  recorded : List (Nat × Packet)
  rpt : List Report
  mrow : List (Nat × DWord)
  hands : List (Nat × HandLine)
  handSyn : List (Nat × BitVec 16)
  hstage : List (Nat × Word)
  ctus : List (Nat × CtuRec)
  tags : List (Nat × TagRec)
  closing : Option Nat
  raised : Nat
  ctlStage : List (Nat × DWord)
  eiPend : List (Nat × Bool)
  locks : Nat
  ledgerDirty : Bool
  ntcLost : Nat
  weedAt : Nat
  weedDone : Nat
  coldRetry : Bool
  scrubAt : Nat
  rsvRows : List Nat
  ctxs : List (Nat × CtxRec)
  camPend : List CamLine
  camPulse : List (Nat × Nat)
  fsync : Nat
  pipes : List (Nat × PipeRec)
  icons : List (Nat × DWord)
  iconSyn : List (Nat × BitVec 16)
  tells : List (Nat × TellRec)
  dboxes : List (Nat × DealBox)
  notices : List Notice
  overlayOff : Bool
  full : Bool
  lacks : Bool
  warm : Nat
  resetAt : Nat
  seats : List (Nat × SeatRec)
  pcie : List (Nat × PcieFn)
  canBad : Nat
  pxActive : Nat
  mainRead : Bool
  sectsDone : Nat
  esp : EspState
  inReset : Nat
  xtalOff : Nat
  fbRef : List (Nat × Nat)
  trimFirst : Bool
  canTrim : Nat
  started : Bool
  fallow : Bool
  railOut : Nat
  pocCuts : List (Nat × List Nat)
  lcReq : Option Nat
  keyHash : Nat
  keyFuse : Option Nat
  svnFuse : Option Nat
  gardTimer : Bool
  gard : GardRec
  ticking : Bool
  switching : Bool
  edgeHeld : Bool
  rampAll : Bool
  plan : Plan
  outs : List Out
  fresh : Nat
  now : Nat
  /-- The routes in force before the latest commit of a table swap, which the packets sent before it take: (64 × router + node, port) (R371). -/
  oldRoutes : List (Nat × Nat)
  /-- Bit k: the flash on xSPIk has been switched to 8D-8D-8D (R470). -/
  xspi : Nat
  /-- The clock switches of the image that the loader has still to make: domain, CLK_SELd (R458 to R460). -/
  selPlan : List (Nat × Nat)
  /-- XB has taken the place of an XA that failed to qualify (R453). -/
  onXB : Bool
  /-- The hottest junction stands above the shutdown threshold (R501). -/
  hot : Bool
  edgeAt : Nat
  pending : List Instr
  deriving DecidableEq, Repr

def State.reset : State :=
  { regs := resetRegs, mem := [], tmem := [], tEpoch := 0, tZero := true, tbad := [], syn := [], dealers := Vector.replicate 4 DealerCore.zero, evAcc := [], net := [], netOld := 0, recorded := [], rpt := [],
    mrow := [], hands := [], handSyn := [], hstage := [], ctus := [], tags := [], closing := none, raised := 0, ctlStage := [], eiPend := [], locks := 0, ledgerDirty := false, ntcLost := 0, weedAt := 0, weedDone := 0, coldRetry := false, scrubAt := 0, rsvRows := [],
    ctxs := [], camPend := [], camPulse := [], fsync := 0, pipes := [], icons := [], iconSyn := [], tells := [], dboxes := [], notices := [],
    overlayOff := false, full := false, lacks := false, warm := 0, resetAt := 0, seats := [], pcie := [], canBad := 0, pxActive := 0, mainRead := false, sectsDone := 0,
    esp := {}, inReset := 1, xtalOff := 0, fbRef := [], trimFirst := true, canTrim := 0, started := false, fallow := false, railOut := 0,
    pocCuts := [], lcReq := none, keyHash := 0, keyFuse := none, svnFuse := none, gardTimer := false, gard := {}, ticking := false, switching := false, edgeHeld := false, rampAll := false, plan := {},
    outs := [], fresh := 0, now := 0, oldRoutes := [], xspi := 0, selPlan := [], onXB := false, hot := false, edgeAt := 0, pending := [] }

end Sys2Proof.Machine
end

