-- ==== Sys2Proof/Machine/Ops.lean ====
section
/-!
DEFINITION. The named operations over the registers, the Dealers and the events that every family of commands shares:
reading and writing register fields, the banks of a Dealer, time, the event router (R208, R232, R234), reports to the
Gardener (R323, R410), notices to seats (R408), deal restarts (R174, R231), machine checks and traps (R169, R199, R200).
-/
namespace Sys2Proof.Machine

open Sys2Proof

/- Registers. -/

/-- A device register, by its offset in the device register range. -/
def State.reg (s : State) (off : Nat) : Word := Sparse.get 0 s.regs off

def State.setReg (s : State) (off : Nat) (v : Word) : State := { s with regs := Sparse.set 0 s.regs off v }

/-- The value of a register field. -/
def State.fget (s : State) (f : Fld) : Nat := getField (s.reg f.off) f.lo f.wid

/-- A register field set, modulo its size. -/
def State.fset (s : State) (f : Fld) (v : Nat) : State := s.setReg f.off (putField (s.reg f.off) f.lo f.wid v)

/-- Several register fields set, in order. -/
def State.fsets (s : State) (l : List (Fld × Nat)) : State := l.foldl (fun t p => t.fset p.1 p.2) s

/-- A counter field advanced by `k`, staying at its largest value once reached. -/
def State.bump (s : State) (f : Fld) (k : Nat) : State := s.fset f (satAdd f.wid (s.fget f) k)

/-- Bit `i` of a field. -/
def State.fbit (s : State) (f : Fld) (i : Nat) : Bool := natBit (s.fget f) i

def State.setFbit (s : State) (f : Fld) (i : Nat) (b : Bool) : State := s.fset f (setNatBit (s.fget f) i b)

/-- The bit of source `e` in an array of 32-bit registers whose first one is at `off`. -/
def bitFld (off e : Nat) : Fld := ⟨off + 4 * (e / 32), e % 32, 1⟩

/- Free values and outputs. -/

/-- Draws a free number for the use named `tag`. -/
def State.draw (s : State) (tag : Nat) : Nat × State := (Config.free tag s.fresh, { s with fresh := s.fresh + 1 })

/-- Records an output. -/
def State.emit (s : State) (o : Out) : State := { s with outs := s.outs ++ [o] }

/- Dealers. -/

/-- The four Dealers. -/
def allDealers : List Dealer := [0, 1, 2, 3]

def State.dl (s : State) (n : Dealer) : DealerCore := s.dealers.get n

def State.setDl (s : State) (n : Dealer) (d : DealerCore) : State := { s with dealers := s.dealers.set n d }

/-- The current level of a Dealer. -/
def State.lvl (s : State) (n : Dealer) : Fin 8 := Fin.ofNat 8 (s.fget (LVLSTAT.CUR n))

def State.bankAt (s : State) (n : Dealer) (k : Fin 8) : Bank := (s.dl n).banks.get k

def State.setBankAt (s : State) (n : Dealer) (k : Fin 8) (b : Bank) : State :=
  s.setDl n { s.dl n with banks := (s.dl n).banks.set k b }

/-- The bank of the current level. -/
def State.bank (s : State) (n : Dealer) : Bank := s.bankAt n (s.lvl n)

def State.setBank (s : State) (n : Dealer) (b : Bank) : State := s.setBankAt n (s.lvl n) b

/-- The kind of a level (LVLCFG): 0 UNUSED, 1 HANDLER, 2 TASK, 3 fixed. -/
def State.levelKind (s : State) (n : Dealer) (k : Nat) : Nat := natBits (s.fget (LVLCFG.KIND n)) (2 * k) 2

def State.levelActive (s : State) (n : Dealer) (k : Nat) : Bool := s.fbit (LVLSTAT.ACTIVE n) k

/-- A dirty bit of R218 set at the current level: 0 W16 to W23, 1 W24 to W31, 2 F, 3 PD. -/
def State.markDirty (s : State) (n : Dealer) (g : Nat) : State :=
  let d := s.dl n
  let k := s.lvl n
  s.setDl n { d with dirty := d.dirty.set k (setNatBit (d.dirty.get k) g true) }

/-- Wn as read: W0 reads 0 (R177). -/
def State.rdW (s : State) (n : Dealer) (r : Nat) : Word := if r = 0 then 0 else (s.bank n).w.get (Fin.ofNat 32 r)

/-- A write of Wn: a write of W0 is discarded (R177); the group's dirty bit is set (R218). -/
def State.wrW (s : State) (n : Dealer) (r : Nat) (v : Word) : State :=
  if r = 0 then s else
  let b := s.bank n
  let s1 := s.setBank n { b with w := b.w.set (Fin.ofNat 32 r) v }
  if r < 16 then s1 else if r < 24 then s1.markDirty n 0 else s1.markDirty n 1

def State.rdF (s : State) (n : Dealer) (r : Nat) : DWord := (s.bank n).f.get (Fin.ofNat 16 r)

def State.wrF (s : State) (n : Dealer) (r : Nat) (v : DWord) : State :=
  let b := s.bank n
  (s.setBank n { b with f := b.f.set (Fin.ofNat 16 r) v }).markDirty n 2

def State.rdPD (s : State) (n : Dealer) (r : Nat) : Word := (s.bank n).pd.get (Fin.ofNat 16 r)

def State.wrPD (s : State) (n : Dealer) (r : Nat) (v : Word) : State :=
  let b := s.bank n
  (s.setBank n { b with pd := b.pd.set (Fin.ofNat 16 r) v }).markDirty n 3

def State.rdSG (s : State) (n : Dealer) (r : Nat) : Desc := (s.bank n).sg.get (Fin.ofNat 8 r)

def State.wrSG (s : State) (n : Dealer) (r : Nat) (v : Desc) : State :=
  let b := s.bank n
  s.setBank n { b with sg := b.sg.set (Fin.ofNat 8 r) v }

/-- A pair: the low half in Wd (R180). -/
def State.rdPair (s : State) (n : Dealer) (d : Nat) : Nat := (s.rdW n d).toNat + 2 ^ 32 * (s.rdW n (d + 1)).toNat

def State.wrPair (s : State) (n : Dealer) (d : Nat) (v : Nat) : State :=
  (s.wrW n d (BitVec.ofNat 32 v)).wrW n (d + 1) (BitVec.ofNat 32 (v / 2 ^ 32))

def State.st (s : State) (n : Dealer) : Word := (s.bank n).st

def State.setSt (s : State) (n : Dealer) (v : Word) : State := s.setBank n { s.bank n with st := v }

def State.setFpc (s : State) (n : Dealer) (v : Word) : State := s.setBank n { s.bank n with fpc := v }

/-- The PC of the current level. -/
def State.pc (s : State) (n : Dealer) : Nat := (s.bank n).pc.toNat

def State.setPc (s : State) (n : Dealer) (v : Nat) : State := s.setBank n { s.bank n with pc := BitVec.ofNat 32 v }

/-- Charges cycles to a Dealer outside the end of an instruction. -/
def State.spend (s : State) (n : Dealer) (k : Nat) : State := s.setDl n { s.dl n with cyc := (s.dl n).cyc + k }

/-- Charges cycles to a Dealer as an instruction ends: a re-execution after a machine check ends with it (R169). -/
def State.charge (s : State) (n : Dealer) (k : Nat) : State :=
  s.setDl n { s.dl n with cyc := (s.dl n).cyc + k, again := none }

/-- The ACLK cycles a Dealer counts from the tick edge (log entry 7). -/
def State.sinceEdge (s : State) (n : Dealer) : Nat := (s.now - s.edgeAt) + (s.dl n).cyc

/-- Whether level k is privileged: L7 always is (R181). -/
def State.privAt (s : State) (n : Dealer) (k : Nat) : Bool := k == 7 || s.fbit (LVLPRIV.PRIV n) k

/-- Whether the current level is privileged. -/
def State.priv (s : State) (n : Dealer) : Bool := s.privAt n (s.lvl n).val

/- The array's regions (R20, R40). -/

/-- The role of a Dealer (GARD_DLR): 0 DRIVING, 1 STANDBY, 2 RETIRED, 3 TOLERATED. -/
def State.role (s : State) (n : Dealer) : Nat := natBits (s.fget GARD_DLR.ROLE) (2 * n.val) 2

def State.setRole (s : State) (n : Dealer) (r : Nat) : State :=
  let v := s.fget GARD_DLR.ROLE
  s.fset GARD_DLR.ROLE (v - natBits v (2 * n.val) 2 * 4 ^ n.val + r % 4 * 4 ^ n.val)

/-- A Dealer that drives tiles: DRIVING, or TOLERATED after a fault without a replacement (R424). -/
def State.drives (s : State) (n : Dealer) : Bool := s.role n == 0 || s.role n == 3

/-- The partner of a Dealer in SPLIT (R20). -/
def partner (n : Dealer) : Dealer := Fin.ofNat 4 (if n.val % 2 = 0 then n.val + 1 else n.val - 1)

/-- The quadrants of a Dealer's region, as a mask of four bits (R20, R251). -/
def State.region (s : State) (n : Dealer) : Nat :=
  if !s.drives n then 0
  else match s.fget ARRAY_MODE.MODE with
    | 0 => 2 ^ n.val + (if s.fbit (DEAL_COND.COND n) 1 then 2 ^ (partner n).val else 0)
    | 1 => if n.val < 2 then 3 else 12
    | _ => 15

/-- The quadrant of a tile: tiles are numbered 8 × row + column, quadrant 0 north-west, 1 north-east, 2 south-west,
3 south-east. -/
def tileQuad (t : Nat) : Nat := (if t / 8 < 4 then 0 else 2) + (if t % 8 < 4 then 0 else 1)

/-- A tile the Gardener has pruned (R78). -/
def State.pruned (s : State) (t : Nat) : Bool :=
  if t < 32 then s.fbit ARRAY_PRUNE_LO.PRUNED t else s.fbit ARRAY_PRUNE_HI.PRUNED (t - 32)

/-- Dealer n is in its fallow window: from its DEND, or from an edge that starts no deal, to the next tick edge (R264). -/
def State.dealerFallow (s : State) (n : Dealer) : Bool :=
  (s.fget (DEAL_STAT.PHASE n) == 4 || s.fget (DEAL_STAT.PHASE n) == 5) && !s.switching && !(s.dl n).startDue

/- The availability ledger (R431, R432). -/

/-- Adds to a field of a ledger word, which stays at its largest value once reached. -/
def State.ledger (s : State) (w lo wid k : Nat) : State :=
  { s.bump ⟨GARD_LEDGER.reg w, lo, wid⟩ k with ledgerDirty := true }

/- Events. -/

/-- The mesh node of each seat port, by the CMDP code of SEAT_CFG (R353). -/
def portNode (cmdp : Nat) : Nat := match cmdp with | 0 => 16 | 1 => 21 | 2 => 21 | _ => 24

/-- The event router's packet that carries an event to a seat's port (R358). -/
def evtPacket (node source : Nat) : Packet :=
  { dest := node, src := 16, cmd := 4, qos := 0, count := 0, tag := 0, evnum := source }

/-- A source routed to a seat: its bit is set at the register hub, or the event merges; an event arms when its bit goes from
0 to 1 unmasked, and an EVT packet then carries it to the seat's command port, and to its notice port where that is another port of the
Trellis (R234, R358, R405). -/
def State.seatEvent (s : State) (k e : Nat) : State :=
  let f := bitFld (SEAT_EVP.reg k 0) e
  if s.fget f = 1 then s.bump EVT_MERGE.COUNT 1
  else
    let s1 := s.fset f 1
    if s.fget (bitFld (SEAT_EVM.reg k 0) e) = 1 then s1
    else
      let c := s.fget (SEAT_CFG.CMDP k)
      { s1 with net := s1.net ++ evtPacket (portNode c) e :: (if c < 3 ∧ s.fget (SEAT_CFG.NTCP k) ≠ 0 then [evtPacket 24 e] else []) }

/-- An event source is asserted (R208, R232, R234): delivered to its one destination, merged, or dropped. -/
def State.event (s : State) (e : Nat) : State :=
  match s.fget (EVT_ROUTE.KIND e) with
  | 1 =>
    let f := bitFld (EVT_PEND.reg 0) e
    if s.fget f = 1 then s.bump EVT_MERGE.COUNT 1 else s.fset f 1
  | 2 => s.seatEvent (s.fget (EVT_ROUTE.SEAT e)) e
  | 3 => s.emit (.gardEvent e)
  | 4 => if Sparse.get false s.eiPend e then s.bump EVT_MERGE.COUNT 1 else { s with eiPend := Sparse.set false s.eiPend e true }
  | _ => s.bump EVT_MERGE.COUNT 1

/-- A Dealer event: EV064 + 8n + k. -/
def State.dealerEvent (s : State) (n : Dealer) (k : Nat) : State := s.event (64 + 8 * n.val + k)

/-- A report leaves its block for the Gardener (R323, R410). -/
def State.report (s : State) (r : Report) : State := { s with rpt := s.rpt ++ [r] }

/- Notices (R408). -/

/-- The 16 bytes of a notice, its CRC included. -/
def noticeBytes (kind pipe id flags code tick data : Nat) : List Byte :=
  let b := bytesOfNat 4 (kind + 256 * pipe + 65536 * id + 16777216 * flags) ++ bytesOfNat 4 (code + 65536 * tick) ++ bytesOfNat 4 data
  b ++ bytesOfNat 4 (crc32 b)

/-- Writes bytes, four to a word, into registers from `off` on. -/
def State.putBytes (s : State) (off : Nat) : List Byte → State
  | b0 :: b1 :: b2 :: b3 :: bs => (s.setReg off (BitVec.ofNat 32 (natOfBytes [b0, b1, b2, b3]))).putBytes (off + 4) bs
  | _ => s

/-- The bytes of `n` registers from `off` on. -/
def State.getBytes (s : State) (off : Nat) : Nat → List Byte
  | 0 => []
  | n + 1 => bytesOfNat 4 (s.reg off).toNat ++ s.getBytes (off + 4) n

/-- Entries a ring holds (R391). -/
def ringCount (pi ci : Nat) : Nat := (pi + 256 - ci) % 256

/-- The function of seat k's PCIe port. -/
def State.pcieFn (s : State) (k : Nat) : PcieFn := Sparse.get {} s.pcie (s.fget (SEAT_CFG.CMDP k))

/-- Vector v of seat k is masked: by the function mask, or by bit 0 of its control word, which the table holds complemented, so that a vector
nothing has programmed is masked, as the standard resets it (R405, log entry 142). -/
def State.vectorMasked (s : State) (k v : Nat) : Bool :=
  (s.pcieFn k).masked || !natBit (s.reg (SEAT_MSIX.reg k v 3)).toNat 0

/-- MSI-X vector v of a seat's PCIe port: nothing while the port is down, as it is in D3hot, or MSI-X is not enabled; pending in the PBA while
the vector is masked, or the function may not make memory writes (R383, R384, R405, R406). -/
def State.msix (s : State) (k v : Nat) : State :=
  if s.fget (SEAT_STAT.PORTUP k) = 0 ∨ (s.pcieFn k).msixOn = false then s
  else if s.vectorMasked k v ∨ (s.pcieFn k).busOn = false then s.fset ⟨SEAT_PBA.reg k (v / 32), v % 32, 1⟩ 1
  else s.emit (.msix k v)

/-- A notice is posted to seat `k`, or lost and counted when its ring is full; `lostMark` bit of the next notice posted after a
loss (R408).  The flag LOST of the notice is set when notices were lost before it. -/
def State.postNotice (s : State) (k kind pipe id flags code data : Nat) : State :=
  let pi := s.fget (SEAT_NTCIDX.PI k)
  if ringCount pi (s.fget (SEAT_NTCIDX.CI k)) ≥ 64 then
    { s.bump (SEAT_STAT.NLOST k) 1 with ntcLost := setNatBit s.ntcLost k true }
  else
    let fl := flags + (if natBit s.ntcLost k then 2 else 0)
    let s1 := s.putBytes (SEAT_NTCRING.reg k (pi % 64) 0)
      (noticeBytes kind pipe id fl code (s.fget TICK_COUNT.COUNT % 65536) data)
    let s2 := { s1.fset (SEAT_NTCIDX.PI k) (pi + 1) with ntcLost := setNatBit s.ntcLost k false }
    if s.fget (SEAT_CFG.CMDP k) < 3 ∧ s.fget (SEAT_CFG.NTCP k) = 0 then s2.msix k 1 else s2

/-- A safety notice to every seat that subscribes to them (R313). -/
def State.safetyNotice (s : State) (kind pipe id flags code data : Nat) : State :=
  (rangeFrom 0 4).foldl (fun t k =>
    if t.fget (SEAT_CFG.EN k) = 1 ∧ t.fget (SEAT_CFG.SAFE k) = 1 then t.postNotice k kind pipe id flags code data else t) s

/- Deal restarts, machine checks and traps. -/

/-- A deal restart (R174, R231): every active level ends, EMBUSY clears, the tasks' states in the banks are discarded, no W1 waits for a task, DEAL_USED
reads all ones, the restart is counted, and the next deal starts at RECOVERY.  A restart before step 4 of the edge leaves PHASE at INTAKE
(log entry 140). -/
def State.dealRestart (s : State) (n : Dealer) : State :=
  let s0 := if (s.dl n).startDue then s.fset (DEAL_STAT.PHASE n) 0 else s
  let s1 := s0.fsets [(LVLSTAT.ACTIVE n, 0), (LVLSTAT.EMBUSY n, 0), (LVLSTAT.CUR n, 0), (DEAL_USED.CYCLES n, ones 25)]
  let s2 := (rangeFrom 0 8).foldl (fun t k => t.fset (TASKSTAT.RESV n k) 0) s1
  let s3 := s2.setDl n { s2.dl n with tickEnd := 2, recover := true, cutDue := false, arrayHeld := 0, live := false, restarted := true, startDue := false, pendMC := none, again := none, reload := false, filled := Vector.replicate 8 0,
                                      dirty := Vector.replicate 8 0, wake := [] }
  let s4 := (s3.bump (DEAL_OVR.RESTARTS n) 1).ledger 2 16 16 1
  s4.dealerEvent n 3

/-- A machine check waits for its entry (R169). -/
def State.raiseMC (s : State) (n : Dealer) (m : MCheck) : State := s.setDl n { s.dl n with pendMC := some m }

/-- A trap of R201: its code, what XINFO receives, the segment register, and FPC where the trap writes it (R141, R143). -/
structure Trap where
  code : Nat
  info : Word
  seg : Nat := 0
  fpc : Option Word := none
  deriving DecidableEq, Repr

def trapIllOpcode : Nat := 1
def trapIllReserved : Nat := 2
def trapIllPrefix : Nat := 3
def trapSegLimit : Nat := 4
def trapSegRights : Nat := 5
def trapSegAbsent : Nat := 6
def trapBounds : Nat := 7
def trapFP : Nat := 8
def trapArrayFP : Nat := 9
def trapSaveExhausted : Nat := 10
def trapPriv : Nat := 11
def trapDivZero : Nat := 12

/-- Trap entry at the current level (R199): XPC, XCAUSE and XINFO are written, TRP is set, execution continues at XVEC, 4 cycles. -/
def State.enterTrap (s : State) (n : Dealer) (t : Trap) (extw rept : Bool) : State :=
  let b := s.bank n
  let cause := t.code + 256 * t.seg + 2048 * b2n rept + 4096 * b2n extw
  (s.setBank n { b with xpc := b.pc, xcause := BitVec.ofNat 32 cause, xinfo := t.info,
                        st := putField b.st 15 1 1, pc := b.xvec,
                        fpc := t.fpc.getD b.fpc }).charge n 4

/-- A trap raised by an instruction (R199, R200): with TRP set, a trap other than SAVE_EXHAUSTED makes a deal restart and
raises the trap-nest event.  DESIGN CHOICE (log entry 133): a floating-point trap that TRP keeps from being delivered leaves FPC as it was,
while an array instruction's flag planes hold what it wrote. -/
def State.trap (s : State) (n : Dealer) (t : Trap) (extw rept : Bool) : State :=
  if stTRP (s.st n) && t.code != trapSaveExhausted then (s.dealRestart n).dealerEvent n 1
  else s.enterTrap n t extw rept

end Sys2Proof.Machine
end

