-- ==== Sys2Proof/Machine/WordCode.lean ====
section
/-!
DEFINITION. The word code of spec/11 (R318 to R323): check bits, syndromes, decoding, and the reports of a reader.  The
state keeps, for each stored word, its 64 data bits as stored and the syndrome S a reader at the word's own address forms;
a word with valid check bits has syndrome 0, and a poisoned word has syndrome 0x8003 (R322).
-/
namespace Sys2Proof.Machine

open Sys2Proof

/-- g(x) = (x + 1) · m1(x) · m3(x), with m1 = x⁷ + x³ + 1 and m3 = x⁷ + x³ + x² + x + 1 (R319). -/
def codePoly : Nat := 0xC599

/-- One multiplication by x modulo g(x). -/
def mulX (r : Nat) : Nat := if 2 ^ 14 ≤ r then (2 * r) ^^^ codePoly else 2 * r

/-- x^n mod g(x). -/
def xPow : Nat → Nat
  | 0 => 1
  | n + 1 => mulX (xPow n)

/-- The remainder of Σ bit i of `v` · x^(off + i), summed over `n` bits. -/
def remBits (v off : Nat) : Nat → Nat
  | 0 => 0
  | n + 1 => (if natBit v n then xPow (off + n) else 0) ^^^ remBits v off n

/-- The check bits C[15:0] of data `d` at folded address `a` (R319). -/
def checkBits (d a : Nat) : Nat :=
  (remBits d 15 64 ^^^ remBits (a / 8) 79 45) + 2 ^ 15 * b2n (parityN (a / 8) 45)

/-- The syndrome of the single stored bit at position k (R320). -/
def bitSyndrome (k : Nat) : Nat := if k < 64 then xPow (k + 15) else if k < 79 then 2 ^ (k - 64) else 2 ^ 15

/-- The syndrome of a poisoned word (R322). -/
def poisonSyn : BitVec 16 := 0x8003

/-- The outcome of decoding (R320). -/
inductive Kind where
  | clean
  | ce1 (p : Nat)
  | ce2 (p q : Nat)
  | ue
  deriving DecidableEq, Repr

/-- The pair of positions whose syndromes give `s`, the first from `p` on. -/
def findPair (s : Nat) : List Nat → Option (Nat × Nat)
  | [] => none
  | p :: ps =>
    match ps.find? (fun q => bitSyndrome p ^^^ bitSyndrome q == s) with
    | some q => some (p, q)
    | none => findPair s ps

/-- Decoding of a syndrome (R320). -/
def decodeSyn (s : Nat) : Kind :=
  if s = 0 then .clean
  else match (rangeFrom 0 80).find? (fun p => bitSyndrome p == s) with
    | some p => .ce1 p
    | none => match findPair s (rangeFrom 0 80) with
      | some (p, q) => .ce2 p q
      | none => .ue

/-- Data with the bit at a position inverted; a check-bit position leaves the data. -/
def flipPos (d p : Nat) : Nat := if p < 64 then d ^^^ 2 ^ p else d

/-- Data as a reader uses it. -/
def correct (d : Nat) : Kind → Nat
  | .clean => d
  | .ce1 p => flipPos d p
  | .ce2 p q => flipPos (flipPos d p) q
  | .ue => d

/- Byte memory. -/

/-- One byte of memory, by its Trellis address. -/
def State.byte (s : State) (a : Nat) : Byte := Sparse.get memDefault s.mem a

def State.setByte (s : State) (a : Nat) (b : Byte) : State := { s with mem := Sparse.set memDefault s.mem a b }

/-- `n` bytes from address `a` up. -/
def State.bytes (s : State) (a : Nat) : Nat → List Byte
  | 0 => []
  | n + 1 => s.byte a :: s.bytes (a + 1) n

/-- Bytes stored from address `a` up. -/
def State.setBytes (s : State) (a : Nat) : List Byte → State
  | [] => s
  | b :: bs => (s.setByte a b).setBytes (a + 1) bs

/-- The data of the stored word that holds address `a`. -/
def State.wordData (s : State) (a : Nat) : Nat := natOfBytes (s.bytes (a / 8 * 8) 8)

/-- The syndrome of the stored word that holds address `a`. -/
def State.wordSyn (s : State) (a : Nat) : BitVec 16 := Sparse.get 0 s.syn (a / 8)

/-- The syndrome of the word with word number `k` set. -/
def State.setSyn (s : State) (k : Nat) (v : BitVec 16) : State := { s with syn := Sparse.set 0 s.syn k v }

/-- A word stored with valid check bits. -/
def State.putWord (s : State) (a d : Nat) : State :=
  (s.setBytes (a / 8 * 8) (bytesOfNat 8 d)).setSyn (a / 8) 0

/-- A poisoned word stored (R322). -/
def State.putPoison (s : State) (a d : Nat) : State :=
  (s.setBytes (a / 8 * 8) (bytesOfNat 8 d)).setSyn (a / 8) poisonSyn

/-- F(a) XOR F(c): the syndrome that a valid word which folds address `a` shows to a reader of its cell `c` at the cell's own address (R318,
R319, R321).  An endpoint's two conversions apply F(A) of one address, so they leave the syndrome of a unit as it was (R356). -/
def foldSyn (a c : Nat) : BitVec 16 := BitVec.ofNat 16 (checkBits 0 a ^^^ checkBits 0 c)

/-- A word that folds address `a` stored in the cell at `c`, valid or poisoned (R322, R334). -/
def State.putFolded (s : State) (c a d : Nat) (poison : Bool) : State :=
  (s.setBytes (c / 8 * 8) (bytesOfNat 8 d)).setSyn (c / 8) (foldSyn a c ^^^ (if poison then poisonSyn else 0))

/- Units on a link (R356). -/

/-- A unit as a router receives it: a valid word of folded address 0, or a poisoned one, with the positions the link inverted.  It is
the data as used and what the decoding finds (R320, R356). -/
def unitReceived (d : DWord) (poison : Bool) (flips : List (Fin 80)) : DWord × Kind :=
  let syn := flips.foldl (fun x p => x ^^^ bitSyndrome p.val) (if poison then poisonSyn.toNat else 0)
  let k := decodeSyn syn
  (BitVec.ofNat 64 (correct (flips.foldl (fun x p => flipPos x p.val) d.toNat) k), k)

/- Address regions (R32). -/

inductive Region where
  | dram
  | store (b : Nat)
  | plane
  | ctl (n off : Nat)
  | deal (n off : Nat)
  | regs (off : Nat)
  | unmapped
  deriving DecidableEq, Repr

/-- The part of the address map an address falls in; stores 0 to 31 are the scratch banks, 32 the nursery, 33 and 34 the halves of
the cold frame. -/
def regionOf (a : Nat) : Region :=
  if a < 0x2000000000 then .dram
  else if 0x4000000000 ≤ a ∧ a < 0x4000800000 then .store (a % 0x800000 / 0x40000)
  else if 0x4000800000 ≤ a ∧ a < 0x4000840000 then .store 32
  else if 0x4001000000 ≤ a ∧ a < 0x4001020000 then .store 33
  else if 0x4001020000 ≤ a ∧ a < 0x4001040000 then .store 34
  else if 0x4100000000 ≤ a ∧ a < 0x4104000000 then .plane
  else if 0x4200000000 ≤ a ∧ a < 0x4200400000 then .ctl (a % 0x400000 / 0x100000) (a % 0x100000)
  else if 0x4200400000 ≤ a ∧ a < 0x4200800000 then .deal (a % 0x400000 / 0x100000) (a % 0x100000)
  else if 0x5000000000 ≤ a ∧ a < 0x5000800000 then .regs (a % 0x800000)
  else .unmapped

/-- The first address of a store. -/
def storeBase (b : Nat) : Nat :=
  if b < 32 then 0x4000000000 + 0x40000 * b
  else if b = 32 then 0x4000800000 else if b = 33 then 0x4001000000 else 0x4001020000

/-- Bytes in a store: 256 KiB, or 128 KiB for a half of the cold frame. -/
def storeSize (b : Nat) : Nat := if b < 33 then 0x40000 else 0x20000

/-- The first address of a Dealer's control-store window and of its deal-store window. -/
def ctlBase (n : Dealer) : Nat := 0x4200000000 + 0x100000 * n.val
def dealBase (n : Dealer) : Nat := 0x4200400000 + 0x100000 * n.val

/-- The address of the row word of plane p, logical row y, tile column j (R73). -/
def rowWordAddr (p y j : Nat) : Nat := 0x4100000000 + 0x8000 * p + 64 * y + 8 * j

/-- The plane, logical row and tile column of a plane-window address. -/
def planeOfAddr (a : Nat) : Nat := a / 0x8000 % 2048
def rowOfAddr (a : Nat) : Nat := a % 0x8000 / 64
def tileColOfAddr (a : Nat) : Nat := a % 64 / 8

/-- The tile that holds a plane-window address. -/
def tileOfAddr (a : Nat) : Nat := 8 * (rowOfAddr a / 64) + tileColOfAddr a

/- Error logs and reports (R323). -/

/-- Writes an error log whose first register is at `off`. -/
def State.errLog (s : State) (off kind p0 p1 syn a : Nat) : State :=
  let s1 := s.setReg off (BitVec.ofNat 32 (kind * 2 ^ 30 + p1 * 2 ^ 23 + p0 * 2 ^ 16 + syn))
  let s2 := (s1.setReg (off + 4) (BitVec.ofNat 32 a)).setReg (off + 8) (BitVec.ofNat 32 (a / 2 ^ 32))
  if kind = 3 then s2.bump ⟨off + 12, 16, 16⟩ 1 else s2.bump ⟨off + 12, 0, 16⟩ 1

/-- The location of a PLANE strike: the tile with the logical column, or with the dummy column that stands in for it (spec/14, location
encoding). -/
def State.planeLoc (s : State) (a col : Nat) : Nat :=
  let t := tileOfAddr a
  if s.fget (ARRAY_TMAP.G0V t) = 1 ∧ s.fget (ARRAY_TMAP.G0COL t) = col then 4096 + 64 * t
  else if s.fget (ARRAY_TMAP.G1V t) = 1 ∧ s.fget (ARRAY_TMAP.G1COL t) = col then 4096 + 64 * t + 1
  else 64 * t + col

/-- The report of one corrected position of a row word; a check-bit position is no column of the tile. -/
def State.planeReport (s : State) (a p : Nat) : State :=
  s.report { cls := 0, kind := 0, loc := if p < 64 then s.planeLoc a p else 64 * tileOfAddr a, word := a, part := if p < 64 then 0 else 1 }

/-- The package that holds a position of a DRAM word (R344). -/
def packageOf (p : Nat) : Nat := p / 16

/-- The reports of a DRAM word: one for each package with a corrected position, or one of a UE. -/
def State.dramReports (s : State) (a : Nat) (k : Kind) : State :=
  match k with
  | .clean => s
  | .ce1 p => s.report { cls := 2, kind := 2, loc := a, part := packageOf p }
  | .ce2 p q =>
    let s1 := s.report { cls := 2, kind := 2, loc := a, part := packageOf p }
    if packageOf p = packageOf q then s1 else s1.report { cls := 2, kind := 2, loc := a, part := packageOf q }
  | .ue => s.report { cls := 8, kind := 2, loc := a, ue := true }

/-- The class and kind of a report of a word for which R414 has no class: a word of a deal store or of a dispatch table. -/
def noClass : Nat := 12

/-- The reports of a reader that found CE1, CE2 or UE, under syndrome `syn`, in the cell at `c` of a word that folds address `a` (R323, R50,
R350): the log of the block that holds the cell is updated and the Gardener is told; each corrected position of a row word is a report of its
own, a UE report of a row word names the row word's address, and a report of a bank or the nursery the word that failed in it (R411, R414). -/
def State.reportCell (s : State) (c a syn : Nat) (k : Kind) : State :=
  let a8 := a / 8 * 8
  let code : Nat × Nat × Nat := match k with
    | .clean => (0, 0, 0) | .ce1 p => (1, p, 0) | .ce2 p q => (2, p, q) | .ue => (3, 0, 0)
  let log (t : State) (off : Nat) : State := t.errLog off code.1 code.2.1 code.2.2 syn a8
  let c8 := c / 8 * 8
  let rep (t : State) (c : Nat) : State :=
    if k = .ue then t.report { cls := 8, kind := c, loc := c8, ue := true } else t.report { cls := c, kind := c, loc := c8 }
  match k with
  | .clean => s
  | _ => match regionOf c with
    | .dram => ((log s (DRAM_ERR_SYN.reg (a / 128 % 4))).dramReports a8 k).event (131 + a / 128 % 4)
    | .store b => if b < 33 then rep (log s (BANK_ERR_SYN.reg b)) 1 else rep (log s (COLD_ERR_SYN.reg (b - 33))) 4
    | .plane => match k with
      | .ce1 p => s.planeReport a8 p
      | .ce2 p q => (s.planeReport a8 p).planeReport a8 q
      | _ => s.report { cls := 8, kind := 0, loc := a8, ue := true, word := a8 }
    | .deal _ _ => s.report { cls := noClass, kind := noClass, loc := a8, ue := decide (k = .ue) }
    | .ctl _ _ => s.report { cls := noClass, kind := noClass, loc := a8, ue := decide (k = .ue) }
    | _ => s

/-- The reports of a reader of the word at `a` in its own cell. -/
def State.reportWord (s : State) (a : Nat) (k : Kind) : State := s.reportCell a a (s.wordSyn a).toNat k

/-- Reads the word that folds address `a` from the cell at `c`: its data as used, whether it is uncorrectable, and the state after the
reader's reports. -/
def State.readCell (s : State) (c a : Nat) : Nat × Bool × State :=
  let syn := (s.wordSyn c ^^^ foldSyn a c).toNat
  let k := decodeSyn syn
  (correct (s.wordData c) k, decide (k = .ue), s.reportCell c a syn k)

/-- Reads one stored word: its data as used, whether it is uncorrectable, and the state after the reader's reports. -/
def State.readWord (s : State) (a : Nat) : Nat × Bool × State :=
  let k := decodeSyn (s.wordSyn a).toNat
  (correct (s.wordData a) k, decide (k = .ue), s.reportWord a k)

end Sys2Proof.Machine
end

