-- ==== Sys2Proof/Machine/Mem.lean ====
section
/-!
DEFINITION. What each target of the address map answers to an access (spec/01 R32 to R35, spec/02 R73, R74, R78, spec/05
R149 to R151, spec/11 R324 to R332, R339 to R342, R481, R486, spec/12 R373): ownership, refusals, the stores behind a
bank's addresses while it is weeded or grafted, absorbers, and reads and writes of up to 8 bytes.
-/
namespace Sys2Proof.Machine

open Sys2Proof

/-- The shared status codes of R13. -/
def stOK : Nat := 0
def stREFUSED : Nat := 1
def stNOT_OWNER : Nat := 2
def stNOT_READY : Nat := 3
def stABSORBED : Nat := 4
def stPOISON : Nat := 5
def stBUSY : Nat := 6
def stSUSPENDED : Nat := 7
def stCANCELLED : Nat := 8
def stTIMEOUT : Nat := 9
def stCOLLIDED : Nat := 10

/-- The loader writes memory and stores during start-up and warm restart only (R151, R329): LOAD_STAT.STATE LOADING, EARLY or WARM, or any of
the steps of a warm restart (R427). -/
def State.loaderTime (s : State) : Bool :=
  let st := s.fget LOAD_STAT.STATE
  st == 0 || st == 1 || st == 5 || s.warm != 0

/-- The owner code of a store (BANK_OWNER, COLD_CFG). -/
def State.storeOwner (s : State) (b : Nat) : Nat :=
  if b < 32 then s.fget (BANK_OWNER.OWNER b)
  else if b = 32 then 9
  else if b = 33 then s.fget COLD_CFG.OWN0 else s.fget COLD_CFG.OWN1

/-- Debug access is enabled in every life-cycle state but FIELD (R492; SYS_LCS.STATE, encoded in spec/17). -/
def State.debugOn (s : State) : Bool := s.fget SYS_LCS.DBG == 1

/-- Whether the owner code lets an agent in (the table of R329). -/
def State.ownerAdmits (s : State) (o : Nat) : Agent → Bool
  | .dealer n => o == 5 + n.val
  | .ctu t => 5 ≤ o && o ≤ 8 && natBit (s.region (Fin.ofNat 4 (o - 5))) (tileQuad t.val)
  | .seat k => o == 1 + k.val
  | .gardener => o == 9
  | .loader => s.loaderTime
  | .debug => s.debugOn
  | _ => false

/-- The status a store answers an access with, before any data is touched (R329, R332, R339, R341, R342).  While a clear runs, its owner is
answered NOT_READY, and any other agent as at any other time; a wipe of a FAILED frame answers NOT_READY, then REFUSED (log entry 177). -/
def State.storeStatus (s : State) (b : Nat) (ag : Agent) : Nat :=
  if 33 ≤ b then
    if ag = .debug then stNOT_OWNER
    else if s.fget COLD_STAT.WIPING = 1 then stNOT_READY
    else if s.fget COLD_STAT.FAILED = 1 then stREFUSED
    else if s.ownerAdmits (s.storeOwner b) ag then stOK else stNOT_OWNER
  else if !s.ownerAdmits (s.storeOwner b) ag then stNOT_OWNER
  else if s.fget (BANK_STAT.CLEARING b) = 1 ∧ ag ≠ .loader ∧ ag ≠ .debug then stNOT_READY
  else stOK

/-- Codes of BANK_STAT.WEED. -/
def weedIDLE : Nat := 0
def weedCOPY : Nat := 1
def weedREMAPPED : Nat := 2
def weedBACK : Nat := 3
def weedGRAFTED : Nat := 4
def weedPRUNED : Nat := 5

/-- The store whose cells serve a bank's addresses: the nursery from REMAP to UNMAP and under a graft (R324, R334, R337). -/
def State.serving (s : State) (b : Nat) : Nat :=
  let w := s.fget (BANK_STAT.WEED b)
  if b < 32 ∧ (w = weedREMAPPED ∨ w = weedBACK ∨ w = weedGRAFTED) then 32 else b

/-- The store that mirrors a bank's writes: the nursery from the first word copied, the bank itself while it is copied back
(R334). -/
def State.mirror (s : State) (b : Nat) : Option Nat :=
  let w := s.fget (BANK_STAT.WEED b)
  if 32 ≤ b then none else if w = weedCOPY then some 32 else if w = weedBACK then some b else none

/-- The same word in another store. -/
def moveStore (b c a : Nat) : Nat := storeBase c + (a - storeBase b)

/-- The cell address behind an address. -/
def State.phys (s : State) (a : Nat) : Nat :=
  match regionOf a with
  | .store b => moveStore b (s.serving b) a
  | _ => a

/-- Stores a word with valid check bits, or a poisoned one, at an address, and in the mirroring store; each cell folds the address (R334). -/
def State.storeWord (s : State) (a d : Nat) (poison : Bool) : State :=
  let put (t : State) (x : Nat) : State := t.putFolded x a d poison
  let s1 := put s (s.phys a)
  match regionOf a with
  | .store b => match s.mirror b with
    | some c => put s1 (moveStore b c a)
    | none => s1
  | _ => s1

/-- The T planes read 0 from reset until the first array instruction, and as free values until written after the last one (R45, R48). -/
def State.planeWord (s : State) (a : Nat) : Nat :=
  let p := planeOfAddr a
  if p = 1983 then 0
  else if p < 1983 then s.wordData a
  else (Sparse.get (if s.tZero then 0 else Config.tPlane s.tEpoch a) s.tmem (a / 8)).toNat

/-- A row word as it is stored: the reserved plane P1983 reads 0, and a T plane's word keeps whether it was poisoned (R48, R322). -/
def State.putPlane (s : State) (a v : Nat) (poison : Bool) : State :=
  let p := planeOfAddr a
  if p < 1983 then (if poison then s.putPoison a v else s.putWord a v)
  else if p = 1983 then s
  else { s with tmem := Sparse.insert s.tmem (a / 8) (BitVec.ofNat 64 v), tbad := Sparse.set false s.tbad (a / 8) poison }

/-- A row word as it is read: data, whether it is uncorrectable, and the state after the reader's reports. -/
def State.getPlane (s : State) (a : Nat) : Nat × Bool × State :=
  if planeOfAddr a < 1983 then s.readWord a
  else if Sparse.get false s.tbad (a / 8) then (s.planeWord a, true, s.reportCell a a poisonSyn.toNat .ue)
  else (s.planeWord a, false, s)

/-- An absorber's count and event for router r (R373). -/
def State.absorb (s : State) (r : Nat) : State := (s.bump (TRL_ABS.COUNT r) 1).event (136 + r)

/-- The router a tile hangs on (R353): tiles of columns 2x − 2 and 2x − 1, rows 2y and 2y + 1, on router (x, y). -/
def tileRouter (t : Nat) : Nat := 6 * (t / 8 / 2) + (t % 8 / 2 + 1)

/-- The router a store hangs on. -/
def storeRouter (b : Nat) : Nat :=
  if b < 16 then 6 * (b / 4) else if b < 32 then 6 * ((b - 16) / 4) + 5 else if b = 32 then 0 else 5

/-- Whether an address lies in the image copy range (R486). -/
def State.inImageCopy (s : State) (a : Nat) : Bool :=
  let base := s.fget LOAD_COPY.BASE * 2 ^ 21
  decide (base ≤ a) && decide (a < base + s.fget LOAD_COPY.SIZE * 4096)

/-- The address of an offset in a segment of a seat (spec/13). -/
def State.segAddr (s : State) (k seg off : Nat) : Nat :=
  s.fget (SEAT_SEG_W0.BASE_LO k seg) + 2 ^ 32 * s.fget (SEAT_SEG_W1.BASE_HI k seg) + off

/-- Whether a segment that the image grants seat k holds the address with the right (R35). -/
def State.seatGranted (s : State) (k a : Nat) (wr : Bool) : Bool :=
  (rangeFrom 0 16).any (fun g =>
    let base := s.segAddr k g 0
    s.fget (SEAT_SEG_W1.PRESENT k g) == 1 && (if wr then s.fget (SEAT_SEG_W1.WRA k g) else s.fget (SEAT_SEG_W1.RDA k g)) == 1 &&
      decide (base ≤ a) && decide (a ≤ base + s.fget (SEAT_SEG_W2.LIMIT k g)))

/-- The status DRAM answers with (R35, R346, R481, R486). -/
def State.dramStatus (s : State) (ag : Agent) (a : Nat) (wr : Bool) : Nat :=
  if s.fget DRAM_STAT.TRAIN ≠ 2 ∨ s.fget DRAM_STAT.SREF = 1 then stNOT_READY
  else if ag = .debug ∧ !s.debugOn then stREFUSED
  else if s.inImageCopy a then
    match ag with
    | .loader => stOK
    | .gardener => stOK
    | .root _ => if wr then stREFUSED else stOK
    | .debug => if wr then stREFUSED else stOK
    | _ => stREFUSED
  else match ag with
    | .seat k => if s.seatGranted k.val a wr then stOK else stREFUSED
    | _ => stOK

/-- The status of an access of `n` bytes of DRAM: that of its first byte, or of its last. -/
def State.dramSpan (s : State) (ag : Agent) (a n : Nat) (wr : Bool) : Nat :=
  if s.dramStatus ag a wr = stOK then s.dramStatus ag (a + n - 1) wr else s.dramStatus ag a wr

/-- The status the plane window answers with (R74). -/
def State.planeStatus (s : State) (ag : Agent) (a n : Nat) : Nat :=
  if a % 8 ≠ 0 ∨ n ≠ 8 then stREFUSED
  else match ag with
    | .loader => stOK
    | .debug => if s.debugOn then stOK else stREFUSED
    | .gardener => stOK
    | .dealer d => if natBit (s.region d) (tileQuad (tileOfAddr a)) then stOK else stREFUSED
    | _ => stREFUSED

/-- Offsets of the control-store window that exist (R149). -/
def ctlMapped (off : Nat) : Bool := decide (off < 0x82000) || (decide (0x90000 ≤ off) && decide (off < 0x94000))

/-- Dealer k runs a deal: its L0 is active, from its start at the tick edge until DEND (R151, R203). -/
def State.runsDeal (s : State) (k : Nat) : Bool := s.fbit (LVLSTAT.ACTIVE k) 0

/-- An agent that writes the stores of Dealer k: the loader, and debug access, during start-up and warm restart while the Dealer runs no
deal (R151). -/
def State.storeWriter (s : State) (ag : Agent) (k : Nat) : Bool :=
  match ag with
  | .loader => s.loaderTime && !s.runsDeal k
  | .debug => s.loaderTime && !s.runsDeal k
  | _ => false

/-- The status the control-store window of Dealer k answers with (R34, R149, R151). -/
def State.ctlStatus (s : State) (ag : Agent) (k off n : Nat) (wr : Bool) : Nat :=
  let admitted : Bool := match ag with | .loader => true | .gardener => true | .debug => s.debugOn | _ => false
  let writer := s.storeWriter ag k
  if !admitted || !ctlMapped off || off % 8 ≠ 0 || n ≠ 8 then stREFUSED
  else if wr && (!writer || decide (0x90000 ≤ off) || (decide (off < 0x80000) && off % 32 == 24)) then stREFUSED
  else stOK

/-- The status the deal-store window of Dealer k answers with (R34, R151). -/
def State.dealStatus (s : State) (ag : Agent) (k off n : Nat) (wr : Bool) : Nat :=
  let admitted : Bool := match ag with | .loader => true | .gardener => true | .debug => s.debugOn | _ => false
  let writer := s.storeWriter ag k
  if !admitted || decide (0x40000 < off + n) then stREFUSED
  else if wr && !writer then stREFUSED else stOK

/-- Odd parity bits of a microword's nine groups (R152). -/
def microParity (w : Nat) : Nat → Nat
  | 0 => 0
  | g + 1 => (if parityN (natBits w (16 * g) 16) 16 then 0 else 2 ^ g) + microParity w g

/-- The 144 bits of a control-store microword as committed (R149). -/
def State.microword (s : State) (n : Dealer) (m : Nat) : Nat :=
  let a := ctlBase n + 0x20 * m
  s.wordData a + 2 ^ 64 * s.wordData (a + 8) + 2 ^ 128 * natBits (s.wordData (a + 16)) 0 16

/-- The nine stored parity bits of a microword. -/
def State.microPar (s : State) (n : Dealer) (m : Nat) : Nat := natBits (s.wordData (ctlBase n + 0x20 * m + 16)) 16 9

/-- A write into the control-store window that its status admits: the first and second words of a microword are staged, the third
commits the microword with computed parity (R150); a dispatch entry is stored. -/
def State.ctlWrite (s : State) (n : Dealer) (off d : Nat) : State :=
  if 0x80000 ≤ off then s.putWord (ctlBase n + off) d
  else if off % 32 < 16 then { s with ctlStage := Sparse.insert s.ctlStage ((ctlBase n + off) / 8) (BitVec.ofNat 64 d) }
  else
    let a := ctlBase n + off / 32 * 32
    let lo := match s.ctlStage.find? (fun p => p.1 == a / 8) with | some p => p.2.toNat | none => s.wordData a
    let hi := match s.ctlStage.find? (fun p => p.1 == a / 8 + 1) with | some p => p.2.toNat | none => s.wordData (a + 8)
    let w := lo + 2 ^ 64 * hi + 2 ^ 128 * (d % 65536)
    let s1 := ((s.putWord a lo).putWord (a + 8) hi).putWord (a + 16) (d % 65536 + 65536 * microParity w 9)
    { s1 with ctlStage := Sparse.erase (Sparse.erase s1.ctlStage (a / 8)) (a / 8 + 1) }

/-- Reads `n` bytes, at most 8, from the cells behind an address: value, whether a word was uncorrectable, state. -/
def State.readSpan (s : State) (a n : Nat) : Nat × Bool × State :=
  let r0 := s.readCell (s.phys a) a
  if a % 8 + n ≤ 8 then (natBits r0.1 (8 * (a % 8)) (8 * n), r0.2.1, r0.2.2)
  else
    let r1 := r0.2.2.readCell (r0.2.2.phys (a / 8 * 8 + 8)) (a / 8 * 8 + 8)
    (natBits (r0.1 + 2 ^ 64 * r1.1) (8 * (a % 8)) (8 * n), r0.2.1 || r1.2.1, r1.2.2)

/-- A word with `n` bytes from byte offset `o` on replaced by the low bytes of `v`. -/
def mergeBytes (w o n v : Nat) : Nat :=
  natBits w 0 (8 * o) + natBits v 0 (8 * n) * 2 ^ (8 * o) + w / 2 ^ (8 * (o + n)) * 2 ^ (8 * (o + n))

/-- Writes `n` bytes within the word of `a`; a partial write reads the word, and writes nothing where that read is uncorrectable
(R326). -/
def State.writePart (s : State) (a n v : Nat) : Bool × State :=
  if n = 8 then (false, s.storeWord a v false)
  else
    let r := s.readCell (s.phys a) a
    if r.2.1 then (true, r.2.2) else (false, r.2.2.storeWord a (mergeBytes r.1 (a % 8) n v) false)

/-- Writes `n` bytes, at most 8, which may span two words: in both or in neither (R326, R327). -/
def State.writeSpan (s : State) (a n v : Nat) : Bool × State :=
  if a % 8 + n ≤ 8 then s.writePart a n v
  else
    let n0 := 8 - a % 8
    let r0 := s.readCell (s.phys a) a
    let r1 := r0.2.2.readCell (r0.2.2.phys (a / 8 * 8 + 8)) (a / 8 * 8 + 8)
    if r0.2.1 || r1.2.1 then (true, r1.2.2)
    else
      let t := r1.2.2.storeWord a (mergeBytes r0.1 (a % 8) n0 v) false
      (false, t.storeWord (a / 8 * 8 + 8) (mergeBytes r1.1 0 (n - n0) (v / 2 ^ (8 * n0))) false)

/-- Whether a bank is pruned behind its absorber (R418). -/
def State.bankPruned (s : State) (b : Nat) : Bool := decide (b < 32) && s.fget (BANK_STAT.WEED b) == weedPRUNED

/-- A read of memory outside the device registers: status, value, state.  A status other than OK gives no value. -/
def State.memRead (s : State) (ag : Agent) (a n : Nat) : Nat × Nat × State :=
  let fin (r : Nat × Bool × State) : Nat × Nat × State := if r.2.1 then (stPOISON, r.1, r.2.2) else (stOK, r.1, r.2.2)
  match regionOf a with
  | .dram =>
    if regionOf (a + n - 1) ≠ .dram then (stREFUSED, 0, s)
    else match s.dramSpan ag a n false with
      | 0 => fin (s.readSpan a n)
      | e => (e, 0, s)
  | .store b =>
    if regionOf (a + n - 1) ≠ .store b then (stREFUSED, 0, s)
    else if s.bankPruned b then (stPOISON, ones (8 * n), s.absorb (storeRouter b))
    else match s.storeStatus b ag with
      | 0 => fin (s.readSpan a n)
      | e => (e, 0, s)
  | .plane =>
    if s.pruned (tileOfAddr a) then (stPOISON, ones (8 * n), s.absorb (tileRouter (tileOfAddr a)))
    else match s.planeStatus ag a n with
      | 0 => fin (s.getPlane a)
      | e => (e, 0, s)
  | .ctl k off =>
    match s.ctlStatus ag k off n false with
    | 0 =>
      if 0x90000 ≤ off then
        let w := (Config.rootWord (off % 0x10000 / 32)).toNat
        (stOK, match off % 32 / 8 with
          | 0 => natBits w 0 64 | 1 => natBits w 64 64 | 2 => natBits w 128 16 + 65536 * microParity w 9 | _ => 0, s)
      else if 0x80000 ≤ off then fin (s.readWord (ctlBase (Fin.ofNat 4 k) + off))
      else (stOK, s.wordData (ctlBase (Fin.ofNat 4 k) + off), s)
    | e => (e, 0, s)
  | .deal k off =>
    match s.dealStatus ag k off n false with
    | 0 => fin (s.readSpan (dealBase (Fin.ofNat 4 k) + off) n)
    | e => (e, 0, s)
  | .regs _ => (stREFUSED, 0, s)
  | .unmapped => (stREFUSED, 0, s)

/-- A write of memory outside the device registers: status and state. -/
def State.memWrite (s : State) (ag : Agent) (a n v : Nat) : Nat × State :=
  let fin (r : Bool × State) : Nat × State := if r.1 then (stPOISON, r.2) else (stOK, r.2)
  match regionOf a with
  | .dram =>
    if regionOf (a + n - 1) ≠ .dram then (stREFUSED, s)
    else match s.dramSpan ag a n true with
      | 0 => fin (s.writeSpan a n v)
      | e => (e, s)
  | .store b =>
    if regionOf (a + n - 1) ≠ .store b then (stREFUSED, s)
    else if s.bankPruned b then (stABSORBED, s.absorb (storeRouter b))
    else match s.storeStatus b ag with
      | 0 => fin (s.writeSpan a n v)
      | e => (e, s)
  | .plane =>
    if s.pruned (tileOfAddr a) then (stABSORBED, s.absorb (tileRouter (tileOfAddr a)))
    else match s.planeStatus ag a n with
      | 0 => (stOK, s.putPlane a v false)
      | e => (e, s)
  | .ctl k off =>
    match s.ctlStatus ag k off n true with
    | 0 => (stOK, s.ctlWrite (Fin.ofNat 4 k) off v)
    | e => (e, s)
  | .deal k off =>
    match s.dealStatus ag k off n true with
    | 0 => fin (s.writeSpan (dealBase (Fin.ofNat 4 k) + off) n v)
    | e => (e, s)
  | .regs _ => (stREFUSED, s)
  | .unmapped => (stREFUSED, s)

/- The microcode of an image (spec/05). -/

/-- The word of a list of stored words at a key, the last entry winning. -/
def lastWord (l : List (Nat × DWord)) (k : Nat) : Option DWord := (l.reverse.find? (fun p => p.1 == k)).map Prod.snd

/-- A microword of the image: of the vendor package below 12,288, else of the customer region, whose unused words hold 0 (R147). -/
def planMicroword (p : Plan) (m : Nat) : Nat :=
  let l := if m < 12288 then p.vucode else p.ucode
  let w (k : Nat) : Nat := ((lastWord l (0x20 * m + k)).getD 0).toNat
  w 0 + 2 ^ 64 * w 8 + 2 ^ 128 * (w 16 % 65536)

/-- A dispatch entry of the image (R148, R162). -/
def planDisp (p : Plan) (a : Nat) : Nat :=
  ((lastWord (if a < 0x380 then p.vucode else p.ucode) (0x80000 + 8 * a)).getD 0).toNat

/-- The sections of the main read, in order: every EARLY section, then every MAIN section (R482). -/
def mainOrder (p : Plan) : List Section :=
  p.sects.filter (fun x => decide (x.typ < 0x10)) ++ p.sects.filter (fun x => x.typ == 0x10 || x.typ == 0x11)

end Sys2Proof.Machine
end

