-- ==== Sys2Proof/Machine/RegWrite.lean ====
section
/-!
DEFINITION. Register accesses by the access codes of spec/00 R7 to R12: reading a register, refusing a write as a whole with EV270,
the locks of RWL fields, and applying a write.  The registers whose accesses do more are in their own chapters' files.
-/
namespace Sys2Proof.Machine

open Sys2Proof

/-- The number of the block a register stands in (R36), which names the block's lock. -/
def blockOf (off : Nat) : Nat :=
  if off < 0x10000 then 0 else if off < 0x20000 then 1 else if off < 0x30000 then 2 else if off < 0x40000 then 3
  else if off < 0x50000 then 4 else if off < 0x140000 then 5 else if off < 0x221000 then 6 else if off < 0x300000 then 7
  else if off < 0x380000 then 8 else if off < 0x400000 then 9 else if off < 0x460000 then 10 else if off < 0x500000 then 11
  else if off < 0x580000 then 12 else if off < 0x600000 then 13 else if off < 0x680000 then 14 else if off < 0x700000 then 15 else 16

/-- The lock of the block of a register is set (R10). -/
def State.locked (s : State) (off : Nat) : Bool := natBit s.locks (blockOf off)

/-- A value in a field's reserved range (R9). -/
def valueReserved (f : FieldSpec) (v : Nat) : Bool :=
  !f.ok.isEmpty && !f.ok.any (fun p => decide (p.1 ≤ v) && decide (v ≤ p.2))

/-- The bits no field covers: res0. -/
def res0Bits (fs : List FieldSpec) (v : Nat) : Bool :=
  natBits v 0 32 &&& (ones 32 - fs.foldl (fun m f => m ||| ones f.wid * 2 ^ f.lo) 0) != 0

/-- A write that one field refuses (R9, R10). -/
def fieldRefuses (locked : Bool) (old : Word) (v : Nat) (f : FieldSpec) : Bool :=
  let x := natBits v f.lo f.wid
  match f.acc with
  | .ro => false
  | .rv => false
  | .rwl => if locked then x != getField old f.lo f.wid else valueReserved f x
  | _ => valueReserved f x

/-- A field after an accepted write (R7). -/
def fieldApply (locked : Bool) (v : Nat) (w : Word) (f : FieldSpec) : Word :=
  let x := natBits v f.lo f.wid
  match f.acc with
  | .rw => putField w f.lo f.wid x
  | .rwl => if locked then w else putField w f.lo f.wid x
  | .w1c => putField w f.lo f.wid (getField w f.lo f.wid &&& (ones f.wid - x))
  | _ => w

/-- Fields whose permitted values hang on other fields of the word: EVT_ROUTEs (a field its KIND does not use must be 0, and LEVEL 0 and
7 are reserved with KIND DEALER) and EVT_CAPs (0 for a source not routed to a Dealer). -/
def State.crossReserved (s : State) (off v : Nat) : Bool :=
  if 0x30000 ≤ off ∧ off < 0x30500 then
    let k := natBits v 0 3
    let dealer := natBits v 3 2 != 0 || natBits v 5 3 != 0 || natBits v 8 3 != 0
    let seat := natBits v 11 2 != 0
    let eline := natBits v 13 6 != 0
    match k with
    | 1 => seat || eline || natBits v 5 3 == 0 || natBits v 5 3 == 7
    | 2 => dealer || eline
    | 4 => dealer || seat
    | _ => dealer || seat || eline
  else if 0x30C00 ≤ off ∧ off < 0x31100 then
    natBits v 0 8 != 0 && s.fget (EVT_ROUTE.KIND ((off + 0x400) % 0x1000 / 4)) != 1
  else false

/-- A write that R9 or R10 refuses, or one of an unmapped offset. -/
def State.refuses (s : State) (off v : Nat) : Bool :=
  match regGroupAt off with
  | none => true
  | some g =>
    let lk := s.locked off
    res0Bits g.fields v || g.fields.any (fieldRefuses lk (s.reg off) v) || (!lk && s.crossReserved off v)

/-- A write under R7 to R11: unmapped offsets are REFUSED without an event (R33); a write that violates R9 or R10 is REFUSED with EV270
once; else each field takes it under its access code. -/
def State.plainWrite (s : State) (off v : Nat) : Nat × State :=
  match regGroupAt off with
  | none => (stREFUSED, s)
  | some g =>
    if s.refuses off v then (stREFUSED, s.event 270)
    else (stOK, s.setReg off (g.fields.foldl (fieldApply (s.locked off) v) (s.reg off)))

/-- The register as stored, WO fields reading 0 (R7). -/
def State.plainRead (s : State) (off : Nat) : Word := s.reg off

/-- The outcome of a register write that an agent makes: the new state with the status reported. -/
def answered (ag : Agent) (r : Nat × State) : Host.Outcome State Fault Refusal := .next (r.2.emit (.status ag r.1 0))

end Sys2Proof.Machine
end

