-- ==== Sys2Proof/Machine/Tags.lean ====
section
/-!
DEFINITION. The Trellis as requesters see it (spec/12 R352 to R362, R371, R372): where an address is served, the tags of each local
port, packets entering the network, and the commit of a table swap.
-/
namespace Sys2Proof.Machine

open Sys2Proof

/-- Node number of a router index r = 6y + x (R352). -/
def nodeOf (r : Nat) : Nat := 8 * (r / 6) + r % 6

/-- Router index of a node number; an unused one has no router. -/
def routerOf (node : Nat) : Nat := if node % 8 < 6 then 6 * (node / 8) + node % 8 else 24 + node

/-- The local port, 0 to 3, of a tile on its router (R353). -/
def tilePort (t : Nat) : Nat := 2 * (t / 8 % 2) + t % 8 % 2

/-- Router and local port of each Dealer. -/
def dealerAt (n : Nat) : Nat × Nat := match n with | 0 => (0, 2) | 1 => (5, 2) | 2 => (18, 2) | _ => (23, 2)

/-- Router and local port that serve an address (R353, R354).  An unmapped address is answered at the register hub's port (R33; the port is the
model's choice, log entry 128). -/
def State.servedAt (s : State) (a : Nat) : Nat × Nat :=
  match regionOf a with
  | .dram =>
    let p := natBits (s.fget TRL_DMAP.MAP) (3 * (a / 512 % 8)) 3
    (if p < 4 then 6 * p else 6 * (p - 4) + 5, 0)
  | .store b => if b < 32 then (storeRouter b, 1) else if b = 32 then (0, 3) else (5, 3)
  | .plane => (tileRouter (tileOfAddr a), tilePort (tileOfAddr a))
  | .ctl n _ => dealerAt n
  | .deal n _ => dealerAt n
  | _ => (12, 3)

/-- The mesh port of router r: 0 N, 1 E, 2 S, 3 W, toward another router; none at the edge of the mesh. -/
def neighbour (r k : Nat) : Option Nat :=
  let x := r % 6
  let y := r / 6
  match k with
  | 0 => if y = 0 then none else some (r - 6)
  | 1 => if x = 5 then none else some (r + 1)
  | 2 => if y = 3 then none else some (r + 6)
  | 3 => if x = 0 then none else some (r - 1)
  | _ => none

/- Ports (R353, R373, R375, R377). -/

/-- Router and local port of the host port that a CMDP code of SEAT_CFG names (R353). -/
def hostPort (c : Nat) : Nat × Nat := match c with | 0 => (12, 2) | 1 => (17, 2) | 2 => (17, 3) | _ => (18, 3)

/-- Router and local port of an agent (R353); debug access has none in its table (log entry 138). -/
def State.agentPort (s : State) : Agent → Option (Nat × Nat)
  | .dealer n => some (dealerAt n.val)
  | .root n => some (dealerAt n.val)
  | .ctu t => some (tileRouter t.val, tilePort t.val)
  | .seat k => some (hostPort (s.fget (SEAT_CFG.CMDP k.val)))
  | .loader => some (18, 3)
  | .gardener => some (23, 3)
  | .pipe p => some (if p.val < 3 then (6, 3) else (11, 3))
  | .camera c => some (if c.val < 4 then (6, 2) else (11, 2))
  | .debug => none

/-- A crossing whose link-up token is not held: its far side is in reset, or has not resumed since the device's own (R377, R378). -/
def State.portDown (s : State) (r l : Nat) : Bool := !s.fbit (TRL_RTR.TOKEN r) (4 + l)

/-- What answers in place of a part behind a port, or befalls a request on its way: the absorber of router r, a crossing that is not up, a
table that leads nowhere, or a requester's port without a free tag. -/
inductive Turned where
  | absorbed (r : Nat)
  | down
  | lost
  | waits
  deriving DecidableEq, Repr

/-- What answers at a local port: its absorber once its part or its router is pruned, or the crossing while it is down. -/
def State.portTurns (s : State) (q : Nat × Nat) : Option Turned :=
  if s.fget (TRL_RTR.STATE q.1) ≠ 0 ∨ s.fbit (TRL_RTR.ABSP q.1) (4 + q.2) then some (.absorbed q.1)
  else if s.portDown q.1 q.2 then some .down
  else none

/- Routes (R369, R371, R375). -/

/-- The output port of router r toward a node: of the active tables, or of the tables before the latest swap. -/
def State.routeEntry (s : State) (old : Bool) (r node : Nat) : Nat :=
  if old then Sparse.get 0 s.oldRoutes (64 * r + node) else s.fget (TRL_RTE.ACTIVE r node)

/-- What meets a header at router r on its way to router d, in at most so many hops: nothing, the absorber of the port that faces a closed
router, or a port that leads to no router. -/
def State.way (s : State) (old : Bool) (d : Nat) : Nat → Nat → Option Turned
  | 0, r => if r = d then none else some .lost
  | k + 1, r =>
    if r = d then none
    else match neighbour r (s.routeEntry old r (nodeOf d)) with
      | none => some .lost
      | some x => if s.fget (TRL_RTR.STATE x) ≠ 0 then some (.absorbed r) else s.way old d k x

/-- The routers of the mesh bound the hops of a route. -/
def meshHops : Nat := 24

/- Tags. -/
def State.tag (s : State) (t : Nat) : Option TagRec := (s.tags.find? (fun p => p.1 == t)).map Prod.snd

/-- A tag is taken; EV162 is raised when all 2,048 are held (R360). -/
def State.holdTag (s : State) (t : Nat) (r : TagRec) : State :=
  let s1 := { s with tags := Sparse.insert s.tags t r }
  if (s.tag t).isNone ∧ s1.tags.length = 2048 then s1.event 162 else s1

def State.freeTag (s : State) (t : Nat) : State := { s with tags := Sparse.erase s.tags t }

/-- The lowest free tag of local port l of router r. -/
def State.nextTag (s : State) (r l : Nat) : Option Nat :=
  let p := 4 * r + l
  if s.fget (TRL_TAG.V p) = 0 then none
  else (rangeFrom (s.fget (TRL_TAG.BASE p)) (s.fget (TRL_TAG.SIZE p) + 1)).find? (fun t => (s.tag t).isNone)

/-- A requester may issue under a tag: it lies in the range of its port and is free (R360). -/
def State.tagFree (s : State) (ag : Agent) (t : Nat) : Bool :=
  (s.tag t).isNone && match s.agentPort ag with
    | some q =>
      let p := 4 * q.1 + q.2
      s.fget (TRL_TAG.V p) == 1 && decide (s.fget (TRL_TAG.BASE p) ≤ t) && decide (t ≤ s.fget (TRL_TAG.BASE p) + s.fget (TRL_TAG.SIZE p))
    | none => true

/- An agent's own accesses. -/

/-- A Dealer's access to a store it owns takes port B and never meets the Trellis (R324). -/
def State.offTrellis (s : State) (ag : Agent) (a : Nat) : Bool :=
  match ag, regionOf a with
  | .dealer n, .store b => s.storeOwner b == 5 + n.val
  | _, _ => false

/-- A requester whose port has a tag range, and no free tag in it, waits (R360). -/
def State.tagless (s : State) (ag : Agent) : Bool :=
  match s.agentPort ag with
  | some q => s.fget (TRL_TAG.V (4 * q.1 + q.2)) == 1 && (s.nextTag q.1 q.2).isNone
  | none => false

/-- The way from an agent's port to the router of a port. -/
def State.wayTo (s : State) (ag : Agent) (q : Nat × Nat) : Option Turned :=
  match s.agentPort ag with
  | some own => s.way false q.1 meshHops own.1
  | none => none

/-- What answers at an agent's own port.  A seat's jobs run on while the host's side of its crossing is in reset (R406). -/
def State.ownTurns (s : State) (ag : Agent) : Option Turned :=
  match ag, (s.agentPort ag).bind s.portTurns with
  | .seat _, some .down => none
  | _, t => t

/-- What answers an agent's access to an address before it reaches its target: at the agent's own port, on its way, or at the target's port;
or that it waits for a tag. -/
def State.pathTurns (s : State) (ag : Agent) (a : Nat) : Option Turned :=
  if s.offTrellis ag a then none
  else match s.ownTurns ag with
    | some t => some t
    | none =>
      if s.tagless ag then some .waits
      else match s.wayTo ag (s.servedAt a) with
        | some t => some t
        | none => s.portTurns (s.servedAt a)

/-- The bytes from `a` on that go in the first packet of an access of k bytes: no packet crosses a 512-byte boundary (R354). -/
def firstPacket (a k : Nat) : Nat := min k (512 - a % 512)

/-- An access of k bytes that waits for a tag of its agent's port (R360). -/
def State.accessWaits (s : State) (ag : Agent) (a k : Nat) : Bool :=
  s.pathTurns ag a == some .waits || (decide (firstPacket a k < k) && s.pathTurns ag (a + firstPacket a k) == some .waits)

/-- A request that no target answers: it times out, and its tag stays held for a further timeout (R362). -/
def State.requestLost (s : State) (ag : Agent) (a : Nat) (wr : Bool) : State :=
  let s1 := s.bump TRL_LATE.TIMEOUTS 1
  match (s.agentPort ag).bind (fun q => s.nextTag q.1 q.2) with
  | some t => s1.holdTag t { ag := ag, addr := a, wr := wr, timedOut := true }
  | none => s1

/-- What a read that `t` turns away ends as: status, value, state. -/
def State.turnedRead (s : State) (ag : Agent) (a k : Nat) (t : Turned) : Nat × Nat × State :=
  match t with
  | .absorbed r => (stPOISON, ones (8 * k), s.absorb r)
  | .down => (stNOT_READY, 0, s)
  | .lost => (stTIMEOUT, 0, s.requestLost ag a false)
  | .waits => (stBUSY, 0, s)

/-- What a write that `t` turns away ends as: status and state. -/
def State.turnedWrite (s : State) (ag : Agent) (a : Nat) (t : Turned) : Nat × State :=
  match t with
  | .absorbed r => (stABSORBED, s.absorb r)
  | .down => (stNOT_READY, s)
  | .lost => (stTIMEOUT, s.requestLost ag a true)
  | .waits => (stBUSY, s)

/-- The first address of the device registers, which the register hub's port serves (R353). -/
def hubAddr : Nat := 0x5000000000

/-- A register write that an agent makes over the Trellis: at the register hub, or as its way there ends it; it waits for a tag of the agent's
port (R354, R360, R373, R377). -/
def State.atHub (s : State) (ag : Agent) (f : State → Nat × State) : Host.Outcome State Fault Refusal :=
  match s.pathTurns ag hubAddr with
  | none => answered ag (f s)
  | some .waits => .next s
  | some t => answered ag (s.turnedWrite ag hubAddr t)

/- Packets in the network. -/

/-- A packet enters the network. -/
def State.send (s : State) (p : Packet) : State := { s with net := s.net ++ [p] }

/-- A packet leaves the network; the packets sent before the last commit of a swap stand first in it. -/
def State.unsend (s : State) (p : Packet) : State :=
  { s with net := s.net.erase p, netOld := if (s.net.take s.netOld).contains p then s.netOld - 1 else s.netOld }

/-- The packet left before the latest commit of a table swap, whose old routes it takes (R371). -/
def State.sentBefore (s : State) (p : Packet) : Bool := (s.net.take s.netOld).contains p

/-- The packet is the first of its source, destination and class in the network, but for a packet on the other side of a table swap; one that is
not in the network leaves its port now, after them (R366). -/
def State.inTurn (s : State) (p : Packet) : Bool :=
  let flow (q : Packet) : Bool := q.src == p.src && q.dest == p.dest && q.qos == p.qos
  (s.net.take s.netOld).find? flow == some p || (s.net.drop s.netOld).find? flow == some p ||
    (!s.net.contains p && ((s.net.drop s.netOld).find? flow).isNone)

/-- The active tables, as (64 × router + node, port). -/
def State.activeRoutes (s : State) : List (Nat × Nat) :=
  (rangeFrom 0 24).flatMap (fun r => (rangeFrom 0 24).map (fun d => (64 * r + nodeOf d, s.fget (TRL_RTE.ACTIVE r (nodeOf d)))))

/-- A commit: SWAP reads SWITCHING, and what stands in the network keeps the routes in force until now (R371). -/
def State.beginSwap (s : State) : State :=
  { s.fset TRL_STAT.SWAP 2 with netOld := s.net.length, oldRoutes := s.activeRoutes }

/-- A write of TRL_SWAP (R371, R372): the Gardener's alone; a write of COMMIT during a swap is BUSY, whatever its value, and a commit at IDLE
completes with no effect.  Which refusal wins is the model's order (log entry 127). -/
def State.swapWrite (s : State) (ag : Agent) (v : Nat) : Nat × State :=
  if ag ≠ .gardener then (stREFUSED, s)
  else if s.fget TRL_STAT.SWAP = 2 then (stBUSY, s)
  else if natBits v 1 31 ≠ 0 then (stREFUSED, s.event 270)
  else if natBit v 0 ∧ s.fget TRL_STAT.SWAP = 1 then (stOK, s.beginSwap)
  else (stOK, s)

/-- A write of a SHADOW field or of TRL_DMAP_SH: the Gardener's alone, BUSY during a swap; the swap is then staged (R371, R372).  BUSY is
answered before the check of R9 (log entry 127). -/
def State.shadowWrite (s : State) (ag : Agent) (off v : Nat) : Nat × State :=
  if ag ≠ .gardener then (stREFUSED, s)
  else if s.fget TRL_STAT.SWAP = 2 then (stBUSY, s)
  else
    let r := s.plainWrite off v
    if r.1 = stOK then (stOK, r.2.fset TRL_STAT.SWAP 1) else r

end Sys2Proof.Machine
end

