-- ==== Sys2Proof/Machine/ArrayRegs.lean ====
section
/-!
DEFINITION. The ARRAY block's registers that do more than hold a value, and the corner-turn units (spec/02 R53, R54, R58 to R62, R66 to
R72, R80 to R82).
-/
namespace Sys2Proof.Machine

open Sys2Proof

/- Hands (R58, R61). -/

/-- The identity permutation: entry c holds c. -/
def identityLine : HandLine := BitVec.ofNat 384 ((rangeFrom 0 64).foldl (fun v c => v + c * 2 ^ (6 * c)) 0)

/-- The number of line i of hand h in tile t. -/
def handKey (t h i : Nat) : Nat := 1024 * t + 64 * h + i

/-- Decoding of 64-bit word k of hand line `l`: the hand store is protected by the word code (R61). -/
def State.handKind (s : State) (l k : Nat) : Kind := decodeSyn (Sparse.get 0 s.handSyn (6 * l + k)).toNat

/-- A hand line as its reader uses it: corrected where it can be, a free value where a word is uncorrectable (log entry 141). -/
def State.useLine (s : State) (l : Nat) (v : HandLine) : HandLine :=
  if (rangeFrom 0 6).all (fun k => decide (s.handKind l k = .clean)) then v
  else if (rangeFrom 0 6).any (fun k => decide (s.handKind l k = .ue)) then Config.handLine l v
  else BitVec.ofNat 384 ((rangeFrom 0 6).foldl (fun x k => x + 2 ^ (64 * k) * correct (natBits v.toNat (64 * k) 64) (s.handKind l k)) 0)

/-- Line `i` of hand `h` in tile `t`. -/
def State.handLine (s : State) (t h i : Nat) : HandLine := s.useLine (handKey t h i) (Sparse.get identityLine s.hands (handKey t h i))

/-- The reports of a shuffle with hand h in the tiles of a set of quadrants on the words its lines read in error (R323); the hand store has no
fault class of its own (log entry 139). -/
def State.handReports (s : State) (q h : Nat) : State :=
  s.handSyn.foldl (fun t p =>
    if p.1 / 384 % 16 = h ∧ natBit q (tileQuad (p.1 / 6144)) ∧ decodeSyn p.2.toNat ≠ .clean then
      t.report { cls := noClass, kind := noClass, loc := p.1, ue := decide (decodeSyn p.2.toNat = .ue) }
    else t) s

/-- A line stored with valid check bits. -/
def State.putLine (s : State) (l : Nat) (v : HandLine) : State :=
  { s with hands := Sparse.set identityLine s.hands l v, handSyn := (rangeFrom 0 6).foldl (fun m k => Sparse.set 0 m (6 * l + k) 0) s.handSyn }

/-- Entry c of a line. -/
def handEntry (l : HandLine) (c : Nat) : Nat := natBits l.toNat (6 * c) 6

/-- A line that is a permutation of 0 to 63 (R59). -/
def isPermutation (l : HandLine) : Bool :=
  (rangeFrom 0 64).all (fun v => (rangeFrom 0 64).any (fun c => handEntry l c == v))

/-- The agents that may write array registers at all; debug access has the loader's rights (R492). -/
def State.arrayWriter (s : State) : Agent → Bool
  | .dealer _ => true
  | .loader => true
  | .gardener => true
  | .debug => s.debugOn
  | _ => false

/-- The agents that may write what belongs to tile t: the Dealer whose region holds it, the loader, debug access with its rights, and the
Gardener (R61, R81, R492). -/
def State.drivesTile (s : State) (ag : Agent) (t : Nat) : Bool :=
  match ag with
  | .dealer n => natBit (s.region n) (tileQuad t)
  | .loader => true
  | .gardener => true
  | .debug => s.debugOn
  | _ => false

/-- A write of ARRAY_HSEL: an accepted one discards any staged words (R80). -/
def State.hselWrite (s : State) (ag : Agent) (v : Nat) : Nat × State :=
  if !s.arrayWriter ag then (stREFUSED, s)
  else
    let r := s.plainWrite ARRAY_HSEL.reg v
    if r.1 = stOK then (stOK, { r.2.fset ARRAY_HSTAT.STAGED 0 with hstage := [] }) else r

/-- HSEL.WORD after an access of ARRAY_HDATA. -/
def State.hselNext (s : State) : State :=
  let w := s.fget ARRAY_HSEL.WORD
  s.fset ARRAY_HSEL.WORD (if w = 11 then 0 else w + 1)

/-- The line staged words form over the committed one (R80). -/
def State.formedLine (s : State) (line : HandLine) : HandLine :=
  BitVec.ofNat 384 ((rangeFrom 0 12).foldl (fun v k =>
    v + (match s.hstage.find? (fun p => p.1 == k) with
      | some p => p.2.toNat
      | none => natBits line.toNat (32 * k) 32) * 2 ^ (32 * k)) 0)

/-- A write of ARRAY_HDATA: a word is staged; word 11 forms the line, which is committed when it is a permutation and discarded with
BADLINE and EV270 when it is not (R59, R80). -/
def State.hdataWrite (s : State) (ag : Agent) (v : Nat) : Nat × State :=
  let t := s.fget ARRAY_HSEL.TILE
  let h := s.fget ARRAY_HSEL.HAND
  let i := s.fget ARRAY_HSEL.LINE
  let w := s.fget ARRAY_HSEL.WORD
  if !s.drivesTile ag t then (stREFUSED, s)
  else
    let s1 := { s with hstage := Sparse.insert s.hstage w (BitVec.ofNat 32 v) }
    if w = 11 then
      let line := s1.formedLine (s.handLine t h i)
      let s2 := { s1.hselNext.fset ARRAY_HSTAT.STAGED 0 with hstage := [] }
      if isPermutation line then (stOK, s2.putLine (handKey t h i) line)
      else (stREFUSED, (s2.fset ARRAY_HSTAT.BADLINE 1).event 270)
    else (stOK, s1.hselNext.fset ARRAY_HSTAT.STAGED 1)

/-- The word of the committed line that ARRAY_HDATA reads. -/
def State.hdataWord (s : State) : Word :=
  BitVec.ofNat 32 (natBits (s.handLine (s.fget ARRAY_HSEL.TILE) (s.fget ARRAY_HSEL.HAND) (s.fget ARRAY_HSEL.LINE)).toNat
    (32 * s.fget ARRAY_HSEL.WORD) 32)

/-- ARRAY_HSEL_WRITE. -/
def execArrayHselWrite (ag : Agent) (v : Word) (s : State) : Host.Outcome State Fault Refusal := s.atHub ag (fun t => t.hselWrite ag v.toNat)

/-- ARRAY_HDATA_WRITE. -/
def execArrayHdataWrite (ag : Agent) (v : Word) (s : State) : Host.Outcome State Fault Refusal := s.atHub ag (fun t => t.hdataWrite ag v.toNat)

/-- A write of ARRAY_EDGEn: Dealer n, the loader (and debug access, R492) and the Gardener only; in PAIRED and GANGED the
Dealer that drives the region (R54). -/
def State.edgeWrite (s : State) (ag : Agent) (off v : Nat) : Nat × State :=
  let n := off % 16 / 4
  match ag with
  | .dealer m => if m.val = n then s.plainWrite off v else (stREFUSED, s)
  | .loader => s.plainWrite off v
  | .gardener => s.plainWrite off v
  | .debug => if s.debugOn then s.plainWrite off v else (stREFUSED, s)
  | _ => (stREFUSED, s)

/- Corner-turn units. -/

/-- A transfer in progress. -/
def State.ctu (s : State) (t : Nat) : Option CtuRec := (s.ctus.find? (fun p => p.1 == t)).map Prod.snd

def State.setCtu (s : State) (t : Nat) (r : CtuRec) : State := { s with ctus := Sparse.insert s.ctus t r }

/-- Words of memory one tile row takes (R66, R68). -/
def CtuRec.words (r : CtuRec) : Nat := if r.corner then r.e else r.npl

/-- The element of column c in a row of words (R66). -/
def element (e : Nat) (ws : List Nat) (c : Nat) : Nat := natBits (ws.getD (c * e / 64) 0) (e * (c % (64 / e))) e

/-- The row word of plane pbase + b for a row's words (R66, R67). -/
def CtuRec.planeWord (r : CtuRec) (ws : List Nat) (b : Nat) : Nat :=
  if r.corner then (rangeFrom 0 64).foldl (fun v c => v + 2 ^ c * b2n (natBit (element r.e ws c) b)) 0 else ws.getD b 0

/-- Word k of a row's memory data from its row words (R66, R67). -/
def CtuRec.memWord (r : CtuRec) (rows : List Nat) (k : Nat) : Nat :=
  if r.corner then
    (rangeFrom 0 (64 / r.e)).foldl (fun v i =>
      let c := 64 / r.e * k + i
      v + 2 ^ (r.e * i) * (rangeFrom 0 r.e).foldl (fun x b => x + 2 ^ b * b2n (decide (b < r.npl) && natBit (rows.getD b 0) c)) 0) 0
  else rows.getD k 0

/-- The plane-window address of a row word of a tile: plane p, tile row i. -/
def ctuAddr (t p i : Nat) : Nat := rowWordAddr p (64 * (t / 8) + i) (t % 8)

/-- Splits `n` words from address `a` at 512-byte boundaries, at most `fuel` parts (R70, R354). -/
def splitParts (row : Nat) : Nat → Nat → Nat → Nat → List CtuPart
  | 0, _, _, _ => []
  | fuel + 1, a, n, first =>
    if n = 0 then []
    else
      let k := min n (64 - a % 512 / 8)
      { row := row, addr := a, units := k, first := first } :: splitParts row fuel (a + 8 * k) (n - k) (first + k)

/-- The row words of tile row i of an OUT transfer, read from the planes. -/
def State.ctuFetch (s : State) (t : Nat) (r : CtuRec) (i : Nat) : List (Nat × Bool) × State :=
  (rangeFrom 0 r.npl).foldl (fun (acc : List (Nat × Bool) × State) b =>
    let x := acc.2.getPlane (ctuAddr t (r.pbase + b) (r.row0 + i))
    (acc.1 ++ [(x.1, x.2.1)], x.2.2)) ([], s)

/-- The same, once for each tile row: a further packet of the row takes them from the transpose buffer (R70, R72). -/
def State.ctuRead (s : State) (t : Nat) (r : CtuRec) (i : Nat) : List (Nat × Bool) × State :=
  match r.row with
  | some (k, ws) => if k = i then (ws, s) else s.ctuFetch t r i
  | none => s.ctuFetch t r i

/-- The data of one part of an OUT transfer from its tile row's row words: each unit with its poison (R72). -/
def CtuRec.partData (r : CtuRec) (ws : List (Nat × Bool)) (p : CtuPart) : List (Nat × Bool) :=
  (rangeFrom p.first p.units).map (fun k =>
    (r.memWord (ws.map Prod.fst) k, if r.corner then ws.any Prod.snd else (ws.getD k (0, false)).2))

/-- Packets issued while the tile's port holds a free tag (R70). -/
def State.ctuPump (s : State) (t : Nat) : Nat → State
  | 0 => s
  | fuel + 1 =>
    match s.ctu t with
    | none => s
    | some r =>
      match r.todo, s.nextTag (tileRouter t) (tilePort t) with
      | p :: rest, some tag =>
        let node := nodeOf (s.servedAt p.addr).1
        let base : Packet := { dest := node, src := nodeOf (tileRouter t), cmd := 0, qos := 1, count := p.units, tag := tag, addr := p.addr }
        let r1 := { r with todo := rest, flight := Sparse.insert r.flight tag p }
        let s1 := s.holdTag tag { ag := .ctu (Fin.ofNat 64 t) }
        if r.out then
          let ws := s1.ctuRead t r p.row
          let d := r.partData ws.1 p
          ((ws.2.setCtu t { r1 with poison := r1.poison || d.any Prod.snd, row := some (p.row, ws.1) }).send
            { base with cmd := 1, bef := 255, bel := (if p.units = 1 then 0 else 255), data := d.map (fun x => BitVec.ofNat 64 x.1),
                        poison := d.map Prod.snd }).ctuPump t fuel
        else ((s1.setCtu t r1).send base).ctuPump t fuel
      | _, _ => s

/-- Every packet issued for which the tile's port holds a free tag. -/
def State.ctuRun (s : State) (t : Nat) : State := s.ctuPump t (match s.ctu t with | some r => r.todo.length | none => 0)

/-- Data of an answer, placed by unit. -/
def placeUnits (row first : Nat) : List DWord → List Bool → Nat → List (Nat × DWord × Bool) → List (Nat × DWord × Bool)
  | [], _, _, m => m
  | d :: ds, ps, k, m => placeUnits row first ds ps.tail (k + 1) (Sparse.insert m (64 * row + first + k) (d, ps.headD false))

/-- The row words of a tile row whose units have all arrived are written (R70, R72). -/
def State.ctuRow (s : State) (t : Nat) (r : CtuRec) (row : Nat) : State :=
  let us := (rangeFrom 0 r.words).map (fun k => (r.got.find? (fun p => p.1 == 64 * row + k)).map Prod.snd)
  if us.all Option.isSome then
    let ws := us.map (fun o => match o with | some d => d.1.toNat | none => 0)
    let bad := us.map (fun o => match o with | some d => d.2 | none => false)
    (rangeFrom 0 r.npl).foldl (fun u b =>
      u.putPlane (ctuAddr t (r.pbase + b) (r.row0 + row)) (r.planeWord ws b) (if r.corner then bad.any id else bad.getD b false)) s
  else s

/-- An answer reaches a transfer, with status POISON every unit of one that flags none (R72): its part leaves the flight, its status and data are taken, a row that is whole is written, and further
packets are issued. -/
def State.ctuAnswer (s : State) (t tag status : Nat) (data : List DWord) (poison : List Bool) : State :=
  match s.ctu t with
  | none => s
  | some r =>
    match r.flight.find? (fun p => p.1 == tag) with
    | none => s
    | some p =>
      let bad := if status = stPOISON ∧ !poison.any id then data.map (fun _ => true) else poison
      let r1 := { r with flight := Sparse.erase r.flight tag, got := placeUnits p.2.row p.2.first data bad 0 r.got,
                         status := (if r.status = stOK then status else r.status), poison := r.poison || bad.any id }
      let s1 := s.setCtu t r1
      let s2 := if r.out then s1 else s1.ctuRow t r1 p.2.row
      s2.ctuRun t

/-- A transfer with nothing left to do. -/
def CtuRec.ended (r : CtuRec) : Bool := r.todo.isEmpty && r.flight.isEmpty

/-- A GO that R69 turns away without an event. -/
def State.goRefused (s : State) (ag : Agent) (t : Nat) (corner : Bool) : Bool :=
  let rows := s.fget (CTU_ROWS.COUNT t)
  let npl := s.fget (CTU_PLANES.NPL t)
  let base := s.fget (CTU_PLANES.PBASE t)
  decide (64 < s.fget (CTU_ROWS.ROW0 t) + rows) || decide (2048 < base + npl) ||
  (corner && decide (2 ^ s.fget (CTU_PLANES.EW t) < npl)) ||
  (ag != .loader && ag != .debug && ag != .gardener && decide (1920 < base + npl))

/-- The transfer a GO starts. -/
def State.goRec (s : State) (t v : Nat) : CtuRec :=
  let corner := natBit v 2
  let npl := s.fget (CTU_PLANES.NPL t)
  let e := 2 ^ s.fget (CTU_PLANES.EW t)
  let count := s.fget (CTU_ROWS.COUNT t)
  let a := 8 * s.fget (CTU_ADDR_LO.ADDR_LO t) + 2 ^ 32 * s.fget (CTU_ADDR_HI.ADDR_HI t)
  let words := if corner then e else npl
  { out := natBit v 1, corner := corner, e := e, npl := npl, pbase := s.fget (CTU_PLANES.PBASE t), row0 := s.fget (CTU_ROWS.ROW0 t),
    count := count, flight := [], got := [], status := stOK, poison := false,
    todo := (rangeFrom 0 count).flatMap (fun k => splitParts k 65 (a + k * (8 * s.fget (CTU_STRIDE.STRIDE t))) words 0) }

/-- A write of a CTU register of tile t (R69, R72, R81, R82).  DESIGN CHOICE (log entry 127): an agent without the right is REFUSED first, then
BUSY is answered, then R9 is checked. -/
def State.ctuWrite (s : State) (ag : Agent) (off v : Nat) : Nat × State :=
  let t := off / 64 % 64
  if s.pruned t || !s.drivesTile ag t then (stREFUSED, s)
  else if off ≠ CTU_STAT.reg t ∧ s.fget (CTU_STAT.BUSY t) = 1 then (stBUSY, s)
  else
    let r := s.plainWrite off v
    if off ≠ CTU_CTRL.reg t ∨ !natBit v 0 ∨ r.1 ≠ stOK then r
    else if s.fget (CTU_ROWS.COUNT t) = 0 ∨ s.fget (CTU_PLANES.NPL t) = 0 then (stOK, r.2)
    else if s.goRefused ag t (natBit v 2) then (stREFUSED, s)
    else
      let s1 := r.2.fsets [(CTU_STAT.DONE t, 0), (CTU_STAT.POISON t, 0), (CTU_STAT.BUSY t, 1)]
      (stOK, (s1.setCtu t (s1.goRec t v)).ctuRun t)

/-- CTU_GO: a write of CTU_CTRL of tile t. -/
def execCtuGo (ag : Agent) (t : Fin 64) (v : Word) (s : State) : Host.Outcome State Fault Refusal :=
  s.atHub ag (fun u => u.ctuWrite ag (CTU_CTRL.reg t.val) v.toNat)

/-- CTU_TRANSFER_DONE: a transfer whose packets have all been answered ends (R72). -/
def execCtuTransferDone (t : Fin 64) (s : State) : Host.Outcome State Fault Refusal :=
  match s.ctu t.val with
  | some r =>
    if r.ended then
      let s1 := { s with ctus := Sparse.erase s.ctus t.val }
      .next ((s1.fsets [(CTU_STAT.BUSY t.val, 0), (CTU_STAT.DONE t.val, 1), (CTU_STAT.STATUS t.val, r.status),
        (CTU_STAT.POISON t.val, b2n r.poison)]).event t.val)
    else .next s
  | none => .next s

end Sys2Proof.Machine
end

