-- ==== Sys2Proof/Machine/Banks.lean ====
section
/-!
DEFINITION. Ownership of the stores and what acts on a whole store (spec/11 R328 to R342): handover with and without a clear, the
steps of weeding, and the wipe of the cold frame.
-/
namespace Sys2Proof.Machine

open Sys2Proof

/-- Every word from address `lo` on, `n` bytes, is stored as D = 0 with valid check bits. -/
def State.zeroRange (s : State) (lo n : Nat) : State :=
  { s with mem := s.mem.filter (fun p => decide (p.1 < lo) || decide (lo + n ≤ p.1)),
           syn := s.syn.filter (fun p => decide (p.1 < lo / 8) || decide ((lo + n) / 8 ≤ p.1)) }

/-- Words in a bank. -/
def bankWords : Nat := 32768

/-- The words of store c that stand for bank b are stored as D = 0 with the check bits of b's addresses, which the nursery folds (R332, R334). -/
def State.zeroFor (s : State) (b c : Nat) : State :=
  if c = b then s.zeroRange (storeBase b) (storeSize b)
  else (rangeFrom 0 bankWords).foldl (fun t i => t.putFolded (storeBase c + 8 * i) (storeBase b + 8 * i) 0 false) s

/-- The store that serves a bank's addresses, and the one that mirrors it, are zeroed (R332, R336). -/
def State.zeroBank (s : State) (b : Nat) : State :=
  let s1 := s.zeroFor b (s.serving b)
  match s.mirror b with
  | some c => s1.zeroFor b c
  | none => s1

/-- A clear of a bank starts: no access sees the old content from now on, and CLEARING reads 1 until BANK_CLEAR_DONE (R332). -/
def State.startClear (s : State) (b : Nat) : State := (s.zeroBank b).fset (BANK_STAT.CLEARING b) 1

/-- The bank holds a Dealer's level area or save pool (R212); SPOOL 0 declares no pool (log entry 20). -/
def State.holdsContext (s : State) (b : Nat) : Bool :=
  (rangeFrom 0 4).any (fun n => s.fget (LBASE.BANK n) == b || (s.fget (SPOOL.BANK n) == b && s.reg (SPOOL.reg n) != 0))

/-- The agent that an owner code names (R328). -/
def isOwner (o : Nat) : Agent → Bool
  | .dealer n => o == 5 + n.val
  | .seat k => o == 1 + k.val
  | .gardener => true
  | _ => false

/-- A write of BANK_OWNER of store b (R330 to R332): the current owner or the Gardener hands the bank over; with CLR the bank is zeroed
from the handover point on. -/
def State.ownerWrite (s : State) (ag : Agent) (b v : Nat) : Nat × State :=
  let off := BANK_OWNER.reg b
  let new := natBits v 0 4
  let old := s.fget (BANK_OWNER.OWNER b)
  if s.refuses off v then s.plainWrite off v
  else if !isOwner old ag then (stNOT_OWNER, s)
  else if 32 ≤ b ∨ !s.fbit (BANK_GRANT.GRANT b) new ∨ s.holdsContext b then (stREFUSED, s)
  else
    let s1 := s.fset (BANK_OWNER.OWNER b) new
    if natBit v 4 then (stOK, s1.startClear b) else (stOK, s1)

/-- The value of a BANK_OWNER write. -/
def ownerValue (owner : BitVec 4) (clr : Bool) : Nat := owner.toNat + 16 * b2n clr

/-- BANK_HANDOVER_WRITE: a BANK_OWNER write without CLR. -/
def execBankHandoverWrite (ag : Agent) (b : Fin 33) (owner : BitVec 4) (s : State) : Host.Outcome State Fault Refusal :=
  s.atHub ag (fun t => t.ownerWrite ag b.val (ownerValue owner false))

/-- BANK_HANDOVER_CLEAR: a BANK_OWNER write with CLR. -/
def execBankHandoverClear (ag : Agent) (b : Fin 33) (owner : BitVec 4) (s : State) : Host.Outcome State Fault Refusal :=
  s.atHub ag (fun t => t.ownerWrite ag b.val (ownerValue owner true))

/-- BANK_CLEAR_DONE: the last word of a clear is written (R332). -/
def execBankClearDone (b : Fin 32) (s : State) : Host.Outcome State Fault Refusal :=
  .next (s.fset (BANK_STAT.CLEARING b.val) 0)

/- Weeding (R334 to R338). -/

/-- No bank is between COPY and UNMAP, and the nursery stands for none (R334, R337). -/
def State.nurseryFree (s : State) : Bool :=
  (rangeFrom 0 32).all (fun b => let w := s.fget (BANK_STAT.WEED b); w == weedIDLE || w == weedPRUNED)

/-- The word of a bank's address `a` copied from a store's cell to another's, both of which fold `a` (R334): a CE word is corrected, a UE word is
written poisoned (R335). -/
def State.copyWord (s : State) (src dst a : Nat) : State :=
  let r := s.readCell src a
  r.2.2.putFolded dst a r.1 r.2.1

/-- A word as the TEST sequence leaves it: all 80 raw bits hold 0xAAAA patterns. -/
def State.testWord (s : State) (a : Nat) : State :=
  let d := 0xAAAAAAAAAAAAAAAA
  (s.setBytes a (bytesOfNat 8 d)).setSyn (a / 8) (BitVec.ofNat 16 (0xAAAA ^^^ checkBits d a))

/-- TEST of one word: a fault raises EV283 and is reported (R337). -/
def State.testStep (s : State) (a : Nat) (faulty : Bool) : State :=
  let s1 := s.testWord a
  if faulty then (s1.event 283).report { cls := 1, kind := 1, loc := a } else s1

/-- The window in which a bank is weeded (R265): its owning Dealer's fallow window; the device fallow where no driving Dealer owns it; none once
the Gardener has halted (R426). -/
def State.weedWindow (s : State) (b : Nat) : Bool :=
  let o := s.storeOwner b
  if s.fget GARD_STAT.STATE = 3 then false
  else if b < 32 ∧ 5 ≤ o ∧ o ≤ 8 ∧ s.drives (Fin.ofNat 4 (o - 5)) then s.dealerFallow (Fin.ofNat 4 (o - 5)) else s.fallow

/-- A step of weeding: the next word of the COPY, TEST or BACK step of a bank, or of the TEST of the idle nursery (bank 32) that starts a pass;
`faulty` tells whether the tested word fails.  A step that finds the bank IDLE with the nursery free begins COPY, and one that finds the
TEST complete begins BACK.  A bank to be grafted is copied for that, and the nursery's service for another bank ends without TEST (R422). -/
def State.weedStep (s : State) (b : Fin 33) (faulty : Bool) : State :=
  let w := s.fget (BANK_STAT.WEED b.val)
  let i := s.weedAt
  let base := storeBase b.val
  if !s.weedWindow b.val then s
  else if b.val = 32 then
    if s.nurseryFree ∧ !s.gard.nurseryBad ∧ s.gard.graft = none ∧ i < bankWords ∧ !natBit s.weedDone 32 then
      let s1 := { s.testStep (base + 8 * i) faulty with weedAt := i + 1 }
      if i + 1 = bankWords then { s1 with weedAt := 0, weedDone := setNatBit s1.weedDone 32 true } else s1
    else s
  else if w = weedIDLE then
    if s.nurseryFree ∧ (s.gard.graft = some b.val ∨ (s.gard.graft = none ∧ !s.gard.nurseryBad ∧ natBit s.weedDone 32)) then
      let s1 := s.fset (BANK_STAT.WEED b.val) weedCOPY
      { s1.copyWord base (storeBase 32) base with weedAt := 1 }
    else s
  else if w = weedCOPY then
    if i < bankWords then { s.copyWord (base + 8 * i) (storeBase 32 + 8 * i) (base + 8 * i) with weedAt := i + 1 } else s
  else if w = weedREMAPPED then
    if i < bankWords ∧ s.gard.graft = none then { s.testStep (base + 8 * i) faulty with weedAt := i + 1 }
    else
      let s1 := s.fset (BANK_STAT.WEED b.val) weedBACK
      { s1.copyWord (storeBase 32) base base with weedAt := 1 }
  else if w = weedBACK then
    if i < bankWords then { s.copyWord (storeBase 32 + 8 * i) (base + 8 * i) (base + 8 * i) with weedAt := i + 1 } else s
  else s

/-- WEEDING_STEP of bank b, or of the idle nursery (32). -/
def execWeedingStep (b : Fin 33) (faulty : Bool) (s : State) : Host.Outcome State Fault Refusal := .next (s.weedStep b faulty)

/-- WEED_REMAP: after COPY the nursery serves every address of the bank; a step of weeding, in its window (R336). -/
def execWeedRemap (b : Fin 32) (s : State) : Host.Outcome State Fault Refusal :=
  if s.weedWindow b.val ∧ s.fget (BANK_STAT.WEED b.val) = weedCOPY ∧ s.weedAt = bankWords ∧ s.gard.graft ≠ some b.val then
    .next { s.fsets [(BANK_STAT.WEED b.val, weedREMAPPED), (BANK_STAT.SV 32, 1), (BANK_STAT.SERVES 32, b.val)] with weedAt := 0 }
  else .next s

/-- WEED_UNMAP: a step of weeding, in its window; after BACK the bank serves its addresses again; a pass over the nursery and every bank raises EV282 (R338). -/
def execWeedUnmap (b : Fin 32) (s : State) : Host.Outcome State Fault Refusal :=
  if s.weedWindow b.val ∧ s.fget (BANK_STAT.WEED b.val) = weedBACK ∧ s.weedAt = bankWords then
    let s1 := s.fsets [(BANK_STAT.WEED b.val, weedIDLE), (BANK_STAT.SV 32, 0), (BANK_STAT.SERVES 32, 0)]
    let d := setNatBit s1.weedDone b.val true
    let done := (rangeFrom 0 32).all (fun k => natBit d k || s1.fget (BANK_STAT.WEED k) == weedPRUNED) && natBit d 32
    if done then .next ({ s1 with weedAt := 0, weedDone := 0 }.event 282)
    else .next { s1 with weedAt := 0, weedDone := d }
  else .next s

/- The cold frame (R340 to R342). -/

/-- A wipe trigger: cause 0 power-on or cold reset, 1 TAMP0, 2 TAMP1, 3 glitch detector, 4 life-cycle change.  A trigger during a wipe
merges into it (R340, R341). -/
def State.coldWipe (s : State) (cause : Nat) : State :=
  if s.fget COLD_STAT.WIPING = 1 then s.bump COLD_STAT.MERGED 1
  else
    let s1 := (s.zeroRange (storeBase 33) (storeSize 33)).zeroRange (storeBase 34) (storeSize 34)
    { (s1.bump COLD_STAT.WIPES 1).fsets [(COLD_STAT.WIPING, 1), (COLD_STAT.CAUSE, cause)] with coldRetry := false }

/-- What the trigger does to the read responses still at the cold frame's port (R341): those under the tags in `held` have not sent
their header, those in `part` have sent as many data units as their number says. -/
def poisonResponses (held : List Nat) (part : List (Nat × Nat)) (p : Packet) : Packet :=
  if p.cmd ≠ 5 ∨ p.src ≠ 5 then p
  else if held.contains p.tag then
    { p with status := stPOISON, data := p.data.map (fun _ => 0), poison := p.data.map (fun _ => true) }
  else match part.find? (fun q => q.1 == p.tag) with
    | some (_, k) => { p with data := p.data.take k ++ (p.data.drop k).map (fun _ => 0),
                              poison := (p.poison ++ List.replicate k false).take k ++ (p.data.drop k).map (fun _ => true) }
    | none => p

/-- COLD_WIPE_DONE: the read-back ends; `ok` tells whether every word passed.  A first failure repeats the wipe, a second sets FAILED and
the Gardener is told (R342). -/
def execColdWipeDone (ok : Bool) (s : State) : Host.Outcome State Fault Refusal :=
  if s.fget COLD_STAT.WIPING = 0 then .next s
  else if ok then .next ({ s.fset COLD_STAT.WIPING 0 with coldRetry := false }.event 129)
  else if s.coldRetry then
    .next ({ s.fsets [(COLD_STAT.WIPING, 0), (COLD_STAT.FAILED, 1)] with coldRetry := false }.report { cls := 4, kind := 4, loc := storeBase 33 })
  else .next { s with coldRetry := true }

end Sys2Proof.Machine
end

