-- ==== Sys2Proof/Machine/Cameras.lean ====
section
/-!
DEFINITION. The camera ports (spec/09 R268 to R279): packets, frames and slots, the lines on their way to DRAM, the frame sync pulse, and
the latch of a tick edge.
-/
namespace Sys2Proof.Machine

open Sys2Proof

def State.ctx (s : State) (c i : Nat) : CtxRec := Sparse.get {} s.ctxs (2 * c + i)

def State.setCtx (s : State) (c i : Nat) (r : CtxRec) : State := { s with ctxs := Sparse.set {} s.ctxs (2 * c + i) r }

/-- The port is in use and enabled: camera ports stay disabled until DRAM training completes (R481). -/
def State.camOn (s : State) (c : Nat) : Bool := s.fget (CAM_CFG.EN c) == 1 && s.fget DRAM_STAT.TRAIN == 2

/-- The enabled contexts of a port that capture a virtual channel. -/
def State.ctxsOf (s : State) (c vc : Nat) : List Nat :=
  [0, 1].filter (fun i => s.fget (CAM_CTX_FMT.EN c i) == 1 && s.fget (CAM_CTX_FMT.VC c i) == vc)

/-- A packet discarded under R269. -/
def State.dropPacket (s : State) (c : Nat) : State := s.bump (CAM_STAT.DROPPED c) 1

/-- The slot a new frame is written to: the lowest that is neither latched nor the newest complete frame's (R275). -/
def State.newSlot (s : State) (c i : Nat) : Nat :=
  let latched := if s.fget (CAM_CTX_LATCH.VALID c i) = 1 then [s.fget (CAM_CTX_LATCH.SLOT c i)] else []
  let newest := match (s.ctx c i).newest with | some p => [p.1] | none => []
  ((rangeFrom 0 4).find? (fun k => !(latched ++ newest).contains k)).getD 0

/-- A bad frame is discarded: its CAM_STAT bits are set and EV188 + c is raised (R270). -/
def State.badFrame (s : State) (c bad : Nat) : State :=
  let set (t : State) (b : Nat) (f : Fld) : State := if natBit bad b then t.fset f 1 else t
  let s1 := set (set (set (set s 0 (CAM_STAT.HDR c)) 1 (CAM_STAT.CRC c)) 2 (CAM_STAT.SHORT c)) 3 (CAM_STAT.OVERRUN c)
  (s1.ledger 9 16 16 1).event (188 + c)

/-- A frame start in a context: an open frame is bad for want of its frame end; a header that cannot be corrected makes the new frame
bad (R270, R271). -/
def State.openFrame (s : State) (c i fnum : Nat) (hdrBad : Bool) : State :=
  let r := s.ctx c i
  let s1 := match r.opn with | some f => s.badFrame c (setNatBit f.bad 2 true) | none => s
  s1.setCtx c i { r with opn := some { slot := s1.newSlot c i, fnum := fnum, lines := 0, bad := b2n hdrBad,
                                       pulse := (s1.camPulse.find? (fun p => p.1 == c)).map Prod.snd } }

/-- CSI2_FRAME_START on port c with a virtual channel and frame number. -/
def execCsi2FrameStart (c : Fin 8) (vc : Fin 16) (fnum : BitVec 16) (hdrBad : Bool) (s : State) : Host.Outcome State Fault Refusal :=
  if !s.camOn c.val then .next s
  else match s.ctxsOf c.val vc.val with
    | [] => .next (s.dropPacket c.val)
    | l => .next (l.foldl (fun t i => t.openFrame c.val i fnum.toNat hdrBad) s)

/-- The element of the pixel in column x under R273: RAW values right-aligned with the upper bits 0; a YUV422 pixel, given as Y [7:0],
U [15:8] and V [23:16], as Y and the chroma value of its column. -/
def pixelOf (dt x : Nat) (v : BitVec 24) : BitVec 16 :=
  match dt with
  | 0x1E => if x % 2 = 0 then v.extractLsb' 0 16 else v.extractLsb' 16 8 ++ v.extractLsb' 0 8
  | 0x2B => v.extractLsb' 0 16 &&& 0x3FF
  | 0x2C => v.extractLsb' 0 16 &&& 0xFFF
  | 0x2D => v.extractLsb' 0 16 &&& 0x3FFF
  | _ => v.extractLsb' 0 16

/-- Bytes of the camera buffer a context may fill (R269). -/
def State.camShare (s : State) (c : Nat) : Nat :=
  if s.fget (CAM_CTX_FMT.EN c 0) = 1 ∧ s.fget (CAM_CTX_FMT.EN c 1) = 1 then 65536 else 131072

/-- Bytes a context holds in the camera buffer. -/
def State.camHeld (s : State) (c i : Nat) : Nat :=
  (s.camPend.filter (fun l => l.cam == c && l.ctx == i)).foldl (fun n l => n + 2 * l.px.length) 0

/-- CSI2_LONG_PACKET: captured by the context of its virtual channel and data type, or dropped (R269 to R271). -/
def execCsi2LongPacket (c : Fin 8) (vc : Fin 16) (dt : BitVec 6) (px : List (BitVec 24)) (crcOk hdrBad : Bool) (s : State) :
    Host.Outcome State Fault Refusal :=
  if !s.camOn c.val then .next s
  else match (s.ctxsOf c.val vc.val).find? (fun i => s.fget (CAM_CTX_FMT.DT c.val i) == dt.toNat) with
    | none => .next (s.dropPacket c.val)
    | some i =>
      let r := s.ctx c.val i
      match r.opn with
      | none => .next (s.dropPacket c.val)
      | some f =>
        if hdrBad then .next (s.setCtx c.val i { r with opn := some { f with bad := setNatBit f.bad 0 true } })
        else
          let b1 := if crcOk then f.bad else setNatBit f.bad 1 true
          let b2 := if px.length = s.fget (CAM_CTX_SIZE.WIDTH c.val i) ∧ f.lines < s.fget (CAM_CTX_SIZE.HEIGHT c.val i) then b1
            else setNatBit b1 2 true
          let b3 := if s.camHeld c.val i + 2 * px.length ≤ s.camShare c.val then b2 else setNatBit b2 3 true
          let s1 := s.setCtx c.val i { r with opn := some { f with lines := f.lines + 1, bad := b3 } }
          if b3 = 0 then
            .next { s1 with camPend := s1.camPend ++ [{ cam := c.val, ctx := i, slot := f.slot, row := f.lines,
                                                        px := px.zipIdx.map (fun vx => pixelOf dt.toNat vx.2 vx.1) }] }
          else .next s1

/-- A frame end in a context: a complete frame is published with EV180 + c, and is late under R279; any other frame is bad. -/
def State.closeFrame (s : State) (c i : Nat) (hdrBad : Bool) : State :=
  let r := s.ctx c i
  match r.opn with
  | none => s
  | some f =>
    if hdrBad then s.setCtx c i { r with opn := some { f with bad := setNatBit f.bad 0 true } }
    else
      let bad := if f.lines = s.fget (CAM_CTX_SIZE.HEIGHT c i) then f.bad else setNatBit f.bad 2 true
      if bad ≠ 0 then (s.setCtx c i { r with opn := none }).badFrame c bad
      else
        let s1 := (s.setCtx c i { opn := none, newest := some (f.slot, f.fnum), fresh := true }).event (180 + c)
        if f.pulse.isSome ∧ f.pulse ≠ some (s.fget TICK_COUNT.COUNT) then
          ((s1.fset (CAM_STAT.LATE c) 1).ledger 9 16 16 1).event (188 + c)
        else s1

/-- CSI2_FRAME_END on port c. -/
def execCsi2FrameEnd (c : Fin 8) (vc : Fin 16) (hdrBad : Bool) (s : State) : Host.Outcome State Fault Refusal :=
  if !s.camOn c.val then .next s
  else match s.ctxsOf c.val vc.val with
    | [] => .next (s.dropPacket c.val)
    | l => .next (l.foldl (fun t i => t.closeFrame c.val i hdrBad) s)

/-- The line pitch of a context (R272). -/
def State.camPitch (s : State) (c i : Nat) : Nat := 128 * ((s.fget (CAM_CTX_SIZE.WIDTH c i) + 63) / 64)

/-- The address of slot k of a context (R272). -/
def State.slotBase (s : State) (c i k : Nat) : Nat :=
  4096 * s.fget (CAM_CTX_RING.BASE c i) + k * ((s.camPitch c i * s.fget (CAM_CTX_SIZE.HEIGHT c i) + 4095) / 4096 * 4096)

/-- A 64-bit word of four elements. -/
def packPixels (px : List (BitVec 16)) (k : Nat) : Nat :=
  (rangeFrom 0 4).foldl (fun v i => v + 2 ^ (16 * i) * (px.getD (4 * k + i) 0).toNat) 0

/-- A word a camera port writes over the Trellis: an absorber takes it, or a port that is down keeps it from its slot (R373, R375, R377). -/
def State.cameraWrite (s : State) (c : Fin 8) (a v : Nat) : State :=
  match s.pathTurns (.camera c) a with
  | none => (s.memWrite (.camera c) a 8 v).2
  | some t => (s.turnedWrite (.camera c) a t).2

/-- CAMERA_LINE_WRITTEN: the oldest line of a context reaches its slot, zeros to the end of the pitch (R272 to R274); it waits while its port has
no free tag (R360). -/
def execCameraLineWritten (c : Fin 8) (i : Fin 2) (s : State) : Host.Outcome State Fault Refusal :=
  match s.camPend.find? (fun l => l.cam == c.val && l.ctx == i.val) with
  | none => .next s
  | some l =>
    if s.tagless (.camera c) then .next s else
    let pitch := s.camPitch c.val i.val
    let a := s.slotBase c.val i.val l.slot + l.row * pitch
    let s1 := { s with camPend := s.camPend.erase l }
    .next ((rangeFrom 0 (pitch / 8)).foldl (fun t k => t.cameraWrite c (a + 8 * k) (packPixels l.px k)) s1)

/-- FSYNC_PULSE_START: OFFSET cycles after the edge CAMn_FSYNC is asserted (R279). -/
def execFsyncPulseStart (c : Fin 8) (s : State) : Host.Outcome State Fault Refusal :=
  if s.fget (CAM_SYNC.EN c.val) = 1 then
    .next { s with fsync := setNatBit s.fsync c.val true, camPulse := Sparse.insert s.camPulse c.val (s.fget TICK_COUNT.COUNT) }
  else .next s

/-- FSYNC_PULSE_END: after 1 µs it deasserts. -/
def execFsyncPulseEnd (c : Fin 8) (s : State) : Host.Outcome State Fault Refusal :=
  .next { s with fsync := setNatBit s.fsync c.val false }

/-- CAMERA_LANES_STOP_STATE: the lanes reach the stop state after the port is enabled (CAM_STAT.LINK). -/
def execCameraLanesStopState (c : Fin 8) (s : State) : Host.Outcome State Fault Refusal :=
  if s.camOn c.val then .next (s.fset (CAM_STAT.LINK c.val) 1) else .next s

/-- CAMERA_LATCH: the latch of an enabled context at a tick edge (R276, R278). -/
def State.latchCtx (s : State) (c i : Nat) : State :=
  if !s.camOn c || s.fget (CAM_CTX_FMT.EN c i) == 0 then s
  else
    let r := s.ctx c i
    let s1 := match r.newest with
      | some (slot, fnum) => s.fsets [(CAM_CTX_LATCH.VALID c i, 1), (CAM_CTX_LATCH.SLOT c i, slot), (CAM_CTX_LATCH.FNUM c i, fnum)]
      | none => s
    if r.fresh then
      (s1.setCtx c i { r with fresh := false }).fsets
        [(CAM_CTX_LATCH.FRESH c i, 1), (CAM_CTX_LATCH.AGE c i, 0), (CAM_CTX_LATCH.STALE c i, 0)]
    else
      let age := satAdd 8 (s.fget (CAM_CTX_LATCH.AGE c i)) 1
      let s2 := s1.fsets [(CAM_CTX_LATCH.FRESH c i, 0), (CAM_CTX_LATCH.AGE c i, age)]
      if s.fget (CAM_CTX_FMT.STALELIM c i) ≠ 0 ∧ age = s.fget (CAM_CTX_FMT.STALELIM c i) ∧ s.fget (CAM_CTX_LATCH.STALE c i) = 0 then
        (s2.fsets [(CAM_CTX_LATCH.STALE c i, 1), (CAM_STAT.STALE c, 1)]).event (188 + c)
      else s2

/-- Every context at a tick edge. -/
def State.latchCameras (s : State) : State :=
  (rangeFrom 0 8).foldl (fun t c => (t.latchCtx c 0).latchCtx c 1) s

end Sys2Proof.Machine
end

