-- ==== Sys2Proof/Machine/Tell.lean ====
section
/-!
DEFINITION. Tell-tales and deal boxes (spec/10 R297 to R315, R510): requests, safe states and timeouts, icons, the boxes of a frame, the
pixels the overlay draws and the tally counts, verdicts, notices, hand-offs and panel read-back.
-/
namespace Sys2Proof.Machine

open Sys2Proof

def State.pipe (s : State) (p : Nat) : PipeRec := Sparse.get {} s.pipes p

def State.setPipe (s : State) (p : Nat) (r : PipeRec) : State := { s with pipes := Sparse.set {} s.pipes p r }

def State.tell (s : State) (i : Nat) : TellRec := Sparse.get {} s.tells i

def State.setTell (s : State) (i : Nat) (r : TellRec) : State := { s with tells := Sparse.set {} s.tells i r }

def State.dbox (s : State) (b : Nat) : DealBox := Sparse.get {} s.dboxes b

def State.setDbox (s : State) (b : Nat) (r : DealBox) : State := { s with dboxes := Sparse.set {} s.dboxes b r }

/-- A notice is decided; SAFETY_NOTICE_POST posts it (R313). -/
def State.queueNotice (s : State) (kind pipe id flags code data : Nat) : State :=
  { s with notices := s.notices ++ [{ kind := kind, pipe := pipe, id := id, flags := flags, code := code, data := data }] }

/-- SAFETY_NOTICE_POST: the oldest decided notice goes to every subscribed seat (R313). -/
def execSafetyNoticePost (s : State) : Host.Outcome State Fault Refusal :=
  match s.notices with
  | [] => .next s
  | n :: ns => .next ({ s with notices := ns }.safetyNotice n.kind n.pipe n.id n.flags n.code n.data)

/- Requests and safe states. -/

/-- A tell-tale enters its safe state (R302): code 1 timeout, 2 counter, CRC-8 or state, 3 Espalier value or release.  One that is in it
re-enters nothing. -/
def State.enterSafe (s : State) (i code : Nat) : State :=
  if s.fget (TELL_ST.SAFE i) = 1 then s
  else
    let s1 := s.fsets [(TELL_SST.STATE i, s.fget (TELL_DEF_W2.SAFE i)), (TELL_ST.SAFE i, 1), (TELL_ST.CNTV i, 0)]
    (((s1.setTell i { s1.tell i with expired := false }).event 210).queueNotice 2 (s.fget (TELL_DEF_W0.PIPE i)) i 0 code 0).ledger 7 16 16 1

/-- CRC8 of an entry sent by a seat (R300). -/
def entryCrc (seat e : Nat) : Nat :=
  [seat, natBits e 0 8, natBits e 8 8].foldl (fun c b => crc8Bits 0x2F 8 (c ^^^ b)) 0xFF ^^^ 0xFF

/-- An entry's fields (R299). -/
def entryUsed (e : Nat) : Bool := natBit e 24

/-- The command-wide check of R301: an unused entry must be all zero, a used one has no res0 bit set. -/
def entryOk (e : Nat) : Bool := if entryUsed e then natBits e 25 7 == 0 else e == 0

/-- The cycle at which the timeout of a tell-tale that runs has passed (R303). -/
def State.tellDeadline (s : State) (i : Nat) : Nat := (s.tell i).start + 1000000 * s.fget (TELL_DEF_W0.TIMEOUT i)

/-- The timeout of tell-tale i restarts at an entry that reaches row 5; one that had expired before the entry stays expired, so that the
check still finds it (R303). -/
def State.restartTell (s : State) (i : Nat) : State :=
  let r := s.tell i
  let late := r.running && s.fget (TELL_ST.SAFE i) == 0 && decide (s.tellDeadline i < s.now)
  s.setTell i { r with running := true, start := s.now, expired := r.expired || late }

/-- Handling of one used entry under the table of R301: the row reached, and the state. -/
def State.tellEntry (s : State) (seat e : Nat) : Nat × State :=
  let i := natBits e 0 8
  let st := natBits e 8 4
  let cnt := natBits e 12 4
  let good := decide (cnt = (s.fget (TELL_ST.CNT i) + 1) % 16)
  if natBits e 16 8 ≠ entryCrc seat e then (1, s.event (206 + seat))
  else if s.fget (TELL_DEF_W0.EN i) = 0 ∨ s.fget (TELL_DEF_W0.SRC i) ≠ seat then (2, s)
  else if (s.fget (TELL_ST.CNTV i) = 1 ∧ !good) ∨ s.fget (TELL_DEF_W2.NST i) < st then (3, (s.enterSafe i 2).event (206 + seat))
  else
    let s1 := s.fsets [(TELL_ST.CNT i, cnt), (TELL_ST.CNTV i, 1)]
    if s.fget (TELL_ST.SAFE i) = 1 ∧ s.fget (TELL_ST.CNTV i) = 0 then (4, s1)
    else (5, (s1.restartTell i).fsets [(TELL_ST.SAFE i, 0), (TELL_SST.STATE i, st)])

/-- The used entries in ascending order; the three result sets (R301). -/
def State.tellEntries (s : State) (seat : Nat) : List Word → Nat → Nat → Nat × State
  | [], _, res => (res, s)
  | w :: ws, e, res =>
    if entryUsed w.toNat then
      let r := s.tellEntry seat w.toNat
      let bit := if r.1 = 5 then 2 ^ e else if r.1 = 3 then 2 ^ (16 + e) else if r.1 = 1 then 2 ^ (32 + e) else 0
      r.2.tellEntries seat ws (e + 1) (res + bit)
    else s.tellEntries seat ws (e + 1) res

/-- A TELLTALE_SET command of a seat (R301): status, result, state. -/
def State.tellSet (s : State) (seat : Nat) (ws : List Word) : Nat × Nat × State :=
  if ws.all (fun w => entryOk w.toNat) then
    let r := s.tellEntries seat ws 0 0
    (stOK, r.1, r.2)
  else (stREFUSED, 0, s)

/-- The timeout of a seat-sourced tell-tale has expired: at the moment TIMEOUT ms have passed, or before an entry that came ahead of the
check (R303).  It does not run in the safe state. -/
def State.tellExpired (s : State) (i : Nat) : Bool :=
  let r := s.tell i
  s.fget (TELL_ST.SAFE i) == 0 && r.running && (r.expired || decide (s.tellDeadline i ≤ s.now))

/-- TELLTALE_TIMEOUT: the check that finds the timeout of a seat-sourced tell-tale expired (R303). -/
def execTelltaleTimeout (i : Fin 256) (s : State) : Host.Outcome State Fault Refusal :=
  let src := s.fget (TELL_DEF_W0.SRC i.val)
  if s.fget (TELL_DEF_W0.EN i.val) = 1 ∧ src < 4 ∧ s.tellExpired i.val then
    .next ((s.enterSafe i.val 1).event (202 + src))
  else .next s

/- The icon store (R298, R308). -/

/-- Decoding of the icon store's 64-bit word k. -/
def State.iconKind (s : State) (k : Nat) : Kind := decodeSyn (Sparse.get 0 s.iconSyn k).toNat

/-- The 32-bit word at a byte offset of the icon store, corrected where it can be, and whether it is uncorrectable. -/
def State.iconWord (s : State) (o : Nat) : Nat × Bool :=
  let k := s.iconKind (o / 8)
  (natBits (correct (Sparse.get 0 s.icons (o / 8)).toNat k) (32 * (o / 4 % 2)) 32, decide (k = .ue))

/-- Width and height of the icon at a 64-byte unit. -/
def State.iconW (s : State) (icon : Nat) : Nat := natBits (s.iconWord (64 * icon)).1 0 9
def State.iconH (s : State) (icon : Nat) : Nat := natBits (s.iconWord (64 * icon)).1 16 9

/-- The byte offset of the 32-bit word that holds pixel i of row y. -/
def iconOffset (icon w y i : Nat) : Nat := 64 * icon + 8 + 4 * (y * ((w + 15) / 16) + i / 16)

/-- The code of pixel i of row y, and whether its word is uncorrectable. -/
def State.iconCode (s : State) (icon w y i : Nat) : Nat × Bool :=
  let r := s.iconWord (iconOffset icon w y i)
  (natBits r.1 (2 * (i % 16)) 2, r.2)

/-- The distinct 64-bit words the overlay reads to draw a row of an icon: the header, and those the row lies in. -/
def iconWordsOf (icon w y : Nat) : List Nat := (8 * icon :: (rangeFrom 0 w).map (fun i => iconOffset icon w y i / 8)).eraseDups

/-- The overlay's reports on the icon words of a row, once for each word and frame (R308). -/
def State.iconReports (s : State) (p : Nat) (b : BoxRec) (y : Nat) : State :=
  (iconWordsOf b.icon b.w y).foldl (fun t k =>
    let r := t.pipe p
    if t.iconKind k = .clean ∨ r.seen.contains k then t
    else
      let t1 := (t.setPipe p { r with seen := k :: r.seen }).event 212
      if t1.iconKind k = .ue then t1.report { cls := 8, kind := 3, loc := 8 * k, ue := true }
      else t1.report { cls := 3, kind := 3, loc := 8 * k }) s

/- The boxes of a frame (R306, R307, R311). -/

/-- The three Espalier lines of a tell-tale in the snapshot (R304, R441). -/
def State.espLines (s : State) (i : Nat) : Nat :=
  let l := s.fget (TELL_DEF_W0.ELINE i)
  natBits (s.fget ESP_EO_LO.EO + 2 ^ 32 * s.fget ESP_EO_HI.EO) l 3

/-- An ESP-sourced tell-tale at its pipe's frame start (R304). -/
def State.espSample (s : State) (i : Nat) : State :=
  let v := s.espLines i
  if s.fget ESP_STAT.STAGE ≠ 3 ∨ s.fget (TELL_DEF_W2.NST i) < v then s.enterSafe i 3
  else s.fsets [(TELL_ST.SAFE i, 0), (TELL_SST.STATE i, v)]

/-- The box of a tell-tale drawn in state st, with the icon and the golden CRC that its fallback latch selects. -/
def State.tellBox (s : State) (i st : Nat) : BoxRec :=
  let r := s.fget (TELL_DEF_W2.SREC i) + st - 1
  let fb := s.fget (TELL_ST.FBL i) == 1
  let icon := if fb then s.fget (TELL_SREC_W0.FBICON r) else s.fget (TELL_SREC_W0.ICON r)
  { key := i, icon := icon, cola := s.fget (TELL_SREC_W1.COLA r), colb := s.fget (TELL_SREC_W2.COLB r),
    x := s.fget (TELL_DEF_W1.X i), y := s.fget (TELL_DEF_W1.Y i), w := s.iconW icon, h := s.iconH icon,
    gold := if fb then s.fget (TELL_SREC_W5.FBGOLD r) else s.fget (TELL_SREC_W4.GOLD r), ue := (s.iconWord (64 * icon)).2 }

/-- What a frame start does for a tell-tale that it does not draw, the overlay being stopped: its Espalier lines are sampled, and its timeout
starts (R303, R304). -/
def State.tellIdle (s : State) (i : Nat) : State :=
  let s1 := if s.fget (TELL_DEF_W0.SRC i) = 4 then s.espSample i else s
  let r := s1.tell i
  s1.setTell i { r with running := true, start := if r.running then r.start else s1.now }

/-- A tell-tale at its pipe's frame start: the state to draw is latched, its blink phase moves, and its timeout starts at the first
frame start (R303, R306); the box drawn, if it is drawn. -/
def State.tellFrame (s : State) (i : Nat) : Option BoxRec × State :=
  let s1 := if s.fget (TELL_DEF_W0.SRC i) = 4 then s.espSample i else s
  let st := s1.fget (TELL_SST.STATE i)
  let r := s1.tell i
  let ph := if r.shown = st then r.phase + 1 else 0
  let n := s1.fget (TELL_SREC_W3.BLINK (s1.fget (TELL_DEF_W2.SREC i) + st - 1))
  let s2 := s1.setTell i { r with shown := st, phase := ph, running := true, start := if r.running then r.start else s1.now }
  if st ≠ 0 ∧ (n = 0 ∨ ph / n % 2 = 0) then (some (s2.tellBox i st), s2) else (none, s2)

/-- The box of a deal box that is checked in a frame. -/
def State.dealBoxRec (s : State) (b : Nat) : BoxRec :=
  { key := 256 + b, icon := 0, cola := 0, colb := 0, x := s.fget (TELL_DBOX_W1.X b), y := s.fget (TELL_DBOX_W1.Y b),
    w := s.fget (TELL_DBOX_W2.W b), h := s.fget (TELL_DBOX_W2.H b), gold := s.fget (TELL_DBOX_GOLD.GOLD b (s.dbox b).sel) }

/-- The boxes of the frame a pipe starts: its drawn tell-tales, unless the overlay is stopped by a warm restart, and its active deal
boxes that are not skipped.  Over the frames of a stopped overlay the blink phases stand still (DESIGN CHOICE, log entry 168). -/
def State.frameBoxes (s : State) (p : Nat) : List BoxRec × State :=
  let r := (rangeFrom 0 256).foldl (fun (acc : List BoxRec × State) i =>
      if acc.2.fget (TELL_DEF_W0.EN i) = 1 ∧ acc.2.fget (TELL_DEF_W0.PIPE i) = p then
        if acc.2.overlayOff then (acc.1, acc.2.tellIdle i)
        else
          let q := acc.2.tellFrame i
          (acc.1 ++ q.1.toList, q.2)
      else acc) ([], s)
  let d := (rangeFrom 0 64).filter (fun b =>
    s.fget (TELL_DBOX_W0.EN b) == 1 && s.fget (TELL_DBOX_W0.PIPE b) == p && (s.dbox b).act && !(s.dbox b).skip)
  (r.1 ++ (if s.overlayOff then [] else d.map r.2.dealBoxRec), r.2)

/-- A 10-bit colour reduced to depth b, in the form of R309. -/
def reduceColour (b c : Nat) : Nat :=
  let ch (lo : Nat) : Nat := natBits c lo 10 / 2 ^ (10 - b) * 2 ^ (10 - b) * 2 ^ lo
  ch 20 + ch 10 + ch 0

/-- The pixel sent at column x of line y, given the dithered pixel v (R307, R308). -/
def State.overlayPixel (s : State) (b : Nat) (boxes : List BoxRec) (x y v : Nat) : Nat :=
  match boxes.find? (fun q => decide (q.key < 256) && decide (q.x ≤ x) && decide (x < q.x + q.w) && decide (q.y ≤ y) && decide (y < q.y + q.h)) with
  | none => v
  | some q =>
    match s.iconCode q.icon q.w (y - q.y) (x - q.x) with
    | (_, true) => 0
    | (0, _) => v
    | (1, _) => reduceColour b q.cola
    | (2, _) => reduceColour b q.colb
    | _ => 0

/-- The pixel enters the CRC, least significant byte first (R309). -/
def tallyPixel (crc v : Nat) : Nat := (bytesOfNat 4 v).foldl crc32Step crc

/-- The tally of one box over one line as sent (R309, R510): `down` tells that the link was not up.  The icon's header is one of its words. -/
def State.tallyLine (s : State) (y : Nat) (px : List Nat) (down : Bool) (q : BoxRec) : BoxRec :=
  if q.y ≤ y ∧ y < q.y + q.h then
    let step (acc : Nat × Bool) (iv : Nat × Nat) : Nat × Bool :=
      if q.key < 256 then
        match s.iconCode q.icon q.w (y - q.y) iv.1 with
        | (_, true) => (tallyPixel acc.1 iv.2, true)
        | (0, _) => acc
        | _ => (tallyPixel acc.1 iv.2, acc.2)
      else (tallyPixel acc.1 iv.2, acc.2)
    let r := ((rangeFrom 0 q.w).zip ((px.drop q.x).take q.w)).foldl step (q.crc, q.ue)
    { q with crc := r.1, ue := r.2 || (decide (q.key < 256) && (s.iconWord (64 * q.icon)).2), notSent := q.notSent || down }
  else q

/-- A FAIL (2) or NOT_SENT (3) verdict of a box (R312). -/
def State.badVerdict (s : State) (p : Nat) (q : BoxRec) (v : Nat) : State :=
  let deal := decide (256 ≤ q.key)
  let id := q.key % 256
  let s1 := (s.event (196 + p)).bump (TELL_TAL.FAILS p) 1
  let s2 := s1.fsets [(TELL_TAL.LASTDB p, b2n deal), (TELL_TAL.LASTID p, id)]
  let s3 := (s2.queueNotice 1 p id (b2n deal) v (q.crc ^^^ 0xFFFFFFFF)).ledger 7 0 16 1
  let s4 := { s3 with lacks := true }
  if !deal ∧ v = 2 ∧ s4.fget (TELL_ST.FBL id) = 0 then (s4.fset (TELL_ST.FBL id) 1).event 211 else s4

/-- The verdict of a box whose last line has been sent (R311). -/
def verdictOf (q : BoxRec) : Nat :=
  if q.ue ∨ (q.crc ^^^ 0xFFFFFFFF) ≠ q.gold then 2 else if q.notSent then 3 else 1

/-- TALLY_VERDICT: the verdict on a tell-tale, or on a deal box, of a pipe's frame, once its last line has been sent. -/
def execTallyVerdict (p : Fin 6) (deal : Bool) (id : Fin 256) (s : State) : Host.Outcome State Fault Refusal :=
  let key := id.val + 256 * b2n deal
  let r := s.pipe p.val
  match r.boxes.find? (fun q => q.key == key) with
  | none => .next s
  | some q =>
    if q.ended ∨ r.line < q.y + q.h then .next s
    else
      let v := verdictOf q
      let s1 := s.setPipe p.val { r with boxes := r.boxes.map (fun x => if x.key = key then { x with ended := true } else x) }
      let s2 := if deal then s1 else s1.fset (TELL_ST.VERD id.val) v
      if v = 1 then .next s2 else .next (s2.badVerdict p.val q v)

/- Hand-offs (R314). -/

/-- A write of TELL_HBOXb: only the Dealer that owns the box. -/
def State.hboxWrite (s : State) (ag : Agent) (off v : Nat) : Nat × State :=
  let b := off % 0x1000 / 4
  match ag with
  | .dealer n => if s.fget (TELL_DBOX_W0.OWNER b) = n.val then s.plainWrite off v else (stREFUSED, s)
  | _ => (stREFUSED, s)

/-- A write of TELL_HCMT: only a Dealer; GO commits the staged hand-off of every box it owns. -/
def State.hcmtWrite (s : State) (ag : Agent) (v : Nat) : Nat × State :=
  match ag with
  | .dealer n =>
    if s.refuses TELL_HCMT.reg v then s.plainWrite TELL_HCMT.reg v
    else if natBit v 0 then
      (stOK, (rangeFrom 0 64).foldl (fun t b =>
        if t.fget (TELL_DBOX_W0.EN b) = 1 ∧ t.fget (TELL_DBOX_W0.OWNER b) = n.val then
          t.setDbox b { t.dbox b with cmt := some (t.fget (TELL_HBOX.ACT b) == 1, t.fget (TELL_HBOX.SEL b)) }
        else t) s)
    else (stOK, s)
  | _ => (stREFUSED, s)

/-- TELL_HCMT_WRITE by an agent. -/
def execTellHcmtWrite (ag : Agent) (v : Word) (s : State) : Host.Outcome State Fault Refusal := s.atHub ag (fun t => t.hcmtWrite ag v.toNat)

/-- HAND_OFF_SETTLE of one box at a tick edge, after the front buffers swapped (R314). -/
def State.settleBox (s : State) (b : Nat) : State :=
  if s.fget (TELL_DBOX_W0.EN b) = 0 then s
  else
    let r := s.dbox b
    let p := s.fget (TELL_DBOX_W0.PIPE b)
    let y := s.fget (TELL_DBOX_W1.Y b)
    let first := y / 64
    let last := (y + s.fget (TELL_DBOX_W2.H b) - 1) / 64
    let all := (rangeFrom first (last + 1 - first)).all (fun k => (s.pipe p).swapped.contains k)
    match r.cmt, all with
    | some (act, sel), true => s.setDbox b { act := act, sel := sel, skip := false, cmt := none }
    | some _, false => s.setDbox b { r with cmt := none }
    | none, true => if r.act then (s.setDbox b { r with skip := true }).bump (TELL_TAL.SKIPS p) 1 else s
    | none, false => s

/-- Every deal box at a tick edge. -/
def State.settleBoxes (s : State) : State := (rangeFrom 0 64).foldl State.settleBox s

/- Panel read-back (R315). -/

/-- An eDP pipe with DSC off whose read-back the image enables. -/
def State.readsBack (s : State) (p : Nat) : Bool :=
  decide (p < 4) && s.fget (TELL_RB.EN p) == 1 && s.fget (DSP_CFG.KIND p) == 2 && s.fget (DSP_CFG.DSC p) == 0

/-- One component of a line enters its CRC, each value at depth b. -/
def sinkSum (b lo : Nat) (px : List Nat) (crc : Nat) : Nat :=
  px.foldl (fun c v => (Config.sinkStep b c (natBits v lo 10 / 2 ^ (10 - b))).toNat) crc

/-- A line as sent at the tally point enters the frame's component CRCs, and its last active line ends them (R315). -/
def PipeRec.sumLine (r : PipeRec) (b : Nat) (px : List Nat) (ends : Bool) : PipeRec :=
  let c := (sinkSum b 20 px r.sums.1, sinkSum b 10 px r.sums.2.1, sinkSum b 0 px r.sums.2.2)
  if ends then
    let n := (r.count + 1) % 16
    { r with sums := (0, 0, 0), count := n,
             last := some { count := BitVec.ofNat 4 n, r := BitVec.ofNat 16 c.1, g := BitVec.ofNat 16 c.2.1, b := BitVec.ofNat 16 c.2.2 } }
  else { r with sums := c }

/-- A reading is missing, is of another frame, or was NAKed: MISSES counts it. -/
def State.readbackMiss (s : State) (p : Nat) : State := (s.bump (TELL_RB.MISSES p) 1).report { cls := 9, kind := 9, loc := p }

/-- A reading of its frame differs from the pipe's CRCs: EV178, and FAILS counts it. -/
def State.readbackFail (s : State) (p : Nat) : State :=
  ((s.bump (TELL_RB.FAILS p) 1).event 178).report { cls := 9, kind := 9, loc := p }

/-- PANEL_READBACK of an eDP pipe: what AUX reads during the frame after the one that `last` holds; none where the read is missing or
NAKed (R315). -/
def execPanelReadback (p : Fin 4) (reading : Option SinkCrc) (s : State) : Host.Outcome State Fault Refusal :=
  let r := s.pipe p.val
  match r.last with
  | none => .next s
  | some own =>
    if !s.readsBack p.val || !r.sink then .next s
    else
      let s1 := s.setPipe p.val { r with last := none }
      match reading with
      | some x => if x = own then .next s1 else if x.count = own.count then .next (s1.readbackFail p.val) else .next (s1.readbackMiss p.val)
      | none => .next (s1.readbackMiss p.val)

end Sys2Proof.Machine
end

