-- ==== Sys2Proof/Machine/Pipes.lean ====
section
/-!
DEFINITION. The display pipes (spec/09 R280 to R293, R296, R509; spec/17 R475, R476, R480, R482): layer commits, the swap of front buffers at
a tick edge, frame starts, lines, links, and the fault frame of SAFE HOLD.
-/
namespace Sys2Proof.Machine

open Sys2Proof

/-- A pipe in use. -/
def State.pipeUsed (s : State) (p : Nat) : Bool := s.fget (DSP_CFG.KIND p) != 0

/-- A ROM timing set (R476): KIND of the link (1 DP, 2 eDP), lanes and lane rate in kbit/s, active and total sizes, the pixel clock in kHz, and
front porch, sync width and polarity (true: active-low), horizontal and vertical. -/
structure RomSet where
  kind : Nat
  lanes : Nat
  rate : Nat
  hact : Nat
  vact : Nat
  htot : Nat
  vtot : Nat
  khz : Nat
  hfp : Nat := 48
  hsync : Nat := 32
  vfp : Nat := 3
  vsync : Nat := 5
  low : Bool := true
  deriving DecidableEq, Repr

/-- The ROM timing sets 0x0 to 0xE (R476); the porches and syncs of the first three are those of VESA DMT and CTA-861 (log entry 166). -/
def romSets : List RomSet := [
  { kind := 1, lanes := 4, rate := 1620000, hact := 640, vact := 480, htot := 800, vtot := 525, khz := 25175, hfp := 16, hsync := 96, vfp := 10, vsync := 2 },
  { kind := 1, lanes := 4, rate := 2700000, hact := 1280, vact := 720, htot := 1650, vtot := 750, khz := 74250, hfp := 110, hsync := 40, vfp := 5, vsync := 5, low := false },
  { kind := 1, lanes := 4, rate := 2700000, hact := 1920, vact := 1080, htot := 2200, vtot := 1125, khz := 148500, hfp := 88, hsync := 44, vfp := 4, vsync := 5, low := false },
  { kind := 1, lanes := 4, rate := 5400000, hact := 2560, vact := 1440, htot := 2720, vtot := 1481, khz := 241699 },
  { kind := 2, lanes := 1, rate := 2700000, hact := 1024, vact := 600, htot := 1344, vtot := 635, khz := 51206 },
  { kind := 2, lanes := 2, rate := 2700000, hact := 1280, vact := 480, htot := 1440, vtot := 500, khz := 43200 },
  { kind := 2, lanes := 2, rate := 2700000, hact := 1920, vact := 720, htot := 2080, vtot := 748, khz := 93600 },
  { kind := 2, lanes := 4, rate := 2700000, hact := 1920, vact := 1080, htot := 2200, vtot := 1125, khz := 148500 },
  { kind := 2, lanes := 4, rate := 2700000, hact := 2560, vact := 720, htot := 2720, vtot := 748, khz := 122074 },
  { kind := 2, lanes := 4, rate := 5400000, hact := 2880, vact := 1080, htot := 3040, vtot := 1111, khz := 202646 },
  { kind := 2, lanes := 4, rate := 5400000, hact := 3840, vact := 720, htot := 4000, vtot := 748, khz := 179520 },
  { kind := 2, lanes := 4, rate := 5400000, hact := 1920, vact := 1200, htot := 2080, vtot := 1235, khz := 154128 },
  { kind := 2, lanes := 4, rate := 8100000, hact := 3840, vact := 1080, htot := 4000, vtot := 1111, khz := 266640 },
  { kind := 2, lanes := 4, rate := 8100000, hact := 3840, vact := 2160, htot := 4000, vtot := 2222, khz := 533280 },
  { kind := 2, lanes := 2, rate := 1620000, hact := 800, vact := 480, htot := 1056, vtot := 525, khz := 33264 }]

/-- The timing set that BOOTCFG selects; none for 0xF, with which DSP0 stays off (R476, R506). -/
def State.romSet (s : State) : Option RomSet := romSets[s.fget SYS_STRAP.BOOTCFG]?

/-- The pixel clock of a ROM timing set in kHz; 0 for 0xF. -/
def romKhz (cfg : Nat) : Nat := match romSets[cfg]? with | some r => r.khz | none => 0

/-- SAFE HOLD (R474, R475). -/
def State.safeHold (s : State) : Bool := s.fget LOAD_STAT.STATE == 4

/-- Bands of a pipe: 64 lines each. -/
def State.bands (s : State) (p : Nat) : Nat := min 64 ((s.fget (DSP_VTIM.ACTIVE p) + 63) / 64)

/-- The layers that cover band b: the early layer covers every band until the changeover (R480). -/
def State.layersOf (s : State) (p b : Nat) : List Nat :=
  if s.full then
    (rangeFrom 0 16).filter (fun l => s.fget (DSP_LAYER.EN p l) == 1 && decide (s.fget (DSP_LAYER.FIRST p l) ≤ b) &&
      decide (b ≤ s.fget (DSP_LAYER.LAST p l)))
  else [0]

/-- A layer that Dealer n may commit (R284, R480). -/
def State.mayCommit (s : State) (n : Dealer) (p l : Nat) : Bool :=
  (if s.full then s.fget (DSP_LAYER.EN p l) == 1 else l == 0) && s.fget (DSP_LAYER.OWNER p l) == n.val

/-- A write of DSP_COMMIT (R284).  The checks of R9 are made before those of R284 (DESIGN CHOICE, log entry 127). -/
def State.commitWrite (s : State) (ag : Agent) (p v : Nat) : Nat × State :=
  match ag with
  | .dealer n =>
    if s.refuses (DSP_COMMIT.reg p) v then s.plainWrite (DSP_COMMIT.reg p) v
    else if (rangeFrom 0 16).any (fun l => natBit v l && !s.mayCommit n p l) then (stREFUSED, s)
    else (stOK, s.fset (DSP_CMTD.LAYERS p) (s.fget (DSP_CMTD.LAYERS p) ||| v))
  | _ => (stREFUSED, s)

/-- DSP_COMMIT_WRITE by an agent. -/
def execDspCommitWrite (ag : Agent) (p : Fin 6) (v : Word) (s : State) : Host.Outcome State Fault Refusal :=
  s.atHub ag (fun t => t.commitWrite ag p.val v.toNat)

/- The tick edge. -/

/-- The write buffer of band b as DSP_WBUF shows it. -/
def State.wbuf (s : State) (p b : Nat) : Nat := natBits (s.fget (DSP_WBUF.WBUF p (b / 16))) (2 * (b % 16)) 2

def State.setWbuf (s : State) (p b k : Nat) : State :=
  let f := DSP_WBUF.WBUF p (b / 16)
  let v := s.fget f
  s.fset f (v - natBits v (2 * (b % 16)) 2 * 4 ^ (b % 16) + k % 4 * 4 ^ (b % 16))

/-- The code of buffer k: the early buffers are 4 to 6 until the changeover. -/
def State.bufCode (s : State) (k : Nat) : Nat := if s.full then k else k + 4

/-- A frame-locked pipe: every pipe but DSP0 as the tick source (R290). -/
def State.frameLocked (s : State) (p : Nat) : Bool := p != 0 || s.fget TICK_CFG.SRC == 1

/-- FRONT_BUFFER_SWAP of a pipe (R285); a frame-locked pipe has a frame of the new tick to send (R24). -/
def State.swapPipe (s : State) (p : Nat) : State :=
  let cm := s.fget (DSP_CMTD.LAYERS p)
  let sw := (rangeFrom 0 (s.bands p)).filter (fun b =>
    let ls := s.layersOf p b
    !ls.isEmpty && ls.all (natBit cm))
  let r := s.pipe p
  let front := sw.foldl (fun f b => Sparse.insert f b (s.bufCode (s.wbuf p b))) r.front
  (s.setPipe p { r with front := front, swapped := sw, prevCmtd := cm, sent := r.sent && !s.frameLocked p,
                        warmSwap := r.warmSwap || (decide (s.warm = 8) && !sw.isEmpty) }).fset (DSP_CMTD.LAYERS p) 0

/-- The write buffer of each band is chosen (R286); a frame is in progress from its frame start to the next one. -/
def State.chooseBuffers (s : State) (p : Nat) : State :=
  (rangeFrom 0 (s.bands p)).foldl (fun t b =>
    let r := t.pipe p
    let busy := [Sparse.get 4 r.front b] ++ (if r.live then [Sparse.get 4 r.scan b] else [])
    match [0, 1, 2].find? (fun k => !busy.contains (t.bufCode k)) with
    | some k => t.setWbuf p b k
    | none => t) s

/-- At the changeover a band that no enabled full layer covers changes over at once (R482). -/
def State.uncoverBands (s : State) (p : Nat) : State :=
  let r := s.pipe p
  s.setPipe p { r with front := (rangeFrom 0 (s.bands p)).foldl (fun f b => if (s.layersOf p b).isEmpty then Sparse.insert f b 0 else f) r.front }

/-- The pipes in use. -/
def State.usedPipes (s : State) : List Nat := (rangeFrom 0 6).filter s.pipeUsed

/-- Records milestone k of start-up, once (LOAD_Tk). -/
def State.milestone (s : State) (k : Nat) : State :=
  if s.fget (LOAD_T.TIME k) = 0 then s.fset (LOAD_T.TIME k) ((s.now - s.resetAt) / 1000) else s

/- Frame start. -/

/-- A pipe that carries a tell-tale. -/
def State.carriesTell (s : State) (p : Nat) : Bool :=
  (rangeFrom 0 256).any (fun i => s.fget (TELL_DEF_W0.EN i) == 1 && s.fget (TELL_DEF_W0.PIPE i) == p)

/-- Start-up milestones 3 and 7 at a frame start: every pipe with a tell-tale has begun a frame with them drawn; every band of every
pipe shows content of the full deals, and STATE reads FULL (R477). -/
def State.frameMilestones (s : State) : State :=
  let s1 := if s.usedPipes.all (fun p => !s.carriesTell p || (s.pipe p).told) then s.milestone 3 else s
  if s1.full ∧ s1.fget LOAD_STAT.STATE = 1 ∧ s1.usedPipes.all (fun p =>
      (s1.pipe p).live && (rangeFrom 0 (s1.bands p)).all (fun b => decide (Sparse.get 4 (s1.pipe p).scan b < 4))) then
    (s1.milestone 7).fset LOAD_STAT.STATE 2
  else s1

/-- WARM_RESTART_COMPLETE: the first frame starts that scan content committed by the deals of step 8 (R427); a Gardener that has settled stays
so (R430). -/
def State.warmComplete (s : State) : State :=
  if s.warm = 8 ∧ s.usedPipes.all (fun p => (s.pipe p).warmShown || (rangeFrom 0 (s.bands p)).all (fun b => (s.layersOf p b).isEmpty)) then
    { (if s.fget GARD_STAT.STATE = 1 then s.fset GARD_STAT.STATE 0 else s).event 268 with warm := 0 }
  else s

/-- The frame lacks safety content (R431): a layer marked as safety content was not committed in the tick before, the early layer counting as
layer 0 (log entry 98), or a warm restart has stopped the overlay. -/
def State.frameLacks (s : State) (p : Nat) : Bool :=
  ((s.plan.safety.getD p 0).toNat &&& (if s.full then 65535 else 1) &&& (65535 - (s.pipe p).prevCmtd)) != 0 || s.overlayOff

/-- A pipe may begin a frame: none before the first tick edge; a frame-locked one begins one frame for each tick, FSOFF cycles after its edge
or later; DSP0 as the tick source begins one for each of its frame starts that TICK_EDGE brings, at which the tick begins (R24, R237, R290,
R478). -/
def State.frameDue (s : State) (p : Nat) : Bool := s.ticking && !(s.pipe p).sent

/-- The time of a frame start. -/
def State.frameTime (s : State) (p : Nat) : State :=
  if s.frameLocked p then { s with now := max s.now (s.edgeAt + s.fget (DSP_FSOFF.CYCLES p)) } else s

/-- A frame of pipe p begins: vertical sync, the latch of the front buffers and of the boxes to draw (R287, R306), and EV170 + p; the whole frame
is read back where the link is up (R315). -/
def State.frameStart (s : State) (p : Nat) : State :=
  let q := (s.frameTime p).frameBoxes p
  let r := q.2.pipe p
  let warmShown := r.warmShown || (decide (s.warm = 8) && r.warmSwap)
  let s1 := q.2.setPipe p { r with scan := r.front, live := true, line := 0, boxes := q.1, seen := [], told := !s.overlayOff,
                                   warmShown := warmShown, sent := true, enc := 0, whole := true, sums := (0, 0, 0) }
  let s2 := { (s1.event (170 + p)).fset (DSP_STAT.LOCKED p) 1 with lacks := s1.lacks || s.frameLacks p }
  s2.frameMilestones.warmComplete

/-- PIPE_FRAME_START: the frame that is due on pipe p begins; in SAFE HOLD the fault frame on DSP0 (R475). -/
def execPipeFrameStart (p : Fin 6) (s : State) : Host.Outcome State Fault Refusal :=
  if s.safeHold then
    if p.val = 0 ∧ s.fget SYS_STRAP.BOOTCFG ≠ 15 then
      .next ((s.setPipe 0 { s.pipe 0 with live := true, line := 0 }).event 170)
    else .next s
  else if !s.pipeUsed p.val || !s.frameDue p.val then .next s
  else .next (s.frameStart p.val)

/- Lines. -/

/-- Bits per channel a pipe sends. -/
def State.depth (s : State) (p : Nat) : Nat := match s.fget (DSP_CFG.BPC p) with | 0 => 6 | 1 => 8 | _ => 10

/-- The dither matrix of R509. -/
def ditherEntry (x y : Nat) : Nat :=
  ([0, 8, 2, 10, 12, 4, 14, 6, 3, 11, 1, 9, 15, 7, 13, 5] : List Nat).getD (4 * (y % 4) + x % 4) 0

/-- The dither stage (R509). -/
def ditherValue (ordered : Bool) (b x y v : Nat) : Nat :=
  let d := 2 ^ (10 - b)
  if ordered then min (2 ^ b - 1) ((16 * v + ditherEntry x y * d) / (16 * d)) else v / d

/-- A pixel of 8-bit channels through LUT and dither, in the form of R309. -/
def State.lutPixel (s : State) (p x y : Nat) (rgb : Nat × Nat × Nat) : Nat :=
  let b := s.depth p
  let o := s.fget (DSP_CFG.DITHER p) == 1
  let ch (v lo : Nat) : Nat := ditherValue o b x y v * 2 ^ (10 - b) * 2 ^ lo
  ch (s.fget (DSP_LUT.RED p rgb.1)) 20 + ch (s.fget (DSP_LUT.GREEN p rgb.2.1)) 10 + ch (s.fget (DSP_LUT.BLUE p rgb.2.2)) 0

/-- A word of a line as pipe p fetches it over the Trellis; none where its port or the target's is down, where no route
leads there, or where it still waits for a tag (R360, R369).  A UE word, and one that an absorber
answers with POISON, gives a free value, which the specification leaves open (R373, R375, R377). -/
def State.fetchWord (s : State) (p a : Nat) : Option Nat × State :=
  match s.pathTurns (.pipe (Fin.ofNat 6 p)) a with
  | some (.absorbed r) =>
    let d := (s.absorb r).draw 9
    (some (d.1 % 2 ^ 64), d.2)
  | some t => (none, (s.turnedRead (.pipe (Fin.ofNat 6 p)) a 8 t).2.2)
  | none =>
    let r := s.readCell (s.phys a) a
    let d := if r.2.1 then r.2.2.draw 9 else (r.1, r.2.2)
    (some (d.1 % 2 ^ 64), d.2)

/-- The n words of a line from an address, none where one does not come. -/
def State.fetchWords (s : State) (p a : Nat) : Nat → Option (List Nat) × State
  | 0 => (some [], s)
  | n + 1 =>
    let r := s.fetchWord p a
    let t := r.2.fetchWords p (a + 8) n
    (r.1.bind (fun w => t.1.map (fun l => w :: l)), t.2)

/-- The 8-bit channels of early pixel code k (R480). -/
def State.earlyColour (s : State) (p k : Nat) : Nat × Nat × Nat :=
  (s.fget (DSP_EPAL.RED p k), s.fget (DSP_EPAL.GREEN p k), s.fget (DSP_EPAL.BLUE p k))

/-- The channels of line y of a pipe as fetched from buffer `code`; none where DRAM, or a port on the way, does not answer (R283, R480). -/
def State.fetchLine (s : State) (p code y : Nat) : Option (List (Nat × Nat × Nat)) × State :=
  let h := s.fget (DSP_HTIM.ACTIVE p)
  if 4 ≤ code then
    let r := s.fetchWords p (s.plan.earlyBufs.getD (3 * p + (code - 4)) 0 + y * ((h + 15) / 16 * 8)) ((h + 15) / 16)
    (r.1.map (fun l => (l.flatMap (fun w => (rangeFrom 0 16).map (fun i => s.earlyColour p (natBits w (4 * i) 4)))).take h), r.2)
  else
    let a := 4096 * s.fget (DSP_FB.BASE p code) + y * (256 * s.fget (DSP_FBP.PITCH p))
    if s.dramStatus (.pipe (Fin.ofNat 6 p)) a false ≠ 0 then (none, s)
    else
      let r := s.fetchWords p a ((h + 1) / 2)
      (r.1.map (fun l => (l.flatMap (fun w => (rangeFrom 0 2).map (fun i =>
        (natBits w (32 * i) 8, natBits w (32 * i + 8) 8, natBits w (32 * i + 16) 8)))).take h), r.2)

/-- The active size of a ROM timing set (R476). -/
def romSize (cfg : Nat) : Nat × Nat := match romSets[cfg]? with | some r => (r.hact, r.vact) | none => (0, 0)

/-- A pixel of the ROM fault frame (R476), 8 bits per channel, in the form of R309. -/
def faultPixel (hv : Nat × Nat) (fault x y : Nat) : Nat :=
  let w := hv.1 / 32
  let h := hv.2 / 8
  let x0 := (hv.1 - 32 * w) / 2
  let y0 := (hv.2 - h) / 2
  if y0 ≤ y ∧ y < y0 + h ∧ x0 ≤ x ∧ x < x0 + 32 * w then
    if natBit fault (31 - (x - x0) / w) then 1020 * (2 ^ 20 + 2 ^ 10 + 1) else 0
  else 768 * 2 ^ 20

/-- LINE_UNDERRUN (R293). -/
def State.underrun (s : State) (p : Nat) : State :=
  ((s.fset (DSP_STAT.UNDERRUN p) 1).event 176).report { cls := 9, kind := 9, loc := p }

/-- The pixels of a line before the overlay: its last `missing` pixels, and a line of a band no layer covers, are sent with every
channel 0 (R287, R293); whether a layer covers the band is asked at the line (DESIGN CHOICE, log entry 169). -/
def State.linePixels (s : State) (p y missing : Nat) : List Nat × State :=
  let h := s.fget (DSP_HTIM.ACTIVE p)
  if (s.layersOf p (y / 64)).isEmpty then (List.replicate h 0, s)
  else
    let f := s.fetchLine p (Sparse.get 4 (s.pipe p).scan (y / 64)) y
    match f.1 with
    | none => (List.replicate h 0, f.2.underrun p)
    | some px =>
      let sent := ((rangeFrom 0 h).zip px).map (fun xv => if h - missing ≤ xv.1 then 0 else s.lutPixel p xv.1 y xv.2)
      (sent, if missing = 0 then f.2 else f.2.underrun p)

/-- The PPS of a pipe, as encoded with and as sent to the sink (R296). -/
def State.pipePps (s : State) (p : Nat) : List Word := (rangeFrom 0 32).map (fun i => s.reg (DSP_PPS.reg p i))

/-- DSC and PHY (R282): the coded line where DSC is on, else the pixels as the overlay leaves them. -/
def State.sendLine (s : State) (p y : Nat) (px : List Nat) : State :=
  if s.fget (DSP_CFG.DSC p) = 1 then
    let r := s.pipe p
    (s.setPipe p { r with enc := Config.dscNext (s.pipePps p) r.enc px }).emit (.coded p y (Config.dscBytes (s.pipePps p) r.enc px))
  else s.emit (.pixels p y px)

/-- PIPE_LINE: the next active line of a pipe's frame, with its last `missing` pixels not in the line buffer (R282, R293, R307 to R310); a reading
of the frame before that has not come by its last line is missing (R315). -/
def execPipeLine (p : Fin 6) (missing : Nat) (s : State) : Host.Outcome State Fault Refusal :=
  let r := s.pipe p.val
  let y := r.line
  if s.safeHold then
    let hv := romSize (s.fget SYS_STRAP.BOOTCFG)
    if p.val = 0 ∧ r.live ∧ y < hv.2 then
      .next ((s.setPipe 0 { r with line := y + 1 }).emit
        (.pixels 0 y ((rangeFrom 0 hv.1).map (fun x => faultPixel hv (s.reg LOAD_FAULT.reg).toNat x y))))
    else .next s
  else if !s.pipeUsed p.val || !r.live || decide (s.fget (DSP_VTIM.ACTIVE p.val) ≤ y) then .next s
  else
    let f := s.linePixels p.val y missing
    let s1 := f.2
    let b := s1.depth p.val
    let px := ((rangeFrom 0 f.1.length).zip f.1).map (fun xv => s1.overlayPixel b r.boxes xv.1 y xv.2)
    let down := s1.fget (DSP_STAT.LINKUP p.val) == 0
    let s2 := (r.boxes.filter (fun q => decide (q.key < 256) && decide (q.y ≤ y) && decide (y < q.y + q.h))).foldl
      (fun t q => t.iconReports p.val q (y - q.y)) s1
    let r2 := s2.pipe p.val
    let r3 := { r2 with line := y + 1, boxes := r2.boxes.map (s2.tallyLine y px down) }
    let ends := y + 1 == s1.fget (DSP_VTIM.ACTIVE p.val)
    let back := s1.readsBack p.val && r3.sink && r3.whole
    let s3 := if back && ends && r3.last.isSome then s2.readbackMiss p.val else s2
    .next ((s3.setPipe p.val (if back then r3.sumLine b px ends else r3)).sendLine p.val y px)

/- Links (R291). -/

/-- DISPLAY_LINK_LOST: a reading that is still due is missing (R291, R315). -/
def execDisplayLinkLost (p : Fin 6) (s : State) : Host.Outcome State Fault Refusal :=
  if s.fget (DSP_STAT.LINKUP p.val) = 1 then
    let r := s.pipe p.val
    let s0 := if s.readsBack p.val && r.sink && r.last.isSome then s.readbackMiss p.val else s
    let s1 := s0.setPipe p.val { r with sink := false, last := none }
    .next (((s1.fsets [(DSP_STAT.LINKUP p.val, 0), (DSP_STAT.LINKLOST p.val, 1)]).event 177).report { cls := 9, kind := 9, loc := p.val })
  else .next s

/-- DISPLAY_LINK_UP: training ends, or the DSI-2 lanes run; an eDP panel says whether it supports sink CRCs, read-back sets its
TEST_SINK_START and begins with the next whole frame, and a coded link gets its PPS (R296, R315).  In SAFE HOLD only DSP0 comes up, in the ROM
timing set that the strap selects (R475, R506). -/
def execDisplayLinkUp (p : Fin 6) (sup : Bool) (s : State) : Host.Outcome State Fault Refusal :=
  if !(if s.safeHold then p.val == 0 && s.romSet.isSome else s.pipeUsed p.val) then .next s
  else
    let s1 := s.fset (DSP_STAT.LINKUP p.val) 1
    let s2 := s1.setPipe p.val { s1.pipe p.val with sink := !s.safeHold && s.readsBack p.val, whole := false, count := 0, sums := (0, 0, 0), last := none }
    let s3 := if !s.safeHold ∧ s.fget (DSP_CFG.DSC p.val) = 1 then s2.emit (.pps p.val (s.pipePps p.val)) else s2
    .next (if p.val < 4 then s3.fset (TELL_RB.SUP p.val) (b2n sup) else s3)

end Sys2Proof.Machine
end

