-- ==== Sys2Proof/Machine/SeatRegs.lean ====
section
/-!
DEFINITION. The SEAT block as a host reaches it through BAR0 (spec/13 R391, R392, R405, R408, R409): ring indices and doorbells, command
slots, event bits and the MSI-X table.
-/
namespace Sys2Proof.Machine

open Sys2Proof

def State.seat (s : State) (k : Nat) : SeatRec := Sparse.get {} s.seats k

def State.setSeat (s : State) (k : Nat) (r : SeatRec) : State := { s with seats := Sparse.set {} s.seats k r }

/-- A seat whose command port is a PCIe endpoint. -/
def State.pcieSeat (s : State) (k : Nat) : Bool := s.fget (SEAT_CFG.EN k) == 1 && decide (s.fget (SEAT_CFG.CMDP k) < 3)

/-- CMD PI advances: EV228 + s, and the watchdog re-arms (R392, R407). -/
def State.advancePI (s : State) (k pi : Nat) : State :=
  let s1 := s.fset (SEAT_CMDIDX.PI k) pi
  (s1.setSeat k { s1.seat k with wdog := false }).event (228 + k)

/-- Commands not yet taken. -/
def State.waiting (s : State) (k : Nat) : Nat := ringCount (s.fget (SEAT_CMDIDX.PI k)) (s.fget (SEAT_CMDIDX.CI k))

/-- A write of SEAT_CMDIDX: the doorbell (R391). -/
def State.doorbell (s : State) (k v : Nat) : Nat × State :=
  let pi := natBits v 0 8
  if natBits v 16 16 ≠ 0 ∨ 64 < ringCount pi (s.fget (SEAT_CMDIDX.CI k)) then (stREFUSED, s.event 270)
  else if pi = s.fget (SEAT_CMDIDX.PI k) then (stOK, s) else (stOK, s.advancePI k pi)

/-- A write of a consumer index: it stays between its value and the producer index (R391). -/
def State.consume (s : State) (ci pi : Fld) (v : Nat) : Nat × State :=
  let new := natBits v 8 8
  if natBits v 16 16 ≠ 0 ∨ ringCount (s.fget pi) (s.fget ci) < ringCount new (s.fget ci) then (stREFUSED, s.event 270)
  else (stOK, s.fset ci new)

/-- A command slot between CI and PI. -/
def State.slotBusy (s : State) (k slot : Nat) : Bool :=
  decide (ringCount slot (s.fget (SEAT_CMDIDX.CI k) % 64) % 64 < s.waiting k)

/-- A vector whose PBA bit is set and that nothing masks any more is sent (R405: masking and the PBA follow the PCIe standard). -/
def State.msixPending (s : State) (k i : Nat) : State :=
  let f : Fld := ⟨SEAT_PBA.reg k (i / 32), i % 32, 1⟩
  if s.fget f = 1 ∧ s.vectorMasked k i = false ∧ (s.pcieFn k).msixOn ∧ (s.pcieFn k).busOn then (s.fset f 0).msix k i else s

/-- A write of the MSI-X table; the mask bit of a control word is held complemented. -/
def State.msixWrite (s : State) (k off v : Nat) : State :=
  if off % 16 = 12 then (s.setReg off (BitVec.ofNat 32 v ^^^ 1)).msixPending k (off % 0x1000 / 16)
  else s.setReg off (BitVec.ofNat 32 v)

/-- A seat whose BARs answer: its port is a PCIe endpoint, up and not in D3hot, with memory requests enabled (R383, R384). -/
def State.bar0Open (s : State) (k : Nat) : Bool := s.pcieSeat k && s.fget (SEAT_STAT.PORTUP k) == 1 && (s.pcieFn k).memOn

/-- A write of a register of SEAT block k (R409); in D3hot, and while the link is down, BAR0 takes none (R384). -/
def State.seatWrite (s : State) (ag : Agent) (k off v : Nat) : Nat × State :=
  if ag ≠ .seat (Fin.ofNat 4 k) ∨ !s.bar0Open k then (stREFUSED, s)
  else
    let o := off % 0x10000
    if o = 0x10 then s.doorbell k v
    else if o = 0x14 then s.consume (SEAT_CMPIDX.CI k) (SEAT_CMPIDX.PI k) v
    else if o = 0x18 then
      if s.fget (SEAT_CFG.NTCP k) ≠ 0 then (stREFUSED, s.event 270) else s.consume (SEAT_NTCIDX.CI k) (SEAT_NTCIDX.PI k) v
    else if 0x300 ≤ o ∧ o < 0x368 then s.plainWrite off v
    else if 0x1000 ≤ o ∧ o < 0x2000 then
      if s.slotBusy k (o % 0x1000 / 64) then (stREFUSED, s) else (stOK, s.setReg off (BitVec.ofNat 32 v))
    else if 0x4000 ≤ o ∧ o < 0x4400 then (stOK, s.msixWrite k off v)
    else if 0x5000 ≤ o ∧ o < 0x5008 then (stOK, s)
    else (stREFUSED, s)

/-- The agents that may read SEAT block k (R409): its own seat, a Dealer that owns one of its posted layers, the loader and debug
access. -/
def State.seatReader (s : State) (ag : Agent) (k : Nat) : Bool :=
  match ag with
  | .seat m => m.val == k && s.bar0Open k
  | .dealer n => (rangeFrom 0 16).any (fun j => s.fget (SEAT_LAYER.EN k j) == 1 &&
      s.fget (DSP_LAYER.OWNER (s.fget (SEAT_LAYER.PIPE k j)) (s.fget (SEAT_LAYER.LAYER k j))) == n.val)
  | .loader => true
  | .debug => true
  | _ => false

/-- A memory write of a host to its seat's BAR0: an endpoint in D3hot, whose port is down, answers Unsupported Request (R384). -/
def State.bar0Write (s : State) (k : Fin 4) (off v : Nat) : Host.Outcome State Fault Refusal :=
  if s.pcieSeat k.val ∧ !s.bar0Open k.val then .next (s.emit (.tlp k.val 1 []))
  else s.atHub (.seat k) (fun t => t.seatWrite (.seat k) k.val off v)

/-- DOORBELL: a host write of SEAT_CMDIDX.PI. -/
def execDoorbell (k : Fin 4) (pi : BitVec 8) (s : State) : Host.Outcome State Fault Refusal :=
  s.bar0Write k (SEAT_CMDIDX.reg k.val) pi.toNat

/-- COMPLETION_CI_WRITE: a host write of SEAT_CMPIDX.CI. -/
def execCompletionCiWrite (k : Fin 4) (ci : BitVec 8) (s : State) : Host.Outcome State Fault Refusal :=
  s.bar0Write k (SEAT_CMPIDX.reg k.val) (256 * ci.toNat)

/-- The sources pending and unmasked in a seat's event bits. -/
def State.armedEvents (s : State) (k : Nat) : List Nat :=
  (rangeFrom 0 320).filter (fun e => s.fget (bitFld (SEAT_EVP.reg k 0) e) == 1 && s.fget (bitFld (SEAT_EVM.reg k 0) e) == 0)

/-- The level of the IRQ pin of a seat: asserted while a completion or a notice is unread, or an unmasked event bit is set. -/
def State.irqPin (s : State) (k : Nat) : Bool :=
  s.fget (SEAT_CFG.IRQ k) != 0 &&
  (ringCount (s.fget (SEAT_CMPIDX.PI k)) (s.fget (SEAT_CMPIDX.CI k)) != 0 ||
   ringCount (s.fget (SEAT_NTCIDX.PI k)) (s.fget (SEAT_NTCIDX.CI k)) != 0 || !(s.armedEvents k).isEmpty)

/-- LAYER_LATCH at a tick edge (R395): the latest accepted post of each layer is copied to its latched record; FRESH tells whether this
edge latched one. -/
def State.latchLayer (s : State) (k j : Nat) : State :=
  if s.fget (SEAT_LAYER.EN k j) = 0 then s
  else
    let r := s.seat k
    match r.posts.find? (fun p => p.1 == j) with
    | none => s.fset ⟨SEAT_LATCH.reg k j 9, 0, 1⟩ 0
    | some (_, ws) =>
      let s1 := (rangeFrom 0 8).foldl (fun t i => t.setReg (SEAT_LATCH.reg k j i) (ws.getD i 0)) s
      let s2 := (s1.setReg (SEAT_LATCH.reg k j 8) (s.reg TICK_COUNT.reg)).setReg (SEAT_LATCH.reg k j 9) 1
      s2.setSeat k { r with posts := r.posts.filter (fun p => p.1 != j) }

def State.latchLayers (s : State) : State :=
  (rangeFrom 0 4).foldl (fun t k => (rangeFrom 0 16).foldl (fun u j => u.latchLayer k j) t) s

end Sys2Proof.Machine
end

