-- ==== Sys2Proof/Machine/Clocks.lean ====
section
/-!
DEFINITION. Clocks, gates, monitors and resets (spec/16 R450 to R469), supplies, temperature and power over coax (spec/18 R495, R501, R503,
R504), and the life-cycle request (spec/17 R488 to R491).
-/
namespace Sys2Proof.Machine

open Sys2Proof

/- Resets (R467 to R469). -/

/-- RSTOUT_N: asserted, low, from the trigger of a reset to its release (R468). -/
def State.rstoutN (s : State) : Bool := s.inReset == 0

/-- The registers a cold reset keeps: the life-cycle and identity fuses, the strap, crystals and trim, and RST_CAUSE. -/
def State.keptRegs (s : State) : List Nat :=
  [SYS_LCS.reg, SYS_UID_LO.reg, SYS_UID_HI.reg, SYS_STRAP.reg, CLK_STAT.reg, CLK_TRIM.reg, RST_CAUSE.reg]

/-- The state a power-on reset leaves, the fuses, the levels on the pads, the outside's record, the queue and the clock of the model kept; the
debug port is off until the release (R492). -/
def State.powerOn (s : State) : State :=
  let t := State.reset
  let u := { t with keyHash := s.keyHash, outs := s.outs, fresh := s.fresh, now := s.now, edgeAt := s.now, resetAt := s.now,
                    tEpoch := s.tEpoch + 1, pending := s.pending, esp := { t.esp with pads := s.esp.pads }, pxActive := s.pxActive }
  ([SYS_LCS.reg, SYS_UID_LO.reg, SYS_UID_HI.reg].foldl (fun v r => v.setReg r (s.reg r)) u).fset SYS_LCS.DBG 0

/-- A reset cause that arrives (R468, R469): a power-on reset (cause 0) overrides every other; a cause during a reset is recorded in ALSO;
otherwise a cold reset starts, every block but the reset and clock control is reset, and the cold-frame wipe starts (`wipe` its cause). -/
def State.resetBy (s : State) (cause src wipe : Nat) : State :=
  if cause = 0 then s.powerOn
  else if s.inReset ≠ 0 then s.fset RST_CAUSE.ALSO (s.fget RST_CAUSE.ALSO ||| 2 ^ (cause - 1))
  else
    let c := satAdd 8 (s.fget RST_CAUSE.COLDS) 1
    let u := s.keptRegs.foldl (fun v r => v.setReg r (s.reg r)) s.powerOn
    let u1 := u.fsets [(RST_CAUSE.CAUSE, cause), (RST_CAUSE.SRC, src), (RST_CAUSE.ALSO, 0), (RST_CAUSE.COLDS, c),
      (CLK_STAT.PLLR, 0), (CLK_STAT.XBR, 0), (CLK_STAT.XBFAIL, 0), (SYS_LCS.DBG, 0)]
    { u1 with inReset := 2, xtalOff := s.xtalOff, fbRef := s.fbRef, trimFirst := s.trimFirst, canTrim := s.canTrim, railOut := s.railOut,
              gardTimer := s.gardTimer }.coldWipe wipe

def State.coldReset (s : State) (cause : Nat) : State := s.resetBy cause 0 0

/-- A filtered input held for `ns` nanoseconds: it acts from 1 µs, is ignored below 0.25 µs, and in between the specification leaves it
open. -/
def State.filtered (s : State) (ns : Nat) (act : State → State) : State :=
  if 1000 ≤ ns then act s
  else if ns < 250 then s
  else
    let d := s.draw 16
    if d.1 % 2 = 1 then act d.2 else d.2

/-- POWER_ON_RESET: PWR_GOOD deasserted for `ns`. -/
def execPowerOnReset (ns : Nat) (s : State) : Host.Outcome State Fault Refusal := .next (s.filtered ns (fun t => t.resetBy 0 0 0))

/-- RESET_N_ASSERT: RESET_N asserted for `ns`. -/
def execResetNAssert (ns : Nat) (s : State) : Host.Outcome State Fault Refusal := .next (s.filtered ns (fun t => t.coldReset 1))

/-- RESET_RELEASE: the reset releases, FIRC running; the straps are sampled, the wipe of a power-on starts, the debug port is enabled outside FIELD, the
Trellis tokens are up, and EV269 is raised (R340, R468, R475, R492). -/
def execResetRelease (strap : BitVec 4) (s : State) : Host.Outcome State Fault Refusal :=
  if s.inReset = 0 then .next s
  else
    let s1 := { s with inReset := 0 }
    let s2 := if s1.fget COLD_STAT.WIPES = 0 then s1.coldWipe 0 else s1
    let s3 := s2.fsets [(SYS_STRAP.BOOTCFG, strap.toNat), (SYS_LCS.DBG, b2n (decide (s2.fget SYS_LCS.STATE ≠ 2)))]
    let s4 := (rangeFrom 0 24).foldl (fun t r => t.fset (TRL_RTR.TOKEN r) 255) (s3.fset CLK_STAT.FIRCR 1)
    .next (s4.event 269)

/- Crystals and PLLs (R450 to R453). -/

/-- A PLL's READY flags. -/
def State.setPllReady (s : State) (p : Nat) (b : Bool) : State := (s.fset (CLK_PLL.READY p) (b2n b)).setFbit CLK_STAT.PLLR p b

/-- What an early section already applied has started goes back: pins and power-over-coax switches to their defaults, links and ports down, the
Espalier unconfigured, no deal and no tick (R475). -/
def State.stopParts (s : State) : State :=
  let s1 := (rangeFrom 0 96).foldl (fun t g => t.setReg (PAD_MUX.reg g) 0) s
  let s2 := (rangeFrom 0 14).foldl (fun t k => t.fset (PAD_POC.STATE k) 0) s1
  let s3 := (rangeFrom 0 6).foldl (fun t p => t.fset (DSP_STAT.LINKUP p) 0) s2
  let s4 := (rangeFrom 0 4).foldl (fun t k => t.fset (SEAT_STAT.PORTUP k) 0) s3
  let s5 := allDealers.foldl (fun t n => t.setDl n { t.dl n with live := false }) s4
  { s5.fset ESP_STAT.STATE 0 with esp := { pads := s.esp.pads }, ticking := false }

/-- SAFE_HOLD is entered (R453, R474, R475): the PHYs but DSP0's are disabled, DRAM training stops, and PLV0 locks afresh for pipe 0 at the
ROM set's pixel clock, on XA where XA is qualified and on FIRC otherwise, whatever fallback it had; PIX0 stays on FIRC until it has locked. -/
def State.enterSafeHold (s : State) : State :=
  let t := ((if s.fget LOAD_STAT.STATE = 0 then s else s.stopParts).setPllReady 3 false).fsets [(LOAD_STAT.STATE, 4), (DRAM_STAT.TRAIN, 0),
    (CLK_SEL.SRC 3, 0), (CLK_PLL.REF 3, if s.fget CLK_STAT.XAR = 1 then 1 else 3), (CLK_PLLF.KHZ 3, romKhz (s.fget SYS_STRAP.BOOTCFG))]
  { t with fbRef := t.fbRef.filter (fun p => p.1 != 3), selPlan := [] }

/-- A crystal is enabled: XA at the release of the reset, XB when the clock plan enables it or it is an accepted fallback, and neither after
its failure (R450, R465). -/
def State.xtalOn (s : State) (x : Nat) : Bool :=
  s.inReset == 0 && !natBit s.xtalOff x && (x == 0 || s.plan.xb || s.fbRef.any (fun p => p.2 == 2))

/-- XTAL_QUALIFIED of XA (0) or XB (1): EV261; the Gardener's timer starts with XA (R452, R456). -/
def execXtalQualified (x : Fin 2) (s : State) : Host.Outcome State Fault Refusal :=
  if !s.xtalOn x.val then .next s
  else
    let s1 := { s.fset (if x.val = 0 then CLK_STAT.XAR else CLK_STAT.XBR) 1 with gardTimer := s.gardTimer || x.val == 0,
                                                                                   trimFirst := s.trimFirst || s.fget CLK_TRIM.REF == x.val + 1 }
    .next (s1.event 261)

/-- Crystal x failed to qualify within its 8 ms, and has not qualified since. -/
def State.xtalFailed (s : State) (x : Nat) : Bool :=
  if x = 0 then s.fget CLK_STAT.XAFAIL == 1 && s.fget CLK_STAT.XAR == 0 else s.fget CLK_STAT.XBFAIL == 1 && s.fget CLK_STAT.XBR == 0

/-- XB is enabled by the clock plan `xb`, or an accepted fallback (R453, R465). -/
def State.xbUsed (s : State) (xb : Bool) : Bool := xb || s.fbRef.any (fun p => p.2 == 2)

/-- Neither crystal qualifies: XA failed, and XB failed, or the clock plan has been read and does not enable it (R453). -/
def State.noCrystal (s : State) : Bool :=
  s.xtalFailed 0 && (s.xtalFailed 1 || (s.fget LOAD_STAT.STATE != 0 && !s.xbUsed s.plan.xb))

/-- Once the clock plan has been read, XB takes the place of an XA that failed to qualify, where the plan enables XB; a later qualification of XA
changes nothing (R453). -/
def State.takeXB (s : State) : State := if s.xtalFailed 0 ∧ s.plan.xb ∧ s.fget LOAD_STAT.STATE ≠ 0 then { s with onXB := true } else s

/-- XTAL_QUAL_TIMEOUT: not qualified within 8 ms; when neither crystal qualifies the device enters SAFE HOLD (R452, R453). -/
def execXtalQualTimeout (x : Fin 2) (s : State) : Host.Outcome State Fault Refusal :=
  if !s.xtalOn x.val || s.fget (if x.val = 0 then CLK_STAT.XAR else CLK_STAT.XBR) == 1 then .next s
  else
    let s1 := s.fset (if x.val = 0 then CLK_STAT.XAFAIL else CLK_STAT.XBFAIL) 1
    if s1.noCrystal ∧ !s1.safeHold then .next s1.enterSafeHold else .next s1.takeXB

/-- A reference is qualified: 1 XA, 2 XB, 3 FIRC. -/
def State.refReady (s : State) (r : Nat) : Bool :=
  match r with
  | 1 => s.fget CLK_STAT.XAR == 1
  | 2 => s.fget CLK_STAT.XBR == 1
  | 3 => s.fget CLK_STAT.FIRCR == 1
  | _ => false

/-- Before the clock plan is read the ROM runs PLM and PLE from XA, for the DRAM training and the flash (R477). -/
def State.romPll (s : State) (p : Nat) : Bool :=
  s.inReset == 0 && s.fget (CLK_PLL.REF p) == 0 && s.fget LOAD_STAT.STATE == 0 && (p == 2 || p == 5)

/-- The reference of PLL p: the accepted fallback after a crystal's failure, else CLK_PLLp.REF, XB taking the place of an XA that failed to
qualify (R453, R465, R477). -/
def State.pllRef (s : State) (p : Nat) : Nat :=
  match s.fbRef.find? (fun q => q.1 == p) with
  | some q => q.2
  | none =>
    let r := if s.romPll p then 1 else s.fget (CLK_PLL.REF p)
    if r = 1 ∧ s.onXB then 2 else r

/-- The frequency of PLL p is written: by the clock plan, or by the ROM (R451, R477). -/
def State.pllTimed (s : State) (p : Nat) : Bool := s.romPll p || s.fget (CLK_PLLF.KHZ p) != 0

/-- The loader, and debug access with its rights (R460, R492). -/
def State.clockWriter (s : State) : Agent → Bool
  | .loader => true
  | .debug => s.debugOn
  | _ => false

/-- The frequency the table of R451 fixes for PLL p; none for PLV0 and PLV1. -/
def pllKhz (p : Nat) : Option Nat :=
  match p with | 0 => some 1000000 | 1 => some 1500000 | 2 => some 1066625 | 5 => some 2000000 | _ => none

/-- A write of CLK_TRIM (R454, R455, R460): the frames of another CAN reference are counted afresh. -/
def State.trimWrite (s : State) (ag : Agent) (v : Nat) : Nat × State :=
  if !s.clockWriter ag then (stREFUSED, s)
  else
    let r := s.plainWrite CLK_TRIM.reg v
    (r.1, if r.2.fget CLK_TRIM.REF = s.fget CLK_TRIM.REF then r.2 else { r.2 with canTrim := 0 })

/-- A write of CLK_PLLp or CLK_PLLFp (R451, R460): the fields whose reserved values hang on p are checked; the PLL locks afresh. -/
def State.pllWrite (s : State) (ag : Agent) (off v : Nat) : Nat × State :=
  let p := off % 64 / 8
  let freq := decide (off % 8 = 4)
  let plv := p == 3 || p == 4
  let khz := natBits v 0 24
  let bad : Bool :=
    if freq then
      match pllKhz p with
      | some k => khz != k || natBits v 28 4 != 0
      | none => decide (khz < 25000) || decide (600000 < khz)
    else !plv && (natBits v 0 2 == 3 || natBits v 4 2 == 3)
  if !s.clockWriter ag then (stREFUSED, s)
  else if s.refuses off v then s.plainWrite off v
  else if bad ∧ !s.locked off then (stREFUSED, s.event 270)
  else if s.locked off then s.plainWrite off v
  else
    let r := s.plainWrite off v
    (r.1, r.2.setPllReady p false)

/-- The READY flag of a domain's target source (R457, R458). -/
def State.sourceReady (s : State) (d src : Nat) : Bool :=
  if src = 0 then s.fget CLK_STAT.FIRCR == 1 else s.fget (CLK_PLL.READY d) == 1

/-- A switch of a domain is refused: the domain keeps its source and EV262 is raised (R458). -/
def State.switchRefused (s : State) : Nat × State := (stREFUSED, s.event 262)

/-- A switch of domain d under CLK_SELd: refused while a ramp is in progress or the target source is not ready, else made at once or as a ramp
(R458, R459). -/
def State.switchTo (s : State) (d v : Nat) : Nat × State :=
  if s.fget (CLK_SEL.BUSY d) = 1 then s.switchRefused
  else if !s.sourceReady d (natBits v 0 1) then s.switchRefused
  else
    let s1 := s.fsets [(CLK_SEL.SRC d, natBits v 0 1), (CLK_SEL.RAMP d, natBits v 1 1)]
    (stOK, if natBit v 1 then s1.fsets [(CLK_SEL.BUSY d, 1), (CLK_SEL.STEP d, 3)] else s1)

/-- The loader makes the image's switches whose target source is ready, before the first deal starts; the others wait for theirs (R458 to R460,
log entry 167). -/
def State.planSwitches (s : State) : State :=
  if s.started then s
  else
    let due (q : Nat × Nat) : Bool := s.sourceReady q.1 (natBits q.2 0 1)
    (s.selPlan.filter due).foldl (fun t q => (t.switchTo q.1 q.2).2) { s with selPlan := s.selPlan.filter (fun q => !due q) }

/-- PLL_LOCK: a PLL with a qualified reference and a frequency locks and is ready; with the DRAM clock DRAM training starts, outside SAFE
HOLD, where PLV0 becomes the source of PIX0 (R346, R451, R475, R477); the loader makes the switches that waited for it. -/
def execPllLock (p : Fin 6) (s : State) : Host.Outcome State Fault Refusal :=
  if s.inReset = 0 ∧ s.refReady (s.pllRef p.val) ∧ s.pllTimed p.val then
    let s1 := s.setPllReady p.val true
    .next (if s1.fget LOAD_STAT.STATE = 4 then (if p.val = 3 then s1.fset (CLK_SEL.SRC 3) 1 else s1)
      else (if p.val = 2 ∧ s1.fget DRAM_STAT.TRAIN = 0 then s1.fset DRAM_STAT.TRAIN 1 else s1).planSwitches)
  else .next s

/-- A write of CLK_SELd (R458 to R460). -/
def State.selWrite (s : State) (ag : Agent) (d v : Nat) : Nat × State :=
  let off := CLK_SEL.reg d
  let src := natBits v 0 1
  if !s.clockWriter ag then (stREFUSED, s)
  else if s.refuses off v then s.plainWrite off v
  else if d = 6 ∧ src = 1 ∧ !s.locked off then (stREFUSED, s.event 270)
  else if s.locked off then s.plainWrite off v
  else s.switchTo d v

/-- CLK_NATIVE_SWITCH: a CLK_SELd write with RAMP 0. -/
def execClkNativeSwitch (ag : Agent) (d : Fin 7) (src : Bool) (s : State) : Host.Outcome State Fault Refusal :=
  s.atHub ag (fun t => t.selWrite ag d.val (b2n src))

/-- CLK_RAMP_SWITCH: a CLK_SELd write with RAMP 1. -/
def execClkRampSwitch (ag : Agent) (d : Fin 7) (src : Bool) (s : State) : Host.Outcome State Fault Refusal :=
  s.atHub ag (fun t => t.selWrite ag d.val (b2n src + 2))

/-- RAMP_STEP_EXPIRY: 256 cycles of dwell pass; the divider halves, or after the dwell at ÷1 the ramp ends (R459). -/
def execRampStepExpiry (d : Fin 7) (s : State) : Host.Outcome State Fault Refusal :=
  if s.fget (CLK_SEL.BUSY d.val) = 0 then .next s
  else if s.fget (CLK_SEL.STEP d.val) = 0 then .next (s.fset (CLK_SEL.BUSY d.val) 0)
  else .next (s.fset (CLK_SEL.STEP d.val) (s.fget (CLK_SEL.STEP d.val) - 1))

/- Gates (R461, R462). -/

/-- The parent of a gate. -/
def gateParent (g : Nat) : Option Nat :=
  if 1 ≤ g ∧ g ≤ 8 then some 0 else if 10 ≤ g ∧ g ≤ 15 then some 9 else if 17 ≤ g ∧ g ≤ 22 then some 16 else none

/-- The children of a gate. -/
def gateChildren (g : Nat) : List Nat := (rangeFrom 0 25).filter (fun k => gateParent k == some g)

/-- The use count of a gate: 1 for an enabled leaf, the enabled children of a root. -/
def State.gateUse (s : State) (g : Nat) : Nat :=
  match gateChildren g with
  | [] => s.fget (CLK_GATE.EN g)
  | l => (l.filter (fun k => s.fget (CLK_GATE.EN k) == 1)).length

/-- A port bound to a seat: the command port code, or a CAN notice port. -/
def State.portBound (s : State) (cmdp : Nat) : Bool :=
  (rangeFrom 0 4).any (fun k => s.fget (SEAT_CFG.EN k) == 1 &&
    (s.fget (SEAT_CFG.CMDP k) == cmdp || (decide (5 ≤ cmdp) && s.fget (SEAT_CFG.NTCP k) == cmdp - 4)))

/-- The leaf of a block that the image uses. -/
def State.gateNeeded (s : State) (g : Nat) : Bool :=
  if 1 ≤ g ∧ g ≤ 8 then s.fget (CAM_CFG.EN (g - 1)) == 1
  else if 10 ≤ g ∧ g ≤ 15 then s.pipeUsed (g - 10)
  else if 17 ≤ g ∧ g ≤ 22 then s.portBound (g - 14)
  else if g = 23 then s.plan.esp.isSome
  else if g = 24 then s.fget LOAD_STAT.SLOT == 1
  else false

/-- A write of CLK_GATEg (R462).  A refusal of R462 wins over the check of R9, so a write that breaks both raises EV263 alone (log entry 127). -/
def State.gateWrite (s : State) (ag : Agent) (g v : Nat) : Nat × State :=
  let on := s.fget (CLK_GATE.EN g) == 1
  let new := natBit v 0
  let writer : Bool := match ag with | .gardener => true | a => s.clockWriter a
  let parentOff : Bool := match gateParent g with | some p => s.fget (CLK_GATE.EN p) == 0 | none => false
  let refused := !writer || (on && !new && ((gateChildren g).any (fun k => s.gateUse k != 0) || s.gateNeeded g)) || (!on && new && parentOff)
  if refused then (stREFUSED, s.event 263) else s.plainWrite (CLK_GATE.reg g) v

/-- CLK_GATE_WRITE by an agent. -/
def execClkGateWrite (ag : Agent) (g : Fin 25) (en : Bool) (s : State) : Host.Outcome State Fault Refusal :=
  s.atHub ag (fun t => t.gateWrite ag g.val (b2n en))

/- FIRC trim (R454 to R456). -/

/-- The trim reference is qualified. -/
def State.trimReady (s : State) : Bool :=
  match s.fget CLK_TRIM.REF with
  | 0 => false
  | 1 => s.fget CLK_STAT.XAR == 1
  | 2 => s.fget CLK_STAT.XBR == 1
  | _ => decide (32 ≤ s.canTrim)

/-- TRIM_WINDOW: a window closes; `target` is the code the measured error gives, `within` that FIRC lies within ±0.25 %.  The first window
sets the code, a later one moves it by at most one step; after the first deal only in the device fallow. -/
def execTrimWindow (target : BitVec 10) (within : Bool) (s : State) : Host.Outcome State Fault Refusal :=
  if !s.trimReady || (s.started && !s.fallow) then .next s
  else
    let c := s.fget CLK_TRIM.CODE
    let t := target.toNat
    let new := if s.trimFirst then t else if c < t then c + 1 else if t < c then c - 1 else c
    let s1 := { s.fset CLK_TRIM.CODE new with trimFirst := false }
    let s2 := if within then { s1.fset CLK_STAT.TRIMMED 1 with gardTimer := true } else s1
    .next (if new = c then s2 else s2.event 260)

/-- CAN_TRIM_FRAME: a frame that the controller of the CAN trim reference, bound to a seat, receives without error is timed; the 32nd qualifies
the reference, and the first window follows (R379, R454, R455). -/
def execCanTrimFrame (c : Fin 4) (s : State) : Host.Outcome State Fault Refusal :=
  if s.fget CLK_TRIM.REF = 3 + c.val ∧ s.portBound (5 + c.val) then
    .next { s with canTrim := min 32 (s.canTrim + 1), trimFirst := s.trimFirst || s.canTrim == 31 }
  else .next s

/- Monitors (R463 to R466). -/

/-- The monitor of a source, as RST_CAUSE.SRC numbers it, is armed: the source and its reference are qualified, FIRC from the release of
the power-on reset (R463). -/
def State.armed (s : State) (src : Nat) : Bool :=
  s.fget CLK_STAT.FIRCR == 1 && s.inReset != 1 && match src with
  | 0 => s.fget CLK_STAT.SIRCR == 1
  | 2 => s.fget CLK_STAT.XAR == 1
  | 3 => s.fget CLK_STAT.XBR == 1
  | p + 4 => decide (p < 6) && s.fget (CLK_PLL.READY p) == 1
  | _ => false

/-- The domain a PLL clocks has its source bit cleared: it is switched to FIRC. -/
def State.toFirc (s : State) (p : Nat) : State := s.fset (CLK_SEL.SRC p) 0

/-- The failure actions of R465 for the PLLs `l`, which crystal x references: each is switched to its fallback reference, or the switch is
refused; whether every switch was accepted. -/
def State.fallBack (s : State) (x : Nat) (l : List Nat) : Bool × State :=
  l.foldl (fun (acc : Bool × State) p =>
    let t := acc.2.toFirc p
    let fb := t.fget (CLK_PLL.FBREF p)
    if fb ≠ x ∧ t.refReady fb then (acc.1, { t with fbRef := Sparse.insert t.fbRef p fb }) else (false, t.event 262)) (true, s)

/-- CLOCK_MONITOR_FAIL of a source numbered as RST_CAUSE.SRC (R465); during a reset no PLL runs that it could reference (R466, R468).  With FIRC's failure the reset is held until FIRC runs again; after
CLKFAIL_NOFB the crystal is qualified afresh, and its failure flag is clear (log entry 145). -/
def execClockMonitorFail (src : Fin 10) (s : State) : Host.Outcome State Fault Refusal :=
  if !s.armed src.val then .next s
  else if src.val = 0 then .next ((s.fset CLK_STAT.FIRCR 0).resetBy 4 0 0)
  else if src.val = 2 ∨ src.val = 3 then
    let x := src.val - 1
    let s1 := s.fsets (if x = 1 then [(CLK_STAT.XAR, 0), (CLK_STAT.XAFAIL, 1)] else [(CLK_STAT.XBR, 0), (CLK_STAT.XBFAIL, 1)])
    let r := s1.fallBack x (if s.inReset = 0 then (rangeFrom 0 6).filter (fun p => s.pllRef p == x) else [])
    if r.1 then .next ({ r.2 with xtalOff := setNatBit r.2.xtalOff (x - 1) true }.resetBy 2 src.val 0)
    else .next ({ r.2.fset (if x = 1 then CLK_STAT.XAFAIL else CLK_STAT.XBFAIL) 0 with fbRef := [] }.resetBy 3 src.val 0)
  else .next (((s.toFirc (src.val - 4)).setPllReady (src.val - 4) false).resetBy 2 src.val 0)

/-- FIRC_MONITOR_WARNING (R463). -/
def execFircMonitorWarning (s : State) : Host.Outcome State Fault Refusal :=
  if s.armed 0 then .next (s.event 272) else .next s

/-- SIRC_WINDOW_TIMEOUT: the FIRC monitor disarms itself (R464). -/
def execSircWindowTimeout (s : State) : Host.Outcome State Fault Refusal :=
  if s.armed 0 then .next ((s.fset CLK_STAT.SIRCR 0).event 272) else .next s

/-- SIRC_QUALIFIED (R463). -/
def execSircQualified (s : State) : Host.Outcome State Fault Refusal := .next (s.fset CLK_STAT.SIRCR 1)

/- Supplies and temperature. -/

/-- SUPPLY_WARNING: a rail, 0 being VDD_CORE, leaves or re-enters its warning window (R495). -/
def execSupplyWarning (rail : Fin 7) (outside : Bool) (s : State) : Host.Outcome State Fault Refusal :=
  if natBit s.railOut rail.val = outside then .next s
  else .next ({ s with railOut := setNatBit s.railOut rail.val outside }.event (if rail.val = 0 then 266 else 267))

/-- SUPPLY_RESET_EXPIRY (R495). -/
def execSupplyResetExpiry (s : State) : Host.Outcome State Fault Refusal := .next (s.coldReset 6)

/-- THERMAL_THRESHOLD: the hottest junction reads `tj` °C; the three thresholds have 3 °C of hysteresis (R501). -/
def execThermalThreshold (tj : BitVec 9) (s : State) : Host.Outcome State Fault Refusal :=
  let t := tj.toInt
  let s1 := { s.fset PAD_THERM.TJ tj.toNat with hot := decide (145 < t) || (s.hot && decide (142 < t)) }
  let step (u : State) (f : Fld) (lim : Int) (ev : Nat) : State :=
    if lim < t ∧ u.fget f = 0 then (u.fset f 1).event ev else if t ≤ lim - 3 then u.fset f 0 else u
  .next (step (step s1 PAD_THERM.WARN 130 264) PAD_THERM.CRIT 137 265)

/-- THERMAL_SHUTDOWN_EXPIRY: 1 ms above the shutdown threshold has passed (R501). -/
def execThermalShutdownExpiry (s : State) : Host.Outcome State Fault Refusal := if s.hot then .next (s.coldReset 7) else .next s

/- Power over coax (R503, R504): OFF 0, ON 1, WAIT 2, LATCHED 3. -/

/-- Cuts of link k within the last 10 s, both ends included. -/
def State.recentCuts (s : State) (k : Nat) : List Nat := (Sparse.get [] s.pocCuts k).filter (fun t => decide (s.now ≤ t + 10000000000))

/-- POC_OVERCURRENT: POCk_ISNS reads `mv`. -/
def execPocOvercurrent (k : Fin 14) (mv : Nat) (s : State) : Host.Outcome State Fault Refusal :=
  if s.fget (PAD_POC.EN k.val) = 1 ∧ s.fget (PAD_POC.STATE k.val) = 1 ∧ s.fget (PAD_POC.VTRIP k.val) < mv then
    let cuts := s.recentCuts k.val ++ [s.now]
    let s1 := { s.bump (PAD_POC.CUTS k.val) 1 with pocCuts := Sparse.insert s.pocCuts k.val cuts }
    let latch := decide (3 ≤ cuts.length)
    let s2 := s1.fsets [(PAD_POC.STATE k.val, if latch then 3 else 2), (PAD_POC.STRIKES k.val, min 3 cuts.length)]
    let s3 := if k.val < 8 then (s2.fset (CAM_STAT.POC k.val) 1).event (188 + k.val) else (s2.fset (DSP_STAT.POC (k.val - 8)) 1).event 179
    .next (if latch then s3.event 271 else s3)
  else .next s

/-- POC_RETRY_EXPIRY: the switch of a waiting link closes again. -/
def execPocRetryExpiry (k : Fin 14) (s : State) : Host.Outcome State Fault Refusal :=
  if s.fget (PAD_POC.EN k.val) = 1 ∧ s.fget (PAD_POC.STATE k.val) = 2 then .next (s.fset (PAD_POC.STATE k.val) 1) else .next s

/- Life cycle (R487 to R491). -/

/-- A life-cycle change that SYS_LCREQ may request, or an LCREQ section for any device (R2, R488). -/
def State.lcAllowed (s : State) (target : Nat) : Bool :=
  match s.fget SYS_LCS.STATE, target with
  | 0, 1 => true
  | 0, 2 => s.fget SYS_LCS.KEYSET == 1 && s.fget SYS_LCS.ES == 0
  | 1, 3 => true
  | _, _ => false

/-- A write of SYS_LCREQ (R488): debug access alone; any change that is not allowed is refused under R9. -/
def State.lcreqWrite (s : State) (ag : Agent) (v : Nat) : Nat × State :=
  if ag ≠ .debug ∨ !s.debugOn then (stREFUSED, s)
  else if natBits v 24 8 ≠ 0x4C ∨ natBits v 2 22 ≠ 0 ∨ !s.lcAllowed (natBits v 0 2) then (stREFUSED, s.event 270)
  else (stOK, { s with lcReq := some (natBits v 0 2) })

/-- SYS_LCREQ_WRITE by an agent. -/
def execSysLcreqWrite (ag : Agent) (v : Word) (s : State) : Host.Outcome State Fault Refusal := s.atHub ag (fun t => t.lcreqWrite ag v.toNat)

/-- FUSE_PROGRAMMING_DONE: what was requested is in the fuses, once the main read is verified; a life-cycle change makes a cold reset with
cause LCS, which wipes the cold frame (R490, R491). -/
def execFuseProgrammingDone (s : State) : Host.Outcome State Fault Refusal :=
  if !s.mainRead then .next s
  else
    let s1 := match s.keyFuse with | some h => { s.fset SYS_LCS.KEYSET 1 with keyHash := h, keyFuse := none } | none => s
    let s2 := match s1.svnFuse with
      | some v => { s1.fset SYS_LCS.MINSVN (max v (s1.fget SYS_LCS.MINSVN)) with svnFuse := none } | none => s1
    match s2.lcReq with
    | some t => .next ({ s2.fset SYS_LCS.STATE t with lcReq := none }.resetBy 8 0 4)
    | none => .next s2

end Sys2Proof.Machine
end

