-- ==== Sys2Proof/Machine/Espalier.lean ====
section
/-!
DEFINITION. The Espalier fabric (spec/15 R433 to R447): terms, macrocells and the interconnect, flip-flops and their clocks, pads, event
lines, the fabric's states and its staged release.
-/
namespace Sys2Proof.Machine

open Sys2Proof

/-- Codes of ESP_STAT.STATE. -/
def espUNCONFIGURED : Nat := 0
def espSTART : Nat := 1
def espRUN : Nat := 2
def espRECOVERY : Nat := 3
def espTEST : Nat := 4

def State.bits (s : State) : Bitstream := s.plan.esp.getD {}

/-- A GPIO pin the PAD plan assigns to the Espalier (R438). -/
def State.espPad (s : State) (g : Nat) : Bool := s.fget (PAD_MUX.FUNC g) == 1

/-- FCLK runs: PLE is ready, domain PER has it as its source, and the Espalier's gate passes it (R442, R457, R461; log entry 143). -/
def State.fclkOn (s : State) : Bool :=
  s.fget (CLK_PLL.READY 5) == 1 && s.fget (CLK_SEL.SRC 5) == 1 && s.fget (CLK_GATE.EN 23) == 1

/-- What the fabric's wires take their values from: the inputs of the assigned pads, EI lines and macrocell outputs, as bit masks; `live` tells
that write enables are released, before which set and reset move no flip-flop from INIT (R446). -/
structure EspEnv where
  pads : Nat
  ei : Nat
  out : Nat
  grst : Bool
  live : Bool

/-- The value of a source of the interconnect (R436). -/
def EspEnv.source (e : EspEnv) (sel : Nat) : Bool :=
  if sel = 0 then false else if sel = 1 then true
  else if sel < 98 then natBit e.pads (sel - 2)
  else if sel < 162 then natBit e.ei (sel - 98)
  else natBit e.out (sel - 162)

/-- A term of a block: the AND of its literals; a term with none is 1 (R433). -/
def EspEnv.term (e : EspEnv) (b : Bitstream) (blk t : Nat) : Bool :=
  (Sparse.get [] b.terms (96 * blk + t)).all (fun l => e.source (Sparse.get 0 b.inputs (40 * blk + l.1)) == l.2)

/-- The XOR result of a macrocell (R434). -/
def EspEnv.xorOf (e : EspEnv) (b : Bitstream) (m : Nat) (c : Macrocell) : Bool :=
  let sum := c.sum.any (e.term b (m / 16))
  match c.xorTerm with
  | some t => xor sum (e.term b (m / 16) t)
  | none => xor sum c.xorOne

/-- Whether a set or reset line acts. -/
def EspEnv.ctl (e : EspEnv) (b : Bitstream) (m : Nat) : EspCtl → Bool
  | .none => false
  | .term t => e.live && e.term b (m / 16) t
  | .global g => e.live && e.source (Sparse.get 0 b.gl g.val)
  | .grst => e.live && e.grst

/-- Set or reset acts on a macrocell. -/
def EspEnv.held (e : EspEnv) (b : Bitstream) (mc : Nat × Macrocell) : Bool := e.ctl b mc.1 mc.2.rst || e.ctl b mc.1 mc.2.set

/-- One macrocell's output given the others: COMB shows its XOR result; a flip-flop its value, unless set or reset acts on it, reset
winning (R434, R435). -/
def EspEnv.cell (e : EspEnv) (b : Bitstream) (ff : Nat) (mc : Nat × Macrocell) : Bool :=
  if mc.2.kind = 0 then e.xorOf b mc.1 mc.2
  else if e.ctl b mc.1 mc.2.rst then false
  else if e.ctl b mc.1 mc.2.set then true
  else natBit ff mc.1

/-- One pass over the macrocells. -/
def EspEnv.pass (e : EspEnv) (b : Bitstream) (ff : Nat) : EspEnv :=
  { e with out := b.macros.foldl (fun v mc => setNatBit v mc.1 (e.cell b ff mc)) 0 }

/-- The wires settle: passes until nothing changes, at most `fuel` of them. -/
def EspEnv.settle (b : Bitstream) (ff : Nat) : Nat → EspEnv → EspEnv
  | 0, e => e
  | fuel + 1, e =>
    let e1 := e.pass b ff
    if e1.out = e.out then e1 else EspEnv.settle b ff fuel e1

/-- GRST is asserted until the last stage of the release (R446). -/
def State.grst (s : State) : Bool := s.fget ESP_STAT.STAGE != 3

/-- The flip-flops may change: write enables are released (R446). -/
def State.espClocked (s : State) : Bool :=
  decide (2 ≤ s.fget ESP_STAT.STAGE) && s.fget ESP_STAT.STATE != espUNCONFIGURED

/-- The levels of the pads assigned to the Espalier (R438). -/
def State.espPads (s : State) : Nat := (rangeFrom 0 96).foldl (fun v g => setNatBit v g (s.espPad g && natBit s.esp.pads g)) 0

/-- The settled fabric: the wires settle from where they stood, so that a loop of COMB macrocells keeps its state. -/
def State.espEnv (s : State) : EspEnv :=
  EspEnv.settle s.bits s.esp.ff 1025
    { pads := s.espPads, ei := s.esp.ei, out := s.esp.ff ||| s.esp.comb, grst := s.grst, live := s.espClocked }

/-- Sets the bits of a mask for the macrocells that `p` picks. -/
def macroMask (b : Bitstream) (p : Nat × Macrocell → Bool) : Nat :=
  b.macros.foldl (fun v mc => setNatBit v mc.1 (p mc)) 0

/-- The wires settle after a change: asynchronous sets and resets leave their value in the flip-flops, the COMB outputs stand, and the sets and
resets that went inactive are noted (R434, R435). -/
def State.espHold (s : State) : State :=
  let e := s.espEnv
  let ctl := macroMask s.bits (fun mc => mc.2.kind != 0 && e.held s.bits mc)
  let drop := s.esp.ctl ^^^ (s.esp.ctl &&& ctl)
  let q := s.esp
  { s with esp := { q with ff := macroMask s.bits (fun mc => mc.2.kind != 0 && natBit e.out mc.1),
                           comb := macroMask s.bits (fun mc => mc.2.kind == 0 && natBit e.out mc.1), ctl := ctl,
                           fell := if drop = 0 then q.fell else (if q.fellAt = s.now then q.fell else 0) ||| drop,
                           fellAt := if drop = 0 then q.fellAt else s.now } }

/-- The set or reset of macrocell m, inactive at an edge now, went inactive within the edge's setup window (R435): with the edge itself, in this
cycle or in the last (log entry 105). -/
def State.espFresh (s : State) (m : Nat) : Bool := natBit s.esp.ctl m || (natBit s.esp.fell m && decide (s.now ≤ s.esp.fellAt + 1))

/-- A macrocell whose clock is its alternate one: in START, TEST and RECOVERY (R442). -/
def State.usesAlt (s : State) (c : Macrocell) : Bool := c.alt.isSome && s.fget ESP_STAT.STATE != espRUN

/-- What a flip-flop takes at an edge of its clock: D, or its value toggled (R434). -/
def State.espNext (s : State) (e : EspEnv) (mc : Nat × Macrocell) : Bool :=
  let x := e.xorOf s.bits mc.1 mc.2
  if mc.2.kind = 1 then x else xor (natBit s.esp.ff mc.1) x

/-- The flip-flops whose clock rises take their next value, all from the wires before the edge; a set or reset active at the edge overrides it,
and one that has just gone inactive leaves either value (R435). -/
def State.espClock (s : State) (rises : Nat × Macrocell → Bool) : State :=
  if !s.espClocked then s
  else
    let e := s.espEnv
    let r := s.bits.macros.foldl (fun (acc : Nat × State) mc =>
      if mc.2.kind = 0 ∨ !rises mc ∨ e.held s.bits mc then acc
      else if s.espFresh mc.1 then
        let d := acc.2.draw 15
        (if d.1 % 2 = 1 then setNatBit acc.1 mc.1 (s.espNext e mc) else acc.1, d.2)
      else (setNatBit acc.1 mc.1 (s.espNext e mc), acc.2)) (s.esp.ff, s)
    ({ r.2 with esp := { r.2.esp with ff := r.1 } } : State).espHold

/-- The alternate clocks that have risen since the last look clock their macrocells (R442). -/
def State.espAlt (s : State) : State :=
  let e := s.espEnv
  let level (mc : Nat × Macrocell) : Bool := match mc.2.alt with | some sel => e.source sel | none => false
  let was (mc : Nat × Macrocell) : Bool := Sparse.get false s.esp.alts mc.1
  let t := s.espClock (fun mc => s.usesAlt mc.2 && level mc && !was mc)
  { t with esp := { t.esp with alts := s.bits.macros.foldl (fun l mc => Sparse.set false l mc.1 (level mc)) [] } }

/-- The clock of tree g rises. -/
def State.espTree (s : State) (trees : List Nat) : State :=
  (s.espClock (fun mc => !s.usesAlt mc.2 && mc.2.fg.any (fun g => trees.contains g.val))).espAlt

/-- Every tree stands at its low level: in TEST with STOP set (R445). -/
def State.treesStopped (s : State) : Bool := s.fget ESP_STAT.STATE == espTEST && s.fget ESP_TEST.STOP == 1

/-- Time passes since the sets and resets last went inactive: no edge from here on is within their setup window (log entry 105). -/
def State.espSettled (s : State) : State := { s with esp := { s.esp with fell := 0 } }

/-- The trees that FCLK's divider lets rise at this edge; TEST with STOP stops them (R442, R445). -/
def State.fclkTrees (s : State) : List Nat × State :=
  if s.treesStopped then ([], s)
  else (rangeFrom 0 4).foldl (fun (acc : List Nat × State) g =>
    if acc.2.fget (ESP_FG.SRC g) = 1 then acc
    else
      let c := Sparse.get 0 acc.2.esp.fg g
      let top := decide (acc.2.fget (ESP_FG.DIV g) ≤ c)
      (if top then acc.1 ++ [g] else acc.1,
       { acc.2 with esp := { acc.2.esp with fg := Sparse.set 0 acc.2.esp.fg g (if top then 0 else c + 1) } })) ([], s)

/-- The levels of the 64 EO lines: 0 until the outputs are released (R446). -/
def State.eoLevels (s : State) : Nat :=
  if s.fget ESP_STAT.STAGE = 0 then 0
  else
    let e := s.espEnv
    (rangeFrom 0 64).foldl (fun v k => setNatBit v k (e.source (Sparse.get 0 s.bits.eo k))) 0

/-- A change of the fabric's state: each alternate-clocked flip-flop then holds a value nobody guarantees (R444). -/
def State.espEnter (s : State) (st : Nat) : State :=
  let s1 := s.fset ESP_STAT.STATE st
  s.bits.macros.foldl (fun t mc =>
    if mc.2.alt.isSome ∧ mc.2.kind ≠ 0 then
      let d := t.draw 15
      { d.2 with esp := { d.2.esp with ff := setNatBit d.2.esp.ff mc.1 (d.1 % 2 == 1) } }
    else t) s1

/-- Whether a macrocell reads 1. -/
def State.macroOut (s : State) (m : Nat) : Bool := natBit s.espEnv.out m

/-- RUN is due: from START once GRST is released and STARTDONE reads 1 or is not declared, from RECOVERY once RECREQ reads 0 (R443). -/
def State.runDue (s : State) : Bool :=
  match s.fget ESP_STAT.STATE with
  | 1 => !s.grst && (match s.bits.startDone with | some m => s.macroOut m | none => true)
  | 3 => (match s.bits.recReq with | some m => !s.macroOut m | none => true)
  | _ => false

/-- RECOVERY is due: in RUN with RECREQ at 1. -/
def State.recoveryDue (s : State) : Bool :=
  s.fget ESP_STAT.STATE == espRUN && (match s.bits.recReq with | some m => s.macroOut m | none => false)

/-- An FCLK edge, while FCLK runs: the EI pulses of the last cycle end and the waiting ones begin (R439), the trees clock (R442), the pads are sampled, the
state may change (R443), and the snapshot of the EO lines is taken, each rise of EO0 to EO27 raising its event (R440, R441). -/
def State.fclkEdge (s : State) : State :=
  if s.fget ESP_STAT.STATE = espUNCONFIGURED ∨ s.fclkOn = false then s
  else
    let ei := s.eiPend.foldl (fun v p => if p.2 then setNatBit v (s.fget (EVT_ROUTE.ELINE p.1)) true else v) 0
    let q := s.fclkTrees
    let s1 := q.2.espTree q.1
    let s2 := ({ s1 with eiPend := [], esp := { s1.esp with ei := ei } } : State).espHold.espAlt
    let s3 := (rangeFrom 0 3).foldl (fun t i => t.fset (ESP_GPI.LEVEL i) (natBits t.espPads (32 * i) 32)) s2
    let s4 := if s3.runDue then s3.espEnter espRUN else if s3.recoveryDue then s3.espEnter espRECOVERY else s3
    let old := s4.fget ESP_EO_LO.EO
    let eo := s4.eoLevels
    let s5 := s4.fsets [(ESP_EO_LO.EO, eo % 2 ^ 32), (ESP_EO_HI.EO, eo / 2 ^ 32)]
    (rangeFrom 0 28).foldl (fun t k => if natBit eo k && !natBit old k then t.event (292 + k) else t) s5

/-- One ACLK cycle of the fabric's clock: FCLK has an edge each time its phase passes a cycle. -/
def State.espTick (s : State) : State :=
  if s.fclkOn = false then s else
  let ph := s.esp.phase + s.fget ESP_FCLK.KHZ
  if 1000000 ≤ ph then { s with esp := { s.esp with phase := ph - 1000000 } }.fclkEdge
  else { s with esp := { s.esp with phase := ph } }

/-- One ACLK cycle in which no command arrives passes: the clock of the model advances, and with it the fabric's (log entry 7). -/
def State.idle (s : State) : State := ({ s with now := s.now + 1 } : State).espTick

/-- The level a pad of the Espalier drives, or none while it is released to its weak pull (R438, R446). -/
def State.padDrive (s : State) (g : Nat) : Option Bool :=
  if !s.espPad g || s.fget ESP_STAT.STAGE == 0 then none
  else
    let e := s.espEnv
    if e.source (Sparse.get 0 s.bits.gpioOe g) then some (e.source (Sparse.get 0 s.bits.gpioOut g)) else none

/-- IRQ pin i, that of the seat whose SEAT_CFG.IRQ names it, is asserted (R379, R405). -/
def State.irqLevel (s : State) (i : Nat) : Bool := (rangeFrom 0 4).any (fun k => s.fget (SEAT_CFG.IRQ k) == i + 1 && s.irqPin k)

/-- The level the device drives on GPIO g, or none while it is released to its weak pull: the function that PAD_MUXg gives the pin (R405, R438,
R507). -/
def State.gpioLevel (s : State) (g : Nat) : Option Bool :=
  match s.fget (PAD_MUX.FUNC g) with
  | 1 => s.padDrive g
  | 2 => some (s.irqLevel (s.fget (PAD_MUX.SEL g)))
  | 3 => some (natBit s.fsync (s.fget (PAD_MUX.SEL g)))
  | _ => none

/-- The loader writes the configuration: flip-flops hold INIT, a loop of COMB macrocells settles from a free value, and the fabric enters START
(R446). -/
def State.espConfigure (s : State) : State :=
  match s.plan.esp with
  | none => s
  | some b =>
    let d := s.draw 17
    let u : State := { d.2 with esp := { d.2.esp with ff := macroMask b (fun mc => mc.2.kind != 0 && mc.2.init),
                                                      comb := macroMask b (fun mc => mc.2.kind == 0 && natBit d.1 mc.1), ctl := 0, fell := 0 } }
    (u.fsets [(ESP_STAT.STATE, espSTART), (ESP_STAT.STAGE, 0)]).espHold

/-- The tell-tales the Espalier drives are in their safe state until its staged release completes (R304, R446). -/
def State.espTells (s : State) : State :=
  (rangeFrom 0 256).foldl (fun t i => if t.fget (TELL_DEF_W0.EN i) = 1 ∧ t.fget (TELL_DEF_W0.SRC i) = 4 then t.enterSafe i 3 else t) s

/-- ESP_OUTPUTS_RELEASE: step 2 of the staged release, at an FCLK edge (R446). -/
def execEspOutputsRelease (s : State) : Host.Outcome State Fault Refusal :=
  if s.fget ESP_STAT.STATE = espSTART ∧ s.fget ESP_STAT.STAGE = 0 ∧ s.fclkOn then .next ((s.fset ESP_STAT.STAGE 1).milestone 1) else .next s

/-- ESP_WRITE_ENABLE: step 3; the flip-flops that GRST, a set or a reset holds take its value. -/
def execEspWriteEnable (s : State) : Host.Outcome State Fault Refusal :=
  if s.fget ESP_STAT.STAGE = 1 ∧ s.fclkOn then .next (s.fset ESP_STAT.STAGE 2).espHold else .next s

/-- ESP_RESET_RELEASE: step 4, GRST deasserts and EV273 is raised; with no STARTDONE declared START is left at once (R443). -/
def execEspResetRelease (s : State) : Host.Outcome State Fault Refusal :=
  if s.fget ESP_STAT.STAGE = 2 ∧ s.fclkOn then
    let s1 := (s.fset ESP_STAT.STAGE 3).espHold
    .next ((if s.bits.startDone = none then s1.espEnter espRUN else s1).event 273)
  else .next s

/-- ESP_RUN_ENTRY: the FCLK edge at which the fabric enters RUN (R443). -/
def execEspRunEntry (s : State) : Host.Outcome State Fault Refusal := if s.runDue then .next s.fclkEdge else .next s

/-- ESP_RECOVERY_ENTRY: the FCLK edge at which the fabric enters RECOVERY (R443). -/
def execEspRecoveryEntry (s : State) : Host.Outcome State Fault Refusal := if s.recoveryDue then .next s.fclkEdge else .next s

/-- ESP_EO_RISE: the FCLK edge that sees EO k rise (R440). -/
def execEspEoRise (k : Fin 28) (s : State) : Host.Outcome State Fault Refusal :=
  if natBit s.eoLevels k.val ∧ !natBit (s.fget ESP_EO_LO.EO) k.val then .next s.fclkEdge else .next s

/-- A write of ESP_TEST (R443, R445): debug access outside FIELD alone.  A pulse of STEP comes after every change that stands before the write. -/
def State.espTestWrite (s : State) (ag : Agent) (v : Nat) : Nat × State :=
  let st := s.fget ESP_STAT.STATE
  if ag ≠ .debug ∨ !s.debugOn then (stREFUSED, s)
  else if s.refuses ESP_TEST.reg v then s.plainWrite ESP_TEST.reg v
  else
    let enter := natBit v 0
    let s1 := s.fset ESP_TEST.ENTER (b2n enter)
    if st = espTEST ∧ !enter then (stOK, (s1.fset ESP_TEST.STOP 0).espEnter espRUN)
    else
      let s2 := if enter ∧ (st = espRUN ∨ st = espRECOVERY) then s1.espEnter espTEST else s1
      let s3 := s2.fset ESP_TEST.STOP (b2n (natBit v 1))
      (stOK, if natBit v 2 ∧ s3.fget ESP_STAT.STATE = espTEST ∧ natBit v 1 then s3.espSettled.espTree [0, 1, 2, 3] else s3)

/-- A write of ESP_TEST with the fields of the row, the other writable fields as they stand. -/
def State.espTestRow (s : State) (ag : Agent) (enter stop step : Bool) : Host.Outcome State Fault Refusal :=
  s.atHub ag (fun t => t.espTestWrite ag (b2n enter + 2 * b2n stop + 4 * b2n step))

/-- ESP_TEST_ENTER. -/
def execEspTestEnter (ag : Agent) (s : State) : Host.Outcome State Fault Refusal :=
  s.espTestRow ag true (s.fget ESP_TEST.STOP == 1) false

/-- ESP_TEST_EXIT. -/
def execEspTestExit (ag : Agent) (s : State) : Host.Outcome State Fault Refusal := s.espTestRow ag false false false

/-- ESP_TEST_STOP. -/
def execEspTestStop (ag : Agent) (s : State) : Host.Outcome State Fault Refusal :=
  s.espTestRow ag (s.fget ESP_TEST.ENTER == 1) true false

/-- ESP_TEST_STEP. -/
def execEspTestStep (ag : Agent) (s : State) : Host.Outcome State Fault Refusal :=
  s.espTestRow ag (s.fget ESP_TEST.ENTER == 1) (s.fget ESP_TEST.STOP == 1) true

/-- GPIO_PAD_INPUT_CHANGE: the level on a pad, which stands whatever the pin is assigned to; from an assigned pin it feeds the interconnect, and for GPIOn may clock tree FGn (R436, R442). -/
def execGpioPadInputChange (g : Fin 96) (level : Bool) (s : State) : Host.Outcome State Fault Refusal :=
  let rose := level && !natBit s.esp.pads g.val
  let s1 := { s with esp := { s.esp with pads := setNatBit s.esp.pads g.val level } }
  if !s.espPad g.val then .next s1
  else if g.val < 4 ∧ s.fget (ESP_FG.SRC g.val) = 1 ∧ rose ∧ s.treesStopped = false then .next (s1.espTree [g.val])
  else .next s1.espHold.espAlt

end Sys2Proof.Machine
end

