-- ==== Sys2Proof/Machine/Device.lean ====
section
/-!
DEFINITION. Device register accesses (spec/00 R5 to R12, spec/01 R33 to R36) and the bus: what a read or a write of any address does.
-/
namespace Sys2Proof.Machine

open Sys2Proof

/- Reads. -/

/-- The levels of a Dealer for which an event is pending (LVLSTAT.PEND). -/
def State.pendLevels (s : State) (n : Nat) : Nat :=
  (rangeFrom 0 10).foldl (fun v i =>
    let w := (s.reg (EVT_PEND.reg i)).toNat
    if w = 0 then v
    else (rangeFrom 0 32).foldl (fun x b =>
      let e := 32 * i + b
      if natBit w b ∧ s.fget (EVT_ROUTE.KIND e) = 1 ∧ s.fget (EVT_ROUTE.DEALER e) = n then setNatBit x (s.fget (EVT_ROUTE.LEVEL e)) true
      else x) v) 0

/-- The armed monitors (CLK_MON). -/
def State.monitors (s : State) : Nat :=
  b2n (s.armed 2) + 2 * b2n (s.armed 3) + (rangeFrom 0 6).foldl (fun v p => v + 2 ^ (2 + p) * b2n (s.armed (4 + p))) 0 +
    256 * b2n (s.armed 0)

/-- A register that reads 0 whatever the image or a staged table gave it: LVEC_k of a level that is no HANDLER level and TASKSTAT_k of one
that is no TASK level (spec/07), the entries of unused node numbers (spec/12), and the picture parameter set of a pipe without DSC (spec/09). -/
def State.readsZero (s : State) (off : Nat) : Bool :=
  if 0x310000 ≤ off ∧ off < 0x311800 then decide (6 ≤ off / 4 % 8) || decide (32 ≤ off / 4 % 64)
  else if 0x400000 ≤ off ∧ off < 0x460000 then
    let p := (off - 0x400000) / 0x10000
    decide (DSP_PPS.reg p 0 ≤ off) && decide (off < DSP_PPS.reg p 0 + 0x80) && (decide (4 ≤ p) || s.fget (DSP_CFG.DSC p) == 0)
  else allDealers.any (fun n : Dealer => (rangeFrom 0 8).any (fun k =>
    (off == LVEC.reg n.val k && s.levelKind n k != 1) || (off == TASKSTAT.reg n.val k && s.levelKind n k != 2)))

/-- The offset of a vector control word of an MSI-X table. -/
def vectorControl (off : Nat) : Bool :=
  decide (off % 16 = 12) && (rangeFrom 0 4).any (fun k => decide (SEAT_MSIX.reg k 0 0 ≤ off) && decide (off < SEAT_MSIX.reg k 64 0))

/-- The value a register reads: the fields that hardware derives from other state are formed at the read, and WO fields hold 0 (R7). -/
def State.regRead (s : State) (off : Nat) : Word :=
  let w := s.reg off
  if s.readsZero off then 0
  else if vectorControl off then w ^^^ 1
  else if off = TRL_STAT.reg then putField w 16 12 s.tags.length
  else if off = ARRAY_HDATA.reg then s.hdataWord
  else if off = GARD_LEDGER.reg 10 then BitVec.ofNat 32 (min (2 ^ 32 - 1) ((s.now - s.resetAt) / 1000000000))
  else if off = GARD_STAT.reg then putField w 24 2 (min 3 (s.gard.warms.filter (fun t => decide (s.now - t ≤ 600000000000))).length)
  else if off = CLK_MON.reg then BitVec.ofNat 32 s.monitors
  else match (rangeFrom 0 4).find? (fun n => off == LVLSTAT.reg n) with
    | some n => putField w 8 8 (s.pendLevels n)
    | none => match (rangeFrom 0 25).find? (fun g => off == CLK_GATE.reg g) with
      | some g => putField w (CLK_GATE.USE g).lo (CLK_GATE.USE g).wid (s.gateUse g)
      | none => match (rangeFrom 0 14).find? (fun k => off == PAD_POC.reg k) with
        | some k => putField w 24 2 (min 3 (s.recentCuts k).length)
        | none => match allDealers.find? (fun n : Dealer => off == DEAL_STAT.reg n.val) with
          | some n => putField w 13 1 (b2n ((rangeFrom 0 64).any (fun t => natBit s.raised t && natBit (s.region n) (tileQuad t))))
          | none => w

/-- The agents whose accesses reach the device registers at all: seats reach their own SEAT block alone (R35, R409), and the debug port
acts while it is enabled (R492). -/
def State.reachesRegs (s : State) (ag : Agent) (off : Nat) : Bool :=
  match ag with
  | .dealer _ => true
  | .loader => true
  | .gardener => true
  | .debug => s.debugOn
  | .seat k => decide (SEAT_CFG.reg k.val ≤ off) && decide (off < SEAT_CFG.reg k.val + 0x10000)
  | _ => false

/-- The SEAT block an offset lies in. -/
def seatBlock (off : Nat) : Option Nat := (rangeFrom 0 4).find? (fun k => decide (SEAT_CFG.reg k ≤ off) && decide (off < SEAT_CFG.reg k + 0x10000))

/-- A read of a register by an agent: status, value, state.  Reading ARRAY_HDATA moves HSEL.WORD on (R80). -/
def State.devRead (s : State) (ag : Agent) (off : Nat) : Nat × Nat × State :=
  let seatOk := match seatBlock off with | some k => s.seatReader ag k | none => true
  if (regGroupAt off).isNone || !s.reachesRegs ag off || !seatOk then (stREFUSED, 0, s)
  else (stOK, (s.regRead off).toNat, if off = ARRAY_HDATA.reg then s.hselNext else s)

/-- ARRAY_HDATA_READ: the word of the committed line; WORD advances (R80).  An agent's read meets the ports on its way to the register hub. -/
def execArrayHdataRead (ag : Agent) (s : State) : Host.Outcome State Fault Refusal :=
  let done (r : Nat × Nat × State) : Host.Outcome State Fault Refusal := .next (r.2.2.emit (.status ag r.1 r.2.1))
  match s.pathTurns ag hubAddr with
  | none => done (s.devRead ag ARRAY_HDATA.reg)
  | some .waits => .next s
  | some t => done (s.turnedRead ag hubAddr 4 t)

/- Writes. -/

/-- SFL and SAH of Dealer n: written by Dealer n at a privileged level, the loader and the Gardener (spec/07). -/
def State.saveAreaWrite (s : State) (ag : Agent) (n off v : Nat) : Nat × State :=
  let ok : Bool := match ag with
    | .dealer m => m.val == n && s.priv m
    | .loader => true
    | .debug => true
    | .gardener => true
    | _ => false
  if ok then s.plainWrite off v else (stREFUSED, s)

/-- The index of the register of an array that stands at an offset. -/
def indexOf (count : Nat) (base : Nat → Nat) (off : Nat) : Option Nat := (rangeFrom 0 count).find? (fun i => off == base i)

/-- A write of the blocks SYS to DEALER. -/
def State.devWriteLow (s : State) (ag : Agent) (off v : Nat) : Nat × State :=
  if off = SYS_LCREQ.reg then s.lcreqWrite ag v
  else if off = CLK_TRIM.reg then s.trimWrite ag v
  else match indexOf 7 CLK_SEL.reg off with
    | some d => s.selWrite ag d v
    | none => match indexOf 25 CLK_GATE.reg off with
      | some g => s.gateWrite ag g v
      | none =>
        if CLK_PLL.reg 0 ≤ off ∧ off < CLK_PLL.reg 6 then s.pllWrite ag off v
        else match (rangeFrom 0 4).find? (fun n => off == SFL.reg n || (rangeFrom 0 8).any (fun i => off == SAH.reg n i)) with
          | some n => s.saveAreaWrite ag n off v
          | none => s.plainWrite off v

/-- A write of the blocks BANK to TELL. -/
def State.devWriteMid (s : State) (ag : Agent) (off v : Nat) : Nat × State :=
  match indexOf 33 BANK_OWNER.reg off with
  | some b => s.ownerWrite ag b v
  | none =>
    if off = TRL_SWAP.reg then s.swapWrite ag v
    else if off = TRL_DMAP_SH.reg ∨ (TRL_RTE.reg 0 0 ≤ off ∧ off < TRL_RTE.reg 24 0 ∧ (regGroupAt off).isSome) then s.shadowWrite ag off v
    else match indexOf 6 DSP_COMMIT.reg off with
      | some p => s.commitWrite ag p v
      | none =>
        if off = TELL_HCMT.reg then s.hcmtWrite ag v
        else if TELL_HBOX.reg 0 ≤ off ∧ off < TELL_HBOX.reg 64 then s.hboxWrite ag off v
        else s.plainWrite off v

/-- A write of the blocks SEAT to ARRAY. -/
def State.devWriteHigh (s : State) (ag : Agent) (off v : Nat) : Nat × State :=
  match seatBlock off with
  | some k => s.seatWrite ag k off v
  | none =>
    if off = ESP_TEST.reg then s.espTestWrite ag v
    else if off = ARRAY_HSEL.reg then s.hselWrite ag v
    else if off = ARRAY_HDATA.reg then s.hdataWrite ag v
    else match indexOf 4 ARRAY_EDGE.reg off with
      | some _ => s.edgeWrite ag off v
      | none => if CTU_ADDR_LO.reg 0 ≤ off ∧ (regGroupAt off).isSome then s.ctuWrite ag off v else s.plainWrite off v

/-- A write of a register by an agent: status and state (R9 to R11, R33). -/
def State.devWrite (s : State) (ag : Agent) (off v : Nat) : Nat × State :=
  if (regGroupAt off).isNone || !s.reachesRegs ag off then (stREFUSED, s)
  else if off < 0x200000 then s.devWriteLow ag off v
  else if off < 0x580000 then s.devWriteMid ag off v
  else s.devWriteHigh ag off v

/-- REGISTER_WRITE: a write of v to the register at an offset of the device register range.  A PCIe seat's is a memory write of its host in
BAR0 (R384, R385). -/
def execRegisterWrite (ag : Agent) (off : Nat) (v : Word) (s : State) : Host.Outcome State Fault Refusal :=
  let shut : Option (Fin 4) := match ag with | .seat k => if s.pcieSeat k.val ∧ !s.bar0Open k.val then some k else none | _ => none
  match shut with
  | some k => .next (s.emit (.tlp k.val 1 []))
  | none =>
  s.atHub ag (fun t => if off % 4 ≠ 0 then (stREFUSED, t) else t.devWrite ag off v.toNat)

/- The bus. -/

/-- A read of k bytes at an address: registers are read as aligned 32-bit words (R6). -/
def State.busRead (s : State) (ag : Agent) (a k : Nat) : Nat × Nat × State :=
  match regionOf a with
  | .regs off => if off % 4 = 0 ∧ k = 4 then s.devRead ag off else (stREFUSED, 0, s)
  | _ => s.memRead ag a k

/-- A write of k bytes at an address. -/
def State.busWrite (s : State) (ag : Agent) (a k v : Nat) : Nat × State :=
  match regionOf a with
  | .regs off => if off % 4 = 0 ∧ k = 4 then s.devWrite ag off v else (stREFUSED, s)
  | _ => s.memWrite ag a k v

/-- One packet's read of k bytes over the Trellis: what stands in the way answers, else the target (R373, R377). -/
def State.packetRead (s : State) (ag : Agent) (a k : Nat) : Nat × Nat × State :=
  match s.pathTurns ag a with
  | none => s.busRead ag a k
  | some t => s.turnedRead ag a k t

/-- One packet's write of k bytes over the Trellis. -/
def State.packetWrite (s : State) (ag : Agent) (a k v : Nat) : Nat × State :=
  match s.pathTurns ag a with
  | none => s.busWrite ag a k v
  | some t => s.turnedWrite ag a t

/-- A status that stands for two: the first other than OK. -/
def firstBad (x y : Nat) : Nat := if x = stOK then y else x

/-- An access across a 512-byte boundary of DRAM of which a packet does not reach its port (R354). -/
def State.splitTurned (s : State) (ag : Agent) (a k : Nat) : Bool :=
  decide (firstPacket a k < k) && decide (regionOf a = .dram) &&
    ((s.pathTurns ag a).isSome || (s.pathTurns ag (a + firstPacket a k)).isSome)

/-- A read of k bytes over the Trellis.  Where the access crosses a 512-byte boundary of DRAM and one of its packets is turned away, each
ends by itself; else both are read in one (R354). -/
def State.pathRead (s : State) (ag : Agent) (a k : Nat) : Nat × Nat × State :=
  if s.splitTurned ag a k then
    let n := firstPacket a k
    let x := s.packetRead ag a n
    let y := x.2.2.packetRead ag (a + n) (k - n)
    (firstBad x.1 y.1, x.2.1 + 2 ^ (8 * n) * y.2.1, y.2.2)
  else s.packetRead ag a k

/-- A write of k bytes over the Trellis, in two packets in the same case. -/
def State.pathWrite (s : State) (ag : Agent) (a k v : Nat) : Nat × State :=
  if s.splitTurned ag a k then
    let n := firstPacket a k
    let x := s.packetWrite ag a n (natBits v 0 (8 * n))
    let y := x.2.packetWrite ag (a + n) (k - n) (v / 2 ^ (8 * n))
    (firstBad x.1 y.1, y.2)
  else s.packetWrite ag a k v

end Sys2Proof.Machine
end

