-- ==== Sys2Proof/Machine/Operands.lean ====
section
/-!
DEFINITION. Operand forms: the fields of scalar words (R178, R179), the checks a scalar instruction makes before it acts
(R198), segments and their checks (R182 to R185), memory operands, immediates, the level area (R212) with LAZY_FILL (R213,
R214, R508), and how an instruction ends: the PC, the cycles charged, and a trap.
-/
namespace Sys2Proof

open Machine

/- Fields of a scalar word. -/

def SOp.fld (op : SOp) (lo wid : Nat) : Nat := natBits op.bits.toNat lo wid
def SOp.d (op : SOp) : Nat := op.fld 18 5
def SOp.a (op : SOp) : Nat := op.fld 13 5
def SOp.b (op : SOp) : Nat := op.fld 8 5
def SOp.fmt (op : SOp) : Nat := op.fld 6 2
def SOp.c (op : SOp) : Nat := op.fld 1 5
def SOp.imm13 (op : SOp) : Nat := op.fld 0 13
def SOp.sg (op : SOp) : Nat := op.fld 10 3
def SOp.disp10 (op : SOp) : Nat := op.fld 0 10
def SOp.sub (op : SOp) : Nat := op.fld 0 13
def SOp.hasExt (op : SOp) : Bool := op.ext.isSome
/-- 1 for an extension word, else 0: its words and its cycle. -/
def SOp.extN (op : SOp) : Nat := b2n op.hasExt
/-- The instruction word of a class and opcode (R178). -/
def SOp.word (op : SOp) (cls opc : Nat) : Word :=
  BitVec.ofNat 32 (cls * 2 ^ 30 + op.extN * 2 ^ 29 + opc * 2 ^ 23 + op.bits.toNat)
/-- The immediate of format IMM as a 32-bit number: the extension word, or IMM13 extended (R179). -/
def SOp.imm (op : SOp) (signed : Bool) : Nat :=
  match op.ext with
  | some w => w.toNat
  | none => if signed then (sextTo32 13 op.imm13).toNat else op.imm13
/-- The operand format of FMT. -/
def SOp.ffmt (op : SOp) : FFmt := if op.fmt = 1 then fmtD else fmtS
/-- The displacement of format MEM (R179, R184). -/
def SOp.disp (op : SOp) : Int :=
  match op.ext with
  | some w => toSigned 32 w.toNat
  | none => toSigned 10 op.disp10

end Sys2Proof

namespace Sys2Proof.Machine

open Sys2Proof




/-- The first trap of a list of checks, in order (R198). -/
def firstTrap : List (Bool × Trap) → Option Trap
  | [] => none
  | (c, t) :: l => if c then some t else firstTrap l

/-- The offset of the word after the instruction. -/
def State.nextPc (s : State) (n : Dealer) (op : SOp) : Nat := s.pc n + 4 + 4 * op.extN

/-- An instruction that does not transfer control must have a next word in the deal store (R191). -/
def State.endTrap (s : State) (n : Dealer) (op : SOp) : Bool × Trap :=
  (decide (0x3FFFC < s.nextPc n op), { code := trapSegLimit, info := BitVec.ofNat 32 (s.nextPc n op) })

/-- Ends an instruction: the PC moves to the next word and the cycles are charged, one more for an extension word (R187). -/
def State.advance (s : State) (n : Dealer) (op : SOp) (cost : Nat) : State :=
  (s.setPc n (s.nextPc n op)).charge n (cost + op.extN)

/-- The core executes nothing: before the first deal start of its Dealer after start-up or a warm restart (R208, R484), once the Dealer is
retired (R423), and while its current level is not active (R203). -/
def State.coreIdle (s : State) (n : Dealer) : Bool :=
  !(s.dl n).live || s.role n == 2 || !s.fbit (LVLSTAT.ACTIVE n) (s.lvl n).val

/-- The current level executes no instruction: its core executes none, L0 after an overrun waits for its cut (R29, R257), and behind an array
instruction that is held the level executes no later one (R262). -/
def State.levelWaits (s : State) (n : Dealer) : Bool :=
  s.coreIdle n || ((s.dl n).cutDue && s.lvl n == 0) || natBit (s.dl n).arrayHeld (s.lvl n).val

/-- Runs a scalar instruction: a halted Dealer executes none (R169); a machine check that waits goes first (R207); a level that waits executes
none; the first trap is taken (R198, R199); else the effect happens. -/
def runScalar (n : Dealer) (op : SOp) (s : State) (chk : Option Trap) (eff : State → State) :
    Host.Outcome State Fault Refusal :=
  if (s.dl n).halted then .fault .dealerHalted
  else if (s.dl n).pendMC.isSome || s.levelWaits n then .next s
  else match chk with
    | some t => .next (s.trap n t op.hasExt false)
    | none => .next (eff s)

/- Formats REG and IMM. -/

/-- Reserved fields of format REG: EXT, bit 0, and the fields the row does not use (R179). -/
def regReserved (op : SOp) (useB useC useFmt : Bool) : Bool :=
  op.hasExt || op.fld 0 1 != 0 || (!useB && op.b != 0) || (!useC && op.c != 0) ||
    (if useFmt then decide (1 < op.fmt) else op.fmt != 0)

def illReserved (w : Word) : Trap := { code := trapIllReserved, info := w }

/-- A register instruction with a W destination: `f a b ST` gives the result and ST, or nothing to write. -/
def runReg (n : Dealer) (opc : Nat) (op : SOp) (s : State) (cost : Nat) (f : Nat → Nat → Word → Option (Nat × Word)) :
    Host.Outcome State Fault Refusal :=
  runScalar n op s (firstTrap [(regReserved op true false false, illReserved (op.word 0 opc)), s.endTrap n op]) (fun s =>
    match f (s.rdW n op.a).toNat (s.rdW n op.b).toNat (s.st n) with
    | some (r, st) => ((s.wrW n op.d (BitVec.ofNat 32 r)).setSt n st).advance n op cost
    | none => s.advance n op cost)


/-- An immediate instruction. -/
def runImm (n : Dealer) (opc : Nat) (op : SOp) (s : State) (signed : Bool) (bad : Bool)
    (f : Nat → Nat → Word → Option (Nat × Word)) : Host.Outcome State Fault Refusal :=
  runScalar n op s (firstTrap [((op.hasExt && op.imm13 != 0) || bad, illReserved (op.word 1 opc)), s.endTrap n op]) (fun s =>
    match f (s.rdW n op.a).toNat (op.imm signed) (s.st n) with
    | some (r, st) => ((s.wrW n op.d (BitVec.ofNat 32 r)).setSt n st).advance n op 1
    | none => s.advance n op 1)

/- The level area (R212). -/

/-- The address of an offset in Dealer n's level area. -/
def State.areaAddr (s : State) (n : Dealer) (off : Nat) : Nat :=
  storeBase (s.fget (LBASE.BANK n)) + 4096 * s.fget (LBASE.BLK n) + off

/-- Writes of the core's context paths through port B; false when one is answered with a status other than OK (R508). -/
def State.ctxWrite (s : State) (n : Dealer) : List (Nat × Nat × Nat) → Bool × State
  | [] => (true, s)
  | (a, k, v) :: l =>
    let r := s.memWrite (.dealer n) a k v
    if r.1 = stOK then r.2.ctxWrite n l else (false, r.2)

/-- Reads of the core's context paths; none when one fails (R508). -/
def State.ctxRead (s : State) (n : Dealer) : List (Nat × Nat) → Option (List Nat) × State
  | [] => (some [], s)
  | (a, k) :: l =>
    let r := s.memRead (.dealer n) a k
    if r.1 = stOK then
      let q := r.2.2.ctxRead n l
      (q.1.map (fun vs => r.2.1 :: vs), q.2)
    else (none, r.2.2)

/-- Takes the machine check of a failed context access (R508). -/
def State.ctxErr (s : State) (n : Dealer) : State := s.raiseMC n { cause := 0xA }

/-- Consecutive (address, size) slots from an address on. -/
def slots (a k : Nat) : Nat → List (Nat × Nat)
  | 0 => []
  | c + 1 => (a, k) :: slots (a + k) k c

/-- The stores of a group of registers from an address on. -/
def stores (a k : Nat) (vs : List Nat) : List (Nat × Nat × Nat) :=
  (slots a k vs.length).zip vs |>.map (fun p => (p.1.1, p.1.2, p.2))

def Bank.fList (b : Bank) : List Nat := b.f.toList.map BitVec.toNat
def Bank.pdList (b : Bank) : List Nat := b.pd.toList.map BitVec.toNat
def Bank.wList (b : Bank) (lo cnt : Nat) : List Nat := ((b.w.toList.drop lo).take cnt).map BitVec.toNat

/-- A bank with `cnt` W registers from `lo` on loaded; W0 is never stored. -/
def Bank.loadW (b : Bank) (lo : Nat) (vs : List Nat) : Bank :=
  (vs.zip (rangeFrom lo vs.length)).foldl (fun c p =>
    if p.2 = 0 then c else { c with w := c.w.set (Fin.ofNat 32 p.2) (BitVec.ofNat 32 p.1) }) b

def Bank.loadF (b : Bank) (vs : List Nat) : Bank :=
  (vs.zip (rangeFrom 0 vs.length)).foldl (fun c p => { c with f := c.f.set (Fin.ofNat 16 p.2) (BitVec.ofNat 64 p.1) }) b

def Bank.loadPD (b : Bank) (vs : List Nat) : Bank :=
  (vs.zip (rangeFrom 0 vs.length)).foldl (fun c p => { c with pd := c.pd.set (Fin.ofNat 16 p.2) (BitVec.ofNat 32 p.1) }) b

/-- The lazy frame of level k: F0 to F15, then PD0 to PD15 (R212). -/
def State.lazyF (s : State) (n : Dealer) (k : Nat) : Nat := s.areaAddr n (0x80 + 0x200 * k)
def State.lazyPD (s : State) (n : Dealer) (k : Nat) : Nat := s.areaAddr n (0x100 + 0x200 * k)

/-- LAZY_FILL before a write of group g (0 the F group, 1 the PD group) at a HANDLER level (R213, R214): false when the access failed
and a machine check waits.  At most 68 cycles for F and 36 for PD; the model charges the bound (log entry 8). -/
def State.lazyFill (s : State) (n : Dealer) (g : Nat) : Bool × State :=
  let k := s.lvl n
  if s.levelKind n k.val ≠ 1 ∨ natBit ((s.dl n).filled.get k) g then (true, s)
  else
    let b := s.bank n
    let l := if g = 0 then stores (s.lazyF n k.val) 8 b.fList else stores (s.lazyPD n k.val) 4 b.pdList
    let r := s.ctxWrite n l
    if r.1 then
      let d := r.2.dl n
      (true, (r.2.setDl n { d with filled := d.filled.set k (setNatBit (d.filled.get k) g true) }).spend n
        (if g = 0 then 68 else 36))
    else (false, r.2.ctxErr n)

/-- An effect that writes a group, after its LAZY_FILL. -/
def State.withFill (s : State) (n : Dealer) (g : Nat) (eff : State → State) : State :=
  let r := s.lazyFill n g
  if r.1 then eff r.2 else r.2

/- Floating point operands. -/


/-- An F register as an operand of a format: binary32 uses bits [31:0] (R130). -/
def State.rdFv (s : State) (n : Dealer) (r : Nat) (f : FFmt) : Nat := natBits (s.rdF n r).toNat 0 f.width

/-- A trap that the operand values raise, at the end of the instruction: its own count is charged, then the entry (R126, R129, R199). -/
def State.lateTrap (s : State) (n : Dealer) (op : SOp) (cost : Nat) (t : Trap) : State := (s.spend n (cost + op.extN)).trap n t op.hasExt false

/-- Ends a floating-point instruction (R143): an enabled exception traps FP and leaves destination and SSF; else the result is
written and SSF takes the exceptions.  Its count does not depend on the operands (R129). -/
def State.fpEnd (s : State) (n : Dealer) (op : SOp) (cost : Nat) (r : FRes) (write : State → State) : State :=
  let fpc := (s.bank n).fpc
  if r.fl &&& fpcTE fpc ≠ 0 then s.lateTrap n op cost { code := trapFP, info := 0, fpc := some (fpcTrapped fpc r.fl false) }
  else ((write s).setFpc n (fpcRaiseS ((write s).bank n).fpc r.fl)).advance n op cost

/-- A floating-point instruction: `bad` is what is reserved beside the common fields; `toF` says the destination is an F register. -/
def runFP (n : Dealer) (opc : Nat) (op : SOp) (s : State) (useB useC bad toF : Bool) (cost : Nat)
    (res : State → FRes) (write : State → Nat → State) : Host.Outcome State Fault Refusal :=
  runScalar n op s (firstTrap [(regReserved op useB useC true || bad, illReserved (op.word 0 opc)), s.endTrap n op]) (fun s =>
    if toF then s.withFill n 0 (fun t => let r := res t; t.fpEnd n op cost r (fun u => write u r.bits))
    else let r := res s; s.fpEnd n op cost r (fun u => write u r.bits))

/- Segments (R182 to R185). -/

def Desc.word (x : Desc) (k : Nat) : Nat := natBits x.toNat (32 * k) 32
def Desc.base (x : Desc) : Nat := Desc.word x 0 + 2 ^ 32 * natBits (Desc.word x 1) 0 16
def Desc.present (x : Desc) : Bool := natBit (Desc.word x 1) 31
def Desc.wra (x : Desc) : Bool := natBit (Desc.word x 1) 20
def Desc.rda (x : Desc) : Bool := natBit (Desc.word x 1) 19
def Desc.space (x : Desc) : Nat := natBits (Desc.word x 1) 16 3
def Desc.limit (x : Desc) : Nat := Desc.word x 2

def spDRAM : Nat := 0
def spSCRATCH : Nat := 1
def spPLANE : Nat := 2
def spDEVICE : Nat := 3
def spCODE : Nat := 4

/-- First and last address of each space (R183). -/
def spaceRange (sp : Nat) : Nat × Nat :=
  match sp with
  | 0 => (0, 0x1FFFFFFFFF)
  | 1 => (0x4000000000, 0x400103FFFF)
  | 2 => (0x4100000000, 0x4103FFFFFF)
  | 3 => (0x5000000000, 0x50007FFFFF)
  | _ => (0, 0x3FFFF)

/-- The reserved values of a descriptor (R182, R183 step 1). -/
def Desc.reserved (x : Desc) : Bool :=
  natBits (Desc.word x 1) 21 10 != 0 || Desc.word x 3 != 0 || decide (4 < Desc.space x) ||
    (!Desc.present x && x.toNat != 0)

/-- A descriptor that reaches beyond its space (R183 step 3). -/
def Desc.beyond (x : Desc) : Bool :=
  let r := spaceRange (Desc.space x)
  Desc.present x && (decide (Desc.base x < r.1) || decide (r.2 < Desc.base x + Desc.limit x))


/-- The offset of an access: the unsigned index plus the signed displacement, without wrap (R184). -/
def State.memOffset (s : State) (n : Dealer) (op : SOp) : Int := ((s.rdW n op.a).toNat : Int) + op.disp

/-- The segment checks of an access of k bytes at an offset (R184). -/
def segChecks (x : Desc) (sg : Nat) (off : Int) (k : Nat) (rd wr : Bool) (alsoRights : Bool) : List (Bool × Trap) :=
  let info := BitVec.ofNat 32 (ofSigned 32 off)
  [(!Desc.present x, { code := trapSegAbsent, info := info, seg := sg }),
   ((rd && !Desc.rda x) || (wr && !Desc.wra x) || alsoRights, { code := trapSegRights, info := info, seg := sg }),
   (decide (off < 0) || decide ((Desc.limit x : Int) < off + k - 1), { code := trapSegLimit, info := info, seg := sg })]

/-- A read through a segment: status, value, state; CODE is read over the Dealer's private path, a store the Dealer owns at port B, and the rest
over the Trellis (R183, R186).  An unaligned word of CODE is read as it lies, with no span cycle (log entry 175). -/
def State.segRead (s : State) (n : Dealer) (x : Desc) (off k : Nat) : Nat × Nat × State :=
  if Desc.space x = spCODE then
    let r := s.readSpan (dealBase n + (Desc.base x + off)) k
    (if r.2.1 then stPOISON else stOK, r.1, r.2.2)
  else s.pathRead (.dealer n) (Desc.base x + off) k

def State.segWrite (s : State) (n : Dealer) (x : Desc) (off k v : Nat) : Nat × State :=
  s.pathWrite (.dealer n) (Desc.base x + off) k v

/-- An access through a segment waits for a tag of its Dealer's port; one to CODE takes none (R183, R360). -/
def State.segWaits (s : State) (n : Dealer) (x : Desc) (off k : Nat) : Bool :=
  Desc.space x != spCODE && s.accessWaits (.dealer n) (Desc.base x + off) k

/-- Whether the nursery serves a bank (R190). -/
def State.nurseryServes (s : State) (b : Nat) : Bool := s.serving b != b

/-- The load figure of the memory access cost table (R190, R347). -/
def State.loadCost (s : State) (n : Dealer) (x : Desc) (off k : Nat) : Nat :=
  let a := Desc.base x + off
  let span := b2n (decide (8 < a % 8 + k))
  if Desc.space x = spCODE then 2 else
  match regionOf a with
  | .dram => 2 + (if s.fget DRAM_STAT.RSV = 1 then 1800 else 1600) + span
  | .store b => if s.storeOwner b = 5 + n.val then (if s.nurseryServes b then 7 else 5) + span else 612 + span
  | _ => 612

/-- The store figure of the same table. -/
def State.storeCost (s : State) (n : Dealer) (x : Desc) (off k : Nat) : Nat :=
  let a := Desc.base x + off
  let span := b2n (decide (8 < a % 8 + k))
  match regionOf a with
  | .dram => 2 + (if s.fget DRAM_STAT.RSV = 1 then 1800 else 1600) + span
  | .store b =>
    if s.storeOwner b = 5 + n.val then
      (if s.nurseryServes b then (if k < 4 then 5 else 4) else (if k < 4 then 3 else 2)) + span
    else 612 + span
  | _ => 612

/-- An access error (R189): ST.AE is set, ACCSTAT and ACCADDR record it, and the Dealer's access-error event is raised. -/
def State.accessError (s : State) (n : Dealer) (status a seg : Nat) (wr : Bool) : State :=
  let s1 := s.setSt n (putField (s.st n) 4 1 1)
  (s1.fsets [(ACCSTAT.STATUS n, status), (ACCSTAT.SEG n, seg), (ACCSTAT.WR n, b2n wr), (ACCSTAT.LEVEL n, (s.lvl n).val),
    (ACCADDR_LO.ADDR_LO n, a), (ACCADDR_HI.ADDR_HI n, a / 2 ^ 32)]).dealerEvent n 0

/-- Reserved fields of format MEM (R179). -/
def memReserved (op : SOp) : Bool := op.hasExt && op.disp10 != 0

/-- A load of k bytes: `write` receives the value, or all ones when the access failed (R189); it waits while its port has no free tag (R360).  The
SEG_LIMIT of the last word comes after the segment's checks (log entry 172). -/
def runLoad (n : Dealer) (opc : Nat) (op : SOp) (s : State) (k : Nat) (bad toF : Bool) (write : State → Nat → State) :
    Host.Outcome State Fault Refusal :=
  let x := s.rdSG n op.sg
  let off := s.memOffset n op
  runScalar n op s
    (firstTrap ((memReserved op || bad, illReserved (op.word 1 opc)) :: segChecks x op.sg off k true false false ++ [s.endTrap n op]))
    (fun s =>
      let eff (t : State) : State :=
        let cost := t.loadCost n x off.toNat k
        let r := t.segRead n x off.toNat k
        if r.1 = stOK then (write r.2.2 r.2.1).advance n op cost
        else (write (r.2.2.accessError n r.1 (Desc.base x + off.toNat) op.sg false) (ones 64)).advance n op cost
      if s.segWaits n x off.toNat k then s else if toF then s.withFill n 0 eff else eff s)

/-- A store of k bytes of `v` (R190). -/
def runStore (n : Dealer) (opc : Nat) (op : SOp) (s : State) (k : Nat) (bad : Bool) (v : State → Nat) :
    Host.Outcome State Fault Refusal :=
  let x := s.rdSG n op.sg
  let off := s.memOffset n op
  runScalar n op s
    (firstTrap ((memReserved op || bad, illReserved (op.word 1 opc)) :: segChecks x op.sg off k false true false ++ [s.endTrap n op]))
    (fun s =>
      let cost := s.storeCost n x off.toNat k
      let r := s.segWrite n x off.toNat k (v s)
      if s.segWaits n x off.toNat k then s
      else (if r.1 = stOK then r.2 else r.2.accessError n r.1 (Desc.base x + off.toNat) op.sg true).advance n op cost)

/- Control and system formats. -/

/-- A target of a transfer outside the deal store or not word-aligned (R191). -/
def badTarget (t : Int) : Bool := decide (t < 0) || decide (0x3FFFC < t) || decide (t % 4 ≠ 0)

def transferTrap (t : Int) : Bool × Trap := (badTarget t, { code := trapSegLimit, info := BitVec.ofNat 32 (ofSigned 32 t) })

/-- The branch target of format BR. -/
def State.brTarget (s : State) (n : Dealer) (op : SOp) : Int := (s.pc n : Int) + 4 * toSigned 19 (op.fld 0 19)

/-- Reserved fields of format SYS: EXT, and D, A or SUB bits the row does not use. -/
def sysReserved (op : SOp) (useD useA : Bool) (subMask : Nat) : Bool :=
  op.hasExt || (!useD && op.d != 0) || (!useA && op.a != 0) || (op.sub &&& (ones 13 - subMask)) != 0

end Sys2Proof.Machine
end

