-- ==== Sys2Proof/Machine/ArrayOps.lean ====
section
/-!
DEFINITION. The array as instructions see it (spec/02, spec/03): plane descriptors and the checks of R95, fields of planes in
every PE, masks, movement between PEs, reductions, and the forms in which the array instructions are written.  A PE is named
by its logical row y and column x (R38); an instruction's result is given for each PE from the state before it.
-/
namespace Sys2Proof

open Machine

/-- 1 when an extension word follows. -/
def AOp.extN (op : AOp) : Nat := b2n op.ext.isSome

/-- The extension word, 0 where there is none. -/
def AOp.extW (op : AOp) : Nat := match op.ext with | some w => w.toNat | none => 0

/-- The third source descriptor PDC (R84). -/
def AOp.pdc (op : AOp) : Nat := op.extW % 16

def AOp.imm (op : AOp) : Nat := op.imm7.toNat

/-- The instruction word (R83). -/
def AOp.word (op : AOp) (aop : Nat) : Word :=
  BitVec.ofNat 32 (0xC0000000 + aop * 2 ^ 20 + op.pdd.val * 2 ^ 16 + op.pda.val * 2 ^ 12 + op.pdb.val * 2 ^ 8
    + op.extN * 2 ^ 7 + op.imm)

end Sys2Proof

namespace Sys2Proof.Machine

open Sys2Proof

/- Plane descriptors (R86). -/

def pdBase (w : Word) : Nat := getField w 0 11
def pdWidth (w : Word) : Nat := getField w 16 7
def pdQset (w : Word) : Nat := getField w 28 4

/-- Reserved values of a descriptor (R86). -/
def pdReserved (w : Word) : Bool :=
  decide (pdWidth w = 0) || decide (64 < pdWidth w) || getField w 11 5 != 0 || getField w 23 5 != 0

/-- Two fields share a plane (R90). -/
def pdOverlap (v w : Word) : Bool :=
  decide (pdBase v < pdBase w + pdWidth w) && decide (pdBase w < pdBase v + pdWidth v)

/- PEs, tiles and rows. -/

/-- The tile of a PE. -/
def peTile (y x : Nat) : Nat := 8 * (y / 64) + x / 64

/-- The quadrant of a PE (R39). -/
def peQuad (y x : Nat) : Nat := (if y < 256 then 0 else 2) + (if x < 256 then 0 else 1)

/-- A tile that the sprout ramp raises: any, but before DRAM training completes only the tiles the image lists as early tiles (R479). -/
def State.rampTile (s : State) (t : Nat) : Bool := !s.pruned t && (s.rampAll || natBit s.plan.earlyTiles.toNat t)

/-- The rows of 64 PEs of a set of quadrants in tiles that execute microwords, unpruned and raised by the ramp: (logical row, tile
column). -/
def State.rows (s : State) (q : Nat) : List (Nat × Nat) :=
  (rangeFrom 0 512).flatMap (fun y => ((rangeFrom 0 8).map (fun j => (y, j))).filter (fun r =>
    natBit q (peQuad r.1 (64 * r.2)) && s.rampTile (peTile r.1 (64 * r.2))))

/-- A row word as the array uses it. -/
def State.planeVal (s : State) (a : Nat) : Nat :=
  if planeOfAddr a < 1983 then correct (s.wordData a) (decodeSyn (s.wordSyn a).toNat) else s.planeWord a

/-- The bit of plane p in PE (y, x). -/
def State.planeBit (s : State) (p y x : Nat) : Bool := natBit (s.planeVal (rowWordAddr p y (x / 64))) (x % 64)

/-- The value of a field of w planes from `base` up in PE (y, x); bit 0 at the base plane. -/
def State.fieldAt (s : State) (base : Nat) : Nat → Nat → Nat → Nat
  | 0, _, _ => 0
  | w + 1, y, x => s.fieldAt base w y x + 2 ^ w * b2n (s.planeBit (base + w) y x)

/-- M of a row of 64 PEs; 1 in every PE after reset. -/
def State.mRow (s : State) (y j : Nat) : DWord := Sparse.get (BitVec.allOnes 64) s.mrow (8 * y + j)

/-- M of PE (y, x). -/
def State.mAt (s : State) (y x : Nat) : Bool := natBit (s.mRow y (x / 64)).toNat (x % 64)

def State.setMRow (s : State) (y j : Nat) (v : Nat) : State :=
  { s with mrow := Sparse.set (BitVec.allOnes 64) s.mrow (8 * y + j) (BitVec.ofNat 64 v) }

/-- 64 bits from a predicate on lanes. -/
def wordOf (f : Nat → Bool) : Nat → Nat
  | 0 => 0
  | n + 1 => wordOf f n + 2 ^ n * b2n (f n)

/-- One plane of one row written: each PE whose gate is 1 takes its bit, the others keep theirs (R41); no PE, no write. -/
def State.writeRow (s : State) (p y j : Nat) (gate bit : Nat → Bool) : State :=
  let a := rowWordAddr p y j
  if (rangeFrom (64 * j) 64).any gate then
  s.putWord a (wordOf (fun c => if gate (64 * j + c) then bit (64 * j + c) else natBit (s.planeVal a) c) 64)
  else s

/-- A field of w planes written in the rows listed: `v y x` where the gate is 1. -/
def State.writeField (s : State) (rows : List (Nat × Nat)) (base w : Nat) (gate : Nat → Nat → Bool) (v : Nat → Nat → Nat) : State :=
  rows.foldl (fun t r => (rangeFrom 0 w).foldl (fun u k =>
    u.writeRow (base + k) r.1 r.2 (gate r.1) (fun x => natBit (v r.1 x) k)) t) s

/-- Flag planes P1976 + k set to 1 where the gate is 1 and bit k of `fl y x` is 1; elsewhere unchanged (R110, R112). -/
def State.raiseFlags (s : State) (rows : List (Nat × Nat)) (gate : Nat → Nat → Bool) (fl : Nat → Nat → Nat) : State :=
  rows.foldl (fun t r => (rangeFrom 0 7).foldl (fun u k =>
    if (rangeFrom (64 * r.2) 64).any (fun x => gate r.1 x && natBit (fl r.1 x) k) then
      u.writeRow (1976 + k) r.1 r.2 (fun x => gate r.1 x && natBit (fl r.1 x) k) (fun _ => true)
    else u) t) s

/-- Reads every row word of some planes in some rows: reports what their decoding finds, and says whether one is uncorrectable
(R50). -/
def State.scanPlanes (s : State) (rows : List (Nat × Nat)) (planes : List Nat) : Bool × State :=
  rows.foldl (fun acc r => planes.foldl (fun acc p =>
    let a := rowWordAddr p r.1 r.2
    if 1983 ≤ p then acc
    else
      let k := decodeSyn (acc.2.wordSyn a).toNat
      (acc.1 || decide (k = .ue), acc.2.reportWord a k)) acc) (false, s)

/-- The or, over the PEs of some rows with M = 1, of a mask. -/
def State.orOver (s : State) (rows : List (Nat × Nat)) (f : Nat → Nat → Nat) : Nat :=
  rows.foldl (fun acc r => (rangeFrom (64 * r.2) 64).foldl (fun a x => if s.mAt r.1 x then a ||| f r.1 x else a) acc) 0

/-- The number of PEs of some rows with M = 1 for which a predicate holds. -/
def State.countOver (s : State) (rows : List (Nat × Nat)) (f : Nat → Nat → Bool) : Nat :=
  rows.foldl (fun acc r => acc + ((rangeFrom (64 * r.2) 64).filter (fun x => s.mAt r.1 x && f r.1 x)).length) 0

/- Movement between PEs (R51, R52, R55, R56, R89, R106). -/

/-- The rectangle of a region: first and end row, first and end column. -/
def regionRect (q : Nat) : Nat × Nat × Nat × Nat :=
  (if q % 4 ≠ 0 then 0 else 256, if q / 4 ≠ 0 then 512 else 256,
   if natBit q 0 || natBit q 2 then 0 else 256, if natBit q 1 || natBit q 3 then 512 else 256)

/-- The edge mode of the side that a value crosses when it travels in a direction (0 north, 1 east, 2 south, 3 west): the side it
comes in from. -/
def State.edgeMode (s : State) (n : Dealer) (dir : Nat) : Nat :=
  match dir with
  | 0 => s.fget (ARRAY_EDGE.SOUTH n)
  | 1 => s.fget (ARRAY_EDGE.WEST n)
  | 2 => s.fget (ARRAY_EDGE.NORTH n)
  | _ => s.fget (ARRAY_EDGE.EAST n)

/-- The row and column `k` PEs upstream of (y, x) for a direction of travel. -/
def upstream (dir k : Nat) (y x : Int) : Int × Int :=
  match dir with
  | 0 => (y + k, x)
  | 1 => (y, x - k)
  | 2 => (y - k, x)
  | _ => (y, x + k)

/-- What PE (y, x) receives over one link of length k from an image of L: inside the region the L of the source, 0 when the source is
outside the quadrant set or pruned; across the region's edge the edge mode's value.  DESIGN CHOICE (log entry 132): a tile that is lowered
but not pruned presents what its planes hold. -/
def State.linkIn (s : State) (n : Dealer) (q dir k : Nat) (l : Nat → Nat → Bool) (y x : Nat) : Bool :=
  let reg := s.region n
  let r := regionRect reg
  let src := upstream dir k y x
  let present (a b : Nat) : Bool := natBit q (peQuad a b) && !s.pruned (peTile a b) && l a b
  if (r.1 : Int) ≤ src.1 ∧ src.1 < r.2.1 ∧ (r.2.2.1 : Int) ≤ src.2 ∧ src.2 < r.2.2.2 then
    present src.1.toNat src.2.toNat
  else match s.edgeMode n dir with
    | 0 => false
    | 1 => present (r.1 + ((src.1 - r.1) % ((r.2.1 - r.1 : Nat) : Int)).toNat) (r.2.2.1 + ((src.2 - r.2.2.1) % ((r.2.2.2 - r.2.2.1 : Nat) : Int)).toNat)
    | _ => l y x

/-- L after a number of hops of one length. -/
def State.hops (s : State) (n : Dealer) (q dir k : Nat) (l : Nat → Nat → Bool) : Nat → Nat → Nat → Bool
  | 0 => l
  | h + 1 => s.linkIn n q dir k (s.hops n q dir k l h)

/-- L after the q runner hops and r neighbour hops of a move of DIST = 64q + r (R57, R106). -/
def State.moved (s : State) (n : Dealer) (q dir dist : Nat) (l : Nat → Nat → Bool) : Nat → Nat → Bool :=
  s.hops n q dir 1 (s.hops n q dir 64 l (dist / 64)) (dist % 64)

/- Hands (R58). -/

/-- The PE whose bit PE (y, x) receives in a shuffle (R58): mode 0 row, 1 column. -/
def State.shufSrc (s : State) (h mode y x : Nat) : Nat × Nat :=
  let t := peTile y x
  if mode = 0 then (y, x / 64 * 64 + handEntry (s.handLine t h (y % 64)) (x % 64))
  else (y / 64 * 64 + handEntry (s.handLine t h (x % 64)) (y % 64), x)

/- Checks and the run of an array instruction (R95). -/

/-- The operands an opcode uses (R84): descriptors, the bits of IMM7, and whether it takes an extension word and which of its bits. -/
structure AUse where
  d : Bool := false
  a : Bool := false
  b : Bool := false
  c : Bool := false
  imm : Nat := 0
  ext : Option Nat := none
  deriving DecidableEq, Repr

/-- The descriptors used, in the order PDD, PDA, PDB, PDC. -/
def State.usedPDs (s : State) (n : Dealer) (op : AOp) (u : AUse) : List Word :=
  (if u.d then [s.rdPD n op.pdd] else []) ++ (if u.a then [s.rdPD n op.pda] else []) ++
  (if u.b then [s.rdPD n op.pdb] else []) ++ (if u.c then [s.rdPD n op.pdc] else [])

/-- Check 2 of R95 on the word itself: EXT, unused fields and bits (R84). -/
def aopReserved (op : AOp) (u : AUse) : Bool :=
  (u.ext.isSome != op.ext.isSome) || (!u.d && op.pdd.val != 0) || (!u.a && op.pda.val != 0) || (!u.b && op.pdb.val != 0) ||
  (op.imm &&& (127 - u.imm)) != 0 ||
  (match u.ext with | some m => (op.extW &&& (ones 32 - m)) != 0 | none => false)

/-- The dispatch entry of an opcode (R162), as the word code delivers it. -/
def State.dispEntry (s : State) (n : Dealer) (aop : Nat) : Nat × Bool × State := s.readWord (ctlBase n + 0x80000 + 8 * aop)

/-- Check 1 of R95: the opcode has a dispatch entry. -/
def State.defined (s : State) (n : Dealer) (aop : Nat) : Bool := natBit (s.dispEntry n aop).1 15

/-- The first descriptor that reaches above P1919 (check 3 of R95). -/
def limitTrap (pds : List Word) : Bool × Trap :=
  match pds.find? (fun w => decide (1919 < pdBase w + pdWidth w - 1)) with
  | some w => (true, { code := trapSegLimit, info := BitVec.ofNat 32 (pdBase w + pdWidth w - 1) })
  | none => (false, { code := trapSegLimit, info := 0 })

/-- Checks 1 to 4 of R95; `q` is the quadrant set of R87, none for the instructions that act on the whole region.  DESIGN CHOICE (log entry
131): R191's check of the next word at the end of the deal store comes after check 4, before the zero rule and check 6. -/
def State.arrayTrap (s : State) (n : Dealer) (aop : Nat) (op : AOp) (u : AUse) (badValue : Bool) (q : Option Nat) : Option Trap :=
  let pds := s.usedPDs n op u
  let w := op.word aop
  firstTrap [(!s.defined n aop, { code := trapIllOpcode, info := w }),
    (aopReserved op u || pds.any pdReserved || badValue, illReserved w),
    limitTrap pds,
    (match q with | some v => (v &&& (15 - s.region n)) != 0 | none => false, { code := trapSegRights, info := w }),
    (decide (0x3FFFC < s.pc n + 4 + 4 * op.extN), { code := trapSegLimit, info := BitVec.ofNat 32 (s.pc n + 4 + 4 * op.extN) })]

/-- The T planes at the start and the end of an array instruction: undefined (R48). -/
def State.tUndefined (s : State) : State := { s with tEpoch := s.tEpoch + 1, tmem := [], tbad := [], tZero := false }

/-- Ends an array instruction: the PC passes the extension word (R85), the count is charged, and the T planes and PE state bits become
undefined (R48, R155); its last microword executes in the tiles 6 cycles later (R209). -/
def State.arrayEnd (s : State) (n : Dealer) (op : AOp) (cost : Nat) : State :=
  let t := (s.setPc n (s.pc n + 4 + 4 * op.extN)).charge n cost
  (t.setDl n { t.dl n with drainTo := (t.dl n).cyc + 6 }).tUndefined

/-- Whether an array instruction must wait at its boundary: from the tick edge until the ramp ends (R262), or while a tile of the
region is lowered or lowering (R263). -/
def State.mustHold (s : State) (n : Dealer) : Bool :=
  (s.dl n).ramping || (s.dl n).lowering || (rangeFrom 0 64).any (fun t =>
    natBit (s.region n) (tileQuad t) && s.rampTile t && !natBit s.raised t)

/-- The state of a Dealer whose array instruction waits at its boundary: a full ramp follows (R262, R263). -/
def State.holdArray (s : State) (n : Dealer) : State :=
  s.setDl n { s.dl n with ramping := true, lowering := false, arrayHeld := setNatBit (s.dl n).arrayHeld (s.lvl n).val true }

/-- No array instruction of level k is held any more. -/
def State.unhold (s : State) (n : Dealer) (k : Nat) : State :=
  s.setDl n { s.dl n with arrayHeld := setNatBit (s.dl n).arrayHeld k false }

/-- Runs an array instruction: a halted Dealer executes none; a waiting machine check goes first, a core that executes nothing (`coreIdle`) leaves the state, and so does the cut of an overrun; a hold
keeps it at its boundary; an uncorrectable dispatch entry raises DISP_ERR (R165); then the checks of R95, the zero rule at 1 cycle, and the
effect.  An instruction that the hold kept is then held no more. -/
def runArray (n : Dealer) (aop : Nat) (op : AOp) (s : State) (chk : Option Trap) (zero : Bool) (chk6 : Option Trap)
    (eff : State → State) : Host.Outcome State Fault Refusal :=
  if (s.dl n).halted then .fault .dealerHalted
  else if (s.dl n).pendMC.isSome || s.coreIdle n || ((s.dl n).cutDue && s.lvl n == 0) then .next s
  else if s.mustHold n then .next (s.holdArray n)
  else
    let e := s.dispEntry n aop
    let t := if e.2.1 then e.2.2.raiseMC n { cause := 3, aop := aop, addr := natBits e.1 0 14 }
      else match chk with
      | some t => s.trap n t op.ext.isSome false
      | none =>
        if zero then s.arrayEnd n op 1
        else match chk6 with
          | some t => s.trap n t op.ext.isSome false
          | none => eff e.2.2
    .next (t.unhold n (s.lvl n).val)

/-- The planes of some descriptors. -/
def planesOf (pds : List Word) : List Nat := pds.flatMap (fun w => rangeFrom (pdBase w) (pdWidth w))

/-- The effect of an instruction after its sources are read: an uncorrectable row word raises PLANE_UE and changes no destination
(R50, R169). -/
def State.withSources (s : State) (n : Dealer) (aop : Nat) (rows : List (Nat × Nat)) (planes : List Nat) (eff : State → State) :
    State :=
  let r := s.scanPlanes rows planes
  if r.1 then r.2.raiseMC n { cause := 6, aop := aop } else eff r.2

/-- The rows in which an instruction writes some of the 64 PEs and keeps the rest: M is neither all 0 nor all 1 (R41). -/
def State.partRows (s : State) (rows : List (Nat × Nat)) : List (Nat × Nat) :=
  rows.filter (fun r => let m := (s.mRow r.1 r.2).toNat; m != 0 && m != ones 64)

/-- The effect of an instruction after its sources and the destination words it writes in part are read (R50). -/
def State.withReads (s : State) (n : Dealer) (aop : Nat) (rows : List (Nat × Nat)) (planes dest : List Nat) (eff : State → State) : State :=
  s.withSources n aop rows planes (fun s => s.withSources n aop (s.partRows rows) dest eff)

/-- A row of flag plane P1976 + k takes some of its 64 bits. -/
def State.flagPart (s : State) (k : Nat) (fl : Nat → Nat → Nat) (r : Nat × Nat) : Bool :=
  let hit (x : Nat) : Bool := s.mAt r.1 x && natBit (fl r.1 x) k
  (rangeFrom (64 * r.2) 64).any hit && !(rangeFrom (64 * r.2) 64).all hit

/-- The effect of an instruction after the flag-plane words it writes in part are read. -/
def State.withFlags (s : State) (n : Dealer) (aop : Nat) (rows : List (Nat × Nat)) (fl : State → Nat → Nat → Nat) :
    List Nat → (State → State) → State
  | [], eff => eff s
  | k :: ks, eff => s.withSources n aop (rows.filter (s.flagPart k (fl s))) [1976 + k] (fun t => t.withFlags n aop rows fl ks eff)

/-- Widths of PDD, PDA, PDB and PDC. -/
structure Widths where
  d : Nat
  a : Nat
  b : Nat
  c : Nat
  deriving DecidableEq, Repr

def State.widths (s : State) (n : Dealer) (op : AOp) : Widths :=
  { d := pdWidth (s.rdPD n op.pdd), a := pdWidth (s.rdPD n op.pda), b := pdWidth (s.rdPD n op.pdb), c := pdWidth (s.rdPD n op.pdc) }

/-- What one PE computes: the value for d, exceptions or flags (bit k for P1976 + k), and the bit for the carry plane. -/
structure PERes where
  v : Nat
  fl : Nat := 0
  c : Nat := 0
  deriving DecidableEq, Repr

/-- Staging adds WIDTH of PDD when PDD overlaps a source, or always for `force` (R101 to R103). -/
def State.staging (s : State) (n : Dealer) (op : AOp) (u : AUse) (force : Bool) : Nat :=
  let d := s.rdPD n op.pdd
  let src := s.usedPDs n op { u with d := false }
  if force || src.any (pdOverlap d) then pdWidth d else 0

/-- An instruction with a destination field (`pre` is what it reads beside the planes): each PE of the quadrant set with M = 1 writes d, and the carry plane c where `wc`, and its
flag planes (R105, R110). -/
def runField (n : Dealer) (aop : Nat) (op : AOp) (s : State) (u : AUse) (badW : Widths → Bool) (zero : Bool)
    (cost : Widths → Nat) (wc : Bool) (g : State → Nat → Nat → PERes) (pre : State → State := fun s => s) :
    Host.Outcome State Fault Refusal :=
  let d := s.rdPD n op.pdd
  let q := pdQset d
  runArray n aop op s (s.arrayTrap n aop op u (badW (s.widths n op)) (some q)) (q == 0 || zero) none (fun s =>
    let rows := s.rows q
    (pre s).withReads n aop rows (planesOf (s.usedPDs n op { u with d := false }))
      (planesOf (s.rdPD n op.pdd :: if wc then [s.rdPD n op.pdc] else [])) (fun s =>
      s.withFlags n aop rows (fun s y x => (g s y x).fl) (rangeFrom 0 7) (fun s =>
      let t := s.writeField rows (pdBase d) (pdWidth d) s.mAt (fun y x => (g s y x).v)
      let t1 := if wc then t.writeField rows (pdBase (s.rdPD n op.pdc)) 1 s.mAt (fun y x => (g s y x).c) else t
      (t1.raiseFlags rows s.mAt (fun y x => (g s y x).fl)).arrayEnd n op (cost (s.widths n op) + s.staging n op u false))))

/-- Values of the source fields in a PE. -/
def State.peA (s : State) (n : Dealer) (op : AOp) (y x : Nat) : Nat :=
  s.fieldAt (pdBase (s.rdPD n op.pda)) (pdWidth (s.rdPD n op.pda)) y x
def State.peB (s : State) (n : Dealer) (op : AOp) (y x : Nat) : Nat :=
  s.fieldAt (pdBase (s.rdPD n op.pdb)) (pdWidth (s.rdPD n op.pdb)) y x
def State.peC (s : State) (n : Dealer) (op : AOp) (y x : Nat) : Nat :=
  s.fieldAt (pdBase (s.rdPD n op.pdc)) (pdWidth (s.rdPD n op.pdc)) y x

/-- Width rules of R105. -/
def ne2 (w : Widths) : Bool := w.d != w.a
def ne3 (w : Widths) : Bool := w.d != w.a || w.d != w.b

/-- An integer instruction d := f w a b, with flags; widths equal. -/
def runInt (n : Dealer) (aop : Nat) (op : AOp) (s : State) (cost : Nat → Nat) (maxW : Nat) (f : Nat → Nat → Nat → PERes) :
    Host.Outcome State Fault Refusal :=
  runField n aop op s { d := true, a := true, b := true } (fun w => ne3 w || decide (maxW < w.d)) false (fun w => cost w.d) false
    (fun s y x => f (pdWidth (s.rdPD n op.pdd)) (s.peA n op y x) (s.peB n op y x))

/-- A comparison: d is 1 bit wide, a and b have equal widths. -/
def runCmp (n : Dealer) (aop : Nat) (op : AOp) (s : State) (k : Nat) (f : Nat → Nat → Nat → Bool) : Host.Outcome State Fault Refusal :=
  runField n aop op s { d := true, a := true, b := true } (fun w => w.d != 1 || w.a != w.b) false (fun w => w.a + k) false
    (fun s y x => { v := b2n (f (pdWidth (s.rdPD n op.pda)) (s.peA n op y x) (s.peB n op y x)) })

/-- A shift by k = IMM7[5:0]; k = 0 completes at once (R109). -/
def runShift (n : Dealer) (aop : Nat) (op : AOp) (s : State) (f : Nat → Nat → Nat → Nat) : Host.Outcome State Fault Refusal :=
  runField n aop op s { d := true, a := true, imm := 63 } ne2 (op.imm == 0) (fun w => w.d) false
    (fun s y x => { v := f (pdWidth (s.rdPD n op.pdd)) op.imm (s.peA n op y x) })

/-- ARRAY_FP at the end of an instruction that issued `cost` microwords (R141): its results drain as after any array instruction (R209). -/
def State.arrayFPTrap (s : State) (n : Dealer) (op : AOp) (cost ex : Nat) : State :=
  let t := s.charge n cost
  let u := t.setDl n { t.dl n with drainTo := (t.dl n).cyc + 6 }
  (u.trap n { code := trapArrayFP, info := 0, fpc := some (fpcTrapped (u.bank n).fpc ex true) } op.ext.isSome false).tUndefined

/-- A floating-point instruction (R111, R112, R141): with a trap enabled the result is staged, and an enabled exception in a counted PE
traps ARRAY_FP after the flag planes are written; else d, the flag planes and ASF are written. -/
def runAFP (n : Dealer) (aop0 : Nat) (op : AOp) (s : State) (u : AUse) (wd wa wb wc : Nat) (cS cH : Nat)
    (g : State → Nat → Nat → FRes) : Host.Outcome State Fault Refusal :=
  let aop := aop0 + (if op.half then 0x20 else 0)
  let d := s.rdPD n op.pdd
  let q := pdQset d
  let w := s.widths n op
  let bad := w.d != wd || w.a != wa || (u.b && w.b != wb) || (u.c && w.c != wc)
  runArray n aop op s (s.arrayTrap n aop op u bad (some q)) (q == 0) none (fun s =>
    let rows := s.rows q
    s.withReads n aop rows (planesOf (s.usedPDs n op { u with d := false })) (planesOf [d]) (fun s =>
      s.withFlags n aop rows (fun s y x => (g s y x).fl) (rangeFrom 0 7) (fun s =>
      let te := fpcTE (s.bank n).fpc
      let all := s.orOver rows (fun y x => (g s y x).fl)
      let flagged := (s.raiseFlags rows s.mAt (fun y x => (g s y x).fl))
      let cost := if op.half then cH else cS
      if all &&& te ≠ 0 then
        (flagged.arrayFPTrap n op cost all)
      else
        let t := (flagged.writeField rows (pdBase d) (pdWidth d) s.mAt (fun y x => (g s y x).bits))
        (t.setFpc n (fpcRaiseA (t.bank n).fpc all)).arrayEnd n op (cost + s.staging n op u (te != 0)))))

/-- The format of an array floating-point instruction. -/
def afmt (op : AOp) : FFmt := if op.half then fmtH else fmtS

end Sys2Proof.Machine
end

