-- ==== Sys2Proof/Machine/Scalar.lean ====
section
/-!
DEFINITION. The scalar instructions of spec/06 and spec/04: register, immediate, floating-point, memory, control and system
instructions other than strings, context and deal instructions.  Each is one definition over the operand forms of
Sys2Proof/Machine/Operands.lean; opcodes, operands, flags and cycles are those of the catalogue (R187, R126, R190).
-/
namespace Sys2Proof.Machine

open Sys2Proof

/-- ADD: Wd := a + b, arith (R123, R187). -/
def execAdd (n : Dealer) (op : SOp) (s : State) : Host.Outcome State Fault Refusal :=
  runReg n 0x00 op s 1 (fun a b st => let r := addFlags 32 a b 0; some (r.1, stWithFlags st r.2))

/-- ADDC: Wd := a + b + C, arith (R123). -/
def execAddc (n : Dealer) (op : SOp) (s : State) : Host.Outcome State Fault Refusal :=
  runReg n 0x01 op s 1 (fun a b st => let r := addFlags 32 a b (b2n (stC st)); some (r.1, stWithFlags st r.2))

/-- SUB: Wd := a − b, arith; with d = 0 the compare CMP (R123). -/
def execSub (n : Dealer) (op : SOp) (s : State) : Host.Outcome State Fault Refusal :=
  runReg n 0x02 op s 1 (fun a b st => let r := subFlags 32 a b 0; some (r.1, stWithFlags st r.2))

/-- SUBB: Wd := a − b − C, arith (R123). -/
def execSubb (n : Dealer) (op : SOp) (s : State) : Host.Outcome State Fault Refusal :=
  runReg n 0x03 op s 1 (fun a b st => let r := subFlags 32 a b (b2n (stC st)); some (r.1, stWithFlags st r.2))

/-- AND, flags ZN (R187). -/
def execAnd (n : Dealer) (op : SOp) (s : State) : Host.Outcome State Fault Refusal :=
  runReg n 0x4 op s 1 (fun a b st => let r := a &&& b; some (r, stWithZN st r))

/-- OR, flags ZN (R187). -/
def execOr (n : Dealer) (op : SOp) (s : State) : Host.Outcome State Fault Refusal :=
  runReg n 0x5 op s 1 (fun a b st => let r := a ||| b; some (r, stWithZN st r))

/-- XOR, flags ZN (R187). -/
def execXor (n : Dealer) (op : SOp) (s : State) : Host.Outcome State Fault Refusal :=
  runReg n 0x6 op s 1 (fun a b st => let r := a ^^^ b; some (r, stWithZN st r))

/-- ANDN: a and not b, flags ZN (R187). -/
def execAndn (n : Dealer) (op : SOp) (s : State) : Host.Outcome State Fault Refusal :=
  runReg n 0x7 op s 1 (fun a b st => let r := a &&& (ones 32 - b); some (r, stWithZN st r))

/-- SHL by b[5:0]; a count of 0 writes nothing and leaves the flags (R188). -/
def execShl (n : Dealer) (op : SOp) (s : State) : Host.Outcome State Fault Refusal :=
  runReg n 0x8 op s 1 (fun a b st => if b % 64 = 0 then none else let r := shlW a (b % 64); some (r, stWithZN st r))

/-- SHRU by b[5:0]; a count of 0 writes nothing and leaves the flags (R188). -/
def execShru (n : Dealer) (op : SOp) (s : State) : Host.Outcome State Fault Refusal :=
  runReg n 0x9 op s 1 (fun a b st => if b % 64 = 0 then none else let r := shruW a (b % 64); some (r, stWithZN st r))

/-- SHRS by b[5:0]; a count of 0 writes nothing and leaves the flags (R188). -/
def execShrs (n : Dealer) (op : SOp) (s : State) : Host.Outcome State Fault Refusal :=
  runReg n 0xa op s 1 (fun a b st => if b % 64 = 0 then none else let r := shrsW a (b % 64); some (r, stWithZN st r))

/-- MUL: the low 32 bits of a × b, no flags. -/
def execMul (n : Dealer) (op : SOp) (s : State) : Host.Outcome State Fault Refusal :=
  runReg n 0x0B op s 3 (fun a b st => some (a * b % 2 ^ 32, st))

/-- A product to the pair Wd, Wd+1; d must be even (R124, R180). -/
def runMulPair (n : Dealer) (opc : Nat) (op : SOp) (s : State) (f : Nat → Nat → Nat) : Host.Outcome State Fault Refusal :=
  runScalar n op s
    (firstTrap [(regReserved op true false false || op.d % 2 != 0, illReserved (op.word 0 opc)), s.endTrap n op])
    (fun s => (s.wrPair n op.d (f (s.rdW n op.a).toNat (s.rdW n op.b).toNat)).advance n op 4)

/-- MULWU: the exact unsigned 64-bit product (R124). -/
def execMulwu (n : Dealer) (op : SOp) (s : State) : Host.Outcome State Fault Refusal :=
  runMulPair n 0x0C op s (fun a b => a * b)

/-- MULWS: the exact signed 64-bit product (R124). -/
def execMulws (n : Dealer) (op : SOp) (s : State) : Host.Outcome State Fault Refusal :=
  runMulPair n 0x0D op s (fun a b => ofSigned 64 (toSigned 32 a * toSigned 32 b))

/-- A division: a divisor of 0 traps DIV_ZERO with the dividend in XINFO (R125, R198 order 6). -/
def runDiv (n : Dealer) (opc : Nat) (op : SOp) (s : State) (f : Nat → Nat → Nat) : Host.Outcome State Fault Refusal :=
  runScalar n op s
    (firstTrap [(regReserved op true false false, illReserved (op.word 0 opc)), s.endTrap n op])
    (fun s =>
      if s.rdW n op.b = 0 then s.lateTrap n op 34 { code := trapDivZero, info := s.rdW n op.a }
      else (s.wrW n op.d (BitVec.ofNat 32 (f (s.rdW n op.a).toNat (s.rdW n op.b).toNat))).advance n op 34)

/-- DIVU (R125). -/
def execDivu (n : Dealer) (op : SOp) (s : State) : Host.Outcome State Fault Refusal :=
  runDiv n 0x0E op s (fun a b => a / b)

/-- DIVS, rounded toward zero; 0x8000_0000 by −1 gives 0x8000_0000 (R125). -/
def execDivs (n : Dealer) (op : SOp) (s : State) : Host.Outcome State Fault Refusal :=
  runDiv n 0x0F op s (fun a b => ofSigned 32 (Int.tdiv (toSigned 32 a) (toSigned 32 b)))

/-- REMU (R125). -/
def execRemu (n : Dealer) (op : SOp) (s : State) : Host.Outcome State Fault Refusal :=
  runDiv n 0x10 op s (fun a b => a % b)

/-- REMS, with the sign of the dividend (R125). -/
def execRems (n : Dealer) (op : SOp) (s : State) : Host.Outcome State Fault Refusal :=
  runDiv n 0x11 op s (fun a b => ofSigned 32 (Int.tmod (toSigned 32 a) (toSigned 32 b)))

/-- SLTU: 1 when a < b unsigned. -/
def execSltu (n : Dealer) (op : SOp) (s : State) : Host.Outcome State Fault Refusal :=
  runReg n 0x13 op s 1 (fun a b st => some (b2n (decide (a < b)), st))

/-- SLTS: 1 when a < b signed. -/
def execSlts (n : Dealer) (op : SOp) (s : State) : Host.Outcome State Fault Refusal :=
  runReg n 0x14 op s 1 (fun a b st => some (b2n (decide (toSigned 32 a < toSigned 32 b)), st))

/-- A binary32 or binary64 result written to Fd; a binary32 result clears bits [63:32] (R130). -/
def wrFbits (n : Dealer) (op : SOp) (s : State) (v : Nat) : State := s.wrF n op.d (BitVec.ofNat 64 v)

/-- Rounding mode and flush-to-zero of the current level. -/
def State.rm (s : State) (n : Dealer) : Rm := fpcRM (s.bank n).fpc
def State.ftz (s : State) (n : Dealer) : Bool := fpcFTZ (s.bank n).fpc

/-- An instruction Fd := f(Fa, Fb). -/
def runFP2 (n : Dealer) (opc : Nat) (op : SOp) (s : State) (cost : Nat) (f : FFmt → Rm → Bool → Nat → Nat → FRes) :
    Host.Outcome State Fault Refusal :=
  runFP n opc op s true false (decide (15 < op.d) || decide (15 < op.a) || decide (15 < op.b)) true cost
    (fun t => f op.ffmt (t.rm n) (t.ftz n) (t.rdFv n op.a op.ffmt) (t.rdFv n op.b op.ffmt)) (wrFbits n op)

/-- A comparison Wd := f(Fa, Fb). -/
def runFCmp (n : Dealer) (opc : Nat) (op : SOp) (s : State) (c : FCmp) : Host.Outcome State Fault Refusal :=
  runFP n opc op s true false (decide (15 < op.a) || decide (15 < op.b)) false 2
    (fun t => fCompare op.ffmt (t.ftz n) c (t.rdFv n op.a op.ffmt) (t.rdFv n op.b op.ffmt))
    (fun t v => t.wrW n op.d (BitVec.ofNat 32 v))

/-- An instruction Fd := f(Fa). -/
def runFP1 (n : Dealer) (opc : Nat) (op : SOp) (s : State) (cost : Nat) (f : FFmt → Rm → Bool → Nat → FRes) :
    Host.Outcome State Fault Refusal :=
  runFP n opc op s false false (decide (15 < op.d) || decide (15 < op.a)) true cost
    (fun t => f op.ffmt (t.rm n) (t.ftz n) (t.rdFv n op.a op.ffmt)) (wrFbits n op)

/-- FADD (R127, R143). -/
def execFadd (n : Dealer) (op : SOp) (s : State) : Host.Outcome State Fault Refusal :=
  runFP2 n 0x20 op s 4 (fun f rm z a b => fAdd f rm z false a b)

/-- FSUB. -/
def execFsub (n : Dealer) (op : SOp) (s : State) : Host.Outcome State Fault Refusal :=
  runFP2 n 0x21 op s 4 (fun f rm z a b => fAdd f rm z true a b)

/-- FMUL. -/
def execFmul (n : Dealer) (op : SOp) (s : State) : Host.Outcome State Fault Refusal :=
  runFP2 n 0x22 op s (if op.fmt = 1 then 5 else 4) fMul

/-- FMA: Fa × Fb + Fc rounded once (R127, R135). -/
def execFma (n : Dealer) (op : SOp) (s : State) : Host.Outcome State Fault Refusal :=
  runFP n 0x23 op s true true (decide (15 < op.d) || decide (15 < op.a) || decide (15 < op.b) || decide (15 < op.c)) true
    (if op.fmt = 1 then 6 else 5)
    (fun t => fFma op.ffmt (t.rm n) (t.ftz n) (t.rdFv n op.a op.ffmt) (t.rdFv n op.b op.ffmt) (t.rdFv n op.c op.ffmt))
    (wrFbits n op)

/-- FDIV. -/
def execFdiv (n : Dealer) (op : SOp) (s : State) : Host.Outcome State Fault Refusal :=
  runFP2 n 0x24 op s (if op.fmt = 1 then 28 else 14) fDiv

/-- FSQRT. -/
def execFsqrt (n : Dealer) (op : SOp) (s : State) : Host.Outcome State Fault Refusal :=
  runFP1 n 0x25 op s (if op.fmt = 1 then 30 else 15) fSqrt

/-- FMIN (R136). -/
def execFmin (n : Dealer) (op : SOp) (s : State) : Host.Outcome State Fault Refusal :=
  runFP2 n 0x26 op s 2 (fun f _ z a b => fMinMax f z false a b)

/-- FMAX (R136). -/
def execFmax (n : Dealer) (op : SOp) (s : State) : Host.Outcome State Fault Refusal :=
  runFP2 n 0x27 op s 2 (fun f _ z a b => fMinMax f z true a b)

/-- FCMPEQ (R136). -/
def execFcmpeq (n : Dealer) (op : SOp) (s : State) : Host.Outcome State Fault Refusal :=
  runFCmp n 0x28 op s .eq

/-- FCMPLT (R136). -/
def execFcmplt (n : Dealer) (op : SOp) (s : State) : Host.Outcome State Fault Refusal :=
  runFCmp n 0x29 op s .lt

/-- FCMPLE (R136). -/
def execFcmple (n : Dealer) (op : SOp) (s : State) : Host.Outcome State Fault Refusal :=
  runFCmp n 0x2A op s .le

/-- FNEG: the sign bit inverted (R135). -/
def execFneg (n : Dealer) (op : SOp) (s : State) : Host.Outcome State Fault Refusal :=
  runFP1 n 0x2B op s 2 (fun f _ _ a => ⟨fNeg f a, 0⟩)

/-- FABS: the sign bit cleared (R135). -/
def execFabs (n : Dealer) (op : SOp) (s : State) : Host.Outcome State Fault Refusal :=
  runFP1 n 0x2C op s 2 (fun f _ _ a => ⟨fAbs f a, 0⟩)

/-- A conversion Wd := f(Fa). -/
def runFToI (n : Dealer) (opc : Nat) (op : SOp) (s : State) (signed : Bool) : Host.Outcome State Fault Refusal :=
  runFP n opc op s false false (decide (15 < op.a)) false 3
    (fun t => fToInt op.ffmt (t.rm n) (t.ftz n) signed 32 (t.rdFv n op.a op.ffmt))
    (fun t v => t.wrW n op.d (BitVec.ofNat 32 v))

/-- A conversion Fd := f(Wa). -/
def runIToF (n : Dealer) (opc : Nat) (op : SOp) (s : State) (signed : Bool) : Host.Outcome State Fault Refusal :=
  runFP n opc op s false false (decide (15 < op.d)) true 3
    (fun t => fFromInt op.ffmt (t.rm n) signed 32 (t.rdW n op.a).toNat) (wrFbits n op)

/-- FCVT.I (R137). -/
def execFcvtI (n : Dealer) (op : SOp) (s : State) : Host.Outcome State Fault Refusal :=
  runFToI n 0x2D op s true

/-- FCVT.IU (R137). -/
def execFcvtIu (n : Dealer) (op : SOp) (s : State) : Host.Outcome State Fault Refusal :=
  runFToI n 0x2E op s false

/-- FCVT.F. -/
def execFcvtF (n : Dealer) (op : SOp) (s : State) : Host.Outcome State Fault Refusal :=
  runIToF n 0x2F op s true

/-- FCVT.FU. -/
def execFcvtFu (n : Dealer) (op : SOp) (s : State) : Host.Outcome State Fault Refusal :=
  runIToF n 0x30 op s false

/-- FCVT.X: FMT .S converts binary32 to binary64, FMT .D binary64 to binary32. -/
def execFcvtX (n : Dealer) (op : SOp) (s : State) : Host.Outcome State Fault Refusal :=
  runFP1 n 0x31 op s 3 (fun f rm z a => if f = fmtD then fConvert fmtD fmtS rm z a else fConvert fmtS fmtD rm z a)

/-- FMFW: .S moves Fa[31:0] to Wd, .D moves Fa to the pair Wd, Wd+1. -/
def execFmfw (n : Dealer) (op : SOp) (s : State) : Host.Outcome State Fault Refusal :=
  runScalar n op s
    (firstTrap [(regReserved op false false true || decide (15 < op.a) || (op.fmt == 1 && op.d % 2 != 0),
      illReserved (op.word 0 0x38)), s.endTrap n op])
    (fun s => (if op.fmt = 1 then s.wrPair n op.d (s.rdF n op.a).toNat
      else s.wrW n op.d (BitVec.ofNat 32 (s.rdF n op.a).toNat)).advance n op 1)

/-- FMTW: .S moves Wa to Fd under R130, .D moves the pair Wa, Wa+1. -/
def execFmtw (n : Dealer) (op : SOp) (s : State) : Host.Outcome State Fault Refusal :=
  runScalar n op s
    (firstTrap [(regReserved op false false true || decide (15 < op.d) || (op.fmt == 1 && op.a % 2 != 0),
      illReserved (op.word 0 0x39)), s.endTrap n op])
    (fun s => s.withFill n 0 (fun t => (t.wrF n op.d (BitVec.ofNat 64
      (if op.fmt = 1 then t.rdPair n op.a else (t.rdW n op.a).toNat))).advance n op 1))

/-- MTPD: PDd := Wa as given (R187), after any LAZY_FILL (R214). -/
def execMtpd (n : Dealer) (op : SOp) (s : State) : Host.Outcome State Fault Refusal :=
  runScalar n op s
    (firstTrap [(regReserved op false false false || decide (15 < op.d), illReserved (op.word 0 0x3A)), s.endTrap n op])
    (fun s => s.withFill n 1 (fun t => (t.wrPD n op.d (t.rdW n op.a)).advance n op 1))

/-- MFPD: Wd := PDa. -/
def execMfpd (n : Dealer) (op : SOp) (s : State) : Host.Outcome State Fault Refusal :=
  runScalar n op s
    (firstTrap [(regReserved op false false false || decide (15 < op.a), illReserved (op.word 0 0x3B)), s.endTrap n op])
    (fun s => (s.wrW n op.d (s.rdPD n op.a)).advance n op 1)

/-- The special register a selector names, as MFS reads it. -/
def State.special (s : State) (n : Dealer) (sel : Nat) : Word :=
  let b := s.bank n
  match sel with
  | 0 => b.st | 1 => b.fpc | 2 => b.pc | 3 => b.xpc | 4 => b.xcause | 5 => b.xinfo | 6 => b.xvec
  | _ => BitVec.ofNat 32 (s.dl n).msp

/-- Reserved values an MTS or WPUT may not put into a special register (R9, R138, R201): selector and value. -/
def specialReserved (sel v : Nat) : Bool :=
  match sel with
  | 0 => natBits v 16 16 != 0 || natBits v 5 6 != 0
  | 1 => natBits v 24 8 != 0
  | 3 => natBits v 18 14 != 0 || v % 4 != 0
  | 4 => natBits v 13 19 != 0 || decide (0x0C < v % 256)
  | 6 => natBits v 18 14 != 0 || v % 4 != 0
  | _ => false

/-- A write of a special register: a reserved value refuses the whole write and raises EV270 (R9); RV fields keep their value. -/
def State.writeSpecial (s : State) (n : Dealer) (k : Fin 8) (sel v : Nat) : State :=
  if specialReserved sel v then s.event 270
  else
    let b := s.bankAt n k
    match sel with
    | 0 => s.setBankAt n k { b with st := putField b.st 0 5 v }
    | 1 => s.setBankAt n k { b with fpc := putField b.fpc 0 18 v }
    | 3 => s.setBankAt n k { b with xpc := BitVec.ofNat 32 v }
    | 4 => s.setBankAt n k { b with xcause := BitVec.ofNat 32 v }
    | 5 => s.setBankAt n k { b with xinfo := BitVec.ofNat 32 v }
    | 6 => s.setBankAt n k { b with xvec := BitVec.ofNat 32 v }
    | _ => s

/-- MFS: Wd := the special register of selector B. -/
def execMfs (n : Dealer) (op : SOp) (s : State) : Host.Outcome State Fault Refusal :=
  runScalar n op s
    (firstTrap [(regReserved op true false false || op.a != 0 || decide (7 < op.b), illReserved (op.word 0 0x3C)), s.endTrap n op])
    (fun s => (s.wrW n op.d (s.special n op.b)).advance n op 1)

/-- MTS: the special register of selector D := Wa; XVEC is privileged; PC and MSP cannot be written. -/
def execMts (n : Dealer) (op : SOp) (s : State) : Host.Outcome State Fault Refusal :=
  runScalar n op s
    (firstTrap [(regReserved op false false false || op.d == 2 || decide (6 < op.d), illReserved (op.word 0 0x3D)),
      (op.d == 6 && !s.priv n, { code := trapPriv, info := op.word 0 0x3D }), s.endTrap n op])
    (fun s => (s.writeSpecial n (s.lvl n) op.d (s.rdW n op.a).toNat).advance n op 1)

/-- The checks of a descriptor before it enters a segment register (R183): order 3, then order 5. -/
def descTrap3 (x : Desc) (w : Word) : Bool × Trap := (Desc.reserved x, illReserved w)
def descTraps5 (x : Desc) (w : Word) : List (Bool × Trap) :=
  [(Desc.present x && Desc.wra x && Desc.space x == spCODE, { code := trapSegRights, info := w }),
   (Desc.beyond x, { code := trapSegLimit, info := w })]

/-- The descriptor of four W registers from Wa on. -/
def State.descOfW (s : State) (n : Dealer) (a : Nat) : Desc :=
  BitVec.ofNat 128 ((s.rdW n a).toNat + 2 ^ 32 * (s.rdW n (a + 1)).toNat + 2 ^ 64 * (s.rdW n (a + 2)).toNat
    + 2 ^ 96 * (s.rdW n (a + 3)).toNat)

/-- SGLD: SGd := Wa to Wa+3 after the checks of R183; privileged. -/
def execSgld (n : Dealer) (op : SOp) (s : State) : Host.Outcome State Fault Refusal :=
  let x := s.descOfW n op.a
  let w := op.word 0 0x3E
  runScalar n op s
    (firstTrap ([(regReserved op false false false || decide (7 < op.d) || op.a % 4 != 0, illReserved w), descTrap3 x w,
      (!s.priv n, { code := trapPriv, info := w })] ++ descTraps5 x w ++ [s.endTrap n op]))
    (fun s => (s.wrSG n op.d x).advance n op 2)

/-- SGRD: Wd := word k of SGa. -/
def execSgrd (n : Dealer) (op : SOp) (s : State) : Host.Outcome State Fault Refusal :=
  runScalar n op s
    (firstTrap [(regReserved op true false false || decide (7 < op.a) || decide (3 < op.b), illReserved (op.word 0 0x3F)),
      s.endTrap n op])
    (fun s => (s.wrW n op.d (BitVec.ofNat 32 (Desc.word (s.rdSG n op.a) op.b))).advance n op 1)

/-- ADDI, imm sign-extended, arith. -/
def execAddi (n : Dealer) (op : SOp) (s : State) : Host.Outcome State Fault Refusal :=
  runImm n 0x00 op s true false (fun a i st => let r := addFlags 32 a i 0; some (r.1, stWithFlags st r.2))

/-- ANDI, imm zero-extended, ZN. -/
def execAndi (n : Dealer) (op : SOp) (s : State) : Host.Outcome State Fault Refusal :=
  runImm n 0x4 op s false false (fun a i st => let r := a &&& i; some (r, stWithZN st r))

/-- ORI, imm zero-extended, ZN. -/
def execOri (n : Dealer) (op : SOp) (s : State) : Host.Outcome State Fault Refusal :=
  runImm n 0x5 op s false false (fun a i st => let r := a ||| i; some (r, stWithZN st r))

/-- XORI, imm zero-extended, ZN. -/
def execXori (n : Dealer) (op : SOp) (s : State) : Host.Outcome State Fault Refusal :=
  runImm n 0x6 op s false false (fun a i st => let r := a ^^^ i; some (r, stWithZN st r))

/-- SHLI by IMM13[5:0]; IMM13[12:6] must be 0 (R188). -/
def execShli (n : Dealer) (op : SOp) (s : State) : Host.Outcome State Fault Refusal :=
  runImm n 0x8 op s false (decide (63 < op.imm false))
    (fun a i st => if i = 0 then none else let r := shlW a i; some (r, stWithZN st r))

/-- SHRUI by IMM13[5:0]; IMM13[12:6] must be 0 (R188). -/
def execShrui (n : Dealer) (op : SOp) (s : State) : Host.Outcome State Fault Refusal :=
  runImm n 0x9 op s false (decide (63 < op.imm false))
    (fun a i st => if i = 0 then none else let r := shruW a i; some (r, stWithZN st r))

/-- SHRSI by IMM13[5:0]; IMM13[12:6] must be 0 (R188). -/
def execShrsi (n : Dealer) (op : SOp) (s : State) : Host.Outcome State Fault Refusal :=
  runImm n 0xa op s false (decide (63 < op.imm false))
    (fun a i st => if i = 0 then none else let r := shrsW a i; some (r, stWithZN st r))

/-- CMPI: the flags of a − imm; D must be 0. -/
def execCmpi (n : Dealer) (op : SOp) (s : State) : Host.Outcome State Fault Refusal :=
  runImm n 0x12 op s true (op.d != 0) (fun a i st => let r := subFlags 32 a i 0; some (r.1, stWithFlags st r.2))

/-- SLTUI, imm zero-extended. -/
def execSltui (n : Dealer) (op : SOp) (s : State) : Host.Outcome State Fault Refusal :=
  runImm n 0x13 op s false false (fun a i st => some (b2n (decide (a < i)), st))

/-- SLTSI, imm sign-extended. -/
def execSltsi (n : Dealer) (op : SOp) (s : State) : Host.Outcome State Fault Refusal :=
  runImm n 0x14 op s true false (fun a i st => some (b2n (decide (toSigned 32 a < toSigned 32 i)), st))

/-- MOVI: Wd := imm, sign-extended; A must be 0. -/
def execMovi (n : Dealer) (op : SOp) (s : State) : Host.Outcome State Fault Refusal :=
  runImm n 0x18 op s true (op.a != 0) (fun _ i st => some (i, st))

/-- LDB: a byte, sign-extended; all ones after an access error (R189). -/
def execLdb (n : Dealer) (op : SOp) (s : State) : Host.Outcome State Fault Refusal :=
  runLoad n 0x20 op s 1 (false) false (fun t v => t.wrW n op.d (sextTo32 8 (v % 256)))

/-- LDBU: a byte, zero-extended. -/
def execLdbu (n : Dealer) (op : SOp) (s : State) : Host.Outcome State Fault Refusal :=
  runLoad n 0x21 op s 1 (false) false (fun t v => t.wrW n op.d (BitVec.ofNat 32 v))

/-- LDH. -/
def execLdh (n : Dealer) (op : SOp) (s : State) : Host.Outcome State Fault Refusal :=
  runLoad n 0x22 op s 2 (false) false (fun t v => t.wrW n op.d (sextTo32 16 (v % 65536)))

/-- LDHU. -/
def execLdhu (n : Dealer) (op : SOp) (s : State) : Host.Outcome State Fault Refusal :=
  runLoad n 0x23 op s 2 (false) false (fun t v => t.wrW n op.d (BitVec.ofNat 32 v))

/-- LDW. -/
def execLdw (n : Dealer) (op : SOp) (s : State) : Host.Outcome State Fault Refusal :=
  runLoad n 0x24 op s 4 (false) false (fun t v => t.wrW n op.d (BitVec.ofNat 32 v))

/-- LDD: the pair Wd, Wd+1. -/
def execLdd (n : Dealer) (op : SOp) (s : State) : Host.Outcome State Fault Refusal :=
  runLoad n 0x25 op s 8 (op.d % 2 != 0) false (fun t v => t.wrPair n op.d v)

/-- FLD.S: binary32 into Fd under R130; every bit of Fd is 1 after an access error (R189). -/
def execFldS (n : Dealer) (op : SOp) (s : State) : Host.Outcome State Fault Refusal :=
  runLoad n 0x2c op s 4 (decide (15 < op.d)) true (fun t v => t.wrF n op.d (BitVec.ofNat 64 (if v = ones 64 then v else v % 2 ^ 32)))

/-- FLD.D. -/
def execFldD (n : Dealer) (op : SOp) (s : State) : Host.Outcome State Fault Refusal :=
  runLoad n 0x2d op s 8 (decide (15 < op.d)) true (fun t v => t.wrF n op.d (BitVec.ofNat 64 v))

/-- STB: Wd[7:0]. -/
def execStb (n : Dealer) (op : SOp) (s : State) : Host.Outcome State Fault Refusal :=
  runStore n 0x28 op s 1 (false) (fun t => (t.rdW n op.d).toNat)

/-- STH: Wd[15:0]. -/
def execSth (n : Dealer) (op : SOp) (s : State) : Host.Outcome State Fault Refusal :=
  runStore n 0x29 op s 2 (false) (fun t => (t.rdW n op.d).toNat)

/-- STW. -/
def execStw (n : Dealer) (op : SOp) (s : State) : Host.Outcome State Fault Refusal :=
  runStore n 0x2a op s 4 (false) (fun t => (t.rdW n op.d).toNat)

/-- STD: the pair Wd, Wd+1. -/
def execStd (n : Dealer) (op : SOp) (s : State) : Host.Outcome State Fault Refusal :=
  runStore n 0x2b op s 8 (op.d % 2 != 0) (fun t => t.rdPair n op.d)

/-- FST.S: Fd[31:0]. -/
def execFstS (n : Dealer) (op : SOp) (s : State) : Host.Outcome State Fault Refusal :=
  runStore n 0x2e op s 4 (decide (15 < op.d)) (fun t => (t.rdF n op.d).toNat)

/-- FST.D. -/
def execFstD (n : Dealer) (op : SOp) (s : State) : Host.Outcome State Fault Refusal :=
  runStore n 0x2f op s 8 (decide (15 < op.d)) (fun t => (t.rdF n op.d).toNat)

/-- AADD: t := word; word := t + Wd; Wd := t, as one fetch-and-add; SCRATCH or DRAM only, at a multiple of 4 (R190). -/
def execAadd (n : Dealer) (op : SOp) (s : State) : Host.Outcome State Fault Refusal :=
  let x := s.rdSG n op.sg
  let off := s.memOffset n op
  runScalar n op s
    (firstTrap ((memReserved op, illReserved (op.word 1 0x30)) ::
      segChecks x op.sg off 4 true true (decide (1 < Desc.space x) || decide (off % 4 ≠ 0)) ++ [s.endTrap n op]))
    (fun s =>
      let a := Desc.base x + off.toNat
      let cost := s.loadCost n x off.toNat 4 + 1
      let fail (t : State) (st : Nat) : State := ((t.accessError n st a op.sg true).wrW n op.d (BitVec.allOnes 32)).advance n op cost
      if a % 4 ≠ 0 then fail s stREFUSED
      else if s.segWaits n x off.toNat 4 then s
      else
        let r := s.segRead n x off.toNat 4
        if r.1 ≠ stOK then fail r.2.2 r.1
        else
          let w := r.2.2.segWrite n x off.toNat 4 (r.2.1 + (s.rdW n op.d).toNat)
          if w.1 ≠ stOK then fail w.2 w.1
          else (w.2.wrW n op.d (BitVec.ofNat 32 r.2.1)).advance n op cost)

/-- LEA: Wd := Wa + disp, with no access and no check; SG must be 0 (R179; log entry 12). -/
def execLea (n : Dealer) (op : SOp) (s : State) : Host.Outcome State Fault Refusal :=
  runScalar n op s
    (firstTrap [(memReserved op || op.sg != 0, illReserved (op.word 1 0x31)), s.endTrap n op])
    (fun s => (s.wrW n op.d (BitVec.ofInt 32 (s.memOffset n op))).advance n op 1)

/-- B: when COND holds, PC := PC + 4 × DISP19 (R191); 2 cycles taken, 1 not taken. -/
def execB (n : Dealer) (op : SOp) (s : State) : Host.Outcome State Fault Refusal :=
  let t := s.brTarget n op
  let tk := condHolds (s.st n) (op.fld 19 4)
  runScalar n op s
    (firstTrap [(op.hasExt, illReserved (op.word 2 0x00)),
      (if tk then transferTrap t else s.endTrap n op)])
    (fun s => if tk then (s.setPc n t.toNat).charge n 2 else s.advance n op 1)

/-- CALL: W31 := PC + 4; PC := PC + 4 × DISP19; COND must be 0 (R191). -/
def execCall (n : Dealer) (op : SOp) (s : State) : Host.Outcome State Fault Refusal :=
  let t := s.brTarget n op
  runScalar n op s
    (firstTrap [(op.hasExt || op.fld 19 4 != 0, illReserved (op.word 2 0x01)), transferTrap t])
    (fun s => ((s.wrW n 31 (BitVec.ofNat 32 (s.pc n + 4))).setPc n t.toNat).charge n 2)

/-- JR: PC := Wa (R191). -/
def execJr (n : Dealer) (op : SOp) (s : State) : Host.Outcome State Fault Refusal :=
  let t : Int := (s.rdW n op.a).toNat
  runScalar n op s (firstTrap [(sysReserved op false true 0, illReserved (op.word 2 0x08)), transferTrap t])
    (fun s => (s.setPc n t.toNat).charge n 2)

/-- JALR: t := Wa; Wd := PC + 4; PC := t (R191). -/
def execJalr (n : Dealer) (op : SOp) (s : State) : Host.Outcome State Fault Refusal :=
  let t : Int := (s.rdW n op.a).toNat
  runScalar n op s (firstTrap [(sysReserved op true true 0, illReserved (op.word 2 0x09)), transferTrap t])
    (fun s => ((s.wrW n op.d (BitVec.ofNat 32 (s.pc n + 4))).setPc n t.toNat).charge n 2)

/-- BCHK 0x0A: traps BOUNDS unless SGm is present and Wn + 2^z − 1 ≤ LIMIT (R192). -/
def execBchkSegment (n : Dealer) (op : SOp) (s : State) : Host.Outcome State Fault Refusal :=
  let m := natBits op.sub 0 3
  let z := natBits op.sub 3 2
  let x := s.rdSG n m
  let v := s.rdW n op.d
  runScalar n op s
    (firstTrap [(sysReserved op true false 31, illReserved (op.word 2 0x0A)), s.endTrap n op,
      (!Desc.present x || decide (Desc.limit x < v.toNat + 2 ^ z - 1), { code := trapBounds, info := v, seg := m })])
    (fun s => s.advance n op 1)

/-- BCHK 0x0B: traps BOUNDS unless Wlo ≤ Wn ≤ Whi as signed values (R192). -/
def execBchkRange (n : Dealer) (op : SOp) (s : State) : Host.Outcome State Fault Refusal :=
  let v := s.rdW n op.d
  let lo := s.rdW n op.a
  let hi := s.rdW n (natBits op.sub 8 5)
  runScalar n op s
    (firstTrap [(sysReserved op true true 0x1F00, illReserved (op.word 2 0x0B)), s.endTrap n op,
      (!(decide (lo.toInt ≤ v.toInt) && decide (v.toInt ≤ hi.toInt)), { code := trapBounds, info := v })])
    (fun s => s.advance n op 1)

/-- NOP: 1 cycle. -/
def execNop (n : Dealer) (op : SOp) (s : State) : Host.Outcome State Fault Refusal :=
  runScalar n op s (firstTrap [(sysReserved op false false 0, illReserved (op.word 2 0x22)), s.endTrap n op])
    (fun s => s.advance n op 1)

end Sys2Proof.Machine
end

