-- ==== Sys2Proof/Machine/Array.lean ====
section
/-!
DEFINITION. The array instructions of the catalogue (spec/03 R105 to R112, results in spec/04 R118 to R141), each written over
the forms of Sys2Proof/Machine/ArrayOps.lean with its opcode, operands, widths, cycles and flag planes.
-/
namespace Sys2Proof.Machine

open Sys2Proof

/-- MOV: d := a, w cycles (R105). -/
def execArrayMov (n : Dealer) (op : AOp) (s : State) : Host.Outcome State Fault Refusal :=
  runField n 0x0 op s { d := true, a := true } (ne2) false (fun w => w.d) false
    (fun s y x => { v := s.peA n op y x })

/-- ZEXT: d := a zero-extended; wa ≤ w. -/
def execArrayZext (n : Dealer) (op : AOp) (s : State) : Host.Outcome State Fault Refusal :=
  runField n 0x1 op s { d := true, a := true } (fun w => decide (w.d < w.a)) false (fun w => w.d) false
    (fun s y x => { v := s.peA n op y x })

/-- SEXT: d := a sign-extended; wa ≤ w. -/
def execArraySext (n : Dealer) (op : AOp) (s : State) : Host.Outcome State Fault Refusal :=
  runField n 0x2 op s { d := true, a := true } (fun w => decide (w.d < w.a)) false (fun w => w.d) false
    (fun s y x => { v := ofSigned (pdWidth (s.rdPD n op.pdd)) (toSigned (pdWidth (s.rdPD n op.pda)) (s.peA n op y x)) })

/-- NOT: d := not a. -/
def execArrayNot (n : Dealer) (op : AOp) (s : State) : Host.Outcome State Fault Refusal :=
  runField n 0x3 op s { d := true, a := true } (ne2) false (fun w => w.d) false
    (fun s y x => { v := ones (pdWidth (s.rdPD n op.pdd)) - s.peA n op y x })

/-- Bit k of the result is bit 2 × ak + bk of the truth table f. -/
def boolField (f a b : Nat) : Nat → Nat
  | 0 => 0
  | w + 1 => boolField f a b w + 2 ^ w * b2n (natBit f (2 * b2n (natBit a w) + b2n (natBit b w)))

/-- BOOL: a truth table IMM7[3:0] of a and b, w + 1 cycles. -/
def execArrayBool (n : Dealer) (op : AOp) (s : State) : Host.Outcome State Fault Refusal :=
  runField n 0x004 op s { d := true, a := true, b := true, imm := 15 } ne3 false (fun w => w.d + 1) false
    (fun s y x => { v := boolField op.imm (s.peA n op y x) (s.peB n op y x) (pdWidth (s.rdPD n op.pdd)) })

/-- SEL: d := a where the 1-bit c is 1, else b; w + 2 cycles. -/
def execArraySel (n : Dealer) (op : AOp) (s : State) : Host.Outcome State Fault Refusal :=
  runField n 0x005 op s { d := true, a := true, b := true, c := true, ext := some 15 } (fun w => ne3 w || w.c != 1) false
    (fun w => w.d + 2) false (fun s y x => { v := if s.peC n op y x = 1 then s.peA n op y x else s.peB n op y x })

/-- CLR: d := 0. -/
def execArrayClr (n : Dealer) (op : AOp) (s : State) : Host.Outcome State Fault Refusal :=
  runField n 0x008 op s { d := true } (fun _ => false) false (fun w => w.d) false (fun _ _ _ => { v := 0 })

/-- SETI: d := IMM32, bits above 31 filled with 0. -/
def execArraySeti (n : Dealer) (op : AOp) (s : State) : Host.Outcome State Fault Refusal :=
  runField n 0x009 op s { d := true, ext := some (ones 32) } (fun _ => false) false (fun w => w.d) false
    (fun _ _ _ => { v := op.extW })

/-- SETW: d := Wn, n = IMM7[4:0]. -/
def execArraySetw (n : Dealer) (op : AOp) (s : State) : Host.Outcome State Fault Refusal :=
  runField n 0x00A op s { d := true, imm := 31 } (fun _ => false) false (fun w => w.d) false
    (fun s _ _ => { v := (s.rdW n op.imm).toNat })

/-- XMOVE: d := a from the PE DIST upstream, by runner and neighbour hops under the edge modes (R57, R106); DIST = 0 completes at once. -/
def execArrayXmove (n : Dealer) (op : AOp) (s : State) : Host.Outcome State Fault Refusal :=
  let dist := op.extW
  let q := pdQset (s.rdPD n op.pdd)
  runField n 0x040 op s { d := true, a := true, imm := 3, ext := some 511 } (fun w => ne2 w || decide (32 < w.d)) (dist == 0)
    (fun w => w.d * (1 + 2 * (dist / 64) + dist % 64)) false
    (fun s y x => let src := fun k a b => s.planeBit (pdBase (s.rdPD n op.pda) + k) a b
      { v := wordOf (fun k => s.moved n q op.imm dist (src k) y x) (pdWidth (s.rdPD n op.pdd)) })

/-- SHUF: d := a permuted by hand IMM7[3:0] in mode IMM7[4], 2 × w cycles (R58, R60, R107). -/
def execArrayShuf (n : Dealer) (op : AOp) (s : State) : Host.Outcome State Fault Refusal :=
  runField n 0x041 op s { d := true, a := true, imm := 31 } ne2 false (fun w => 2 * w.d) false
    (fun s y x => let p := s.shufSrc (op.imm % 16) (op.imm / 16) y x
      { v := s.peA n op p.1 p.2 })
    (fun s => s.handReports (pdQset (s.rdPD n op.pdd)) (op.imm % 16))

/-- A reduction over field a of its quadrant set, its result in Wn (R108). -/
def runReduce (n : Dealer) (aop : Nat) (op : AOp) (s : State) (cost : Nat) (f : State → List (Nat × Nat) → Nat) :
    Host.Outcome State Fault Refusal :=
  let q := pdQset (s.rdPD n op.pda)
  runArray n aop op s (s.arrayTrap n aop op { a := true, imm := 31 } false (some q)) (q == 0) none (fun s =>
    let rows := s.rows q
    s.withSources n aop rows (planesOf [s.rdPD n op.pda]) (fun s =>
      (s.wrW n op.imm (BitVec.ofNat 32 (f s rows))).arrayEnd n op (pdWidth (s.rdPD n op.pda) + cost)))

/-- ANY: Wn := 1 when a counted PE holds a ≠ 0, wa + 18 cycles. -/
def execArrayAny (n : Dealer) (op : AOp) (s : State) : Host.Outcome State Fault Refusal :=
  runReduce n 0x088 op s 18 (fun s rows => b2n (s.countOver rows (fun y x => s.peA n op y x != 0) != 0))

/-- CNT: Wn := the number of counted PEs with a ≠ 0, wa + 26 cycles. -/
def execArrayCnt (n : Dealer) (op : AOp) (s : State) : Host.Outcome State Fault Refusal :=
  runReduce n 0x089 op s 26 (fun s rows => s.countOver rows (fun y x => s.peA n op y x != 0))

/-- FLGRD: d := flag plane P1976 + k; k = 7 is reserved; 1 cycle. -/
def execArrayFlgrd (n : Dealer) (op : AOp) (s : State) : Host.Outcome State Fault Refusal :=
  let d := s.rdPD n op.pdd
  let q := pdQset d
  runArray n 0x08C op s (s.arrayTrap n 0x08C op { d := true, imm := 7 } (pdWidth d != 1 || op.imm == 7) (some q)) (q == 0) none (fun s =>
    s.withReads n 0x08C (s.rows q) [1976 + op.imm] (planesOf [d]) (fun s =>
      (s.writeField (s.rows q) (pdBase d) (pdWidth d) s.mAt (fun y x => b2n (s.planeBit (1976 + op.imm) y x))).arrayEnd n op 1))

/-- FLGCLR: flag planes selected by s := 0 in every PE of the region, whatever M (R110); one cycle for each. -/
def execArrayFlgclr (n : Dealer) (op : AOp) (s : State) : Host.Outcome State Fault Refusal :=
  runArray n 0x08D op s (s.arrayTrap n 0x08D op { imm := 127 } false none) (op.imm == 0) none (fun s =>
    ((rangeFrom 0 7).foldl (fun t k => if natBit op.imm k then
        t.writeField (s.rows (s.region n)) (1976 + k) 1 (fun _ _ => true) (fun _ _ => 0) else t) s).arrayEnd n op (popCount op.imm 7))

/-- FLGANY: bit k of Wn := the or of flag plane P1976 + k over the region with M = 1; 25 cycles (R108). -/
def execArrayFlgany (n : Dealer) (op : AOp) (s : State) : Host.Outcome State Fault Refusal :=
  runArray n 0x08E op s (s.arrayTrap n 0x08E op { imm := 31 } false none) false none (fun s =>
    let rows := s.rows (s.region n)
    s.withSources n 0x08E rows (rangeFrom 1976 7) (fun s =>
      (s.wrW n op.imm (BitVec.ofNat 32 (s.orOver rows (fun y x => s.fieldAt 1976 7 y x)))).arrayEnd n op 25))

/-- A mask instruction (R97): acts on every PE of the region whatever M; `depth` is the depth rule, `f` gives the new M of a row from
the old M, the saved level and a; `save` says that P1920 + MSP receives the old M; `dm` is the new MSP. -/
def runMask (n : Dealer) (aop : Nat) (op : AOp) (s : State) (useA : Bool) (full : Bool) (cost : Nat) (save : Bool)
    (f : Nat → Nat → Nat → Nat) (dm : Nat → Nat) : Host.Outcome State Fault Refusal :=
  let msp := (s.dl n).msp
  let u : AUse := { a := useA }
  runArray n aop op s (s.arrayTrap n aop op u (useA && pdWidth (s.rdPD n op.pda) != 1) none) false
    (if (if full then decide (56 ≤ msp) else msp == 0) then some { code := trapBounds, info := op.word aop } else none)
    (fun s =>
      let rows := s.rows (s.region n)
      let lvl := 1920 + msp - 1
      s.withSources n aop rows ((if useA then [pdBase (s.rdPD n op.pda)] else []) ++ (if full then [] else [lvl])) (fun s =>
        let t := rows.foldl (fun t r =>
          let m := (s.mRow r.1 r.2).toNat
          let top := s.planeVal (rowWordAddr lvl r.1 r.2)
          let a := s.planeVal (rowWordAddr (pdBase (s.rdPD n op.pda)) r.1 r.2)
          let t1 := if save then t.putWord (rowWordAddr (1920 + msp) r.1 r.2) m else t
          t1.setMRow r.1 r.2 (f m top a)) s
        (t.setDl n { t.dl n with msp := dm msp }).arrayEnd n op cost))

/-- MPUSH a: the level := M; M := M and a; MSP + 1; BOUNDS at MSP = 56 (R97). -/
def execArrayMpush (n : Dealer) (op : AOp) (s : State) : Host.Outcome State Fault Refusal :=
  runMask n 0x080 op s true true 2 true (fun m _ a => m &&& a) (fun k => k + 1)

/-- MPUSHN a: the level := M; M := a; MSP + 1. -/
def execArrayMpushn (n : Dealer) (op : AOp) (s : State) : Host.Outcome State Fault Refusal :=
  runMask n 0x081 op s true true 2 true (fun _ _ a => a) (fun k => k + 1)

/-- MELSE: M := the saved level and not M; BOUNDS at MSP = 0. -/
def execArrayMelse (n : Dealer) (op : AOp) (s : State) : Host.Outcome State Fault Refusal :=
  runMask n 0x082 op s false false 3 false (fun m top _ => top &&& (ones 64 - m)) (fun k => k)

/-- MPOP: M := the saved level; MSP − 1. -/
def execArrayMpop (n : Dealer) (op : AOp) (s : State) : Host.Outcome State Fault Refusal :=
  runMask n 0x083 op s false false 1 false (fun _ top _ => top) (fun k => k - 1)

/-- ADD modulo 2^w (R118). -/
def execArrayAdd (n : Dealer) (op : AOp) (s : State) : Host.Outcome State Fault Refusal :=
  runInt n 0xc0 op s (fun w => w + 1) 64 (fun w a b => { v := (a + b) % 2 ^ w })

/-- SUB modulo 2^w (R118). -/
def execArraySub (n : Dealer) (op : AOp) (s : State) : Host.Outcome State Fault Refusal :=
  runInt n 0xc2 op s (fun w => w + 1) 64 (fun w a b => { v := (a + 2 ^ w - b) % 2 ^ w })

/-- ADDC and SUBB: the 1-bit carry plane c is read and written in the same PEs as d, and may overlap no other field (R104, R120). -/
def runCarry (n : Dealer) (aop : Nat) (op : AOp) (s : State) (f : Nat → Nat → Nat → Nat → PERes) : Host.Outcome State Fault Refusal :=
  let pc := s.rdPD n op.pdc
  runField n aop op s { d := true, a := true, b := true, c := true, ext := some 15 }
    (fun w => ne3 w || w.c != 1 || pdOverlap pc (s.rdPD n op.pdd) || pdOverlap pc (s.rdPD n op.pda) || pdOverlap pc (s.rdPD n op.pdb))
    false (fun w => w.d + 2) true
    (fun s y x => f (pdWidth (s.rdPD n op.pdd)) (s.peA n op y x) (s.peB n op y x) (s.peC n op y x))

/-- ADDC: d := a + b + c modulo 2^w; c := carry out (R120). -/
def execArrayAddc (n : Dealer) (op : AOp) (s : State) : Host.Outcome State Fault Refusal :=
  runCarry n 0xC1 op s (fun w a b c => { v := (a + b + c) % 2 ^ w, c := (a + b + c) / 2 ^ w })

/-- SUBB: d := a − b − c modulo 2^w; c := 1 when a < b + c (R120). -/
def execArraySubb (n : Dealer) (op : AOp) (s : State) : Host.Outcome State Fault Refusal :=
  runCarry n 0xC3 op s (fun w a b c => { v := (a + 2 ^ (w + 1) - b - c) % 2 ^ w, c := b2n (decide (a < b + c)) })

/-- ADDI: d := a + IMM32 modulo 2^w; IMM32 is sign-extended when w > 32, its low w bits used when w < 32. -/
def execArrayAddi (n : Dealer) (op : AOp) (s : State) : Host.Outcome State Fault Refusal :=
  runField n 0xC4 op s { d := true, a := true, ext := some (ones 32) } ne2 false (fun w => w.d + 1) false
    (fun s y x => let w := pdWidth (s.rdPD n op.pdd)
      { v := (s.peA n op y x + ofSigned w (toSigned 32 op.extW)) % 2 ^ w })

/-- NEG: d := 0 − a modulo 2^w. -/
def execArrayNeg (n : Dealer) (op : AOp) (s : State) : Host.Outcome State Fault Refusal :=
  runField n 0xC5 op s { d := true, a := true } ne2 false (fun w => w.d + 1) false
    (fun s y x => let w := pdWidth (s.rdPD n op.pdd)
      { v := (2 ^ w - s.peA n op y x) % 2 ^ w })

/-- A value clamped to a range; the saturation flag P1982 (bit 6) where the clamp changed it (R119). -/
def clampRes (w : Nat) (lo hi v : Int) : PERes :=
  { v := ofSigned w (if v < lo then lo else if hi < v then hi else v), fl := if v < lo ∨ hi < v then 64 else 0 }

/-- ADDSU (R119). -/
def execArrayAddsu (n : Dealer) (op : AOp) (s : State) : Host.Outcome State Fault Refusal :=
  runInt n 0xc8 op s (fun w => 2 * w + 2) 64 (fun w a b => clampRes w 0 (2 ^ w - 1) ((a : Int) + b))

/-- ADDSS (R119). -/
def execArrayAddss (n : Dealer) (op : AOp) (s : State) : Host.Outcome State Fault Refusal :=
  runInt n 0xc9 op s (fun w => 2 * w + 2) 64 (fun w a b => clampRes w (-(2 ^ (w - 1) : Int)) (2 ^ (w - 1) - 1) (toSigned w a + toSigned w b))

/-- SUBSU (R119). -/
def execArraySubsu (n : Dealer) (op : AOp) (s : State) : Host.Outcome State Fault Refusal :=
  runInt n 0xca op s (fun w => 2 * w + 2) 64 (fun w a b => clampRes w 0 (2 ^ w - 1) ((a : Int) - b))

/-- SUBSS (R119). -/
def execArraySubss (n : Dealer) (op : AOp) (s : State) : Host.Outcome State Fault Refusal :=
  runInt n 0xcb op s (fun w => 2 * w + 2) 64 (fun w a b => clampRes w (-(2 ^ (w - 1) : Int)) (2 ^ (w - 1) - 1) (toSigned w a - toSigned w b))

/-- CMPEQ: d := 1 when the comparison holds. -/
def execArrayCmpeq (n : Dealer) (op : AOp) (s : State) : Host.Outcome State Fault Refusal :=
  runCmp n 0xd0 op s 1 (fun _ a b => a == b)

/-- CMPNE: d := 1 when the comparison holds. -/
def execArrayCmpne (n : Dealer) (op : AOp) (s : State) : Host.Outcome State Fault Refusal :=
  runCmp n 0xd1 op s 1 (fun _ a b => a != b)

/-- CMPLTU: d := 1 when the comparison holds. -/
def execArrayCmpltu (n : Dealer) (op : AOp) (s : State) : Host.Outcome State Fault Refusal :=
  runCmp n 0xd2 op s 2 (fun _ a b => decide (a < b))

/-- CMPLTS: d := 1 when the comparison holds. -/
def execArrayCmplts (n : Dealer) (op : AOp) (s : State) : Host.Outcome State Fault Refusal :=
  runCmp n 0xd3 op s 2 (fun w a b => decide (toSigned w a < toSigned w b))

/-- CMPLEU: d := 1 when the comparison holds. -/
def execArrayCmpleu (n : Dealer) (op : AOp) (s : State) : Host.Outcome State Fault Refusal :=
  runCmp n 0xd4 op s 2 (fun _ a b => decide (a ≤ b))

/-- CMPLES: d := 1 when the comparison holds. -/
def execArrayCmples (n : Dealer) (op : AOp) (s : State) : Host.Outcome State Fault Refusal :=
  runCmp n 0xd5 op s 2 (fun w a b => decide (toSigned w a ≤ toSigned w b))

/-- SHL by k with zeros in; k ≥ w gives 0 (R109). -/
def execArrayShl (n : Dealer) (op : AOp) (s : State) : Host.Outcome State Fault Refusal :=
  runShift n 0xD8 op s (fun w k a => if w ≤ k then 0 else a * 2 ^ k % 2 ^ w)

/-- SHRU by k with zeros in. -/
def execArrayShru (n : Dealer) (op : AOp) (s : State) : Host.Outcome State Fault Refusal :=
  runShift n 0xD9 op s (fun w k a => if w ≤ k then 0 else a / 2 ^ k)

/-- SHRS by k with copies of the sign bit in. -/
def execArrayShrs (n : Dealer) (op : AOp) (s : State) : Host.Outcome State Fault Refusal :=
  runShift n 0xDA op s (fun w k a => ofSigned w (toSigned w a / (2 ^ (min k w) : Int)))

/-- A widening multiply: d is twice as wide as a and b, w from 1 to 32. -/
def runMulWide (n : Dealer) (aop : Nat) (op : AOp) (s : State) (f : Nat → Nat → Nat → Nat) : Host.Outcome State Fault Refusal :=
  runField n aop op s { d := true, a := true, b := true } (fun w => w.a != w.b || w.d != 2 * w.a || decide (32 < w.a)) false
    (fun w => w.a * (w.a + 1) + 4) false
    (fun s y x => { v := f (pdWidth (s.rdPD n op.pda)) (s.peA n op y x) (s.peB n op y x) })

/-- MULWU: the exact unsigned product in 2w bits (R121). -/
def execArrayMulwu (n : Dealer) (op : AOp) (s : State) : Host.Outcome State Fault Refusal :=
  runMulWide n 0xE0 op s (fun _ a b => a * b)

/-- MULWS: the exact signed product in 2w bits (R121). -/
def execArrayMulws (n : Dealer) (op : AOp) (s : State) : Host.Outcome State Fault Refusal :=
  runMulWide n 0xE1 op s (fun w a b => ofSigned (2 * w) (toSigned w a * toSigned w b))

/-- DIVU: all ones for a zero divisor, which sets P1981 (R122). -/
def execArrayDivu (n : Dealer) (op : AOp) (s : State) : Host.Outcome State Fault Refusal :=
  runInt n 0xe8 op s (fun w => w * (w + 2) + 6) 32 (fun w a b => { v := if b = 0 then ones w else a / b, fl := if b = 0 then 32 else 0 })

/-- DIVS, rounded toward zero (R122). -/
def execArrayDivs (n : Dealer) (op : AOp) (s : State) : Host.Outcome State Fault Refusal :=
  runInt n 0xe9 op s (fun w => w * (w + 2) + 6) 32 (fun w a b => { v := if b = 0 then ones w else ofSigned w (Int.tdiv (toSigned w a) (toSigned w b)), fl := if b = 0 then 32 else 0 })

/-- REMU (R122). -/
def execArrayRemu (n : Dealer) (op : AOp) (s : State) : Host.Outcome State Fault Refusal :=
  runInt n 0xea op s (fun w => w * (w + 2) + 6) 32 (fun w a b => { v := if b = 0 then a else a % b, fl := if b = 0 then 32 else 0 })

/-- REMS, with the sign of a (R122). -/
def execArrayRems (n : Dealer) (op : AOp) (s : State) : Host.Outcome State Fault Refusal :=
  runInt n 0xeb op s (fun w => w * (w + 2) + 6) 32 (fun w a b => { v := if b = 0 then a else ofSigned w (Int.tmod (toSigned w a) (toSigned w b)), fl := if b = 0 then 32 else 0 })

/-- FADD.S and FADD.H (R127, R141). -/
def execArrayFadd (n : Dealer) (op : AOp) (s : State) : Host.Outcome State Fault Refusal :=
  runAFP n 0x140 op s { d := true, a := true, b := true } (afmt op).width (afmt op).width (afmt op).width 0 190 96
    (fun s y x => fAdd (afmt op) (s.rm n) (s.ftz n) false (s.peA n op y x) (s.peB n op y x))

/-- FSUB. -/
def execArrayFsub (n : Dealer) (op : AOp) (s : State) : Host.Outcome State Fault Refusal :=
  runAFP n 0x141 op s { d := true, a := true, b := true } (afmt op).width (afmt op).width (afmt op).width 0 190 96
    (fun s y x => fAdd (afmt op) (s.rm n) (s.ftz n) true (s.peA n op y x) (s.peB n op y x))

/-- FMUL. -/
def execArrayFmul (n : Dealer) (op : AOp) (s : State) : Host.Outcome State Fault Refusal :=
  runAFP n 0x142 op s { d := true, a := true, b := true } (afmt op).width (afmt op).width (afmt op).width 0 640 160
    (fun s y x => fMul (afmt op) (s.rm n) (s.ftz n) (s.peA n op y x) (s.peB n op y x))

/-- FMA: d := a × b + c rounded once. -/
def execArrayFma (n : Dealer) (op : AOp) (s : State) : Host.Outcome State Fault Refusal :=
  runAFP n 0x143 op s { d := true, a := true, b := true, c := true, ext := some 15 } (afmt op).width (afmt op).width (afmt op).width (afmt op).width 860 230
    (fun s y x => fFma (afmt op) (s.rm n) (s.ftz n) (s.peA n op y x) (s.peB n op y x) (s.peC n op y x))

/-- FDIV. -/
def execArrayFdiv (n : Dealer) (op : AOp) (s : State) : Host.Outcome State Fault Refusal :=
  runAFP n 0x144 op s { d := true, a := true, b := true } (afmt op).width (afmt op).width (afmt op).width 0 1800 420
    (fun s y x => fDiv (afmt op) (s.rm n) (s.ftz n) (s.peA n op y x) (s.peB n op y x))

/-- FSQRT. -/
def execArrayFsqrt (n : Dealer) (op : AOp) (s : State) : Host.Outcome State Fault Refusal :=
  runAFP n 0x145 op s { d := true, a := true } (afmt op).width (afmt op).width 0 0 1850 440
    (fun s y x => fSqrt (afmt op) (s.rm n) (s.ftz n) (s.peA n op y x))

/-- FMIN (R136). -/
def execArrayFmin (n : Dealer) (op : AOp) (s : State) : Host.Outcome State Fault Refusal :=
  runAFP n 0x146 op s { d := true, a := true, b := true } (afmt op).width (afmt op).width (afmt op).width 0 80 44
    (fun s y x => fMinMax (afmt op) (s.ftz n) false (s.peA n op y x) (s.peB n op y x))

/-- FMAX (R136). -/
def execArrayFmax (n : Dealer) (op : AOp) (s : State) : Host.Outcome State Fault Refusal :=
  runAFP n 0x147 op s { d := true, a := true, b := true } (afmt op).width (afmt op).width (afmt op).width 0 80 44
    (fun s y x => fMinMax (afmt op) (s.ftz n) true (s.peA n op y x) (s.peB n op y x))

/-- FCMPEQ: a 1-bit result (R111, R136). -/
def execArrayFcmpeq (n : Dealer) (op : AOp) (s : State) : Host.Outcome State Fault Refusal :=
  runAFP n 0x148 op s { d := true, a := true, b := true } 1 (afmt op).width (afmt op).width 0 70 38
    (fun s y x => fCompare (afmt op) (s.ftz n) .eq (s.peA n op y x) (s.peB n op y x))

/-- FCMPLT. -/
def execArrayFcmplt (n : Dealer) (op : AOp) (s : State) : Host.Outcome State Fault Refusal :=
  runAFP n 0x149 op s { d := true, a := true, b := true } 1 (afmt op).width (afmt op).width 0 70 38
    (fun s y x => fCompare (afmt op) (s.ftz n) .lt (s.peA n op y x) (s.peB n op y x))

/-- FCMPLE. -/
def execArrayFcmple (n : Dealer) (op : AOp) (s : State) : Host.Outcome State Fault Refusal :=
  runAFP n 0x14a op s { d := true, a := true, b := true } 1 (afmt op).width (afmt op).width 0 70 38
    (fun s y x => fCompare (afmt op) (s.ftz n) .le (s.peA n op y x) (s.peB n op y x))

/-- FNEG (R135). -/
def execArrayFneg (n : Dealer) (op : AOp) (s : State) : Host.Outcome State Fault Refusal :=
  runAFP n 0x14b op s { d := true, a := true } (afmt op).width (afmt op).width 0 0 32 16
    (fun s y x => ⟨fNeg (afmt op) (s.peA n op y x), 0⟩)

/-- FABS (R135). -/
def execArrayFabs (n : Dealer) (op : AOp) (s : State) : Host.Outcome State Fault Refusal :=
  runAFP n 0x14c op s { d := true, a := true } (afmt op).width (afmt op).width 0 0 32 16
    (fun s y x => ⟨fAbs (afmt op) (s.peA n op y x), 0⟩)

/-- FCVT.I (R137). -/
def execArrayFcvtI (n : Dealer) (op : AOp) (s : State) : Host.Outcome State Fault Refusal :=
  runAFP n 0x14d op s { d := true, a := true } (afmt op).width (afmt op).width 0 0 150 80
    (fun s y x => fToInt (afmt op) (s.rm n) (s.ftz n) true (afmt op).width (s.peA n op y x))

/-- FCVT.IU (R137). -/
def execArrayFcvtIu (n : Dealer) (op : AOp) (s : State) : Host.Outcome State Fault Refusal :=
  runAFP n 0x14e op s { d := true, a := true } (afmt op).width (afmt op).width 0 0 150 80
    (fun s y x => fToInt (afmt op) (s.rm n) (s.ftz n) false (afmt op).width (s.peA n op y x))

/-- FCVT.F. -/
def execArrayFcvtF (n : Dealer) (op : AOp) (s : State) : Host.Outcome State Fault Refusal :=
  runAFP n 0x14f op s { d := true, a := true } (afmt op).width (afmt op).width 0 0 160 90
    (fun s y x => fFromInt (afmt op) (s.rm n) true (afmt op).width (s.peA n op y x))

/-- FCVT.FU. -/
def execArrayFcvtFu (n : Dealer) (op : AOp) (s : State) : Host.Outcome State Fault Refusal :=
  runAFP n 0x150 op s { d := true, a := true } (afmt op).width (afmt op).width 0 0 160 90
    (fun s y x => fFromInt (afmt op) (s.rm n) false (afmt op).width (s.peA n op y x))

/-- FCVT.X: .S converts binary32 to binary16, .H binary16 to binary32. -/
def execArrayFcvtX (n : Dealer) (op : AOp) (s : State) : Host.Outcome State Fault Refusal :=
  runAFP n 0x151 op s { d := true, a := true } (if op.half then 32 else 16) (afmt op).width 0 0 110 60
    (fun s y x => fConvert (afmt op) (if op.half then fmtS else fmtH) (s.rm n) (s.ftz n) (s.peA n op y x))

end Sys2Proof.Machine
end

