-- ==== Sys2Proof/Machine/Levels.lean ====
section
/-!
DEFINITION. Levels and tasks (spec/07 R202 to R222, R228, R230, R231, R508; spec/08 R250): which events a Dealer may accept,
entering a level, running, storing and leaving tasks, and what runs when a level ends.
-/
namespace Sys2Proof.Machine

open Sys2Proof

/- Event acceptance. -/

/-- The sources whose bit in EVT_PENDi is 1, lowest first. -/
def State.pendingSources (s : State) : List Nat :=
  (rangeFrom 0 10).flatMap (fun i =>
    let w := (s.reg (EVT_PEND.reg i)).toNat
    if w = 0 then [] else ((rangeFrom 0 32).filter (natBit w)).map (fun b => 32 * i + b))

/-- A source's route names a level of a Dealer. -/
def State.routedTo (s : State) (n : Dealer) (k e : Nat) : Bool :=
  s.fget (EVT_ROUTE.KIND e) == 1 && s.fget (EVT_ROUTE.DEALER e) == n.val && s.fget (EVT_ROUTE.LEVEL e) == k

/-- The times a source was accepted since the last tick edge. -/
def State.accepted (s : State) (e : Nat) : Nat := Sparse.get 0 s.evAcc e

/-- A pending source that its cap (R250), and at a TASK level its task (R217), lets in. -/
def State.acceptable (s : State) (n : Dealer) (k e : Nat) : Bool :=
  s.routedTo n k e && decide (s.accepted e ≤ s.fget (EVT_CAP.CAP e)) &&
  !(s.levelKind n k == 2 && s.fbit (TASKSTAT.READY n k) (s.fget (EVT_ROUTE.TASK e)))

/-- The first source a level may accept (R205). -/
def State.firstFor (s : State) (n : Dealer) (k : Nat) : Option Nat := s.pendingSources.find? (s.acceptable n k)

/-- An inactive level that an event, or a task left ready by a deal restart (R231), asks for. -/
def State.wants (s : State) (n : Dealer) (k : Nat) : Bool :=
  !s.levelActive n k && (s.levelKind n k == 1 || s.levelKind n k == 2) &&
  ((s.firstFor n k).isSome || (s.levelKind n k == 2 && s.fget (TASKSTAT.READY n k) != 0))

/-- The highest level above `c` that is to be entered; none before the Dealer's first deal start (R208, R231). -/
def State.topWanting (s : State) (n : Dealer) (c : Nat) : Option Nat :=
  if !(s.dl n).live || s.levelActive n 7 then none
  else ((rangeFrom 1 6).reverse).find? (fun k => decide (c < k) && s.wants n k)

/-- The highest active level (R203). -/
def State.topActive (s : State) (n : Dealer) : Option Nat := highestBit (s.fget (LVLSTAT.ACTIVE n)) 8

/-- A source is accepted: its pending bit clears and the acceptance counts against its cap (R250). -/
def State.accept (s : State) (e : Nat) : State :=
  { s.fset (bitFld (EVT_PEND.reg 0) e) 0 with evAcc := Sparse.set 0 s.evAcc e (s.accepted e + 1) }

/-- A task's ready bit. -/
def State.setReady (s : State) (n : Dealer) (k j : Nat) (b : Bool) : State := s.setFbit (TASKSTAT.READY n k) j b

/-- The events for the tasks of a TASK level that may be accepted are accepted: each task becomes ready, and its W1 receives the source
when it next runs (R217). -/
def State.acceptTasks (s : State) (n : Dealer) (k : Nat) : State :=
  s.pendingSources.foldl (fun t e =>
    if t.acceptable n k e then
      let j := t.fget (EVT_ROUTE.TASK e)
      let u := (t.accept e).setReady n k j true
      u.setDl n { u.dl n with wake := Sparse.insert (u.dl n).wake (8 * k + j) (e + 1) }
    else t) s

/- Tasks. -/

/-- The address of a TCB (R212). -/
def State.tcb (s : State) (n : Dealer) (k j : Nat) : Nat := s.areaAddr n (0x1000 + 0x200 * (8 * k + j))

/-- Bits of ST that a level's entry sets: LVL, SUP. -/
def State.stFor (s : State) (n : Dealer) (k : Nat) (st : Word) : Word :=
  putField (putField st 11 3 k) 14 1 (b2n (s.privAt n k))

/-- The doublewords the dirty groups hold: 4 for each W group, 16 for F and 8 for PD (R218). -/
def dirtyDoubles (g : Nat) : Nat := 4 * b2n (natBit g 0) + 4 * b2n (natBit g 1) + 16 * b2n (natBit g 2) + 8 * b2n (natBit g 3)

/-- Step 1 of a task switch: W0 to W15, ST, PC and FPC and every dirty group go to the task's TCB (R218). -/
def State.storeTask (s : State) (n : Dealer) (k : Fin 8) (j : Nat) : Bool × State :=
  let b := s.bankAt n k
  let g := (s.dl n).dirty.get k
  let t := s.tcb n k.val j
  let grp (i : Nat) (l : List (Nat × Nat × Nat)) : List (Nat × Nat × Nat) := if natBit g i then l else []
  s.ctxWrite n (stores t 4 (0 :: b.wList 1 15) ++ grp 0 (stores (t + 0x40) 4 (b.wList 16 8)) ++ grp 1 (stores (t + 0x60) 4 (b.wList 24 8)) ++
    grp 2 (stores (t + 0x80) 8 b.fList) ++ grp 3 (stores (t + 0x100) 4 b.pdList) ++
    stores (t + 0x140) 4 [b.st.toNat, b.pc.toNat, b.fpc.toNat])

/-- Step 2: the task's full context is loaded from its TCB and the dirty bits clear (R218). -/
def State.loadTask (s : State) (n : Dealer) (k : Fin 8) (j : Nat) : Bool × State :=
  let t := s.tcb n k.val j
  let r := s.ctxRead n (slots t 4 32 ++ slots (t + 0x80) 8 16 ++ slots (t + 0x100) 4 16 ++ slots (t + 0x140) 4 3)
  match r.1 with
  | none => (false, r.2)
  | some vs =>
    let b := r.2.bankAt n k
    let b1 := ((b.loadW 0 (vs.take 32)).loadF ((vs.drop 32).take 16)).loadPD ((vs.drop 48).take 16)
    match vs.drop 64 with
    | [st, pc, fpc] =>
      let u := r.2.setBankAt n k { b1 with st := r.2.stFor n k.val (BitVec.ofNat 32 st), pc := BitVec.ofNat 32 pc, fpc := BitVec.ofNat 32 fpc }
      let u1 := u.setDl n { u.dl n with dirty := (u.dl n).dirty.set k 0 }
      (true, u1.fsets [(TASKSTAT.RES n k.val, j), (TASKSTAT.RESV n k.val, 1)])
    | _ => (false, r.2)

/-- Whether the context of task j is already in the bank. -/
def State.resident (s : State) (n : Dealer) (k j : Nat) : Bool :=
  s.fget (TASKSTAT.RESV n k) == 1 && s.fget (TASKSTAT.RES n k) == j

/-- The source waiting for a task goes to its W1 as it runs (R217). -/
def State.giveW1 (s : State) (n : Dealer) (k : Fin 8) (j : Nat) : State :=
  match Sparse.get 0 (s.dl n).wake (8 * k.val + j) with
  | 0 => s
  | e + 1 =>
    let b := s.bankAt n k
    let t := s.setBankAt n k { b with w := b.w.set 1 (BitVec.ofNat 32 e) }
    t.setDl n { t.dl n with wake := Sparse.set 0 (t.dl n).wake (8 * k.val + j) 0 }

/-- Runs task j of level k: its context is loaded unless it is in the bank (R218); a failed access takes a machine check (R508). -/
def State.runTask (s : State) (n : Dealer) (k : Fin 8) (j cost : Nat) : State :=
  if s.resident n k.val j then s.giveW1 n k j
  else
    let r := s.loadTask n k j
    if r.1 then (r.2.giveW1 n k j).spend n cost else r.2.ctxErr n

/-- The highest-numbered ready task of a level. -/
def State.topReady (s : State) (n : Dealer) (k : Nat) : Option Nat := highestBit (s.fget (TASKSTAT.READY n k)) 8

/-- A switch from the resident task to task j, at most 238 + 4 D cycles; nothing of it where the store fails (R218, R508).  An array instruction
held in the task that stops is held again, where it must, when the task runs on. -/
def State.switchTask (s : State) (n : Dealer) (k : Fin 8) (j : Nat) : State :=
  let d := dirtyDoubles ((s.dl n).dirty.get k)
  let r := s.storeTask n k (s.fget (TASKSTAT.RES n k.val))
  if r.1 then ((r.2.unhold n k.val).runTask n k j 0).spend n (238 + 4 * d) else r.2.ctxErr n

/- Entering and leaving levels. -/

/-- The wait of R209 before a bank switch. -/
def State.drainWait (s : State) (n : Dealer) : Nat := (s.dl n).drainTo - (s.dl n).cyc

/-- Entry of level k (R204): the drain, 3 cycles, MSP recorded, LVL, SUP and TRP set; a handler starts at LVEC_k with its source in W1
and its lazy frame open (R213); a TASK level runs its highest ready task. -/
def State.enterLevel (s : State) (n : Dealer) (k : Fin 8) : State :=
  let s1 := s.spend n (s.drainWait n + 3)
  let d := s1.dl n
  let s2 := (s1.setDl n { d with mspRec := d.mspRec.set k d.msp }).fset (LVLSTAT.CUR n) k.val
  let s3 := s2.setFbit (LVLSTAT.ACTIVE n) k.val true
  let b := s3.bankAt n k
  let s4 := s3.setBankAt n k { b with st := putField (s3.stFor n k.val b.st) 15 1 0 }
  if s.levelKind n k.val = 1 then
    match s.firstFor n k.val with
    | none => s
    | some e =>
      let s5 := s4.accept e
      let b5 := s5.bankAt n k
      let s6 := s5.setBankAt n k { b5 with w := b5.w.set 1 (BitVec.ofNat 32 e), pc := BitVec.ofNat 32 (4 * s.fget (LVEC.VEC n k.val)) }
      s6.setDl n { s6.dl n with filled := (s6.dl n).filled.set k 0 }
  else
    let s5 := s4.acceptTasks n k.val
    match s5.topReady n k.val with
    | some j => s5.runTask n k j 168
    | none => s5

/-- What runs when a level ends: the highest level that is active or is to be entered (R206). -/
def State.runNext (s : State) (n : Dealer) : State :=
  let a := s.topActive n
  let s1 := s.fset (LVLSTAT.CUR n) (a.getD 0)
  match s1.topWanting n (a.getD 0) with
  | some k => s1.enterLevel n (Fin.ofNat 8 k)
  | none => s1

/-- An event for a level above the current one waits at this boundary (R207). -/
def State.interrupts (s : State) (n : Dealer) : Bool := (s.topWanting n (s.lvl n).val).isSome

/-- The current level runs a task. -/
def State.inTask (s : State) (n : Dealer) : Bool := s.levelKind n (s.lvl n).val == 2 && s.levelActive n (s.lvl n).val && (s.dl n).live

/-- At a boundary the tasks of the current TASK level accept their events (R217). -/
def State.taskAccept (s : State) (n : Dealer) : State := if s.inTask n then s.acceptTasks n (s.lvl n).val else s

/-- The ready task that outranks the running one in SPLIT or PAIRED, while TRP is 0 and MSP is as recorded (R219, R220). -/
def State.outranks (s : State) (n : Dealer) : Option Nat :=
  let k := s.lvl n
  if s.inTask n && s.fget ARRAY_MODE.MODE != 2 && !stTRP (s.st n) && (s.dl n).msp == (s.dl n).mspRec.get k then
    (s.topReady n k.val).filter (fun j => decide (s.fget (TASKSTAT.RES n k.val) < j))
  else none

/-- Rows 3 and 4 of R207 at an instruction boundary: a wanting level above the current one is entered; otherwise the tasks of a TASK
level accept their events, and a task that outranks the running one runs. -/
def State.boundary (s : State) (n : Dealer) : State :=
  match s.topWanting n (s.lvl n).val with
  | some j => s.enterLevel n (Fin.ofNat 8 j)
  | none =>
    let s1 := s.taskAccept n
    match s1.outranks n with
    | some j => s1.switchTask n (s.lvl n) j
    | none => s1

/-- SAVE_EXHAUSTED at the current level (R228, R230): the emergency area is filled and the trap taken, or the double fault. -/
def State.saveExhausted (s : State) (n : Dealer) (w : Word) : State :=
  let k := s.lvl n
  if s.fbit (LVLSTAT.EMBUSY n) k.val then s.raiseMC n { cause := 8 }
  else
    let b := s.bank n
    let a := s.areaAddr n (0x200 * k.val)
    let r := s.ctxWrite n (stores a 4 (0 :: b.wList 1 15) ++
      stores (a + 0x40) 4 [b.st.toNat, b.pc.toNat, b.xpc.toNat, b.xcause.toNat, b.xinfo.toNat])
    if r.1 then
      ((((r.2.setFbit (LVLSTAT.EMBUSY n) k.val true).charge n 44).trap n { code := trapSaveExhausted, info := w } false false)).dealerEvent n 4
    else r.2.ctxErr n

end Sys2Proof.Machine
end

