-- ==== Sys2Proof/Machine/Context.lean ====
section
/-!
DEFINITION. The context instructions (spec/07 R206, R221 to R229): XRET, WGET, WPUT, the save areas, SWTO, LRET, and the entry of
levels at an instruction boundary (R204, R207).
-/
namespace Sys2Proof.Machine

open Sys2Proof

/-- XRET: PC := XPC and TRP := 0, 3 cycles; with EMBUSY set the context of the emergency area returns (R229). -/
def execXret (n : Dealer) (op : SOp) (s : State) : Host.Outcome State Fault Refusal :=
  runScalar n op s
    (firstTrap [(sysReserved op false false 0, illReserved (op.word 2 0x20)), transferTrap (s.bank n).xpc.toNat])
    (fun s =>
      let k := s.lvl n
      let b := s.bank n
      let s1 := (s.setBank n { b with pc := b.xpc, st := putField b.st 15 1 0 }).charge n 3
      if s.fbit (LVLSTAT.EMBUSY n) k.val then
        let a := s1.areaAddr n (0x200 * k.val)
        let r := s1.ctxRead n (slots a 4 16 ++ [(a + 0x40, 4), (a + 0x48, 4), (a + 0x4C, 4), (a + 0x50, 4)])
        match r.1 with
        | none => r.2.ctxErr n
        | some vs =>
          match vs.drop 16 with
          | [st, xpc, xcause, xinfo] =>
            let c := (r.2.bank n).loadW 0 (vs.take 16)
            ((r.2.setBank n { c with st := r.2.stFor n k.val (BitVec.ofNat 32 st), xpc := BitVec.ofNat 32 xpc,
                                     xcause := BitVec.ofNat 32 xcause, xinfo := BitVec.ofNat 32 xinfo }).setFbit
              (LVLSTAT.EMBUSY n) k.val false).charge n 48
          | _ => r.2
      else s1)

/- WIN (R223, R224). -/

def winLvl (w : Word) : Nat := getField w 8 3
def winIdx (w : Word) : Nat := getField w 0 8

/-- WIN with IDX advanced, from 0x77 back to 0. -/
def winNext (w : Word) : Word := putField w 0 8 (if winIdx w = 0x77 then 0 else winIdx w + 1)

/-- The register of level k that IDX names, as WGET reads it. -/
def State.winRead (s : State) (n : Dealer) (k : Fin 8) (i : Nat) : Nat :=
  let b := s.bankAt n k
  if i = 0 then 0
  else if i < 0x20 then (b.w.get (Fin.ofNat 32 i)).toNat
  else if i < 0x40 then natBits (b.f.get (Fin.ofNat 16 ((i - 0x20) / 2))).toNat (32 * (i % 2)) 32
  else if i < 0x50 then (b.pd.get (Fin.ofNat 16 (i - 0x40))).toNat
  else if i < 0x70 then Desc.word (b.sg.get (Fin.ofNat 8 ((i - 0x50) / 4))) (i % 4)
  else match i with
    | 0x70 => b.st.toNat | 0x71 => b.fpc.toNat | 0x72 => b.pc.toNat | 0x73 => b.xpc.toNat
    | 0x74 => b.xcause.toNat | 0x75 => b.xinfo.toNat | 0x76 => b.xvec.toNat
    | _ => natBits ((s.dl n).dirty.get k) 0 4 + 16 * natBits ((s.dl n).filled.get k) 0 2

/-- The dirty bit of the group of a W, F or PD index set at level k (R218). -/
def State.markAt (s : State) (n : Dealer) (k : Fin 8) (g : Nat) : State :=
  s.setDl n { s.dl n with dirty := (s.dl n).dirty.set k (setNatBit ((s.dl n).dirty.get k) g true) }

/-- WPUT's write of a register that is neither GROUPS nor an SG word 3 (R224). -/
def State.winWrite (s : State) (n : Dealer) (k : Fin 8) (i : Nat) (v : Word) : State :=
  let b := s.bankAt n k
  if i = 0 then s
  else if i < 0x20 then
    let t := s.setBankAt n k { b with w := b.w.set (Fin.ofNat 32 i) v }
    if i < 16 then t else t.markAt n k (if i < 24 then 0 else 1)
  else if i < 0x40 then
    let f := Fin.ofNat 16 ((i - 0x20) / 2)
    let o := (b.f.get f).toNat
    let x := if i % 2 = 0 then o / 2 ^ 32 * 2 ^ 32 + v.toNat else natBits o 0 32 + 2 ^ 32 * v.toNat
    (s.setBankAt n k { b with f := b.f.set f (BitVec.ofNat 64 x) }).markAt n k 2
  else if i < 0x50 then (s.setBankAt n k { b with pd := b.pd.set (Fin.ofNat 16 (i - 0x40)) v }).markAt n k 3
  else if i < 0x70 then
    if i % 4 = 3 then
      let g := (s.dl n).stage
      let x : Desc := BitVec.ofNat 128 ((g.get 0).toNat + 2 ^ 32 * (g.get 1).toNat + 2 ^ 64 * (g.get 2).toNat + 2 ^ 96 * v.toNat)
      s.setBankAt n k { b with sg := b.sg.set (Fin.ofNat 8 ((i - 0x50) / 4)) x }
    else s.setDl n { s.dl n with stage := (s.dl n).stage.set (Fin.ofNat 3 (i % 4)) v }
  else if i = 0x72 then s.setBankAt n k { b with pc := v }
  else s.writeSpecial n k (match i with | 0x70 => 0 | 0x71 => 1 | 0x73 => 3 | 0x74 => 4 | 0x75 => 5 | _ => 6) v.toNat

/-- The staged descriptor that a write of word 3 commits. -/
def State.stagedDesc (s : State) (n : Dealer) (v : Word) : Desc :=
  let g := (s.dl n).stage
  BitVec.ofNat 128 ((g.get 0).toNat + 2 ^ 32 * (g.get 1).toNat + 2 ^ 64 * (g.get 2).toNat + 2 ^ 96 * v.toNat)

/-- Checks common to WGET and WPUT (R223): INC with SELF, the privilege, and WIN's level and index. -/
def State.winTraps (s : State) (n : Dealer) (op : SOp) (opc : Nat) (useD useA bad : Bool) : List (Bool × Trap) :=
  let w := op.word 2 opc
  let self := natBit op.sub 1
  let win := (s.dl n).win
  [(sysReserved op useD useA 3 || (self && natBit op.sub 0) || (!self && (decide (0x77 < winIdx win) || bad)), illReserved w),
   (!s.priv n || (!self && decide ((s.lvl n).val < winLvl win)), { code := trapPriv, info := w })]

/-- After a transfer with INC, IDX advances (R223). -/
def State.winStep (s : State) (n : Dealer) (op : SOp) : State :=
  if natBit op.sub 0 then s.setDl n { s.dl n with win := winNext (s.dl n).win } else s

/-- WGET: Wd := the register WIN names, or WIN itself with SELF; 2 cycles. -/
def execWget (n : Dealer) (op : SOp) (s : State) : Host.Outcome State Fault Refusal :=
  runScalar n op s (firstTrap (s.winTraps n op 0x28 true false false ++ [s.endTrap n op])) (fun s =>
    let win := (s.dl n).win
    if natBit op.sub 1 then (s.wrW n op.d win).advance n op 2
    else ((s.wrW n op.d (BitVec.ofNat 32 (s.winRead n (Fin.ofNat 8 (winLvl win)) (winIdx win)))).winStep n op).advance n op 2)

/-- WPUT: the register WIN names := Wa, or WIN itself with SELF; 2 cycles (R223, R224). -/
def execWput (n : Dealer) (op : SOp) (s : State) : Host.Outcome State Fault Refusal :=
  let win := (s.dl n).win
  let k : Fin 8 := Fin.ofNat 8 (winLvl win)
  let i := winIdx win
  let v := s.rdW n op.a
  let self := natBit op.sub 1
  let word3 := !self && decide (0x50 ≤ i) && decide (i < 0x70) && i % 4 == 3
  let w := op.word 2 0x29
  runScalar n op s
    (firstTrap (s.winTraps n op 0x29 false true (i == 0x77 || (i == 0x72 && k == s.lvl n) || (word3 && Desc.reserved (s.stagedDesc n v))) ++
      (if word3 then descTraps5 (s.stagedDesc n v) w else []) ++
      (if !self && i == 0x72 then [transferTrap v.toNat] else []) ++ [s.endTrap n op]))
    (fun s =>
      if self then
        (if natBits v.toNat 11 21 != 0 || decide (0x77 < winIdx v) then s.event 270 else s.setDl n { s.dl n with win := v }).advance n op 2
      else
        let eff (t : State) : State := ((t.winWrite n k i v).winStep n op).advance n op 2
        if k = s.lvl n ∧ 0x20 ≤ i ∧ i < 0x40 then s.withFill n 0 eff
        else if k = s.lvl n ∧ 0x40 ≤ i ∧ i < 0x50 then s.withFill n 1 eff
        else eff s)

/- Save areas (R225 to R227). -/

/-- The address of save area i. -/
def State.saveArea (s : State) (n : Dealer) (i : Nat) : Nat :=
  storeBase (s.fget (SPOOL.BANK n)) + 256 * (s.fget (SPOOL.FIRST n) + i)

/-- A LINK word. -/
def linkWord (valid area : Nat) : Nat := 32768 * valid + area

/-- A list head takes a LINK's fields. -/
def State.setSFL (s : State) (n : Dealer) (l : Nat) : State := s.fsets [(SFL.VALID n, natBits l 15 1), (SFL.AREA n, natBits l 0 10)]
def State.setSAH (s : State) (n : Dealer) (k l : Nat) : State := s.fsets [(SAH.VALID n k, natBits l 15 1), (SAH.AREA n k, natBits l 0 10)]

/-- Accesses to a save area: none with the access error of the first that failed (R227). -/
def State.areaRead (s : State) (n : Dealer) : List (Nat × Nat) → Option (List Nat) × State
  | [] => (some [], s)
  | (a, k) :: l =>
    let r := s.memRead (.dealer n) a k
    if r.1 = stOK then let q := r.2.2.areaRead n l; (q.1.map (fun vs => r.2.1 :: vs), q.2)
    else (none, r.2.2.accessError n r.1 a 0 false)

def State.areaWrite (s : State) (n : Dealer) : List (Nat × Nat × Nat) → Bool × State
  | [] => (true, s)
  | (a, k, v) :: l =>
    let r := s.memWrite (.dealer n) a k v
    if r.1 = stOK then r.2.areaWrite n l else (false, r.2.accessError n r.1 a 0 true)

/-- The doublewords of 32-bit values. -/
def doubles : List Nat → List Nat
  | a :: b :: l => (a + 2 ^ 32 * b) :: doubles l
  | [a] => [a]
  | [] => []

/-- The common part of SAVEL and SAVEU: reserved fields, privilege, SAVE_EXHAUSTED with an empty list, the area check, and the area
written and linked (R225, R227).  WIN.LVL above the current level traps nothing here (log entry 176). -/
def runSave (n : Dealer) (opc : Nat) (op : SOp) (s : State) (cost kind : Nat) (regs : Bank → List Nat) : Host.Outcome State Fault Refusal :=
  let w := op.word 2 opc
  let k := winLvl (s.dl n).win
  let head := s.fget (SFL.AREA n)
  let empty := s.fget (SFL.VALID n) = 0
  runScalar n op s
    (firstTrap [(sysReserved op false false 0, illReserved w), (!s.priv n, { code := trapPriv, info := w }),
      (!decide empty && decide (s.fget (SPOOL.COUNT n) < head), { code := trapBounds, info := w }), s.endTrap n op])
    (fun s =>
      if empty then s.saveExhausted n w
      else
        let a := s.saveArea n head
        let r := s.areaRead n [(a, 4)]
        match r.1 with
        | some [link] =>
          let vs := linkWord (s.fget (SAH.VALID n k)) (s.fget (SAH.AREA n k)) :: (kind + 256 * k) :: regs (s.bankAt n (Fin.ofNat 8 k))
          let q := r.2.areaWrite n (stores a 8 (doubles (vs ++ List.replicate (64 - vs.length) 0)))
          if q.1 then ((q.2.setSFL n link).setSAH n k (linkWord 1 head)).advance n op cost
          else q.2.advance n op cost
        | _ => r.2.advance n op cost)

/-- SAVEL: W0 to W15, ST and PC of level WIN.LVL go to the area at the head of SFL, at most 50 cycles. -/
def execSavel (n : Dealer) (op : SOp) (s : State) : Host.Outcome State Fault Refusal :=
  runSave n 0x2A op s 50 1 (fun b => 0 :: b.wList 1 15 ++ [b.st.toNat, b.pc.toNat])

/-- SAVEU: W16 to W31 and the PD registers, at most 80 cycles. -/
def execSaveu (n : Dealer) (op : SOp) (s : State) : Host.Outcome State Fault Refusal :=
  runSave n 0x2B op s 80 2 (fun b => b.wList 16 16 ++ b.pdList)

/-- The end of a RESTL into the current level whose area could not be read: no transfer is made, so R191 asks for a next word. -/
def State.advanceOr (s : State) (n : Dealer) (op : SOp) (cost : Nat) : State :=
  let e := s.endTrap n op
  if e.1 then s.trap n e.2 op.hasExt false else s.advance n op cost

/-- The common part of RESTL and RESTU (R226, R227): the head area of the level's chain is read and checked, loaded into the bank, and
returned to SFL.  A RESTL into the current level is a transfer, which needs no next word (R191, R226).  What is restored of ST, and that a PC
for another level is taken unchecked, is log entry 126. -/
def runRest (n : Dealer) (opc : Nat) (op : SOp) (s : State) (cost kind words : Nat) (fill : Bool) (target : List Nat → Option Nat)
    (load : State → Fin 8 → List Nat → State) : Host.Outcome State Fault Refusal :=
  let w := op.word 2 opc
  let k : Fin 8 := Fin.ofNat 8 (winLvl (s.dl n).win)
  let head := s.fget (SAH.AREA n k.val)
  let bounds : Trap := { code := trapBounds, info := w }
  runScalar n op s
    (firstTrap [(sysReserved op false false 0, illReserved w), (!s.priv n, { code := trapPriv, info := w }),
      (decide (s.fget (SAH.VALID n k.val) = 0) || decide (s.fget (SPOOL.COUNT n) < head), bounds),
      (!(kind == 1 && k == s.lvl n) && (s.endTrap n op).1, (s.endTrap n op).2)])
    (fun s =>
      let a := s.saveArea n head
      let r := s.areaRead n (slots a 4 (2 + words))
      match r.1 with
      | some (link :: tag :: vs) =>
        if natBits tag 0 4 ≠ kind ∨ natBits tag 8 3 ≠ k.val then s.trap n bounds false false
        else match (target vs).bind (fun t => if k = s.lvl n ∧ badTarget t then some t else none) with
          | some t => s.trap n (transferTrap t).2 false false
          | none =>
            let eff (u : State) : State :=
              let q := u.areaWrite n [(a, 4, linkWord (u.fget (SFL.VALID n)) (u.fget (SFL.AREA n)))]
              if q.1 then
                let v := ((q.2.setSFL n (linkWord 1 head)).setSAH n k.val link)
                let jumped := (target vs).isSome && k == s.lvl n
                if jumped then (load v k vs).charge n cost else (load v k vs).advance n op cost
              else q.2.advanceOr n op cost
            if fill && k == s.lvl n then r.2.withFill n 1 eff else eff r.2
      | _ => r.2.advanceOr n op cost)

/-- RESTL: W0 to W15, C, Z, N, V and AE of ST, and the PC return from the chain of WIN.LVL; into the current level the PC is a transfer;
at most 60 cycles. -/
def execRestl (n : Dealer) (op : SOp) (s : State) : Host.Outcome State Fault Refusal :=
  runRest n 0x2C op s 60 1 18 false (fun vs => vs[17]?) (fun t k vs =>
    let b := (t.bankAt n k).loadW 0 (vs.take 16)
    t.setBankAt n k { b with st := putField b.st 0 5 (vs.getD 16 0), pc := BitVec.ofNat 32 (vs.getD 17 0) })

/-- RESTU: W16 to W31 and the PD registers return; at most 96 cycles. -/
def execRestu (n : Dealer) (op : SOp) (s : State) : Host.Outcome State Fault Refusal :=
  runRest n 0x2D op s 96 2 32 true (fun _ => none) (fun t k vs =>
    (((t.setBankAt n k (((t.bankAt n k).loadW 16 (vs.take 16)).loadPD (vs.drop 16))).markAt n k 0).markAt n k 1).markAt n k 3)

/-- SWTO (R221): a switch to the highest other ready task; none, at 1 cycle, with no other ready task, with TRP set, or at a level that is
no TASK level.  Its BOUNDS come before the SEG_LIMIT of the last word (log entry 172). -/
def execSwto (n : Dealer) (op : SOp) (s : State) : Host.Outcome State Fault Refusal :=
  let w := op.word 2 0x2E
  let k := s.lvl n
  runScalar n op s
    (firstTrap [(sysReserved op false false 0, illReserved w),
      ((s.dl n).msp != (s.dl n).mspRec.get k, { code := trapBounds, info := w }), s.endTrap n op])
    (fun s =>
      let s1 := s.advance n op 1
      let others := setNatBit (s.fget (TASKSTAT.READY n k.val)) (s.fget (TASKSTAT.RES n k.val)) false
      if s.levelKind n k.val ≠ 2 ∨ stTRP (s.st n) then s1
      else match highestBit others 8 with
        | some j => s1.switchTask n k j
        | none => s1)

/-- Leaving a HANDLER level (R206, R215): the filled groups return, TRP clears, the level ends. -/
def State.leaveHandler (s : State) (n : Dealer) : State :=
  let k := s.lvl n
  let g := (s.dl n).filled.get k
  let r := s.ctxRead n ((if natBit g 0 then slots (s.lazyF n k.val) 8 16 else []) ++ (if natBit g 1 then slots (s.lazyPD n k.val) 4 16 else []))
  match r.1 with
  | none => r.2.ctxErr n
  | some vs =>
    let nf := if natBit g 0 then 16 else 0
    let b := r.2.bank n
    let b1 := if natBit g 0 then b.loadF (vs.take nf) else b
    let b2 := if natBit g 1 then b1.loadPD (vs.drop nf) else b1
    let s1 := (r.2.setBank n { b2 with st := putField b2.st 15 1 0 }).setFbit (LVLSTAT.ACTIVE n) k.val false
    let s2 := s1.setDl n { s1.dl n with filled := (s1.dl n).filled.set k 0 }
    (s2.charge n (3 + 64 * b2n (natBit g 0) + 32 * b2n (natBit g 1))).runNext n

/-- Leaving the running task of a TASK level (R222). -/
def State.leaveTask (s : State) (n : Dealer) (op : SOp) : State :=
  let k := s.lvl n
  let j := s.fget (TASKSTAT.RES n k.val)
  let d := dirtyDoubles ((s.dl n).dirty.get k)
  let s1 := (s.setPc n (s.nextPc n op)).setReady n k.val j false
  let s2 := match s1.pendingSources.find? (fun e => s1.acceptable n k.val e && s1.fget (EVT_ROUTE.TASK e) == j) with
    | some e =>
      let u := (s1.accept e).setReady n k.val j true
      u.setDl n { u.dl n with wake := Sparse.insert (u.dl n).wake (8 * k.val + j) (e + 1) }
    | none => s1
  let r := s2.storeTask n k j
  if r.1 then
    match r.2.topReady n k.val with
    | some i => if i = j then (r.2.runTask n k i 0).charge n (73 + 4 * d) else (r.2.runTask n k i 0).charge n (241 + 4 * d)
    | none => ((r.2.setFbit (LVLSTAT.ACTIVE n) k.val false).charge n (73 + 4 * d)).runNext n
  else r.2.ctxErr n

/-- LRET (R206, R222): the level, or the running task of a TASK level, is left; at L0 it traps ILL_RESERVED. -/
def execLret (n : Dealer) (op : SOp) (s : State) : Host.Outcome State Fault Refusal :=
  let w := op.word 2 0x2F
  let k := s.lvl n
  let task := s.levelKind n k.val == 2
  runScalar n op s
    (firstTrap [(sysReserved op false false 0 || k == 0, illReserved w),
      (task && (s.endTrap n op).1, (s.endTrap n op).2),
      ((s.dl n).msp != (s.dl n).mspRec.get k, { code := trapBounds, info := w })])
    (fun s => if task then s.leaveTask n op else s.leaveHandler n)

/-- LEVEL_ENTRY: an instruction boundary of Dealer n, rows 3 and 4 of R207; a machine check that waits goes first. -/
def execLevelEntry (n : Dealer) (s : State) : Host.Outcome State Fault Refusal :=
  if (s.dl n).halted || (s.dl n).pendMC.isSome then .next s else .next (s.boundary n)

end Sys2Proof.Machine
end

