-- ==== Sys2Proof/Machine/Stores.lean ====
section
/-!
DEFINITION. Accesses at the ports of the stores and of the DRAM controller (spec/11 R324 to R327, R340, R341, R347 to R351): same-word
collisions, tamper triggers, scrub and refresh.
-/
namespace Sys2Proof.Machine

open Sys2Proof

/- Port A and port B (R324 to R327). -/

/-- An access as the port carries it out: status, data read, state.  A length of 0 touches nothing (R15), and a port carries no access of more
than 8 bytes (R327). -/
def State.portAccess (s : State) (ag : Agent) (acc : PortAcc) : Nat × Nat × State :=
  if acc.len = 0 then (stOK, 0, s)
  else if 8 < acc.len then (stREFUSED, 0, s)
  else match acc.data with
    | none => s.memRead ag acc.addr acc.len
    | some d => let r := s.memWrite ag acc.addr acc.len d.toNat; (r.1, 0, r.2)

/-- The words an access reaches, as word numbers. -/
def accWords (acc : PortAcc) : List Nat :=
  if acc.len = 0 then [] else if acc.addr % 8 + acc.len ≤ 8 then [acc.addr / 8] else [acc.addr / 8, acc.addr / 8 + 1]

/-- A port B access and its outcome at the Dealer: a status other than OK takes the access-error path (R189). -/
def State.portB (s : State) (n : Dealer) (seg : Nat) (acc : PortAcc) : State :=
  let r := s.portAccess (.dealer n) acc
  let t := if r.1 = stOK then r.2.2 else r.2.2.accessError n r.1 acc.addr seg acc.data.isSome
  t.emit (.status (.dealer n) r.1 r.2.1)

/-- A COLLIDED write at the addresses of store b, in the store that serves them: counted there, with EV096 + n, or EV128 for the nursery,
unless masked (R324, R325). -/
def State.collide (s : State) (b : Nat) : State :=
  let c := s.serving b
  if 33 ≤ c then s
  else
    let s1 := s.bump (BANK_COLL.COUNT c) 1
    if s.fget (BANK_COLL.MASK c) = 1 then s1 else s1.event (96 + c)

/-- What port A of a store answers to a Dealer's own access, whose path to its stores is port B (R329). -/
def State.dealerAtPortA (s : State) (ag : Agent) (a : Nat) : Option Nat :=
  match ag, regionOf a with
  | .dealer _, .store b => if s.bankPruned b then none else some (if s.storeStatus b ag = stOK then stNOT_OWNER else s.storeStatus b ag)
  | _, _ => none

/-- An access at port A. -/
def State.portA (s : State) (ag : Agent) (acc : PortAcc) : Nat × Nat × State :=
  match (if acc.len = 0 then none else s.dealerAtPortA ag acc.addr) with
  | some e => (e, 0, s)
  | none => s.portAccess ag acc

/-- An access of two words lies in one store (R327). -/
def inOneStore (acc : PortAcc) : Bool := regionOf (acc.addr + acc.len - 1) == regionOf acc.addr

/-- STORE_PORT_A_ACCESS: an access at port A, and the port B access, if any, that falls in the cycles it occupies (R325, R326).
No store serves an address outside every store, which is REFUSED. -/
def execStorePortAAccess (ag : Agent) (acc : PortAcc) (b : Option (Dealer × Fin 8 × PortAcc)) (s : State) :
    Host.Outcome State Fault Refusal :=
  match regionOf acc.addr with
  | .store k =>
    match b with
    | none =>
      let r := s.portA ag acc
      .next (r.2.2.emit (.status ag r.1 r.2.1))
    | some (n, sg, bacc) =>
      let meets := (accWords acc).any (accWords bacc).contains
      if acc.data.isNone ∨ !meets then
        let r := s.portA ag acc
        .next ((r.2.2.emit (.status ag r.1 r.2.1)).portB n sg.val bacc)
      else if bacc.data.isSome ∧ acc.len ≤ 8 ∧ bacc.len ≤ 8 ∧ inOneStore acc ∧ inOneStore bacc ∧ s.storeStatus k ag = stOK ∧
          (s.dealerAtPortA ag acc.addr).isNone ∧ s.storeStatus k (.dealer n) = stOK ∧ !s.bankPruned k then
        .next (((s.portB n sg.val bacc).collide k).emit (.status ag stCOLLIDED 0))
      else
        let t := s.portB n sg.val bacc
        let r := t.portA ag acc
        .next (r.2.2.emit (.status ag r.1 r.2.1))
  | _ => .next (s.emit (.status ag stREFUSED 0))

/-- STORE_PORT_B_ACCESS by Dealer n through segment register `seg`; an address outside every store is REFUSED. -/
def execStorePortBAccess (n : Dealer) (seg : Fin 8) (acc : PortAcc) (s : State) : Host.Outcome State Fault Refusal :=
  match regionOf acc.addr with
  | .store _ => .next (s.portB n seg.val acc)
  | _ => .next (s.emit (.status (.dealer n) stREFUSED 0))

/- Tamper (R340, R341). -/

/-- A tamper input or glitch detector fires: EV130, the wipe, and the read responses still in the cold frame's reach; a port B read whose
data has not reached its Dealer ends as an access error with POISON. -/
def State.tamper (s : State) (cause : Nat) (held : List Nat) (part : List (Nat × Nat)) (reads : List (Dealer × Fin 8 × Nat)) : State :=
  if s.inReset = 1 then s
  else
    let s1 := (s.event 130).coldWipe cause
    let s2 := { s1 with net := s1.net.map (poisonResponses held part) }
    reads.foldl (fun t r => t.accessError r.1 stPOISON r.2.2 r.2.1.val false) s2

/-- TAMPER_INPUT: TAMPi asserted for `ns`, with the tags of the responses not yet sent, those partly sent with the units sent, and the
port B reads under way. -/
def execTamperInput (i : Fin 2) (ns : Nat) (held : List Nat) (part : List (Nat × Nat)) (reads : List (Dealer × Fin 8 × Nat)) (s : State) :
    Host.Outcome State Fault Refusal :=
  .next (s.filtered ns (fun t => t.tamper (1 + i.val) held part reads))

/-- GLITCH_DETECT. -/
def execGlitchDetect (held : List Nat) (part : List (Nat × Nat)) (reads : List (Dealer × Fin 8 × Nat)) (s : State) :
    Host.Outcome State Fault Refusal :=
  .next (s.tamper 3 held part reads)

/- DRAM (R347 to R351). -/

/-- DRAM_REQUEST: a request of up to 8 bytes served in its class; a read that finds UE answers POISON, and the errors found are
reported (R347, R350). -/
def execDramRequest (ag : Agent) (qos : Fin 4) (acc : PortAcc) (s : State) : Host.Outcome State Fault Refusal :=
  match regionOf acc.addr with
  | .dram =>
    let r := s.portAccess ag acc
    .next (r.2.2.emit (.status ag r.1 r.2.1))
  | _ => .next (s.emit (.status ag stREFUSED 0))

/-- A word is read and, where it was corrected, written back; a UE word is left and reported. -/
def State.scrubWord (s : State) (a : Nat) : State :=
  let r := s.readWord a
  if r.2.1 ∨ s.wordSyn a = 0 then r.2.2 else r.2.2.putWord a r.1

/-- The bursts of DRAM. -/
def dramBursts : Nat := 2 ^ 30

/-- The next burst is scrubbed, in the device fallow, unless the Gardener has halted; a full pass raises EV135 (R351, R426). -/
def State.dramScrub (s : State) : State :=
  if !s.fallow || s.fget DRAM_STAT.TRAIN != 2 || s.fget DRAM_STAT.SREF == 1 || s.fget GARD_STAT.STATE == 3 then s
  else
    let s1 := (rangeFrom 0 16).foldl (fun t k => t.scrubWord (128 * s.scrubAt + 8 * k)) s
    let i := s.scrubAt + 1
    if i = dramBursts then (({ s1.fset DRAM_SCRUB.PROG 0 with scrubAt := 0 }.bump DRAM_SCRUB.PASSES 1).event 135)
    else { s1.fset DRAM_SCRUB.PROG (i / 16384) with scrubAt := i }

/-- DRAM_SCRUB_STEP. -/
def execDramScrubStep (s : State) : Host.Outcome State Fault Refusal := .next s.dramScrub

/-- The row an address lies in: suit, bank group, bank, rank and row, the column and the byte cleared (R345). -/
def rowKey (a : Nat) : Nat := a - a % 128 - a / 2 ^ 13 % 64 * 2 ^ 13

/-- DRAM_REFRESH of a suit: in reserve mode its faulting rows are scrubbed (R349), and may be struck again (R411). -/
def execDramRefresh (suit : Fin 4) (s : State) : Host.Outcome State Fault Refusal :=
  if s.fget DRAM_STAT.RSV = 1 ∧ s.fget DRAM_STAT.RSUIT = suit.val then
    let s1 := (s.syn.filter (fun p => decide (8 * p.1 < 2 ^ 37) && s.rsvRows.contains (rowKey (8 * p.1)) && 8 * p.1 / 128 % 4 == suit.val)).foldl
      (fun t p => t.scrubWord (8 * p.1)) s
    .next { s1 with gard := { s1.gard with held := s1.gard.held.filter (fun r =>
      !(r.kind == 2 && s.rsvRows.contains (rowKey r.loc) && r.loc / 128 % 4 == suit.val)) } }
  else .next s

end Sys2Proof.Machine
end

