-- ==== Sys2Proof/Machine/Trellis.lean ====
section
/-!
DEFINITION. The Trellis (spec/12 R352 to R378): packets at their targets and at absorbers, answers at their requesters, tags and their
timeouts, link errors, the table swap, router pruning and crossings.
-/
namespace Sys2Proof.Machine

open Sys2Proof

def cmdRD : Nat := 0
def cmdWR : Nat := 1
def cmdWRP : Nat := 2
def cmdFADD : Nat := 3
def cmdEVT : Nat := 4
def cmdRDRESP : Nat := 5
def cmdWRACK : Nat := 6

/-- A request that is answered, and so holds a tag. -/
def wantsAnswer (p : Packet) : Bool := p.cmd == cmdRD || p.cmd == cmdWR || p.cmd == cmdFADD

/-- Units before the data: the header, and the address unit of a request (R357, R358). -/
def unitsBefore (p : Packet) : Nat := if p.cmd < 4 then 2 else 1

/- Units on links (R356, R357, R367, R368). -/

/-- D of the header unit. -/
def headWord (p : Packet) : DWord :=
  BitVec.ofNat 64 (p.dest % 64 + 2 ^ 6 * (p.src % 64) + 2 ^ 12 * (p.cmd % 8) + 2 ^ 15 * (p.qos % 4) + 2 ^ 17 * (p.count % 128) +
    2 ^ 24 * (p.tag % 2048) + 2 ^ 35 * (p.status % 256) + 2 ^ 43 * (p.evnum % 512) + 2 ^ 52 * (p.res % 4096))

/-- D of the address unit. -/
def addrWord (p : Packet) : DWord :=
  BitVec.ofNat 64 (p.addr % 2 ^ 44 + 2 ^ 44 * (p.bef % 256) + 2 ^ 52 * (p.bel % 256))

/-- The packet whose header unit reads `d`. -/
def withHead (p : Packet) (d : DWord) : Packet :=
  let f (lo n : Nat) : Nat := natBits d.toNat lo n
  if d = headWord p then p
  else { p with dest := f 0 6, src := f 6 6, cmd := f 12 3, qos := f 15 2, count := f 17 7, tag := f 24 11, status := f 35 8, evnum := f 43 9,
                res := f 52 12 }

/-- The packet whose address unit reads `d`; its res0 bits are those of the packet. -/
def withAddr (p : Packet) (d : DWord) : Packet :=
  let f (lo n : Nat) : Nat := natBits d.toNat lo n
  if d = addrWord p then p else { p with addr := f 0 44, bef := f 44 8, bel := f 52 8, res := p.res ||| f 60 4 }

/-- Data unit i replaced, poisoned or not. -/
def setUnit (p : Packet) (i : Nat) (d : DWord) (poison : Bool) : Packet :=
  { p with data := p.data.set i d,
           poison := (rangeFrom 0 p.data.length).map (fun k => if k = i then poison else p.poison.getD k false) }

/-- D of unit k. -/
def unitWord (p : Packet) (k : Nat) : DWord :=
  if k = 0 then headWord p else if k < unitsBefore p then addrWord p else p.data.getD (k - unitsBefore p) 0

/-- Unit k is a poisoned word. -/
def unitPoisoned (p : Packet) (k : Nat) : Bool := decide (unitsBefore p ≤ k) && p.poison.getD (k - unitsBefore p) false

/-- The packet with unit k read as `d`. -/
def withUnit (p : Packet) (k : Nat) (d : DWord) (poison : Bool) : Packet :=
  if k = 0 then withHead p d else if k < unitsBefore p then withAddr p d else setUnit p (k - unitsBefore p) d poison

/-- The HEAD mark of unit k as the majority of its three copies, of which the link inverted some (R357). -/
def headMark (k : Nat) (inverted : BitVec 3) : Bool :=
  let sent := decide (k = 0)
  let copy (i : Nat) : Nat := b2n (sent ^^ inverted.getLsbD i)
  decide (2 ≤ copy 0 + copy 1 + copy 2)

/-- What router r finds in unit k of a packet at one of its input ports: a CE unit is corrected, counted and reported; a data unit that is UE,
which every poisoned word is, goes on poisoned, with EV163; a header or address unit that is UE ends its packet (R367, R368).  A unit whose HEAD
mark the vote gets wrong begins no packet or begins a false one, and the packet is discarded (log entry 62). -/
def State.linkUnit (s : State) (r port : Nat) (p : Packet) (k : Nat) (flips : List (Fin 80)) (inverted : BitVec 3) : Option Packet × State :=
  let loc := 8 * r + port
  let u := unitReceived (unitWord p k) (unitPoisoned p k) flips
  if headMark k inverted != decide (k = 0) then (none, s)
  else match u.2 with
    | .clean => (some (withUnit p k u.1 false), s)
    | .ue =>
      (if k < unitsBefore p then none else some (withUnit p k u.1 true),
       ((s.bump (TRL_LINK.UE r) 1).report { cls := 8, kind := 7, loc := loc, ue := true }).event 163)
    | _ => (some (withUnit p k u.1 false), (s.bump (TRL_LINK.CE r) 1).report { cls := 7, kind := 7, loc := loc })

/-- A packet at an input port of router r: each unit that the link changed, or that is poisoned, in order; nothing goes on from a packet that
ends. -/
def State.crossPort (s : State) (r port : Nat) (errs : List LinkErr) (p : Packet) : Option Packet × State :=
  (rangeFrom 0 (unitsBefore p + p.data.length)).foldl (fun (a : Option Packet × State) k => match a.1 with
    | none => a
    | some q =>
      let here := errs.filter (fun e => e.unit == k)
      if here.isEmpty && !unitPoisoned q k then a
      else a.2.linkUnit r port q k (here.flatMap (fun e => e.flips)) (here.foldl (fun v e => v ^^^ e.head) 0)) (some p, s)

/-- Where a packet's way ends: at the router of its destination, at the absorber of a port that faces a closed router, or nowhere. -/
inductive Arrival where
  | at_ (p : Packet)
  | absorbed (r : Nat) (p : Packet)
  | lost
  deriving DecidableEq, Repr

/-- The mesh port of `b` that faces router `a`. -/
def facing (a b : Nat) : Option Nat := (rangeFrom 0 4).find? (fun k => neighbour b k == some a)

/-- A packet's way over the mesh from router r, which it enters by a port that `from_` admits: the units are checked at every router, and the
header as it was decoded names the next one (R356, R367 to R369). -/
def State.travel (s : State) (old : Bool) (errs : List LinkErr) (from_ : Nat → Bool) : Nat → Nat → Packet → Arrival × State
  | hops, r, p =>
    let mine := errs.filter (fun e => e.router.val == r && from_ e.port.val)
    let port := match mine with | e :: _ => e.port.val | [] => ((rangeFrom 0 8).find? from_).getD 0
    let c := s.crossPort r port mine p
    match c.1, hops with
    | none, _ => (.lost, c.2)
    | some q, 0 => (if r = routerOf q.dest then .at_ q else .lost, c.2)
    | some q, k + 1 =>
      if r = routerOf q.dest then (.at_ q, c.2)
      else match neighbour r (c.2.routeEntry old r q.dest) with
        | none => (.lost, c.2)
        | some x =>
          if c.2.fget (TRL_RTR.STATE x) ≠ 0 then (.absorbed r q, c.2)
          else c.2.travel old errs (fun port => facing r x == some port) k x q

/-- A packet's way from its source's router, which it enters by a local port. -/
def State.cross (s : State) (old : Bool) (p : Packet) (errs : List LinkErr) : Arrival × State :=
  s.travel old errs (fun port => decide (4 ≤ port)) meshHops (routerOf p.src) p

/- Answers. -/

/-- The answer to a request: SRC is copied to DEST, class and tag are the request's (R361, R363). -/
def answerOf (p : Packet) (cmd status : Nat) (data : List DWord) (poison : List Bool) : Packet :=
  { dest := p.src, src := p.dest, cmd := cmd, qos := p.qos, count := data.length, tag := p.tag, status := status, data := data,
    poison := poison }

/-- A read request's answer. -/
def State.reply (s : State) (p : Packet) (status : Nat) (data : List DWord) (poison : List Bool) : State :=
  s.send (answerOf p cmdRDRESP status data poison)

/-- The answer to a request that carries no units: RDRESP for RD and FADD, WRACK for WR; nothing for a posted packet. -/
def State.replyStatus (s : State) (p : Packet) (status : Nat) : State :=
  if p.cmd = cmdRD ∨ p.cmd = cmdFADD then s.reply p status [] []
  else if p.cmd = cmdWR then s.send (answerOf p cmdWRACK status [] [])
  else s

/-- An absorber of router r answers a packet (R373). -/
def State.absorbPacket (s : State) (r : Nat) (p : Packet) : State :=
  let s1 := s.absorb r
  if p.cmd = cmdRD then s1.reply p stPOISON (List.replicate p.count (BitVec.ofNat 64 (ones 64))) (List.replicate p.count true)
  else if p.cmd = cmdFADD then s1.reply p stPOISON [BitVec.ofNat 64 (ones 64)] [true]
  else if p.cmd = cmdWR then s1.replyStatus p stABSORBED
  else s1

/- Where a packet is absorbed or turned away. -/

/-- The absorber of a local port, by its router, once its part or its router is pruned (R375). -/
def State.absorberFor (s : State) (r l : Nat) : Option Nat :=
  if s.fget (TRL_RTR.STATE r) ≠ 0 ∨ s.fbit (TRL_RTR.ABSP r) (4 + l) then some r else none

/-- The target of a request, by router and local port: the DRAM port of its DEST, whichever DRAM address it names (R355, R371), or the part
that owns the address, where DEST names its router. -/
def State.targetPort (s : State) (p : Packet) : Option (Nat × Nat) :=
  let r := routerOf p.dest
  match regionOf p.addr with
  | .dram => if r % 6 = 0 ∨ r % 6 = 5 then some (r, 0) else none
  | _ => if (s.servedAt p.addr).1 = r then some (s.servedAt p.addr) else none

/-- A part that the Gardener pruned behind the absorber of its port (R78, R418). -/
def State.prunedAt (s : State) (a : Nat) : Bool :=
  match regionOf a with
  | .plane => s.pruned (tileOfAddr a)
  | .store b => s.bankPruned b
  | _ => false

/-- A request that R359 turns away. -/
def malformed (p : Packet) : Bool :=
  decide (64 < p.count) || p.res != 0 || p.addr % 8 != 0 || decide (2 ^ 44 ≤ p.addr) || decide (256 ≤ p.bef) || decide (256 ≤ p.bel) ||
  p.status != 0 || p.evnum != 0 || decide (3 < p.qos) || decide (512 < p.addr % 512 + 8 * p.count) ||
  (p.cmd == cmdWRP && p.tag != 0) || (p.cmd != cmdRD && p.data.length != p.count) ||
  (if p.cmd = cmdRD then p.bef != 0 || p.bel != 0
   else if p.cmd = cmdFADD then p.count != 1 || !([0x0F, 0xF0, 0xFF].contains p.bef) || p.bel != 0
   else p.count == 0 || (p.count == 1 && p.bel != 0))

/- Targets. -/

/-- A unit of registers read: both registers of the unit, lane by lane; an unmapped one reads 0 (R6, R33). -/
def State.regUnit (s : State) (ag : Agent) (a : Nat) : Nat × Nat × State :=
  let lo := s.busRead ag a 4
  let hi := lo.2.2.busRead ag (a + 4) 4
  (if lo.1 = stOK ∨ hi.1 = stOK then stOK else lo.1, lo.2.1 + 2 ^ 32 * hi.2.1, hi.2.2)

/-- An address of the device registers or of a control-store window, which take accesses of 32 and of 64 bits alone (R6, R149). -/
def singleUnit (a : Nat) : Bool :=
  match regionOf a with
  | .regs _ => true
  | .ctl _ _ => true
  | _ => false

/-- Reads of the units of an RD: the first status other than OK and POISON, whether any unit is poisoned, the units. -/
def State.readUnits (s : State) (ag : Agent) : Nat → Nat → Nat × List (Nat × Bool) × State
  | _, 0 => (stOK, [], s)
  | a, n + 1 =>
    let r := match regionOf a with | .regs _ => s.regUnit ag a | _ => s.busRead ag a 8
    if r.1 ≠ stOK ∧ r.1 ≠ stPOISON then (r.1, [], r.2.2)
    else
      let t := r.2.2.readUnits ag (a + 8) n
      (t.1, (r.2.1, decide (r.1 = stPOISON)) :: t.2.1, t.2.2)

/-- An RD at its target. -/
def State.serveRead (s : State) (ag : Agent) (p : Packet) : State :=
  if singleUnit p.addr ∧ 1 < p.count then s.replyStatus p stREFUSED
  else
    let r := s.readUnits ag p.addr p.count
    if r.1 ≠ stOK then r.2.2.replyStatus p r.1
    else r.2.2.reply p (if r.2.1.any Prod.snd then stPOISON else stOK) (r.2.1.map (fun u => BitVec.ofNat 64 u.1)) (r.2.1.map Prod.snd)

/-- The runs of enabled bytes of a unit: first byte and length. -/
def byteRuns (mask : Nat) : Nat → Nat → List (Nat × Nat)
  | _, 0 => []
  | k, fuel + 1 =>
    if 8 ≤ k then []
    else if natBit mask k then
      let n := ((rangeFrom k (8 - k)).takeWhile (natBit mask)).length
      (k, n) :: byteRuns mask (k + n) fuel
    else byteRuns mask (k + 1) fuel

/-- A stored word becomes poisoned, its data kept; a store that mirrors it follows. -/
def State.poisonWord (s : State) (a : Nat) : State :=
  let a8 := a / 8 * 8
  let put (t : State) : State := t.storeWord a8 (t.wordData (t.phys a8)) true
  match regionOf a8 with
  | .dram => put s
  | .store _ => put s
  | .plane => s.putPlane a8 (s.planeWord a8) true
  | .deal n off => s.putPoison (dealBase (Fin.ofNat 4 n) + off) (s.wordData (dealBase (Fin.ofNat 4 n) + off))
  | _ => s

/-- The byte enables a unit's target accepts: one register of the unit (R6), whole words of the plane and control-store windows (R74, R149),
none at an unmapped address (R33). -/
def maskOk (a mask : Nat) : Bool :=
  match regionOf a with
  | .regs _ => mask == 0x0F || mask == 0xF0
  | .plane => mask == 0xFF
  | .ctl _ _ => mask == 0xFF
  | .unmapped => false
  | _ => true

/-- The status with which a target turns a unit away before it touches a byte; a unit without enabled bytes is judged as its first byte
would be. -/
def State.unitStatus (s : State) (ag : Agent) (a mask : Nat) : Nat :=
  if !maskOk a mask then stREFUSED
  else match regionOf a with
    | .regs off =>
      let o := if mask = 0x0F then off else off + 4
      if (regGroupAt o).isNone || !s.reachesRegs ag o then stREFUSED else stOK
    | .ctl k off => s.ctlStatus ag k off 8 true
    | .deal k off => s.dealStatus ag k off 1 true
    | .store b => if s.bankPruned b then stOK else s.storeStatus b ag
    | .dram => s.dramStatus ag a true
    | .plane => if s.pruned (tileOfAddr a) then stOK else s.planeStatus ag a 8
    | _ => stOK

/-- One data unit written under its byte enables: its status and the state.  Poisoned data is stored poisoned (R322, R356); a register or a
control store, which hold no word code, answers POISON to it and takes nothing (log entry 63). -/
def State.writeUnit (s : State) (ag : Agent) (a mask : Nat) (d : DWord) (poison : Bool) : Nat × State :=
  let st := s.unitStatus ag a mask
  let coded : Bool := match regionOf a with | .regs _ => false | .ctl _ _ => false | _ => true
  if st ≠ stOK then (st, s)
  else if poison ∧ !coded then (stPOISON, s)
  else
    let r := (byteRuns mask 0 9).foldl (fun (acc : Nat × State) run =>
      if acc.1 ≠ stOK then acc else acc.2.busWrite ag (a + run.1) run.2 (natBits d.toNat (8 * run.1) (8 * run.2))) (stOK, s)
    if r.1 = stOK ∧ poison ∧ mask ≠ 0 then (stOK, r.2.poisonWord a) else r

/-- The byte enables of unit k of n (R358). -/
def unitMask (p : Packet) (k : Nat) : Nat := if k = 0 then p.bef else if k + 1 = p.count then p.bel else 0xFF

/-- The data units of a write, each in its word; the first status other than OK. -/
def State.writeUnits (s : State) (ag : Agent) (p : Packet) : Nat × State :=
  (rangeFrom 0 p.count).foldl (fun (acc : Nat × State) k =>
    let r := acc.2.writeUnit ag (p.addr + 8 * k) (unitMask p k) (p.data.getD k 0) (p.poison.getD k false)
    (if acc.1 = stOK then r.1 else acc.1, r.2)) (stOK, s)

/-- The first status other than OK with which the target turns a unit of a write away. -/
def State.turnsAway (s : State) (ag : Agent) (p : Packet) : Nat :=
  (((rangeFrom 0 p.count).map (fun k => s.unitStatus ag (p.addr + 8 * k) (unitMask p k))).find? (fun st => st != stOK)).getD stOK

/-- A WR or WRP at its target: where a unit is turned away, none is written (R13, R358). -/
def State.serveWrite (s : State) (ag : Agent) (p : Packet) : State :=
  if singleUnit p.addr ∧ 1 < p.count then s.replyStatus p stREFUSED
  else match s.turnsAway ag p with
    | 0 => let r := s.writeUnits ag p; r.2.replyStatus p r.1
    | e => s.replyStatus p e

/-- An FADD at its target: the old value goes back in its lanes, the sum is stored (R358).  A poisoned addend stores nothing and is answered POISON
(log entry 60). -/
def State.serveFadd (s : State) (ag : Agent) (p : Packet) : State :=
  let lo := if p.bef = 0xF0 then 4 else 0
  let n := if p.bef = 0xFF then 8 else 4
  let r := s.busRead ag (p.addr + lo) n
  let old := BitVec.ofNat 64 (r.2.1 * 2 ^ (8 * lo))
  if r.1 = stPOISON ∨ (r.1 = stOK ∧ p.poison.any id) then r.2.2.reply p stPOISON [old] [true]
  else if r.1 ≠ stOK then r.2.2.replyStatus p r.1
  else
    let sum := (r.2.1 + natBits (p.data.getD 0 0).toNat (8 * lo) (8 * n)) % 2 ^ (8 * n)
    let w := r.2.2.busWrite ag (p.addr + lo) n sum
    if w.1 = stOK then w.2.reply p stOK [old] [false] else w.2.replyStatus p w.1

/-- A dropped packet is counted in TRL_LATE.DROPS (R359). -/
def State.dropCounted (s : State) : State := s.bump TRL_LATE.DROPS 1

/-- The packet that arrives as a command of its row names it: the row's CMD, the units COUNT gives, a tag of 11 bits. -/
def asRow (p : Packet) (cmd : Nat) (units : Bool) : Packet :=
  let n := p.count % 128
  { p with cmd := cmd, count := n, tag := p.tag % 2048,
           data := if units then (rangeFrom 0 n).map (fun k => p.data.getD k 0) else [], poison := if units then p.poison.take n else [] }

/-- A request at its target, by the command its header names; one with a command that is no request is dropped and counted (R359). -/
def State.serve (s : State) (ag : Agent) (p : Packet) : State :=
  if p.cmd = cmdRD then s.serveRead ag p
  else if p.cmd = cmdFADD then s.serveFadd ag p
  else if p.cmd = cmdWR ∨ p.cmd = cmdWRP then s.serveWrite ag p
  else s.dropCounted

/-- A packet that sets out with units as sent comes to a port on its way. -/
def State.routed (s : State) (old : Bool) (p : Packet) : Bool :=
  s.way old (routerOf p.dest) meshHops (routerOf p.src) != some .lost

/-- The request of an agent that arrives at its target: one that stands in the network, or one that the agent issues now, whose router derives
DEST from the address and SRC from the agent's port, under a free tag of the port's range; in its turn, and on a route that leads somewhere (R354,
R360, R361, R366, R369).  None where the agent's side of its crossing is in reset. -/
def State.requested (s : State) (ag : Agent) (p : Packet) (cmd : Nat) (units : Bool) : Option Packet :=
  let q := asRow p cmd units
  if s.net.contains q then (if s.inTurn q ∧ s.routed (s.sentBefore q) q then some q else none)
  else
    let d := { q with dest := nodeOf (s.servedAt q.addr).1, src := match s.agentPort ag with | some at_ => nodeOf at_.1 | none => q.src }
    if (s.agentPort ag).bind s.portTurns = some .down ∨ (wantsAnswer d ∧ !s.tagFree ag d.tag) ∨ !s.inTurn d ∨ !s.routed false d then none
    else some d

/-- The requests that a local port has delivered and its endpoint has not answered, at most 128 for a port (R374).  An answer counts as given
when it reaches its requester (log entry 136). -/
def State.record (s : State) (q : Nat × Nat) (p : Packet) : State :=
  let k := 4 * q.1 + q.2
  if wantsAnswer p ∧ (s.recorded.filter (fun x => x.1 == k)).length < 128 then { s with recorded := s.recorded ++ [(k, p)] } else s

/-- A port begins to absorb: its absorber answers each recorded request that `which` selects (R374). -/
def State.beginAbsorb (s : State) (q : Nat × Nat) (which : Packet → Bool) : State :=
  let mine (x : Nat × Packet) : Bool := x.1 == 4 * q.1 + q.2 && which x.2
  let took := s.recorded.filter mine
  let theirs (p : Packet) : Bool := (p.cmd == cmdRDRESP || p.cmd == cmdWRACK) && took.any (fun x => x.2.tag == p.tag)
  let s1 := s.net.foldl (fun t p => if theirs p then t.unsend p else t) { s with recorded := s.recorded.filter (fun x => !mine x) }
  took.foldl (fun t x => t.absorbPacket q.1 x.2) s1

/-- A packet leaves the network as it arrives; the tag of a request is held by its requester (R360). -/
def State.arrive (s : State) (ag : Agent) (p : Packet) : State :=
  let s1 := s.unsend p
  if wantsAnswer p ∧ (s1.tag p.tag).isNone then s1.holdTag p.tag { ag := ag, addr := p.addr, wr := p.cmd == cmdWR } else s1

/-- A request at the router of its DEST: at the port of its target absorbed, turned away, or served.  A Dealer's own request at port A of a store is
turned away (R329); where the router has no port for the address, none is mapped there (R33, log entry 62). -/
def State.atTarget (s : State) (ag : Agent) (p : Packet) : State :=
  let refused : State := if wantsAnswer p then s.replyStatus p stREFUSED else s.dropCounted
  match s.targetPort p with
  | none => refused
  | some q => match s.absorberFor q.1 q.2 with
    | some r => s.absorbPacket r p
    | none =>
      if s.portDown q.1 q.2 then (if wantsAnswer p then s.replyStatus p stNOT_READY else s.absorb q.1)
      else if malformed p then refused
      else if s.prunedAt p.addr then s.absorbPacket q.1 p
      else
        let t := s.record q p
        match t.dealerAtPortA ag p.addr with
        | some e => t.replyStatus p e
        | none => t.serve ag p

/-- A request of an agent arrives; a pruned agent's is answered by its own port's absorber (R375).  A request that no agent can issue now is no
event. -/
def State.request (s : State) (ag : Agent) (p : Packet) (cmd : Nat) (units : Bool) (errs : List LinkErr) : State :=
  match s.requested ag p cmd units with
  | none => s
  | some p =>
    match (s.agentPort ag).bind s.portTurns with
    | some (.absorbed x) => (s.arrive ag p).absorbPacket x p
    | _ =>
      let r := (s.arrive ag p).cross (s.sentBefore p) p errs
      match r.1 with
      | .lost => r.2
      | .absorbed x q => r.2.absorbPacket x q
      | .at_ q => r.2.atTarget ag q

/-- TRELLIS_RD: a read request of `ag`, with the errors its units met on links. -/
def execTrellisRd (ag : Agent) (p : Packet) (errs : List LinkErr) (s : State) : Host.Outcome State Fault Refusal :=
  .next (s.request ag p cmdRD false errs)

/-- TRELLIS_WR. -/
def execTrellisWr (ag : Agent) (p : Packet) (errs : List LinkErr) (s : State) : Host.Outcome State Fault Refusal :=
  .next (s.request ag p cmdWR true errs)

/-- TRELLIS_WRP. -/
def execTrellisWrp (ag : Agent) (p : Packet) (errs : List LinkErr) (s : State) : Host.Outcome State Fault Refusal :=
  .next (s.request ag p cmdWRP true errs)

/-- TRELLIS_FADD. -/
def execTrellisFadd (ag : Agent) (p : Packet) (errs : List LinkErr) (s : State) : Host.Outcome State Fault Refusal :=
  .next (s.request ag p cmdFADD true errs)

/- Events at a seat's port (R358, R405). -/

/-- The CAN-FD controller that carries a seat's notices: its notice port, or its command port. -/
def State.noticeCan (s : State) (k : Nat) : Option Nat :=
  if s.fget (SEAT_CFG.NTCP k) ≠ 0 then some (s.fget (SEAT_CFG.NTCP k) - 1)
  else if 5 ≤ s.fget (SEAT_CFG.CMDP k) then some (s.fget (SEAT_CFG.CMDP k) - 5)
  else none

/-- An armed event is delivered at a seat's port: the MSI-X vector of the source on PCIe, an EVENT notice where a CAN-FD port carries
notices. -/
def State.deliverEvent (s : State) (k e : Nat) (atNotice : Bool) : State :=
  if s.pcieSeat k ∧ !atNotice then s.msix k (natBits (s.reg (SEAT_EVVEC.reg k (e / 4))).toNat (8 * (e % 4)) 6)
  else match s.noticeCan k with
    | some _ => s.postNotice k 3 0xFF 0 0 0 e
    | none => s

/-- Router and local port of a seat's command port. -/
def State.seatPort (s : State) (k : Nat) : Nat × Nat := hostPort (s.fget (SEAT_CFG.CMDP k))

/-- An EVT packet to DEST is for the notice port of seat k, which is not its command port (R358). -/
def State.toNotice (s : State) (k dest : Nat) : Bool := s.pcieSeat k && s.fget (SEAT_CFG.NTCP k) != 0 && dest == 24

/-- Router and local port of the port of seat k an EVT packet to DEST is for. -/
def State.evtPort (s : State) (k dest : Nat) : Nat × Nat := if s.toNotice k dest then (18, 3) else s.seatPort k

/-- An event packet at the router of its DEST: absorbed, dropped, or delivered at its seat's port. -/
def State.atSeatPort (s : State) (p : Packet) : State :=
  let k := s.fget (EVT_ROUTE.SEAT p.evnum)
  let q := s.evtPort k p.dest
  match s.absorberFor q.1 q.2 with
  | some a => s.absorbPacket a p
  | none =>
    if s.portDown q.1 q.2 then s.absorb q.1
    else if p.cmd ≠ cmdEVT ∨ q.1 ≠ routerOf p.dest ∨ 319 < p.evnum ∨ p.res ≠ 0 ∨ p.count ≠ 0 ∨ p.status ≠ 0 ∨ p.tag ≠ 0 then s.dropCounted
    else if s.fget (EVT_ROUTE.KIND p.evnum) = 2 then s.deliverEvent k p.evnum (s.toNotice k p.dest)
    else s

/-- TRELLIS_EVT: an event reaches the port of the seat its source is routed to. -/
def execTrellisEvt (p : Packet) (errs : List LinkErr) (s : State) : Host.Outcome State Fault Refusal :=
  let p := { p with cmd := cmdEVT, data := [], poison := [] }
  if !s.inTurn p || !s.routed (s.sentBefore p) p then .next s
  else
    let r := (s.unsend p).cross (s.sentBefore p) p errs
    .next (match r.1 with
      | .lost => r.2
      | .absorbed a q => r.2.absorbPacket a q
      | .at_ q => r.2.atSeatPort q)

/- Answers at their requesters (R360 to R362, R378). -/

/-- The local port whose range holds a tag, as router and port. -/
def State.tagPort (s : State) (t : Nat) : Option (Nat × Nat) :=
  ((rangeFrom 0 96).find? (fun p => s.fget (TRL_TAG.V p) == 1 && decide (s.fget (TRL_TAG.BASE p) ≤ t) &&
    decide (t ≤ s.fget (TRL_TAG.BASE p) + s.fget (TRL_TAG.SIZE p)))).map (fun p => (p / 4, p % 4))

/-- What an answer does at its requester: a corner-turn unit places it, a Dealer takes an access error for a status other than OK through
segment register `seg`, and the outcome is recorded. -/
def State.deliver (s : State) (r : TagRec) (tag status seg : Nat) (data : List DWord) (poison : List Bool) : State :=
  match r.ag with
  | .ctu t => s.ctuAnswer t.val tag status data poison
  | .dealer n =>
    (if status = stOK then s else s.accessError n status r.addr seg r.wr).emit (.status r.ag status (data.getD 0 0).toNat)
  | ag => s.emit (.status ag status (data.getD 0 0).toNat)

/-- An answer under a tag at the port that owns it: dropped where the requester's side of the crossing has reset, and then its tag is freed;
late where the tag is not held or has timed out; else delivered (R362, R377, R378). -/
def State.answerTag (s : State) (q : Packet) (seg : Nat) : State :=
  let down : Option Nat := match s.tagPort q.tag with | some at_ => if s.portDown at_.1 at_.2 then some at_.1 else none | none => none
  match s.tag q.tag, down with
  | none, none => s.bump TRL_LATE.LATE 1
  | none, some r => s.absorb r
  | some rec, none =>
    if rec.orphan then s.freeTag q.tag
    else if rec.timedOut then s.bump TRL_LATE.LATE 1
    else (s.freeTag q.tag).deliver rec q.tag q.status seg q.data q.poison
  | some rec, some r => if rec.timedOut then s.absorb r else (s.freeTag q.tag).absorb r

/-- An answer at the router of its DEST: the local port whose range holds its tag takes it, or its absorber (R361, R373).  Where the router has no
such port, or the header names no answer, nobody waits for it, and it is late (log entry 58). -/
def State.atRequester (s : State) (q : Packet) (seg : Nat) : State :=
  match s.tagPort q.tag with
  | none => s.answerTag q seg
  | some at_ =>
    match s.absorberFor at_.1 at_.2 with
    | some a => s.absorbPacket a q
    | none =>
      if at_.1 ≠ routerOf q.dest ∨ (q.cmd ≠ cmdRDRESP ∧ q.cmd ≠ cmdWRACK) then s.bump TRL_LATE.LATE 1
      else s.answerTag q seg

/-- An answer reaches the port of its tag's owner.  A status above 0x0A is none of the device's (R13), and such an answer is no event. -/
def State.answer (s : State) (p : Packet) (cmd : Nat) (units : Bool) (errs : List LinkErr) (seg : Nat) : State :=
  let p := asRow p cmd units
  if stCOLLIDED < p.status ∨ !s.inTurn p ∨ !s.routed (s.sentBefore p) p then s
  else
    let s1 := s.unsend p
    let r := ({ s1 with recorded := s1.recorded.filter (fun x => x.2.tag != p.tag) } : State).cross (s.sentBefore p) p errs
    match r.1 with
    | .lost => r.2
    | .absorbed a q => r.2.absorbPacket a q
    | .at_ q => r.2.atRequester q seg

/-- TRELLIS_RDRESP: `seg` is the segment register a Dealer's access named. -/
def execTrellisRdresp (p : Packet) (errs : List LinkErr) (seg : Fin 8) (s : State) : Host.Outcome State Fault Refusal :=
  .next (s.answer p cmdRDRESP true errs seg.val)

/-- TRELLIS_WRACK. -/
def execTrellisWrack (p : Packet) (errs : List LinkErr) (seg : Fin 8) (s : State) : Host.Outcome State Fault Refusal :=
  .next (s.answer p cmdWRACK false errs seg.val)

/-- TAG_TIMEOUT: the request under a tag completes with TIMEOUT and the tag stays held; a tag whose requester has reset is freed (R362,
R378). -/
def execTagTimeout (tag : Fin 2048) (seg : Fin 8) (s : State) : Host.Outcome State Fault Refusal :=
  match s.tag tag.val with
  | none => .next s
  | some r =>
    if r.orphan then .next (s.freeTag tag.val)
    else if r.timedOut then .next s
    else
      let s1 := (s.bump TRL_LATE.TIMEOUTS 1).holdTag tag.val { r with timedOut := true }
      .next (s1.deliver r tag.val stTIMEOUT seg.val [] [])

/-- TAG_RELEASE: after a further timeout the tag is freed, and its port may issue again. -/
def execTagRelease (tag : Fin 2048) (s : State) : Host.Outcome State Fault Refusal :=
  match s.tag tag.val with
  | none => .next s
  | some r =>
    if r.timedOut then
      let s1 := s.freeTag tag.val
      .next (match r.ag with | .ctu t => s1.ctuRun t.val | _ => s1)
    else .next s

/- The table swap and router pruning (R371, R372, R375). -/

/-- TRL_SWAP_COMMIT by an agent. -/
def execTrlSwapCommit (ag : Agent) (v : Word) (s : State) : Host.Outcome State Fault Refusal := s.atHub ag (fun t => t.swapWrite ag v.toNat)

/-- Every entry takes its staged port. -/
def State.swapEntries (s : State) : State :=
  (rangeFrom 0 24).foldl (fun t r => (rangeFrom 0 24).foldl (fun u d =>
    u.fset (TRL_RTE.ACTIVE r (nodeOf d)) (u.fget (TRL_RTE.SHADOW r (nodeOf d)))) t) s

/-- The drain of a closed router: the absorbers of its local ports answer what those ports have recorded, the DRAM port's excepted, whose
addresses the alternate set moves (R374, R375). -/
def State.drainPorts (s : State) (r : Nat) : State :=
  (rangeFrom 0 4).foldl (fun t l => if l = 0 ∧ (r % 6 = 0 ∨ r % 6 = 5) then t else t.beginAbsorb (r, l) (fun _ => true)) s

/-- TABLE_SWAP_DONE: every input port has switched; a router whose prune waits for this is closed and drains. -/
def execTableSwapDone (s : State) : Host.Outcome State Fault Refusal :=
  if s.fget TRL_STAT.SWAP ≠ 2 then .next s
  else
    let s1 := (s.swapEntries.fsets [(TRL_DMAP.MAP, s.fget TRL_DMAP_SH.MAP), (TRL_STAT.SWAP, 0)]).event 160
    match s1.closing with
    | some r => .next (({ s1.fset (TRL_RTR.STATE r) 2 with closing := none } : State).drainPorts r)
    | none => .next s1

/-- ROUTER_ISOLATE: the drain of router r ends; the ports that face it absorb for good, and the packets still inside r are lost (R375).  Those
are the packets that left its local ports and have not arrived (log entry 63). -/
def execRouterIsolate (r : Fin 24) (s : State) : Host.Outcome State Fault Refusal :=
  if s.fget (TRL_RTR.STATE r.val) ≠ 2 then .next s
  else
    let s1 := (rangeFrom 0 24).foldl (fun t b => match facing r.val b with
      | some k => t.setFbit (TRL_RTR.ABSP b) k true
      | none => t) s
    let s2 := (s1.net.filter (fun p => routerOf p.src == r.val)).foldl State.unsend s1
    .next (s2.fset (TRL_RTR.STATE r.val) 3)

/- Crossings (R377, R378). -/

/-- The port a packet in the network is going to. -/
def State.goingTo (s : State) (p : Packet) : Option (Nat × Nat) :=
  if p.cmd < 4 then s.targetPort p
  else if p.cmd = cmdEVT then some (s.evtPort (s.fget (EVT_ROUTE.SEAT p.evnum)) p.dest)
  else s.tagPort p.tag

/-- A packet that comes out of local port q: by its tag where it holds one, else by its source's router. -/
def State.cameFrom (s : State) (q : Nat × Nat) (p : Packet) : Bool :=
  if wantsAnswer p then s.tagPort p.tag == some q else routerOf p.src == q.1

/-- The endpoint's side of local port q resets: the packets of `cut`, which the port was partly receiving from it, are discarded whole; packets
queued toward it and the requests it had not answered are absorbed, and the tags of its requests wait for their answers or timeouts (R374, R377,
R378). -/
def State.dropToken (s : State) (q : Nat × Nat) (cut : List Packet) : State :=
  if s.portDown q.1 q.2 then s
  else
    let s0 := (s.setFbit (TRL_RTR.TOKEN q.1) (4 + q.2) false).event 161
    let s1 := (cut.filter (s0.cameFrom q)).foldl State.unsend s0
    let queued := s1.net.filter (fun p => s1.goingTo p == some q)
    let s2 := queued.foldl (fun t p => (t.unsend p).absorbPacket q.1 p) s1
    let s3 := s2.beginAbsorb q (fun _ => true)
    { s3 with tags := s3.tags.map (fun p => if s3.tagPort p.1 = some q then (p.1, { p.2 with orphan := true }) else p) }

/-- LINK_TOKEN_DROP: the endpoint's side of a local port of router r resets. -/
def execLinkTokenDrop (r : Fin 24) (drop : TokenDrop) (s : State) : Host.Outcome State Fault Refusal :=
  .next (s.dropToken (r.val, drop.port.val) drop.cut)

/-- Both tokens of a local port have stayed up for 8 cycles, and traffic resumes. -/
def State.resumeToken (s : State) (q : Nat × Nat) : State := s.setFbit (TRL_RTR.TOKEN q.1) (4 + q.2) true

end Sys2Proof.Machine
end

