-- ==== Sys2Proof/Machine/Seats.lean ====
section
/-!
DEFINITION. Seats (spec/13 R379 to R409, spec/17 R481, R485): commands and their completions, jobs, the SPI, CAN-FD and PCIe ports, and
the watchdog.
-/
namespace Sys2Proof.Machine

open Sys2Proof

/- Commands as bytes. -/

/-- Little-endian field of `n` bytes at byte `o`. -/
def cmdField (b : List Byte) (o n : Nat) : Nat := natOfBytes ((b.drop o).take n)

/-- Bytes `o` to 63 are all 0. -/
def zeroFrom (b : List Byte) (o : Nat) : Bool := (b.drop o).all (fun x => x == 0)

/-- The CRC of R176 over a command with its CRC field taken as 0. -/
def commandCrc (b : List Byte) : Nat := crc32 (b.take 12 ++ [0, 0, 0, 0] ++ b.drop 16)

/-- What a command comes to: status, RESULT, state. -/
abbrev CmdOut := Nat × Nat × State

/-- A refusal with its reason in RESULT[63:56]; nothing changes (R393). -/
def State.no (s : State) (reason : Nat) : CmdOut := (stREFUSED, reason * 2 ^ 56, s)

/-- The first of a command's checks that fails gives its reason; else the command acts. -/
def State.checked (s : State) : List (Bool × Nat) → (State → CmdOut) → CmdOut
  | [], act => act s
  | (bad, reason) :: l, act => if bad then s.no reason else s.checked l act

/-- The segment checks of R381: presence, rights, limit, for `n` bytes from an offset. -/
def State.segBad (s : State) (k seg off n : Nat) (rd wr : Bool) : List (Bool × Nat) :=
  [(s.fget (SEAT_SEG_W1.PRESENT k seg) == 0, 5),
   ((rd && s.fget (SEAT_SEG_W1.RDA k seg) == 0) || (wr && s.fget (SEAT_SEG_W1.WRA k seg) == 0), 6),
   (decide (s.fget (SEAT_SEG_W2.LIMIT k seg) < off + n - 1), 7)]

/-- DRAM has been trained (R481). -/
def State.trained (s : State) : Bool := s.fget DRAM_STAT.TRAIN == 2

/- LAYER_POST (R395). -/

/-- Bytes per pixel of a posted-layer format. -/
def postBytes (fmt : Nat) : Nat := match fmt with | 1 => 4 | 2 => 2 | _ => 1

def State.layerPost (s : State) (k : Nat) (b : List Byte) : CmdOut :=
  let j := cmdField b 4 4
  let off := cmdField b 16 4
  let seg := cmdField b 20 1
  let fmt := cmdField b 21 1
  let flags := cmdField b 22 1
  let w := cmdField b 24 2
  let h := cmdField b 26 2
  let pitch := cmdField b 28 4
  let bpp := postBytes fmt
  let reserved := decide (15 < j) || cmdField b 8 4 != 0 || off % 8 != 0 || decide (15 < seg) || fmt == 0 || decide (3 < fmt) ||
    natBits flags 3 5 != 0 || natBits flags 1 2 == 3 || decide (4096 < w) || decide (4096 < h) || pitch % 64 != 0 ||
    decide (pitch < w * bpp) || !zeroFrom b 36
  s.checked [(reserved, 3), (s.fget (SEAT_LAYER.EN k j) == 0, 4)] (fun s =>
    if w = 0 ∨ h = 0 then (stOK, 0, s)
    else s.checked (s.segBad k seg off (pitch * (h - 1) + w * bpp) true false) (fun s =>
      if !s.trained then (stNOT_READY, 0, s)
      else
        let r := s.seat k
        let ws := (rangeFrom 0 12).map (fun i => BitVec.ofNat 32 (cmdField b (16 + 4 * i) 4))
        (stOK, (s.fget TICK_COUNT.COUNT + 1) % 2 ^ 32, s.setSeat k { r with posts := Sparse.insert r.posts j ws })))

/- STATUS_GET and DIAG_READ (R397, R398). -/

/-- The two registers of a status page; none where there is no such page. -/
def State.statusPage (s : State) (k page : Nat) : Option (Nat × Nat) :=
  if page = 0 then some (SEAT_STAT.reg k, SYS_ID.reg)
  else if page = 1 then some (TICK_COUNT.reg, TICK_STAT.reg)
  else if page < 0x10 then some (GARD_LEDGER.reg (2 * (page - 2)), GARD_LEDGER.reg (2 * (page - 2) + 1))
  else if 0x20 ≤ page ∧ page < 0x30 then some (SEAT_JOB_W0.reg k (page - 0x20), SEAT_JOB_W1.reg k (page - 0x20))
  else if 0x30 ≤ page ∧ page < 0x35 then some (SEAT_EVP.reg k (2 * (page - 0x30)), SEAT_EVP.reg k (2 * (page - 0x30) + 1))
  else if 0x100 ≤ page ∧ page < 0x200 then some (TELL_ST.reg (page - 0x100), TELL_SST.reg (page - 0x100))
  else none

def State.statusGet (s : State) (k : Nat) (b : List Byte) : CmdOut :=
  let page := cmdField b 4 4
  let clr := cmdField b 8 4
  let evp := decide (0x30 ≤ page) && decide (page < 0x35)
  match s.statusPage k page with
  | none => s.no 3
  | some (lo, hi) =>
    s.checked [(decide (1 < clr) || (clr == 1 && !evp) || !zeroFrom b 16, 3),
        (decide (0x100 ≤ page) && s.fget (TELL_DEF_W0.SRC (page - 0x100)) != k, 4)] (fun s =>
      let v := (s.regRead lo).toNat + 2 ^ 32 * (s.regRead hi).toNat
      (stOK, v, if clr = 1 then (s.setReg lo 0).setReg hi 0 else s))

def State.diagRead (s : State) (k : Nat) (b : List Byte) : CmdOut :=
  let off := cmdField b 4 4
  let n := cmdField b 8 4
  s.checked [(decide (0x7FFFFF < off) || off % 4 != 0 || decide (2 < n) || !zeroFrom b 16, 3), (s.fget (SEAT_CFG.DIAG k) == 0, 4)] (fun s =>
    if n = 0 then (stOK, 0, s)
    else if (regGroupAt off).isNone ∨ (n = 2 ∧ (regGroupAt (off + 4)).isNone) then s.no 9
    else (stOK, (s.regRead off).toNat + (if n = 2 then 2 ^ 32 * (s.regRead (off + 4)).toNat else 0), s))

/- BANK_HANDOVER (R399). -/

def State.bankHandover (s : State) (k : Nat) (b : List Byte) : CmdOut :=
  let a0 := cmdField b 4 4
  let owner := cmdField b 8 4
  s.checked [(natBits a0 5 3 != 0 || decide (511 < a0) || decide (9 < owner) || !zeroFrom b 16, 3)] (fun s =>
    let r := s.ownerWrite (.seat (Fin.ofNat 4 k)) (natBits a0 0 5) (owner + 16 * natBits a0 8 1)
    if r.1 = stOK then (stOK, 0, r.2) else (r.1, 9 * 2 ^ 56, r.2))

/- Jobs (R400 to R404). -/

def jobFREE : Nat := 0
def jobQUEUED : Nat := 1
def jobRUNNING : Nat := 2
def jobSUSPENDED : Nat := 3
def jobDONE : Nat := 4
def jobCANCELLED : Nat := 5

def State.jobState (s : State) (k j : Nat) : Nat := s.fget (SEAT_JOB_W0.STATE k j)

/-- A job changes state: EV232 + s (R404). -/
def State.jobTo (s : State) (k j st : Nat) : State := (s.fset (SEAT_JOB_W0.STATE k j) st).event (232 + k)

/-- A job ends with a final status. -/
def State.jobEnd (s : State) (k j st status : Nat) : State :=
  (s.fsets [(SEAT_JOB_W0.STATUS k j, status), (SEAT_JOB_W0.PC k j, 0), (SEAT_JOB_W0.PS k j, 0)]).jobTo k j st

def State.job (s : State) (k j : Nat) : Option JobRec := ((s.seat k).jobs.find? (fun p => p.1 == j)).map Prod.snd

def State.setJob (s : State) (k j : Nat) (r : JobRec) : State :=
  s.setSeat k { s.seat k with jobs := Sparse.insert (s.seat k).jobs j r }

/-- An ASSET_IMPORT can never read its asset: the device stays in early mode (R483). -/
def State.neverImports (s : State) (r : JobRec) : Bool := s.fget LOAD_STAT.STATE == 3 && r.kind == 0

/-- A job becomes QUEUED; in EARLY_ONLY an ASSET_IMPORT ends at once, DONE with NOT_READY (R404, R483). -/
def State.enqueueJob (s : State) (k j : Nat) (r : JobRec) : State :=
  let s1 := s.jobTo k j jobQUEUED
  if s.neverImports r then s1.jobEnd k j jobDONE stNOT_READY else s1

/-- Every QUEUED ASSET_IMPORT of any seat ends DONE with NOT_READY (R483). -/
def State.endImports (s : State) : State :=
  (rangeFrom 0 4).foldl (fun t k => (t.seat k).jobs.foldl (fun u j =>
    if j.2.kind = 0 ∧ u.jobState k j.1 = jobQUEUED then u.jobEnd k j.1 jobDONE stNOT_READY else u) t) s

/-- A job command that passed its checks takes the lowest free slot, or is BUSY (R400). -/
def State.newJob (s : State) (k seq : Nat) (r : JobRec) : CmdOut :=
  match (rangeFrom 0 16).find? (fun j => let st := s.jobState k j; st == jobFREE || st == jobDONE || st == jobCANCELLED) with
  | none => (stBUSY, 0, s)
  | some j =>
    let q := s.seat k
    let s1 := s.setSeat k { q with order := q.order + 1, jobs := Sparse.insert q.jobs j { r with order := q.order } }
    let s2 := s1.fsets [(SEAT_JOB_W0.JSER k j, seq), (SEAT_JOB_W0.STATUS k j, 0), (SEAT_JOB_W0.PC k j, 0), (SEAT_JOB_W0.PS k j, 0),
      (SEAT_JOB_W1.PROG k j, 0)]
    (stOK, j + 16 + 2 ^ 16 * seq, s2.enqueueJob k j r)

/-- A job command after its grant: the zero rule, the destination's checks, training, the slot. -/
def State.jobChecked (s : State) (k seq : Nat) (r : JobRec) : CmdOut :=
  if r.len = 0 then (stOK, 2 ^ 16 * seq, s)
  else s.checked (s.segBad k r.seg r.off r.len false true) (fun s =>
    if !s.trained then (stNOT_READY, 0, s) else s.newJob k seq r)

def State.assetImport (s : State) (k seq : Nat) (b : List Byte) : CmdOut :=
  let a := cmdField b 4 4
  let seg := cmdField b 8 4
  let asset := s.plan.assets[a]?
  let granted := match asset with | some x => natBit x.seats.toNat k | none => false
  s.checked [(decide (15 < seg) || !zeroFrom b 20, 3), (!granted, 4)] (fun s =>
    s.jobChecked k seq { kind := 0, seg := seg, off := cmdField b 16 4, len := (match asset with | some x => x.size | none => 0),
                         src := a, pat := 0, order := 0 })

/-- The bytes an EXPORT of a source copies: a pipe's front buffers, or a context's latched slot. -/
def State.exportLen (s : State) (src : Nat) : Nat :=
  if src < 6 then 256 * s.fget (DSP_FBP.PITCH src) * s.fget (DSP_VTIM.ACTIVE src)
  else
    let x := src - 16
    s.camPitch (x / 2) (x % 2) * s.fget (CAM_CTX_SIZE.HEIGHT (x / 2) (x % 2))

def State.exportCmd (s : State) (k seq : Nat) (b : List Byte) : CmdOut :=
  let seg := cmdField b 4 4
  let src := cmdField b 8 4
  let valid := decide (src < 6) || (decide (16 ≤ src) && decide (src < 32))
  let granted := if src < 6 then s.fbit (SEAT_EXP.PIPES k) src else s.fbit (SEAT_EXP.CTXS k) (src - 16)
  s.checked [(decide (15 < seg) || !valid || !zeroFrom b 20, 3), (!granted, 4)] (fun s =>
    s.jobChecked k seq { kind := 1, seg := seg, off := cmdField b 16 4, len := s.exportLen src, src := src, pat := 0, order := 0 })

def State.dramFill (s : State) (k seq : Nat) (b : List Byte) : CmdOut :=
  let seg := cmdField b 4 4
  let off := cmdField b 16 4
  let len := cmdField b 20 4
  s.checked [(decide (15 < seg) || cmdField b 8 4 != 0 || off % 8 != 0 || len % 8 != 0 || !zeroFrom b 32, 3)] (fun s =>
    s.jobChecked k seq { kind := 2, seg := seg, off := off, len := len, src := 0, pat := cmdField b 24 8, order := 0 })

/-- JOB_SUSPEND of a job under R403. -/
def State.jobSuspend (s : State) (k j : Nat) : CmdOut :=
  match s.jobState k j with
  | 1 => (stOK, 0, s.jobTo k j jobSUSPENDED)
  | 2 => if s.fget (SEAT_JOB_W0.PC k j) = 1 then (stCANCELLED, 0, s) else (stOK, 0, s.fset (SEAT_JOB_W0.PS k j) 1)
  | 3 => (stSUSPENDED, 0, s)
  | 5 => (stCANCELLED, 0, s)
  | _ => s.no 8

/-- JOB_RESUME. -/
def State.jobResume (s : State) (k j : Nat) : CmdOut :=
  match s.jobState k j with
  | 1 => (stOK, 0, s)
  | 2 => if s.fget (SEAT_JOB_W0.PC k j) = 1 then s.no 8 else (stOK, 0, s.fset (SEAT_JOB_W0.PS k j) 0)
  | 3 => (stOK, 0, match s.job k j with | some r => s.enqueueJob k j r | none => s.jobTo k j jobQUEUED)
  | _ => s.no 8

/-- JOB_CANCEL. -/
def State.jobCancel (s : State) (k j : Nat) : CmdOut :=
  match s.jobState k j with
  | 1 => (stOK, 0, s.jobEnd k j jobCANCELLED stCANCELLED)
  | 2 => if s.fget (SEAT_JOB_W0.PC k j) = 1 then (stCANCELLED, 0, s) else (stOK, 0, s.fset (SEAT_JOB_W0.PC k j) 1)
  | 3 => (stOK, 0, s.jobEnd k j jobCANCELLED stCANCELLED)
  | 5 => (stCANCELLED, 0, s)
  | _ => s.no 8

/-- A job control command: the slot must hold a job with the reference's JSER. -/
def State.jobControl (s : State) (k : Nat) (b : List Byte) (act : State → Nat → Nat → CmdOut) : CmdOut :=
  let a0 := cmdField b 4 4
  let j := natBits a0 0 4
  s.checked [(natBits a0 5 11 != 0 || cmdField b 8 4 != 0 || !zeroFrom b 16, 3),
      (s.jobState k j == jobFREE || s.fget (SEAT_JOB_W0.JSER k j) != natBits a0 16 16, 8)] (fun s => act s k j)

/- Taking a command (R392, R393). -/

/-- TELLTALE_SET as a command: its ARGs are 0, and a refusal carries reason 3. -/
def State.tellCommand (s : State) (k : Nat) (b : List Byte) : CmdOut :=
  s.checked [(cmdField b 4 8 != 0, 3)] (fun s =>
    let r := s.tellSet k ((rangeFrom 0 12).map (fun i => BitVec.ofNat 32 (cmdField b (16 + 4 * i) 4)))
    if r.1 = stOK then r else (r.1, 3 * 2 ^ 56, r.2.2))

/-- The opcodes of R394. -/
def cmdDefined (opc : Nat) : Bool := [1, 2, 3, 4, 5, 0x10, 0x11, 0x12, 0x18, 0x19, 0x1A].contains opc

/-- A command of seat k handled: status, RESULT, state (R393, R394). -/
def State.command (s : State) (k : Nat) (b : List Byte) : CmdOut :=
  let opc := cmdField b 2 1
  let seq := cmdField b 0 2
  if 3 ≤ s.fget (SEAT_CFG.CMDP k) ∧ cmdField b 12 4 ≠ commandCrc b then ((s.bump (SEAT_STAT.CRCERR k) 1).event (240 + k)).no 1
  else s.checked [(!cmdDefined opc, 2), (cmdField b 3 1 != 0, 3)] (fun s =>
    match opc with
    | 0x01 => s.layerPost k b
    | 0x02 => s.tellCommand k b
    | 0x03 => s.statusGet k b
    | 0x04 => s.diagRead k b
    | 0x05 => s.bankHandover k b
    | 0x10 => s.assetImport k seq b
    | 0x11 => s.exportCmd k seq b
    | 0x12 => s.dramFill k seq b
    | 0x18 => s.jobControl k b State.jobSuspend
    | 0x19 => s.jobControl k b State.jobResume
    | _ => s.jobControl k b State.jobCancel)

/-- The 16 bytes of a completion. -/
def completionBytes (seq opc status result : Nat) : List Byte :=
  let b := bytesOfNat 2 seq ++ bytesOfNat 1 opc ++ bytesOfNat 1 status ++ bytesOfNat 8 result
  b ++ bytesOfNat 4 (crc32 b)

/-- A completion is posted: CMP PI advances, with MSI-X vector 0 on PCIe (R405). -/
def State.complete (s : State) (k seq opc status result : Nat) : State :=
  let pi := s.fget (SEAT_CMPIDX.PI k)
  let s1 := (s.putBytes (SEAT_CMPRING.reg k (pi % 64) 0) (completionBytes seq opc status result)).fset (SEAT_CMPIDX.PI k) (pi + 1)
  if s.pcieSeat k then s1.msix k 0 else s1

/-- COMMAND_TAKE: the next command of seat k, while one is available, a completion slot is free and no warm restart runs (R392, R426); none in
SAFE HOLD, where the seats do not start (R475). -/
def execCommandTake (k : Fin 4) (s : State) : Host.Outcome State Fault Refusal :=
  let k := k.val
  if s.safeHold ∨ s.fget (SEAT_CFG.EN k) = 0 ∨ s.waiting k = 0 ∨ 64 ≤ ringCount (s.fget (SEAT_CMPIDX.PI k)) (s.fget (SEAT_CMPIDX.CI k)) ∨
      s.fget GARD_STAT.STATE = 1 then .next s
  else
    let ci := s.fget (SEAT_CMDIDX.CI k)
    let b := s.getBytes (SEAT_CMDRING.reg k (ci % 64) 0) 16
    let r := (s.fset (SEAT_CMDIDX.CI k) (ci + 1)).command k b
    .next (r.2.2.complete k (cmdField b 0 2) (cmdField b 2 1) r.1 r.2.1)

/- Job steps (R401, R402). -/

/-- The most bytes a step of a job moves. -/
def State.stepSize (s : State) (k : Nat) (r : JobRec) : Nat :=
  let n := (s.fget (SEAT_CFG.STEP k) + 1) * 65536
  if r.kind = 0 then min n 524288 else n

/-- The source address of byte `pos` of an EXPORT; none where the band's front buffer is still an early one. -/
def State.exportAddr (s : State) (src pos : Nat) : Option Nat :=
  if src < 6 then
    let y := pos / (256 * s.fget (DSP_FBP.PITCH src))
    let code := Sparse.get 4 (s.pipe src).front (y / 64)
    if 4 ≤ code then none else some (4096 * s.fget (DSP_FB.BASE src code) + pos)
  else
    let x := src - 16
    some (s.slotBase (x / 2) (x % 2) (s.fget (CAM_CTX_LATCH.SLOT (x / 2) (x % 2))) + pos)

/-- Whose port an EXPORT reads through: its pipe's or its camera port's. -/
def jobReader (r : JobRec) : Agent := if r.src < 6 then .pipe (Fin.ofNat 6 r.src) else .camera (Fin.ofNat 8 ((r.src - 16) / 2))

/-- The bytes of a job's source from `pos` on, at most 8: status and value.  ASSET_IMPORT's come from the flash. -/
def State.jobSource (s : State) (k : Nat) (r : JobRec) (data : List Byte) (base pos n : Nat) : Nat × Nat × State :=
  match r.kind with
  | 0 => (stOK, natOfBytes ((data.drop (pos - base)).take n), s)
  | 1 => match s.exportAddr r.src pos with
    | some a => s.pathRead (jobReader r) a n
    | none => (stNOT_READY, 0, s)
  | _ => (stOK, natBits (r.pat + 2 ^ 64 * r.pat) (8 * (pos % 8)) (8 * n), s)

/-- Bytes from `pos` to the end of its line in the source, where a pipe's front buffer may change. -/
def State.toLineEnd (s : State) (r : JobRec) (pos : Nat) : Nat :=
  let p := 256 * s.fget (DSP_FBP.PITCH r.src)
  if r.kind = 1 ∧ r.src < 6 ∧ p ≠ 0 then p - pos % p else 8

/-- Moves `n` bytes from `pos` on, a destination word at a time; the first status other than OK is returned.  A word read as UE is written
poisoned. -/
def State.moveBytes (s : State) (k : Nat) (r : JobRec) (data : List Byte) (base : Nat) : Nat → Nat → Nat → Nat → Nat × State
  | 0, _, _, st => (st, s)
  | fuel + 1, pos, n, st =>
    if n = 0 then (st, s)
    else
      let a := s.segAddr k r.seg (r.off + pos)
      let m := min n (min (8 - a % 8) (s.toLineEnd r pos))
      let q := s.jobSource k r data base pos m
      let w := if q.1 = stOK ∨ q.1 = stPOISON then q.2.2.pathWrite (.seat (Fin.ofNat 4 k)) a m q.2.1 else (q.1, q.2.2)
      let t := if q.1 = stPOISON ∧ w.1 = stOK then w.2.poisonWord a else w.2
      let e := if q.1 ≠ stOK then q.1 else w.1
      t.moveBytes k r data base fuel (pos + m) (n - m) (if st = stOK then e else st)

/-- An ASSET_IMPORT that has read its whole asset compares the SHA-384 of the bytes with the asset table's (R402). -/
def State.assetBad (s : State) (r : JobRec) (bytes : List Byte) : Bool :=
  match s.plan.assets[r.src]? with
  | some x => sha384 bytes != x.hash
  | none => true

/-- A step of a job waits while a port it issues requests from has no free tag (R360). -/
def State.jobTagless (s : State) (k : Nat) (r : JobRec) : Bool :=
  s.tagless (.seat (Fin.ofNat 4 k)) || (r.kind == 1 && s.tagless (jobReader r))

/-- JOB_STEP_DONE: the step of seat k's RUNNING job ends; `data` is what an ASSET_IMPORT read from the flash, of which a step takes as many
bytes as it moves, and `flash` the status of that reading, with any but OK of which the step moves nothing (log entry 82). -/
def execJobStepDone (k : Fin 4) (data : List Byte) (flash : Fin 11) (s : State) : Host.Outcome State Fault Refusal :=
  let k := k.val
  match (rangeFrom 0 16).find? (fun j => s.jobState k j == jobRUNNING) with
  | none => .next s
  | some j =>
    match s.job k j with
    | none => .next s
    | some r =>
      if r.ended ∨ s.safeHold ∨ s.jobTagless k r then .next s
      else
        let prog := s.fget (SEAT_JOB_W1.PROG k j)
        let n := min (s.stepSize k r) (r.len - prog)
        let bytes := if r.kind = 0 then (data ++ List.replicate n 0).take n else []
        let m := if r.kind = 0 ∧ flash.val ≠ stOK then (flash.val, s) else s.moveBytes k r bytes prog n prog n stOK
        let fail := if m.1 = stOK ∧ r.kind = 0 ∧ prog + n = r.len ∧ s.assetBad r (r.read ++ bytes) then stPOISON else m.1
        let s1 := m.2.setJob k j { r with fail := fail, ended := true, read := r.read ++ bytes }
        .next (if m.1 = stOK then s1.fset (SEAT_JOB_W1.PROG k j) (prog + n) else s1)

/-- JOB_EDGE_UPDATE for the RUNNING job of a seat (R403). -/
def State.jobRunningEdge (s : State) (k j : Nat) (r : JobRec) : State :=
  if !r.ended then s
  else if r.fail ≠ stOK ∨ s.fget (SEAT_JOB_W1.PROG k j) = r.len then s.jobEnd k j jobDONE r.fail
  else if s.fget (SEAT_JOB_W0.PC k j) = 1 then s.jobEnd k j jobCANCELLED stCANCELLED
  else if s.fget (SEAT_JOB_W0.PS k j) = 1 then (s.fset (SEAT_JOB_W0.PS k j) 0).jobTo k j jobSUSPENDED
  else s.setJob k j { r with ended := false }

/-- The QUEUED job of a seat accepted earliest; an ASSET_IMPORT waits for the main read (R401). -/
def State.nextJob (s : State) (k : Nat) : Option (Nat × JobRec) :=
  ((s.seat k).jobs.filter (fun p => s.jobState k p.1 == jobQUEUED && (p.2.kind != 0 || s.mainRead))).foldl (fun best p =>
    match best with
    | some b => if p.2.order < b.2.order then some p else some b
    | none => some p) none

/-- The jobs of a seat at a tick edge. -/
def State.jobsEdge (s : State) (k : Nat) : State :=
  let s1 := match (rangeFrom 0 16).find? (fun j => s.jobState k j == jobRUNNING) with
    | some j => match s.job k j with | some r => s.jobRunningEdge k j r | none => s
    | none => s
  if (rangeFrom 0 16).any (fun j => s1.jobState k j == jobRUNNING) then s1
  else match s1.nextJob k with
    | some (j, r) => (s1.setJob k j { r with ended := false }).jobTo k j jobRUNNING
    | none => s1

/-- A warm restart ends every job that has not ended (R404). -/
def State.cancelJobs (s : State) : State :=
  (rangeFrom 0 4).foldl (fun t k => (rangeFrom 0 16).foldl (fun u j =>
    if [jobQUEUED, jobRUNNING, jobSUSPENDED].contains (u.jobState k j) then u.jobEnd k j jobCANCELLED stNOT_READY else u) t) s

/- SPI targets (R387, R388). -/

/-- The seat bound to SP0 or SP1; none in SAFE HOLD (R475). -/
def State.spiSeat (s : State) (p : Nat) : Option Nat :=
  if s.safeHold then none else (rangeFrom 0 4).find? (fun k => s.fget (SEAT_CFG.EN k) == 1 && s.fget (SEAT_CFG.CMDP k) == 3 + p)

/-- A command enters the ring at the producer index, or is dropped when 64 wait. -/
def State.enterCommand (s : State) (k : Nat) (bytes : List Byte) : State :=
  if 64 ≤ s.waiting k then s.bump (SEAT_STAT.DROPS k) 1
  else
    let pi := s.fget (SEAT_CMDIDX.PI k)
    (s.putBytes (SEAT_CMDRING.reg k (pi % 64) 0) bytes).advancePI k (pi + 1)

/-- WRITE_CMD on SPp; a frame of another byte count is discarded with EV247 or EV248 (R388). -/
def execWriteCmd (p : Fin 2) (bytes : List Byte) (s : State) : Host.Outcome State Fault Refusal :=
  match s.spiSeat p.val with
  | some k => .next (if bytes.length = 64 then s.enterCommand k bytes else s.event (247 + p.val))
  | none => .next s

/-- The oldest entry of a ring goes out and is consumed; an empty ring gives 16 bytes of 0xFF. -/
def State.readRing (s : State) (p : Nat) (ring : Nat → Nat) (pi ci : Fld) (closed : Bool) : State :=
  if closed ∨ ringCount (s.fget pi) (s.fget ci) = 0 then s.emit (.spi p (List.replicate 16 0xFF))
  else (s.fset ci (s.fget ci + 1)).emit (.spi p (s.getBytes (ring (s.fget ci % 64)) 4))

/-- READ_CMP. -/
def execReadCmp (p : Fin 2) (s : State) : Host.Outcome State Fault Refusal :=
  match s.spiSeat p.val with
  | some k => .next (s.readRing p.val (fun i => SEAT_CMPRING.reg k i 0) (SEAT_CMPIDX.PI k) (SEAT_CMPIDX.CI k) false)
  | none => .next s

/-- READ_NTC: no notice while a notice port is bound (R408). -/
def execReadNtc (p : Fin 2) (s : State) : Host.Outcome State Fault Refusal :=
  match s.spiSeat p.val with
  | some k => .next (s.readRing p.val (fun i => SEAT_NTCRING.reg k i 0) (SEAT_NTCIDX.PI k) (SEAT_NTCIDX.CI k) (s.fget (SEAT_CFG.NTCP k) != 0))
  | none => .next s

/-- READ_STATE. -/
def execReadState (p : Fin 2) (s : State) : Host.Outcome State Fault Refusal :=
  match s.spiSeat p.val with
  | some k => .next (s.emit (.spi p.val (([s.fget (SEAT_CMDIDX.PI k), s.fget (SEAT_CMDIDX.CI k), s.fget (SEAT_CMPIDX.PI k),
      s.fget (SEAT_CMPIDX.CI k), s.fget (SEAT_NTCIDX.PI k), s.fget (SEAT_NTCIDX.CI k)].map (BitVec.ofNat 8)) ++
      bytesOfNat 2 (s.reg (SEAT_STAT.reg k)).toNat)))
  | none => .next s

/-- SPI_FRAME_ERROR. -/
def execSpiFrameError (p : Fin 2) (s : State) : Host.Outcome State Fault Refusal :=
  match s.spiSeat p.val with
  | some _ => .next (s.event (247 + p.val))
  | none => .next s

/- CAN-FD controllers (R389, R390).  `canBad` holds two bits for each: 0 error active, 1 error passive, 2 bus off. -/

def State.canState (s : State) (c : Nat) : Nat := natBits s.canBad (2 * c) 2

/-- Seat k is enabled, and not kept from starting by SAFE HOLD (R379, R475). -/
def State.seatOn (s : State) (k : Nat) : Bool := s.fget (SEAT_CFG.EN k) == 1 && !s.safeHold

/-- CAN_COMMAND_FRAME: an FD frame received on controller c with its identifier. -/
def execCanCommandFrame (c : Fin 4) (ide : Bool) (id : BitVec 29) (bytes : List Byte) (s : State) : Host.Outcome State Fault Refusal :=
  match (rangeFrom 0 4).find? (fun k => s.seatOn k && s.fget (SEAT_CFG.CMDP k) == 5 + c.val) with
  | none => .next s
  | some k =>
    if s.canState c.val = 2 ∨ s.fget (SEAT_CMDID.IDE k) ≠ b2n ide ∨ s.fget (SEAT_CMDID.ID k) ≠ id.toNat then .next s
    else if bytes.length ≠ 64 then .next (s.bump (SEAT_STAT.DROPS k) 1)
    else .next (s.enterCommand k bytes)

/-- The oldest entry of a ring goes out as a CAN-FD frame, with the identifier of the given fields, 11 or 29 bits, and is consumed (R389). -/
def State.canSend (s : State) (c : Nat) (ide id : Fld) (ring : Nat) (ci : Fld) : State :=
  (s.fset ci (s.fget ci + 1)).emit (.can c (s.fget ide == 1) (s.fget id) (s.getBytes ring 4))

/-- CAN_TRANSMIT_DONE: the controller has sent the oldest notice it carries, or else the oldest completion. -/
def execCanTransmitDone (c : Fin 4) (s : State) : Host.Outcome State Fault Refusal :=
  let unread (pi ci : Fld) : Bool := ringCount (s.fget pi) (s.fget ci) != 0
  if s.canState c.val ≠ 0 then .next s
  else match (rangeFrom 0 4).find? (fun k => s.seatOn k && s.noticeCan k == some c.val && unread (SEAT_NTCIDX.PI k) (SEAT_NTCIDX.CI k)) with
    | some k => .next (s.canSend c.val (SEAT_NTCID.IDE k) (SEAT_NTCID.ID k) (SEAT_NTCRING.reg k (s.fget (SEAT_NTCIDX.CI k) % 64) 0) (SEAT_NTCIDX.CI k))
    | none => match (rangeFrom 0 4).find? (fun k => s.seatOn k && s.fget (SEAT_CFG.CMDP k) == 5 + c.val &&
          unread (SEAT_CMPIDX.PI k) (SEAT_CMPIDX.CI k)) with
      | some k => .next (s.canSend c.val (SEAT_CMPID.IDE k) (SEAT_CMPID.ID k) (SEAT_CMPRING.reg k (s.fget (SEAT_CMPIDX.CI k) % 64) 0) (SEAT_CMPIDX.CI k))
      | none => .next s

/-- A controller that serves an enabled seat; any other stays in reset (R379). -/
def State.canBound (s : State) (c : Nat) : Bool :=
  (rangeFrom 0 4).any (fun k => s.seatOn k && (s.fget (SEAT_CFG.CMDP k) == 5 + c || s.fget (SEAT_CFG.NTCP k) == 1 + c))

/-- Seat k's ports as controller c goes bus off, or returns (R406): a command port is down meanwhile; a notice port that goes down raises the
event alone, since PORTUP shows the command port. -/
def State.canPort (s : State) (c : Nat) (off : Bool) (k : Nat) : State :=
  if s.fget (SEAT_CFG.EN k) = 0 then s
  else if s.fget (SEAT_CFG.CMDP k) = 5 + c then
    if off then (if s.fget (SEAT_STAT.PORTUP k) = 1 then (s.fset (SEAT_STAT.PORTUP k) 0).event (236 + k) else s)
    else s.fset (SEAT_STAT.PORTUP k) 1
  else if off ∧ s.fget (SEAT_CFG.NTCP k) = 1 + c then s.event (236 + k)
  else s

/-- CAN_ERROR_STATE: becoming error passive or bus off raises EV249 + c; going bus off brings the ports it serves down, and leaving it
brings them back (R390, R406). -/
def execCanErrorState (c : Fin 4) (st : Fin 3) (s : State) : Host.Outcome State Fault Refusal :=
  if !s.canBound c.val ∨ st.val = s.canState c.val then .next s else
  let s1 := { s with canBad := s.canBad - s.canState c.val * 4 ^ c.val + st.val * 4 ^ c.val }
  let s2 := if st.val ≠ 0 then s1.event (249 + c.val) else s1
  .next (if st.val = 2 then (rangeFrom 0 4).foldl (fun t k => t.canPort c.val true k) s2
    else if s.canState c.val = 2 then (rangeFrom 0 4).foldl (fun t k => t.canPort c.val false k) s2 else s2)

/- TELLTALE_SET as a seat sends it (R305, R391 to R394). -/

/-- The 64 bytes of a TELLTALE_SET: SEQ, OPC 0x02, ARGs 0, the CRC of the other bytes, and the twelve entries. -/
def tellSetBytes (seq : BitVec 16) (entries : Vector Word 12) : List Byte :=
  let b := bytesOfNat 2 seq.toNat ++ [2, 0] ++ List.replicate 12 0 ++ entries.toList.flatMap (fun w => bytesOfNat 4 w.toNat)
  b.take 12 ++ bytesOfNat 4 (commandCrc b) ++ b.drop 16

/-- The port of seat k takes a command now. -/
def State.portTakes (s : State) (k : Nat) : Bool :=
  s.seatOn k &&
    (if s.fget (SEAT_CFG.CMDP k) < 3 then s.bar0Open k else if s.fget (SEAT_CFG.CMDP k) < 5 then true
     else s.canState (s.fget (SEAT_CFG.CMDP k) - 5) != 2)

/-- A command is sent through the seat's port: an SPI or CAN-FD port drops it when 64 wait, and a PCIe host's doorbell is then refused (R388,
R390, R391). -/
def State.sendCommand (s : State) (k : Nat) (bytes : List Byte) : State :=
  if !s.portTakes k then s
  else if s.pcieSeat k ∧ 64 ≤ s.waiting k then (s.doorbell k ((s.fget (SEAT_CMDIDX.PI k) + 1) % 256)).2
  else s.enterCommand k bytes

/-- TELLTALE_SET: a seat sends it; the device applies it, with its completion, once it takes the command, which is at once when none waits
ahead of it and a completion slot is free (R301, R305, R392). -/
def execTelltaleSet (k : Fin 4) (cmd : TellCmd) (s : State) : Host.Outcome State Fault Refusal :=
  let s1 := s.sendCommand k.val (tellSetBytes cmd.seq cmd.entries)
  if s.waiting k.val = 0 ∧ s1.waiting k.val = 1 then execCommandTake k s1 else .next s1

/- Ports up and down (R405 to R407). -/

/-- The function of seat k's PCIe port replaced. -/
def State.setFn (s : State) (k : Nat) (f : PcieFn) : State := { s with pcie := Sparse.set {} s.pcie (s.fget (SEAT_CFG.CMDP k)) f }

/-- The command port of seat k is up no more: EV236 + s (R406). -/
def State.portFalls (s : State) (k : Nat) : State :=
  if s.fget (SEAT_STAT.PORTUP k) = 1 then (s.fset (SEAT_STAT.PORTUP k) 0).event (236 + k) else s

/-- HOST_PORT_DOWN of seat k's command port: a PCIe link goes down, with EV244 + p for PXp, the function back in D0 and the crossing of the port
reset (R378), or a CAN-FD controller
goes bus off (R236, R406); an SPI port never goes down. -/
def execHostPortDown (k : Fin 4) (s : State) : Host.Outcome State Fault Refusal :=
  let k := k.val
  let p := s.fget (SEAT_CFG.CMDP k)
  if s.fget (SEAT_CFG.EN k) = 0 then .next s
  else if p < 3 then
    if s.fget (SEAT_STAT.PORTUP k) = 1 ∨ (s.pcieFn k).d3hot then
      .next ((((s.portFalls k).setFn k { s.pcieFn k with d3hot := false }).event (244 + p)).dropToken (hostPort p) [])
    else .next s
  else if p < 5 then .next s
  else .next (s.portFalls k)

/-- Every interrupt of seat k whose condition holds is delivered once over PCIe (R405, R406). -/
def State.redeliver (s : State) (k : Nat) : State :=
  let s1 := if ringCount (s.fget (SEAT_CMPIDX.PI k)) (s.fget (SEAT_CMPIDX.CI k)) ≠ 0 then s.msix k 0 else s
  let s2 := if ringCount (s1.fget (SEAT_NTCIDX.PI k)) (s1.fget (SEAT_NTCIDX.CI k)) ≠ 0 ∧ s1.fget (SEAT_CFG.NTCP k) = 0 then s1.msix k 1 else s1
  (s2.armedEvents k).foldl (fun t e => t.msix k (natBits (t.reg (SEAT_EVVEC.reg k (e / 4))).toNat (8 * (e % 4)) 6)) s2

/-- The endpoint of PXp has left Detect: its reset input is deasserted, and the reset is released (R485). -/
def State.pxUp (s : State) (p : Nat) : Bool := natBit s.pxActive p && s.inReset == 0

/-- HOST_PORT_UP: a PCIe link comes up, with EV244 + p, or a controller is no longer bus off; every interrupt whose condition holds is delivered
once.  An endpoint in D3hot returns with D0 alone (R384); one in Detect has no link (R485), and in SAFE HOLD no seat starts (R475). -/
def execHostPortUp (k : Fin 4) (s : State) : Host.Outcome State Fault Refusal :=
  let k := k.val
  let p := s.fget (SEAT_CFG.CMDP k)
  if s.seatOn k = false ∨ s.fget (SEAT_STAT.PORTUP k) = 1 then .next s
  else if s.pcieSeat k then
    if (s.pcieFn k).d3hot ∨ !s.pxUp p then .next s
    else .next (((((s.resumeToken (hostPort p)).fset (SEAT_STAT.PORTUP k) 1)).event (244 + p)).redeliver k)
  else if 5 ≤ p ∧ s.canState (p - 5) = 2 then .next s
  else .next (s.fset (SEAT_STAT.PORTUP k) 1)

/-- LINK_TOKEN_RESUME: traffic resumes at local port l of router r; a PCIe seat whose port returns is delivered what its conditions ask
(R378, R406). -/
def execLinkTokenResume (r : Fin 24) (l : Fin 4) (s : State) : Host.Outcome State Fault Refusal :=
  let q := (r.val, l.val)
  let s1 := s.resumeToken q
  .next (if s.portDown q.1 q.2 then ((rangeFrom 0 4).filter (fun k => s.pcieSeat k && s.seatPort k == q && s.fget (SEAT_STAT.PORTUP k) == 1)).foldl State.redeliver s1
    else s1)

/-- SEAT_WATCHDOG_EXPIRY: no command for WDOG × 10 ms; once until the next command. -/
def execSeatWatchdogExpiry (k : Fin 4) (s : State) : Host.Outcome State Fault Refusal :=
  if s.seatOn k.val = false ∨ s.fget (SEAT_CFG.WDOG k.val) = 0 ∨ (s.seat k.val).wdog then .next s
  else .next ((s.setSeat k.val { s.seat k.val with wdog := true }).event (253 + k.val))

/- PCIe endpoints (R384, R385, R475, R485). -/

/-- PCIE_PERST_RELEASE: PXp_PERST_N is deasserted; the endpoint leaves Detect then, or at the release of a reset that still runs (R485). -/
def execPciePerstRelease (p : Fin 3) (s : State) : Host.Outcome State Fault Refusal :=
  .next { s with pxActive := setNatBit s.pxActive p.val true }

/-- The seat bound to PXp. -/
def State.pxSeat (s : State) (p : Nat) : Option Nat := (rangeFrom 0 4).find? (fun k => s.pcieSeat k && s.fget (SEAT_CFG.CMDP k) == p)

/-- A configuration write of the power state: D3hot brings the port down; on the return to D0 what is due is delivered again (R384, R406). -/
def State.pciePower (s : State) (k : Nat) (d3hot : Bool) : State :=
  let f := s.pcieFn k
  if f.d3hot = d3hot then s
  else if d3hot then (s.portFalls k).setFn k { f with d3hot := true }
  else ((s.setFn k { f with d3hot := false }).fset (SEAT_STAT.PORTUP k) 1).redeliver k

/-- A configuration write of MSI-X enable and the function mask: vectors left pending are sent once nothing masks them (R383, R405). -/
def State.pcieMsix (s : State) (k : Nat) (enable mask : Bool) : State :=
  (rangeFrom 0 64).foldl (fun t v => t.msixPending k v) (s.setFn k { s.pcieFn k with msixOn := enable, masked := mask })

/-- A configuration write of the Command register: memory requests are taken with `mem`, and MSI-X writes made with `bus` alone. -/
def State.pcieMaster (s : State) (k : Nat) (mem bus : Bool) : State :=
  (rangeFrom 0 64).foldl (fun t v => t.msixPending k v) (s.setFn k { s.pcieFn k with memOn := mem, busOn := bus })

/-- The size of base address register i: BAR0 is 64 KiB, BAR2 with BAR3 2^APSZ bytes; the others are not there (R383). -/
def State.barBits (s : State) (k : Nat) (i : Fin 6) : Nat :=
  if i = 0 then 16 else if i = 2 ∨ i = 3 then s.fget (SEAT_AP.APSZ k) else 0

/-- A base address register as it reads: the address bits that its size leaves, with the type bits of 32-bit memory (BAR0) or of 64-bit
prefetchable memory (BAR2). -/
def State.barRead (s : State) (k : Nat) (i : Fin 6) : Word :=
  let f := s.pcieFn k
  match i with
  | 0 => BitVec.ofNat 32 f.bar0
  | 2 => BitVec.ofNat 32 (natBits f.bar2 0 32 + 12)
  | 3 => BitVec.ofNat 32 (natBits f.bar2 32 32)
  | _ => 0

/-- A write of a base address register: the bits below its size stay 0. -/
def State.barWrite (s : State) (k : Nat) (i : Fin 6) (v : Word) : State :=
  let f := s.pcieFn k
  let keep (x : Nat) : Nat := x / 2 ^ s.barBits k i * 2 ^ s.barBits k i
  match i with
  | 0 => s.setFn k { f with bar0 := keep v.toNat }
  | 2 => s.setFn k { f with bar2 := keep (v.toNat + 2 ^ 32 * (f.bar2 / 2 ^ 32)) }
  | 3 => s.setFn k { f with bar2 := keep (f.bar2 % 2 ^ 32 + 2 ^ 32 * v.toNat) }
  | _ => s

/-- A read of the function's configuration space by the registers of the PCI Express Base Specification (R383). -/
def State.cfgRead (s : State) (p k : Nat) : CfgItem → Word
  | .identity i => s.plan.pcieIds.getD (3 * p + i.val) 0
  | .command => BitVec.ofNat 32 (2 * b2n (s.pcieFn k).memOn + 4 * b2n (s.pcieFn k).busOn)
  | .bar i => s.barRead k i
  | .powerId => 0x01
  | .powerState => BitVec.ofNat 32 (8 + (if (s.pcieFn k).d3hot then 3 else 0))
  | .msixId => 0x11
  | .msixControl => BitVec.ofNat 32 (63 + 2 ^ 14 * b2n (s.pcieFn k).masked + 2 ^ 15 * b2n (s.pcieFn k).msixOn)
  | .msixTable => 0x4000
  | .msixPba => 0x5000
  | .expressId => 0x10
  | .deviceCaps => 1
  | .linkCaps => 0x44
  | .aerId => 0x0001
  | .other => 0

/-- What the function answers and does once the image has configured it (R383, R384). -/
def State.pcieConfig (s : State) (p k : Nat) : CfgAsk → State
  | .read x => s.emit (.pcieCfg p 1 (s.cfgRead p k x))
  | .power d3hot => (s.pciePower k d3hot).emit (.pcieCfg p 1 0)
  | .msix enable mask => (s.pcieMsix k enable mask).emit (.pcieCfg p 1 0)
  | .command mem bus => (s.pcieMaster k mem bus).emit (.pcieCfg p 1 0)
  | .bar i v => (s.barWrite k i v).emit (.pcieCfg p 1 0)
  | .other => s.emit (.pcieCfg p 1 0)

/-- PCIE_CONFIG_REQUEST: answer 0 is retry status, 1 the image's answer, 2 Unsupported Request; nothing answers while the endpoint is in Detect
or in reset (R485, R497), and a port bound to no seat stays in reset once the image binds the ports (R379). -/
def execPcieConfigRequest (req : CfgReq) (s : State) : Host.Outcome State Fault Refusal :=
  let p := req.port
  let st := s.fget LOAD_STAT.STATE
  if !s.pxUp p.val then .next s
  else if st = 0 then .next (s.emit (.pcieCfg p.val 0 0))
  else if st = 4 then .next (s.emit (.pcieCfg p.val 2 0))
  else match s.pxSeat p.val with
    | some k => .next (s.pcieConfig p.val k req.ask)
    | none => .next s

/-- The segment that holds every byte of an aperture access, with the offset in it. -/
def State.apertureSeg (s : State) (k o n : Nat) : Option (Nat × Nat) :=
  ((rangeFrom 0 16).find? (fun g =>
    let a := 65536 * s.fget (SEAT_SEG_W3.APOFF k g)
    s.fget (SEAT_SEG_W1.PRESENT k g) == 1 && decide (a ≤ o) && decide (o + n - 1 ≤ a + s.fget (SEAT_SEG_W2.LIMIT k g)))).map
    (fun g => (g, o - 65536 * s.fget (SEAT_SEG_W3.APOFF k g)))

/-- Bytes read a word at a time: the first status other than OK, the bytes. -/
def State.readBytes (s : State) (ag : Agent) : Nat → Nat → Nat → Nat × List Byte × State
  | 0, _, _ => (stOK, [], s)
  | fuel + 1, a, n =>
    if n = 0 then (stOK, [], s)
    else
      let m := min n (8 - a % 8)
      let r := s.pathRead ag a m
      let t := r.2.2.readBytes ag fuel (a + m) (n - m)
      (if r.1 = stOK then t.1 else r.1, bytesOfNat m r.2.1 ++ t.2.1, t.2.2)

/-- Bytes written a word at a time: the first status other than OK. -/
def State.writeBytes (s : State) (ag : Agent) : Nat → Nat → List Byte → Nat × State
  | 0, _, _ => (stOK, s)
  | fuel + 1, a, bs =>
    if bs.isEmpty then (stOK, s)
    else
      let m := min bs.length (8 - a % 8)
      let r := s.pathWrite ag a m (natOfBytes (bs.take m))
      let t := r.2.writeBytes ag fuel (a + m) (bs.drop m)
      (if r.1 = stOK then t.1 else r.1, t.2)

/-- Completion statuses of the `tlp` output: 0 successful, 1 Unsupported Request, 2 with the EP bit. -/
def State.apertureError (s : State) (k : Nat) : State := s.bump (SEAT_STAT.APERR k) 1

/-- APERTURE_READ of n bytes at offset o of seat k's BAR2; requests of up to 4,096 bytes are accepted (R383). -/
def execApertureRead (k : Fin 4) (o n : Nat) (s : State) : Host.Outcome State Fault Refusal :=
  if !s.pcieSeat k.val ∨ s.tagless (.seat k) then .next s
  else if !s.bar0Open k.val ∨ 4096 < n ∨ !s.trained then .next (s.emit (.tlp k.val 1 []))
  else if n = 0 then .next (s.emit (.tlp k.val 0 []))
  else match s.apertureSeg k.val o n with
    | none => .next ((s.apertureError k.val).emit (.tlp k.val 1 []))
    | some (g, off) =>
      if s.fget (SEAT_SEG_W1.RDA k.val g) = 0 then .next ((s.apertureError k.val).emit (.tlp k.val 1 []))
      else
        let r := s.readBytes (.seat k) n (s.segAddr k.val g off) n
        if r.1 = stOK then .next (r.2.2.emit (.tlp k.val 0 r.2.1))
        else if r.1 = stPOISON then .next ((r.2.2.apertureError k.val).emit (.tlp k.val 2 r.2.1))
        else .next (r.2.2.emit (.tlp k.val 1 []))

/-- APERTURE_WRITE at offset o of seat k's BAR2; a packet above the maximum payload of 256 bytes is malformed and dropped (R383). -/
def execApertureWrite (k : Fin 4) (o : Nat) (data : List Byte) (s : State) : Host.Outcome State Fault Refusal :=
  if !s.pcieSeat k.val ∨ data.isEmpty ∨ 256 < data.length ∨ s.tagless (.seat k) then .next s
  else if !s.bar0Open k.val then .next (s.emit (.tlp k.val 1 []))
  else match s.apertureSeg k.val o data.length with
    | none => .next (s.apertureError k.val)
    | some (g, off) =>
      if s.fget (SEAT_SEG_W1.WRA k.val g) = 0 then .next (s.apertureError k.val)
      else
        let r := s.writeBytes (.seat k) data.length (s.segAddr k.val g off) data
        .next (if r.1 = stOK then r.2 else r.2.apertureError k.val)

end Sys2Proof.Machine
end

