-- ==== Sys2Proof/Machine/Gardener.lean ====
section
/-!
DEFINITION. The Gardener (spec/14 R410 to R430): queues, strikes and trackers, what a lasting fault leads to, scrubs, grafts, prunes, the loss
of a Dealer, settling, and the decision of a warm restart with its first steps.
-/
namespace Sys2Proof.Machine

open Sys2Proof

/- Codes. -/

def gardRUNNING : Nat := 0
def gardRESTARTING : Nat := 1
def gardSETTLED : Nat := 2
def gardHALTED : Nat := 3

def actGRAFT : Nat := 1
def actPRUNE : Nat := 2
def actTOLERATE : Nat := 3
def actWARM : Nat := 4
def actSETTLE : Nat := 5

def clsPLANE : Nat := 0
def clsBANK : Nat := 1
def clsDRAM : Nat := 2
def clsICON : Nat := 3
def clsCOLD : Nat := 4
def clsUCODE : Nat := 5
def clsLOCKSTEP : Nat := 6
def clsLINK : Nat := 7
def clsUE : Nat := 8
def clsDISPLAY : Nat := 9
def clsGARDENER : Nat := 11

def State.gardState (s : State) : Nat := s.fget GARD_STAT.STATE

/-- The Gardener's working state changed. -/
def State.withGard (s : State) (f : GardRec → GardRec) : State := { s with gard := f s.gard }

/-- The last lasting fault is recorded with what was done about it (GARD_LOG0 to GARD_LOG2). -/
def State.gardLog (s : State) (r : Report) (action : Nat) : State :=
  s.fsets [(GARD_LOG0.ACTION, action), (GARD_LOG0.CLASS, if r.ue then clsUE else r.cls), (GARD_LOG0.KIND, r.kind),
    (GARD_LOG0.TICK, s.fget TICK_COUNT.COUNT % 65536), (GARD_LOG1.LOC_LO, r.loc % 2 ^ 32), (GARD_LOG2.LOC_HI, r.loc / 2 ^ 32)]

/- Locations (R411, R414). -/

/-- The tile of a PLANE location. -/
def locTile (loc : Nat) : Nat := natBits loc 6 6

/-- The key of a location under its class: a column, a word, a row of a package, a microaddress, a Dealer, a link or local port, a pipe, a
unit. -/
def locKey (r : Report) : Nat :=
  if r.kind = clsDRAM then 8 * rowKey r.loc + r.part
  else if r.kind = clsBANK ∨ r.kind = clsICON ∨ r.kind = clsCOLD then r.loc / 8 * 8
  else r.loc

/-- The class a report is judged by. -/
def judgedBy (r : Report) : Nat := if r.ue then clsUE else r.cls

/-- The bank a BANK location lies in; 32 is the nursery. -/
def locBank (loc : Nat) : Nat := match regionOf loc with | .store b => b | _ => 32

/-- The class's locations are scrubbed (R417). -/
def scrubbed (kind : Nat) : Bool := decide (kind ≤ clsCOLD)

/-- A local port answers by its absorber: its part, or its router with it, is pruned (R375). -/
def State.portAbsorbs (s : State) (q : Nat × Nat) : Bool := s.fget (TRL_RTR.STATE q.1) != 0 || s.fbit (TRL_RTR.ABSP q.1) (4 + q.2)

/-- A location that is grafted out, pruned or retired adds no strike (R411); a plane UE is reported at its row word (R415), and what a router's
prune takes with it is pruned (R375). -/
def State.outOfService (s : State) (r : Report) : Bool :=
  if r.kind = clsPLANE then
    let t := if r.ue then tileOfAddr r.word else locTile r.loc
    let col := r.loc % 64
    s.pruned t || (!r.ue && !natBit r.loc 12 && ((s.fget (ARRAY_TMAP.G0V t) == 1 && s.fget (ARRAY_TMAP.G0COL t) == col) ||
      (s.fget (ARRAY_TMAP.G1V t) == 1 && s.fget (ARRAY_TMAP.G1COL t) == col)))
  else if r.kind = clsBANK then
    let b := locBank r.loc
    if b < 32 then s.bankPruned b || s.fget (BANK_STAT.WEED b) == weedGRAFTED else s.portAbsorbs (0, 3)
  else if r.kind = clsCOLD then s.portAbsorbs (5, 3)
  else if r.kind = clsDISPLAY then s.portAbsorbs (if r.loc < 3 then (6, 3) else (11, 3))
  else if r.kind = clsUCODE then s.role (Fin.ofNat 4 (natBits r.loc 16 2)) == 2
  else if r.kind = clsLOCKSTEP then s.role (Fin.ofNat 4 r.loc) == 2
  else if r.kind = clsLINK then
    s.fget (TRL_RTR.STATE (r.loc / 8)) != 0 || (decide (4 ≤ r.loc % 8) && s.fbit (TRL_RTR.ABSP (r.loc / 8)) (r.loc % 8))
  else false

/-- Two reports name one location of one class. -/
def samePlace (p r : Report) : Bool := judgedBy p == judgedBy r && p.kind == r.kind && locKey p == locKey r

/-- A location struck and not yet scrubbed (R411); a check-bit position of a row word is no strike of its own. -/
def State.awaitsScrub (s : State) (r : Report) : Bool :=
  (s.gard.scrubs ++ s.gard.held).any (fun p => samePlace p r && !(p.kind == clsPLANE && p.part == 1))

/-- A lasting location of a class that is scrubbed is struck no more until it is scrubbed (R411). -/
def State.holdPlace (s : State) (r : Report) : State :=
  if scrubbed r.kind ∧ !s.gard.held.any (fun p => samePlace p r) then s.withGard (fun g => { g with held := g.held ++ [r] }) else s

/-- A location is scrubbed, or located as no fault. -/
def State.freePlace (s : State) (r : Report) : State := s.withGard (fun g => { g with held := g.held.filter (fun p => !samePlace p r) })

/- Trackers (R412, R413). -/

/-- The number of trackers in use, as GARD_STAT.TRACK shows it. -/
def State.showTrack (s : State) : State := s.fset GARD_STAT.TRACK s.gard.trackers.length

def State.findTracker (s : State) (cls key : Nat) : Option Tracker := s.gard.trackers.find? (fun t => t.cls == cls && t.key == key)

/-- The tracker is freed. -/
def State.freeTracker (s : State) (cls key : Nat) : State :=
  (s.withGard (fun g => { g with trackers := g.trackers.filter (fun t => !(t.cls == cls && t.key == key)) })).showTrack

/-- The tracker whose most recent strike is the oldest. -/
def oldestTracker : List Tracker → Option Tracker
  | [] => none
  | t :: l => match oldestTracker l with
    | some u => if u.times.headD 0 < t.times.headD 0 then some u else some t
    | none => some t

/-- A free tracker is made where none is (R413). -/
def State.roomForTracker (s : State) : State :=
  if s.gard.trackers.length < 1024 then s
  else match oldestTracker s.gard.trackers with
    | some t => (s.freeTracker t.cls t.key).bump GARD_DROP.EVICT 1
    | none => s

/-- The strikes a class needs, and the longest span in ms they may have (GARD_CLASSc). -/
def State.strikeCount (s : State) (c : Nat) : Nat := if c = clsUE then 1 else s.fget (GARD_CLASS.STRIKES c) + 1
def State.strikeWindow (s : State) (c : Nat) : Nat := s.fget (GARD_CLASS.WINDOW c) + 1

/-- A strike enters its location's tracker: whether the location is lasting, and the state (R412, R413). -/
def State.strike (s : State) (c key ms : Nat) : Bool × State :=
  let n := s.strikeCount c
  let old := (s.findTracker c key).map Tracker.times
  let times := (ms :: old.getD []).take n
  let s1 := if old.isSome then s else s.roomForTracker
  if n ≤ times.length ∧ ms - times.getLastD ms ≤ s.strikeWindow c then (true, s1.freeTracker c key)
  else
    let rest := s1.gard.trackers.filter (fun t => !(t.cls == c && t.key == key))
    (false, (s1.withGard (fun g => { g with trackers := { cls := c, key := key, times := times } :: rest })).showTrack)

/- Settling, tolerating, scrubbing. -/

/-- The Gardener settles (R430). -/
def State.settle (s : State) : State :=
  (if s.gardState = gardHALTED then s else s.fset GARD_STAT.STATE gardSETTLED).event 287

/-- A location waits for its scrub (R417). -/
def State.askScrub (s : State) (r : Report) : State :=
  if scrubbed r.kind ∧ !r.ue then s.withGard (fun g => { g with scrubs := g.scrubs ++ [r] }) else s

/-- The fault is tolerated: EV287, and the location is scrubbed as a transient one (R414). -/
def State.tolerate (s : State) (r : Report) : State := ((s.gardLog r actTOLERATE).event 287).askScrub r

/-- A part that may not be pruned: tolerated while the fault is correctable, settled otherwise (R420). -/
def State.noSpare (s : State) (r : Report) : State := if r.ue then (s.gardLog r actSETTLE).settle else s.tolerate r

/- The conditions of a deal after the actions that wait for the edge (R251, R253, R420). -/

/-- Variant v is present in Dealer n's deal header (R241). -/
def State.variantPresent (s : State) (n : Dealer) (v : Nat) : Bool := natBit (s.wordData (dealBase n + 16 * v)) 31

/-- The Dealer that takes over from a lost one (R423); none where there is none. -/
def State.replacement (s : State) (n : Dealer) : Option Dealer :=
  let free (m : Dealer) : Bool := !s.gard.lost.contains m && !(s.dl m).halted
  let standby (m : Dealer) : Bool := s.role m == 1 && free m
  if !s.drives n then none
  else match s.fget ARRAY_MODE.MODE with
    | 0 => if s.drives (partner n) && free (partner n) then some (partner n) else none
    | 1 => if n.val % 2 = 0 && standby (partner n) then some (partner n) else none
    | _ => ([1, 2, 3] : List Dealer).find? standby

/-- The driving Dealer of a tile's region. -/
def State.driverOf (s : State) (t : Nat) : Option Dealer :=
  ([0, 1, 2, 3] : List Dealer).find? (fun n => natBit (s.region n) (tileQuad t))

/-- The tiles of a set of quadrants that are pruned or about to be. -/
def State.prunedIn (s : State) (q : Nat) : List Nat :=
  (rangeFrom 0 64).filter (fun t => natBit q (tileQuad t) && (s.pruned t || s.gard.tilePrunes.contains t))

/-- The region and the condition set of Dealer n's deal once the waiting actions are applied; `lost` Dealers have been replaced. -/
def State.nextRegion (s : State) (n : Dealer) : Nat :=
  s.region n ||| (if s.fget ARRAY_MODE.MODE = 0 ∧ s.gard.lost.contains (partner n) then s.region (partner n) else 0)

def State.nextCond (s : State) (n : Dealer) : Nat :=
  let adopts := s.fget ARRAY_MODE.MODE = 0 ∧ s.gard.lost.contains (partner n) ∧ s.drives (partner n)
  s.fget (DEAL_COND.COND n) ||| b2n ((s.prunedIn (s.nextRegion n)).length == 1) |||
    (if adopts then 2 else 0) ||| (if s.gard.suit.isSome ∨ s.fget DRAM_STAT.RSV = 1 then 4 else 0)

/-- Every driving Dealer, or the one that takes over from it, has a present variant after the waiting actions (R253, R420). -/
def State.variantsKept (s : State) : Bool :=
  ([0, 1, 2, 3] : List Dealer).all (fun n =>
    if !s.drives n then true
    else
      let q := s.nextRegion n
      let few := decide ((s.prunedIn q).length ≤ 1)
      if s.gard.lost.contains n then
        match s.replacement n with
        | some m => few && (s.fget ARRAY_MODE.MODE == 0 || s.variantPresent m (s.nextCond n ||| s.fget (DEAL_COND.COND m)))
        | none => true
      else few && s.variantPresent n (s.nextCond n))

/-- The bank holds Dealer n's level area or save pool (R212). -/
def State.holdsFor (s : State) (n : Dealer) (b : Nat) : Bool :=
  s.fget (LBASE.BANK n) == b || (s.fget (SPOOL.BANK n) == b && s.reg (SPOOL.reg n) != 0)

/-- Dealer n's level area or save pool lies in a bank that is pruned or about to be. -/
def State.areaGone (s : State) (n : Dealer) : Bool :=
  (rangeFrom 0 32).any (fun b => (s.bankPruned b || s.gard.bankPrunes.contains b) && s.holdsFor n b)

/-- A pipe in use that carries a tell-tale, a deal box or a layer marked as safety content (R420). -/
def State.safetyPipe (s : State) (p : Nat) : Bool :=
  s.pipeUsed p && (s.carriesTell p || (s.plan.safety.getD p 0) != 0 ||
    (rangeFrom 0 64).any (fun b => s.fget (TELL_DBOX_W0.EN b) == 1 && s.fget (TELL_DBOX_W0.PIPE b) == p))

/-- The Dealers lost with the banks `going`, the Dealers `dead` among them; none where safety content is not kept: a bank of the early deal or
a pipe of `pipes` that safety content needs would go, a Dealer lost with them would have no replacement, the replacement of any lost Dealer would
have an area in a bank that goes, or a driving Dealer no variant (R420, R421). -/
def State.lossesOf (s : State) (going : List Nat) (dead : List Dealer) (pipes : List Nat) : Option (List Dealer) :=
  let s1 := s.withGard (fun g => { g with bankPrunes := g.bankPrunes ++ going })
  let hit := allDealers.filter (fun n => !s.gard.lost.contains n && s.role n != 2 && (dead.contains n || (s.drives n && s1.areaGone n)))
  let s2 := s1.withGard (fun g => { g with lost := g.lost ++ hit })
  let kept (n : Dealer) : Bool := !s.drives n || (match s2.replacement n with | some m => !s2.areaGone m | none => !hit.contains n)
  if going.any (natBit s.plan.earlyBanks.toNat) || pipes.any s.safetyPipe || !s2.gard.lost.all kept || !s2.variantsKept then none else some hit

/-- The Dealers lost with a bank, where it may be pruned at all (R420, R421). -/
def State.bankLosses (s : State) (b : Nat) : Option (List Dealer) := s.lossesOf [b] [] []

/- Columns, tiles and banks (R418 to R422). -/

/-- The tile is to be pruned at the next edge, if safety content is kept. -/
def State.askTilePrune (s : State) (t : Nat) (r : Report) : State :=
  if s.pruned t || s.gard.tilePrunes.contains t then s
  else
    let s1 := s.withGard (fun g => { g with tilePrunes := g.tilePrunes ++ [t] })
    if s1.variantsKept then s1.gardLog r actPRUNE else s.noSpare r

/-- A dummy column of a tile that is free: not in use, not faulty, and not the target of a copy. -/
def State.freeDummy (s : State) (t : Nat) : Option Nat :=
  let busy (d : Nat) : Bool := s.gard.copies.any (fun c => c.tile == t && c.dummy == d)
  if s.fget (ARRAY_TMAP.G0V t) = 0 ∧ s.fget (ARRAY_TMAP.D0BAD t) = 0 ∧ !busy 0 then some 0
  else if s.fget (ARRAY_TMAP.G1V t) = 0 ∧ s.fget (ARRAY_TMAP.D1BAD t) = 0 ∧ !busy 1 then some 1
  else none

/-- A logical column is to be grafted: its copy starts, or the tile has no spare. -/
def State.graftColumn (s : State) (t col : Nat) (r : Report) : State :=
  if s.pruned t || s.gard.copies.any (fun c => c.tile == t && c.col == col) then s
  else match s.freeDummy t with
    | some d => (s.withGard (fun g => { g with copies := g.copies ++ [{ tile := t, col := col, dummy := d, prog := 0 }] })).gardLog r actGRAFT
    | none => s.askTilePrune t r

/-- A lasting fault in dummy column d of a tile (R422). -/
def State.dummyFault (s : State) (t d : Nat) (r : Report) : State :=
  let s1 := s.fset (if d = 0 then ARRAY_TMAP.D0BAD t else ARRAY_TMAP.D1BAD t) 1
  let dropped := s1.gard.copies.filter (fun c => c.tile == t && c.dummy == d)
  let s2 := s1.withGard (fun g => { g with copies := g.copies.filter (fun c => !(c.tile == t && c.dummy == d)) })
  let s3 := dropped.foldl (fun u c => u.graftColumn t c.col r) (s2.gardLog r 0)
  if s3.fget (if d = 0 then ARRAY_TMAP.G0V t else ARRAY_TMAP.G1V t) = 1 then
    s3.graftColumn t (s3.fget (if d = 0 then ARRAY_TMAP.G0COL t else ARRAY_TMAP.G1COL t)) r
  else s3

/-- A lasting PLANE fault; a UE is first located by test (R415). -/
def State.planeFault (s : State) (r : Report) : State :=
  if r.ue then (s.gardLog r 0).withGard (fun g => { g with tests := g.tests ++ [r.word] })
  else if natBit r.loc 12 then s.dummyFault (locTile r.loc) (r.loc % 2) r
  else s.graftColumn (locTile r.loc) (r.loc % 64) r

/-- A bank is to be pruned at the next edge, with the Dealers whose contexts it holds, if safety content is kept. -/
def State.askBankPrune (s : State) (b : Nat) (r : Report) : State :=
  if s.bankPruned b || s.gard.bankPrunes.contains b then s
  else match s.bankLosses b with
    | some l => (s.withGard (fun g => { g with bankPrunes := g.bankPrunes ++ [b], lost := g.lost ++ l,
                                               bankLost := g.bankLost ++ l.map (fun n => (n, b, r.ue)) })).gardLog r actPRUNE
    | none => s.noSpare r

/-- The bank the nursery is grafted for, or is to be. -/
def State.nurseryFor (s : State) : Option Nat :=
  if s.fget GARD_SPARE.NURS = 1 then some (s.fget GARD_SPARE.NBANK) else s.gard.graft

/-- The nursery stands in for bank b from now on (R337, R418). -/
def State.graftNursery (s : State) (b : Nat) : State :=
  let s1 := s.fsets [(BANK_STAT.WEED b, weedGRAFTED), (BANK_STAT.SV 32, 1), (BANK_STAT.SERVES 32, b), (GARD_SPARE.NURS, 1), (GARD_SPARE.NBANK, b)]
  ((({ s1 with weedAt := 0 }.withGard (fun g => { g with graft := none })).ledger 5 8 8 1).event 277).event 287

/-- The copy of the bank to be grafted begins when no bank is in weeding; a copy of it under way goes on (R422). -/
def State.startGraft (s : State) : State :=
  match s.gard.graft with
  | some b => if s.nurseryFree then { s.fset (BANK_STAT.WEED b) weedCOPY with weedAt := 0 } else s
  | none => s

/-- A lasting BANK fault (R337, R418, R422). -/
def State.bankFault (s : State) (r : Report) : State :=
  let b := locBank r.loc
  if b = 32 then
    match s.nurseryFor with
    | some c => s.askBankPrune c r
    | none => (s.withGard (fun g => { g with nurseryBad := true })).tolerate r
  else
    let w := s.fget (BANK_STAT.WEED b)
    if s.nurseryFor = some b then s
    else if s.nurseryFor.isSome ∨ s.gard.nurseryBad then s.askBankPrune b r
    else if w = weedREMAPPED ∨ w = weedBACK then (s.graftNursery b).gardLog r actGRAFT
    else ((s.withGard (fun g => { g with graft := some b })).startGraft).gardLog r actGRAFT

/- DRAM (R349, R416, R422). -/

/-- A UE word of the image copy is to be read again from the slot, whether its report is a strike or not (R416). -/
def State.askRepair (s : State) (r : Report) : State :=
  let a := r.loc / 8 * 8
  if r.ue ∧ r.kind = clsDRAM ∧ s.inImageCopy a ∧ !s.gard.repairs.contains a then s.withGard (fun g => { g with repairs := g.repairs ++ [a] }) else s

def State.dramFault (s : State) (r : Report) : State :=
  let u := r.loc / 128 % 4
  let s1 := s.setFbit DRAM_STAT.SFAULT u true
  let s2 := if s1.rsvRows.length < 64 ∧ !s1.rsvRows.contains (rowKey r.loc) then { s1 with rsvRows := s1.rsvRows ++ [rowKey r.loc] } else s1
  if (s.fget DRAM_STAT.RSV = 1 ∧ s.fget DRAM_STAT.RSUIT = u) ∨ s.gard.suit = some u then s2.gardLog r actGRAFT
  else if s.fget DRAM_STAT.RSV = 1 ∨ s.gard.suit.isSome then s1.tolerate r
  else (s2.withGard (fun g => { g with suit := some u })).gardLog r actGRAFT

/- Losing a Dealer (R423, R424). -/

/-- Dealer n has a lasting fault; `runs` tells whether it can still run.  In SPLIT a Dealer without a replacement is one whose partner is itself
lost: it leaves its region without a deal from the next edge (log entry 93). -/
def State.loseDealer (s : State) (n : Dealer) (runs : Bool) (r : Report) : State :=
  if s.role n = 2 then s
  else if s.gard.lost.contains n then s.withGard (fun g => { g with bankLost := g.bankLost.filter (fun x => x.1 != n) })
  else if s.role n = 1 ∨ (s.replacement n).isSome then
    (s.withGard (fun g => { g with lost := g.lost ++ [n] })).gardLog r (if s.role n = 1 then actPRUNE else actGRAFT)
  else if !runs then (s.gardLog r actSETTLE).settle
  else if s.fget ARRAY_MODE.MODE = 0 then ((s.withGard (fun g => { g with lost := g.lost ++ [n] })).gardLog r actSETTLE).settle
  else (s.setRole n 3).tolerate r

/- Links (R369 to R371, R375, R418, R419). -/

/-- The number of the alternate set of the link at mesh port k of router r (GARD_SPARE.SET). -/
def linkSet (r k : Nat) : Nat :=
  let x := r % 6
  let y := r / 6
  match k with
  | 0 => 20 + 6 * (y - 1) + x
  | 1 => 5 * y + x
  | 2 => 20 + 6 * y + x
  | _ => 5 * y + (x - 1)

/-- The tile on local port l of router r. -/
def tileAt (r l : Nat) : Option Nat := (rangeFrom 0 64).find? (fun t => tileRouter t == r && tilePort t == l)

/-- The set in effect already avoids the link or router of a LINK location (R419). -/
def State.avoided (s : State) (r port : Nat) : Bool :=
  let e := s.fget GARD_SPARE.SET
  s.fget GARD_SPARE.SETV == 1 && (e == 38 + r || (decide (port < 4) && (e == linkSet r port ||
    (match neighbour r port with | some b => e == 38 + b | none => false))))

/-- An alternate set is staged, every entry of it, and committed (R369, R371). -/
def State.swapIn (s : State) (k : Nat) (a : AltSet) : State :=
  let s1 := (rangeFrom 0 24).foldl (fun t r => (rangeFrom 0 24).foldl (fun u d =>
    u.fset (TRL_RTE.SHADOW r (nodeOf d)) (Sparse.get 0 a.routes (64 * r + nodeOf d))) t) (s.fset TRL_DMAP_SH.MAP a.dmap)
  let s2 := s1.beginSwap.fsets [(GARD_SPARE.SETV, 1), (GARD_SPARE.SET, k)]
  ((s2.ledger 5 24 8 1).event 277).event 287

/-- The banks on router r that are not pruned yet. -/
def State.banksOn (s : State) (r : Nat) : List Nat := (rangeFrom 0 32).filter (fun b => storeRouter b == r && !s.bankPruned b)

/-- A bank pruned behind its absorber, which answers the requests its port had not answered; a copy of it into the nursery ends (R374, R418). -/
def State.pruneBank (s : State) (b : Nat) : State :=
  if s.bankPruned b then s
  else
    let s1 := s.withGard (fun g => { g with bankPrunes := g.bankPrunes.filter (fun c => c != b), graft := if g.graft = some b then none else g.graft })
    let s2 := if s.mirror b = some 32 then { s1 with weedAt := 0 } else s1
    (((s2.fset (BANK_STAT.WEED b) weedPRUNED).ledger 6 8 8 1).event 278).beginAbsorb (storeRouter b, 1)
      (fun p => decide (regionOf p.addr = .store b))

/-- The banks pruned with router r: those on it, and with router 0, the nursery's, the bank the nursery serves. -/
def State.banksWith (s : State) (r : Nat) : List Nat :=
  s.banksOn r ++ (if r = 0 then (rangeFrom 0 32).filter (fun b => s.serving b == 32 && storeRouter b != 0 && !s.bankPruned b) else [])

/-- The pipes attached to router r (R353). -/
def pipesOn (r : Nat) : List Nat := if r = 6 then [0, 1, 2] else if r = 11 then [3, 4, 5] else []

/-- The losses of pruning every local endpoint of router r: none where safety content would be lost. -/
def State.routerLosses (s : State) (r : Nat) : Option (List Dealer) :=
  s.lossesOf (s.banksWith r) (allDealers.filter (fun n => (dealerAt n.val).1 == r)) (pipesOn r)

/-- The nursery goes with its router: a copy into it under way ends, and it stands for no bank (R375, R422). -/
def State.loseNursery (s : State) : State :=
  let s1 := (rangeFrom 0 32).foldl (fun t b => if t.fget (BANK_STAT.WEED b) = weedCOPY then t.fset (BANK_STAT.WEED b) weedIDLE else t) s
  ({ s1.fsets [(BANK_STAT.SV 32, 0), (BANK_STAT.SERVES 32, 0)] with weedAt := 0 } : State).withGard
    (fun g => { g with nurseryBad := true, graft := none })

/-- A lasting LINK fault at port `port` of router r. -/
def State.linkFault (s : State) (r port : Nat) (rep : Report) : State :=
  match (if 4 ≤ port then tileAt r (port - 4) else none) with
  | some t => s.askTilePrune t rep
  | none =>
    if s.avoided r port then s.gardLog rep 0
    else if s.fget GARD_SPARE.SETV = 1 then s.tolerate rep
    else
      let k := if port < 4 then linkSet r port else 38 + r
      match s.plan.altSets.find? (fun p => p.1 == k) with
      | none => s.tolerate rep
      | some (_, a) =>
        if port < 4 then (s.swapIn k a).gardLog rep actGRAFT
        else match s.routerLosses r with
          | none => s.noSpare rep
          | some l =>
            let s1 := { (s.swapIn k a).ledger 6 16 8 1 with closing := some r }.event 278
            let s2 := (s.banksWith r).foldl State.pruneBank s1
            let s3 := if r = 0 then s2.loseNursery else s2
            (s3.withGard (fun g => { g with lost := g.lost ++ l.filter (fun n => !g.lost.contains n) })).gardLog rep actPRUNE

/- Warm restart (R425 to R429). -/

/-- A register with its SK fields kept and every other field at its reset value (R12). -/
def warmValue (off : Nat) (old : Word) : Word :=
  match regGroupAt off with
  | some g => (g.fields.filter (fun f => f.sk)).foldl (fun w f => putField w f.lo f.wid (getField old f.lo f.wid)) (Sparse.get 0 resetRegs off)
  | none => old

/-- The registers of a range return to their reset values but for their SK fields. -/
def State.resetRange (s : State) (lo hi : Nat) : State :=
  (((s.regs ++ resetRegs).map Prod.fst).filter (fun o => decide (lo ≤ o) && decide (o < hi))).foldl
    (fun t o => t.setReg o (warmValue o (t.reg o))) s

/-- What steps 2 and 3 of R427 stop and reset (R429): Dealers, the deal state, CTUs and seat mailboxes. -/
def State.warmStop (s : State) : State :=
  let s1 := s.cancelJobs
  let s2 := (s1.resetRange 0x100000 0x140000).resetRange (CTU_ADDR_LO.reg 0) 0x800000
  let s3 := (rangeFrom 0 4).foldl (fun t k =>
    let u := t.fsets [(SEAT_CMDIDX.PI k, 0), (SEAT_CMDIDX.CI k, 0), (SEAT_CMPIDX.PI k, 0), (SEAT_CMPIDX.CI k, 0), (SEAT_NTCIDX.PI k, 0),
      (SEAT_NTCIDX.CI k, 0)]
    u.setSeat k { u.seat k with posts := [] }) s2
  { s3 with dealers := Vector.replicate 4 DealerCore.zero, ctus := [], ctlStage := [], evAcc := [], overlayOff := true, fallow := false,
            switching := false }

/-- WARM_RESTART_DECISION: steps 1 to 3 of R427, or R426 where three restarts lie within the last 600 s.  The frames in progress lack safety
content (R431).  A cause that arises while a warm restart runs decides another, which begins again at step 1 (log entry 161). -/
def State.warmRestart (s : State) (cause : Nat) : State :=
  if s.safeHold ∨ (s.gardState ≠ gardRUNNING ∧ s.gardState ≠ gardRESTARTING) then s
  else
    let recent := s.gard.warms.filter (fun t => decide (s.now - t ≤ 600000000000))
    if 3 ≤ recent.length then
      if cause = 3 then s.fset GARD_STAT.STATE gardHALTED else s.settle
    else
      let w := recent ++ [s.now]
      let s1 := s.withGard (fun g => { g with warms := w, loadState := if s.warm = 0 then s.fget LOAD_STAT.STATE else g.loadState,
                                              trackers := if cause = 3 then [] else g.trackers })
      let s2 := s1.showTrack.fsets [(GARD_STAT.STATE, gardRESTARTING), (GARD_STAT.CAUSE, cause), (DRAM_STAT.SREF, 1),
        (⟨GARD_LEDGER.reg 11, 16, 16⟩, s.fget TICK_COUNT.COUNT % 65536), (⟨GARD_LEDGER.reg 11, 0, 4⟩, cause)]
      { ((s2.ledger 2 0 16 1).event 280).warmStop with
        warm := 1, lacks := s.lacks || (rangeFrom 0 6).any (fun p => s.pipeUsed p && (s.pipe p).live) }

/- Judgement (R410 to R416). -/

/-- What the Gardener does about a lasting fault. -/
def State.lastingAction (s : State) (r : Report) : State :=
  if r.config then (s.gardLog r actWARM).warmRestart 2
  else if r.kind = clsPLANE then s.planeFault r
  else if r.kind = clsBANK then s.bankFault r
  else if r.kind = clsDRAM then s.dramFault r
  else if r.kind = clsUCODE then s.loseDealer (Fin.ofNat 4 (natBits r.loc 16 2)) (!r.ue) r
  else if r.kind = clsLOCKSTEP then s.loseDealer (Fin.ofNat 4 r.loc) true r
  else if r.kind = clsLINK then s.linkFault (r.loc / 8) (r.loc % 8) r
  else if r.kind = clsGARDENER then (s.gardLog r actWARM).warmRestart 3
  else s.tolerate r

/-- FAULT_JUDGED_LASTING: EV286, the ledger and the action. -/
def State.judgedLasting (s : State) (r : Report) : State :=
  ((((s.ledger 4 16 16 1).ledger (16 + judgedBy r) 16 16 1).event 286).holdPlace r).lastingAction r

/-- The judgement of one report that arrived at `ms`; a corrected word of a store that no fault class names adds no strike (log entry 139). -/
def State.judge (s : State) (r : Report) (ms : Nat) : State :=
  let s1 := if r.ue then (s.askRepair r).ledger 8 0 16 1 else s
  let s2 := if r.cls = clsDISPLAY then s1.ledger 9 0 16 1 else s1
  if s2.outOfService r || s2.awaitsScrub r || (r.cls == noClass && !r.ue) then s2
  else if r.kind = clsPLANE ∧ r.part = 1 then s2.askScrub r
  else
    let c := judgedBy r
    let s3 := s2.ledger (16 + c) 0 16 1
    if r.lasting then
      ((if (s3.findTracker c (locKey r)).isSome then s3 else s3.roomForTracker).freeTracker c (locKey r)).judgedLasting r
    else
      let k := s3.strike c (locKey r) ms
      if k.1 then k.2.judgedLasting r else k.2.askScrub r

/-- REPORT_JUDGEMENT: the oldest UE report, or else the oldest other report, is judged; reports wait until step 7 of a warm restart has ended,
and a halted Gardener, or one that SAFE HOLD keeps from starting, judges none (R410, R422, R426, R456, R475). -/
def execReportJudgement (s : State) : Host.Outcome State Fault Refusal :=
  if !s.gardTimer || (s.gardState == gardRESTARTING && decide (s.warm < 7)) || s.gardState == gardHALTED || s.safeHold then .next s
  else match s.gard.ueQueue with
    | (r, ms) :: l => .next ((s.withGard (fun g => { g with ueQueue := l })).judge r ms)
    | [] => match s.gard.queue with
      | (r, ms) :: l => .next ((s.withGard (fun g => { g with queue := l })).judge r ms)
      | [] => .next s

/-- A report enters its queue, is dropped, or makes the Gardener decide a warm restart (R410). -/
def State.enqueue (s : State) (r : Report) (ms : Nat) : State :=
  if r.ue then
    if 64 ≤ s.gard.ueQueue.length then s.warmRestart 4 else s.withGard (fun g => { g with ueQueue := g.ueQueue ++ [(r, ms)] })
  else if 512 ≤ s.gard.queue.length then s.bump GARD_DROP.DROPS 1
  else s.withGard (fun g => { g with queue := g.queue ++ [(r, ms)] })

/-- GARDENER_REPORT: the oldest report of the model's own blocks arrives when the Gardener's millisecond timer reads `ms`; or, with `rep`, a
report of a fault the model's blocks do not produce: a UE in configuration state, or in the Gardener itself, whose lockstep mismatch raises
EV285 and, during a warm restart, makes a cold reset (R428).  A class or kind above 11 names no fault class, and such a report is no event. -/
def execGardenerReport (rep : Option Report) (ms : Nat) (s : State) : Host.Outcome State Fault Refusal :=
  match rep with
  | some r =>
    if 11 < r.cls ∨ 11 < r.kind then .next s
    else
      let s1 := if r.cls = clsGARDENER then s.event 285 else s
      if r.cls = clsGARDENER ∧ s.gardState = gardRESTARTING then .next (s1.coldReset 5)
      else .next (s1.enqueue r ms)
  | none => match s.rpt with
    | r :: l => .next ({ s with rpt := l }.enqueue r ms)
    | [] => .next s

/-- STANDBY_SELFCHECK_FAIL of standby Dealer n: EV064 + 8n + 6, and a LOCKSTEP fault that is lasting at once (R414). -/
def execStandbySelfcheckFail (n : Dealer) (s : State) : Host.Outcome State Fault Refusal :=
  if s.role n ≠ 1 then .next s
  else .next ((s.dealerEvent n 6).report { cls := clsLOCKSTEP, kind := clsLOCKSTEP, loc := n.val, lasting := true })

/- Scrubs and repairs (R416, R417). -/

/-- Tile t is lowered in its Dealer's fallow window, or is driven by no Dealer (R265). -/
def State.tileQuiet (s : State) (t : Nat) : Bool :=
  !natBit s.raised t && (match s.driverOf t with
    | some n => s.dealerFallow n
    | none => true)

/-- The stored words a scrub rewrites. -/
def scrubWords (r : Report) : List Nat :=
  if r.kind = clsPLANE then [r.word]
  else if r.kind = clsDRAM then (rangeFrom 0 16).map (fun k => r.loc / 128 * 128 + 8 * k)
  else [r.loc / 8 * 8]

/-- The address that the word in the nursery's cell at `a` folds: that of the bank it serves (R334); another cell's word folds its own. -/
def State.foldedAt (s : State) (a : Nat) : Nat :=
  if regionOf a = .store 32 ∧ s.fget (BANK_STAT.SV 32) = 1 then moveStore 32 (s.fget (BANK_STAT.SERVES 32)) a else a

/-- A stored word that decodes as CE is corrected in place, in the cell that serves its address (R334). -/
def State.healWord (s : State) (a0 : Nat) : State :=
  let a := s.foldedAt a0
  let c := s.phys a
  let k := decodeSyn (s.wordSyn c ^^^ foldSyn a c).toNat
  if k = .ue ∨ k = .clean then s else s.putFolded c a (correct (s.wordData c) k) false

/-- A word of the icon store rewritten through the loader's port. -/
def State.healIcon (s : State) (a : Nat) : State :=
  let i := a / 8
  let k := decodeSyn (Sparse.get 0 s.iconSyn i).toNat
  if k = .ue ∨ k = .clean then s
  else { s with icons := Sparse.set 0 s.icons i (BitVec.ofNat 64 (correct (Sparse.get 0 s.icons i).toNat k)),
                iconSyn := Sparse.set 0 s.iconSyn i 0 }

/-- TRANSIENT_SCRUB of the i-th location that waits; `met` tells that another write reached the word, and then the scrub's write is
discarded. -/
def execTransientScrub (i : Nat) (met : Bool) (s : State) : Host.Outcome State Fault Refusal :=
  match s.gard.scrubs[i]? with
  | none => .next s
  | some r =>
    if s.gardState = gardHALTED ∨ (r.kind = clsPLANE ∧ !s.tileQuiet (tileOfAddr r.word)) ∨
        (r.kind = clsDRAM ∧ (s.fget DRAM_STAT.TRAIN ≠ 2 ∨ s.fget DRAM_STAT.SREF = 1)) then .next s
    else
      let s1 := (s.withGard (fun g => { g with scrubs := g.scrubs.eraseIdx i })).freePlace r
      if met then .next s1
      else
        let s2 := if r.kind = clsICON then s1.healIcon r.loc else (scrubWords r).foldl State.healWord s1
        .next ((s2.ledger 4 0 16 1).event 276)

/-- IMAGE_COPY_REPAIR: the oldest UE word of the image copy is read again from the slot and written back. -/
def execImageCopyRepair (s : State) : Host.Outcome State Fault Refusal :=
  match s.gard.repairs with
  | a :: l =>
    if s.gardState = gardHALTED ∨ s.fget DRAM_STAT.SREF = 1 then .next s
    else .next (((s.withGard (fun g => { g with repairs := l })).freePlace { cls := clsUE, kind := clsDRAM, loc := a, ue := true }).putWord a
      (s.plan.copyWord a))
  | [] => .next s

/- Steps 4 and 5 of a warm restart (R427, R428). -/

/-- WARM_DRAM_BACK: DRAM leaves self refresh, or fails to and the device makes a cold reset. -/
def execWarmDramBack (ok : Bool) (s : State) : Host.Outcome State Fault Refusal :=
  if s.warm ≠ 1 then .next s
  else if ok then .next { s.fsets [(DRAM_STAT.SREF, 0), (LOAD_STAT.STATE, 5)] with warm := 4 }
  else .next (s.coldReset 5)

/-- WARM_TELLTALE_CHECK_DONE: the overlay and the tally resume. -/
def execWarmTelltaleCheckDone (s : State) : Host.Outcome State Fault Refusal :=
  if s.warm ≠ 4 then .next s else .next { s with warm := 5, overlayOff := false }

/- The switches of step 3 of the tick edge (R422). -/

/-- The events, routes, layers and deal boxes of Dealer n move to Dealer m (R235, R288); the edge mode goes with a standby (R54). -/
def State.moveRoutes (s : State) (n m : Dealer) : State :=
  (rangeFrom 0 320).foldl (fun t e =>
    if t.fget (EVT_ROUTE.KIND e) = 1 ∧ t.fget (EVT_ROUTE.DEALER e) = n.val then t.fset (EVT_ROUTE.DEALER e) m.val else t) s

def State.moveOwners (s : State) (n m : Dealer) : State :=
  let s1 := (rangeFrom 0 6).foldl (fun t p => (rangeFrom 0 16).foldl (fun u l =>
    if u.fget (DSP_LAYER.OWNER p l) = n.val then u.fset (DSP_LAYER.OWNER p l) m.val else u) t) s
  (rangeFrom 0 64).foldl (fun t b => if t.fget (TELL_DBOX_W0.OWNER b) = n.val then t.fset (TELL_DBOX_W0.OWNER b) m.val else t) s1

/-- The edge mode goes with a standby, as the Gardener sets it again after a warm restart (R54, R429). -/
def State.carryEdge (s : State) (n m : Dealer) : State :=
  if s.fget ARRAY_MODE.MODE = 0 then s
  else
    let w := s.reg (ARRAY_EDGE.reg n)
    (s.setReg (ARRAY_EDGE.reg m) w).withGard (fun g => { g with edges := g.edges ++ [(ARRAY_EDGE.reg m, w)] })

/-- A Dealer is retired: it issues nothing more. -/
def State.retire (s : State) (n : Dealer) : State :=
  let s1 := s.fsets [(LVLSTAT.ACTIVE n, 0), (LVLSTAT.CUR n, 0)]
  (s1.setDl n { s1.dl n with live := false, startDue := false, pendMC := none, again := none, reload := false,
                             arrayHeld := 0, cutDue := false, recover := false }).setRole n 2

/-- A lost Dealer is replaced, retired, tolerated, or leaves its region without a deal (R423, R424). -/
def State.applyLoss (s : State) (n : Dealer) : State :=
  if s.role n = 2 then s
  else if s.role n = 1 then s.retire n
  else match s.replacement n with
    | some m =>
      let s1 := ((s.retire n).moveRoutes n m).carryEdge n m
      let s2 := if s.fget ARRAY_MODE.MODE = 0 then s1.setFbit (DEAL_COND.COND m) 1 true
        else (s1.setRole m 0).setDl m { s1.dl m with tickEnd := 3, startDue := true }
      let s3 := ((s2.ledger 5 16 8 1).event 277).withGard (fun g => { g with moves := g.moves ++ [(n, m)] })
      if (s3.replacement m).isNone then s3.event 287 else s3
    | none =>
      if (s.dl n).halted then s.settle
      else if s.fget ARRAY_MODE.MODE = 0 then (if s.gardState = gardSETTLED then s.retire n else (s.retire n).settle)
      else (s.setRole n 3).event 287

/-- A tile is pruned: its port absorbs from now on, answering first the requests the tile had not answered, and a copy in it is abandoned (R78,
R374, R375, R422). -/
def State.applyTilePrune (s : State) (t : Nat) : State :=
  let s1 := if t < 32 then s.setFbit ARRAY_PRUNE_LO.PRUNED t true else s.setFbit ARRAY_PRUNE_HI.PRUNED (t - 32) true
  let s2 := (s1.fset (ARRAY_TMAP.STATE t) 1).withGard (fun g => { g with copies := g.copies.filter (fun c => c.tile != t) })
  let s3 := { s2 with raised := setNatBit s2.raised t false }.setFbit (TRL_RTR.ABSP (tileRouter t)) (4 + tilePort t) true
  ((s3.ledger 6 0 8 1).event 278).beginAbsorb (tileRouter t, tilePort t) (fun _ => true)

/-- The row words of a tile with position `col` corrected: the bit now comes from a column that was copied through the word code. -/
def State.healColumn (s : State) (t col : Nat) : State :=
  (s.syn.filter (fun p => decide (regionOf (8 * p.1) = .plane) && tileOfAddr (8 * p.1) == t)).foldl (fun u p =>
    let a := 8 * p.1
    match decodeSyn p.2.toNat with
    | .ce1 i => if i = col then u.healWord a else u
    | .ce2 i j =>
      if i = col ∨ j = col then
        (u.setBytes a (bytesOfNat 8 (flipPos (u.wordData a) col))).setSyn p.1 (BitVec.ofNat 16 (p.2.toNat ^^^ bitSyndrome col))
      else u
    | _ => u) s

/-- Row words of a column. -/
def columnWords : Nat := 131072

/-- A complete copy switches in, unless a CTU of the tile is busy (R76, R77).  The switch takes the column's contents as they are then, also when
it was deferred to a later edge (log entry 130). -/
def State.applyColumn (s : State) (c : ColCopy) : State :=
  if c.prog < columnWords ∨ s.fget (CTU_STAT.BUSY c.tile) = 1 ∨ s.pruned c.tile then s
  else
    let s1 := s.withGard (fun g => { g with copies := g.copies.filter (fun d => d != c) })
    let old := if s1.fget (ARRAY_TMAP.G0V c.tile) = 1 ∧ s1.fget (ARRAY_TMAP.G0COL c.tile) = c.col then s1.fset (ARRAY_TMAP.G0V c.tile) 0
      else if s1.fget (ARRAY_TMAP.G1V c.tile) = 1 ∧ s1.fget (ARRAY_TMAP.G1COL c.tile) = c.col then s1.fset (ARRAY_TMAP.G1V c.tile) 0 else s1
    let s2 := if c.dummy = 0 then old.fsets [(ARRAY_TMAP.G0V c.tile, 1), (ARRAY_TMAP.G0COL c.tile, c.col)]
      else old.fsets [(ARRAY_TMAP.G1V c.tile, 1), (ARRAY_TMAP.G1COL c.tile, c.col)]
    let s3 := ((s2.healColumn c.tile c.col).ledger 5 0 8 1).event 277
    if (s3.freeDummy c.tile).isNone then s3.event 287 else s3

/-- The nursery switches in when its copy of the bank is complete. -/
def State.applyNursery (s : State) : State :=
  match s.gard.graft with
  | some b => if s.fget (BANK_STAT.WEED b) = weedCOPY ∧ s.weedAt = bankWords then s.graftNursery b else s
  | none => s

/-- Reserve mode begins (R349). -/
def State.applySuit (s : State) : State :=
  match s.gard.suit with
  | some u =>
    ((s.fsets [(DRAM_STAT.RSV, 1), (DRAM_STAT.RSUIT, u)]).withGard (fun g => { g with suit := none })).ledger 6 24 8 1 |>.event 287
  | none => s

/-- The conditions of Dealer n's deal; EV279 where they change (R251, R252). -/
def State.applyCond (s : State) (n : Dealer) : State :=
  if !s.drives n then s
  else
    let pr := (rangeFrom 0 64).filter (fun t => natBit (s.region n) (tileQuad t) && s.pruned t)
    let old := s.fget (DEAL_COND.COND n)
    let new := old ||| b2n (pr.length == 1) ||| (if s.fget DRAM_STAT.RSV = 1 then 4 else 0)
    let s1 := s.fset (DEAL_COND.COND n) new
    let s2 := match pr with
      | t :: _ => if s1.fget (DEAL_COND.PTV n) = 0 then s1.fsets [(DEAL_COND.PTV n, 1), (DEAL_COND.PTILE n, t)] else s1
      | [] => s1
    if new = old ∧ !(natBit old 1 && s.gard.lost.contains (partner n)) then s2 else s2.event 279

/-- A waiting prune of a bank with a driving Dealer's area that has lost that Dealer's replacement since its judgement. -/
def State.pruneBarred (s : State) (b : Nat) : Bool :=
  allDealers.any (fun n => s.drives n && s.holdsFor n b && (match s.replacement n with | some m => s.areaGone m | none => true))

/-- Such a prune is not made, and a Dealer that it alone would make lost is not lost; the fault is tolerated while it is correctable, and the
Gardener settles otherwise (R420, R421). -/
def State.dropPrunes (s : State) : State :=
  let barred := s.gard.bankPrunes.filter s.pruneBarred
  let freed := s.gard.bankLost.filter (fun x => barred.contains x.2.1)
  let s1 := s.withGard (fun g => { g with bankPrunes := g.bankPrunes.filter (fun b => !barred.contains b),
                                          lost := g.lost.filter (fun n => !freed.any (fun x => x.1 == n)) })
  freed.foldl (fun t x => if x.2.2 then t.settle else t.event 287) s1

/-- The Gardener's changes of step 3, in the order of R422; a halted Gardener makes none (R426). -/
def State.applyEdge (s0 : State) : State :=
  if s0.gardState = gardHALTED then s0
  else
  let s := s0.dropPrunes
  let from0 := s.gard.moves.length
  let s1 := s.gard.lost.foldl State.applyLoss s
  let s2 := s1.gard.bankPrunes.foldl State.pruneBank (s1.gard.tilePrunes.foldl State.applyTilePrune s1)
  let s3 := (s2.gard.copies.foldl State.applyColumn s2).applyNursery.applySuit
  let s4 := ([0, 1, 2, 3] : List Dealer).foldl State.applyCond s3
  let s5 := (s4.gard.moves.drop from0).foldl (fun t p => t.moveOwners p.1 p.2) s4
  s5.withGard (fun g => { g with lost := [], bankLost := [], tilePrunes := [], bankPrunes := [] })

end Sys2Proof.Machine
end

