-- ==== Sys2Proof/Machine/Ticks.lean ====
section
/-!
DEFINITION. Frame ticks and deals (spec/08 R237 to R264): tick edges and their sources, the cut of an overrun, the switch of step 3, the start
of a deal, PHASE and DEND, and the sprout ramp.
-/
namespace Sys2Proof.Machine

open Sys2Proof

/-- L0 of a Dealer that still runs is active.  A Dealer halted by ROOT_PARITY makes no overrun (DESIGN CHOICE, log entry 170). -/
def State.l0Runs (s : State) (n : Dealer) : Bool := s.levelActive n 0 && !(s.dl n).halted

/- The tick edge, step 1 (R255). -/

/-- An overrun is detected: from here L0 waits for its cut (R257). -/
def State.noteOverrun (s : State) (n : Dealer) : State :=
  if s.l0Runs n then
    let s1 := s.setDl n { s.dl n with cutDue := true }
    (((s1.fset (DEAL_STAT.OVRPH n) (s.fget (DEAL_STAT.PHASE n))).bump (DEAL_OVR.OVERRUNS n) 1).ledger 3 0 16 1).event 168
  else s

/-- The front buffers swap, hand-offs settle, and the write buffers are chosen; at the changeover the full layers replace the early ones
(R285, R286, R314, R482). -/
def State.edgeBuffers (s : State) : State :=
  let s1 := ((rangeFrom 0 6).foldl State.swapPipe s).settleBoxes
  let change := s1.mainRead && !s1.full && s1.fget LOAD_STAT.STATE == 1
  let s2 := if change then
      let t := ({ s1 with full := true }).milestone 6
      let u := t.usedPipes.foldl State.uncoverBands t
      allDealers.foldl (fun v n => v.setDl n { v.dl n with tickEnd := 3 }) u
    else s1
  (rangeFrom 0 6).foldl State.chooseBuffers s2

/-- The seconds that ledger word 10 shows at a time. -/
def State.ledgerSeconds (s : State) (t : Nat) : Nat := min (2 ^ 32 - 1) ((t - s.resetAt) / 1000000000)

/-- LEDGER_UPDATE for the interval that ends, of `len` cycles and begun at `since` (R431): EV281 where a word, word 10 included, has
changed. -/
def State.edgeLedger (s : State) (len since : Nat) : State :=
  let ms := (len + 999999) / 1000000
  let s1 := if s.lacks then (if s.warm ≠ 0 then (s.ledger 0 0 32 ms).ledger 1 0 32 ms else s.ledger 0 0 32 ms) else s
  let s2 := if s1.ledgerDirty || s1.ledgerSeconds since != s1.ledgerSeconds s1.now then { s1 with ledgerDirty := false }.event 281 else s1
  { s2 with lacks := false }

/-- A Dealer's own state at the edge: its count of cycles restarts, its ramp begins, and the count of ticks with a deal restart goes on
or ends (R262, R425). -/
def State.edgeDealer (s : State) (n : Dealer) : State :=
  let d := s.dl n
  s.setDl n { d with cyc := 0, drainTo := d.drainTo - d.cyc, ramping := s.drives n, lowering := false,
                     restartRun := if d.restarted then d.restartRun + 1 else 0, restarted := false }

/-- Dealer n owns a layer marked as safety content (R425). -/
def State.ownsSafety (s : State) (n : Dealer) : Bool :=
  (rangeFrom 0 6).any (fun p => (rangeFrom 0 16).any (fun l =>
    natBit (s.plan.safety.getD p 0).toNat l && s.fget (DSP_LAYER.OWNER p l) == n.val))

/-- The warm restart of cause RESTARTS: a fourth consecutive tick with a deal restart (R425). -/
def State.edgeRestarts (s : State) : State :=
  if allDealers.any (fun n => s.drives n && decide (4 ≤ (s.dl n).restartRun) && s.ownsSafety n) then
    (allDealers.foldl (fun t n => t.setDl n { t.dl n with restartRun := 0 }) s).warmRestart 1
  else s

/-- Step 8 of a warm restart begins at the first edge after step 7; steps 2 and 3 of an edge do not run before it (R427). -/
def State.edgeWarm (s : State) : State :=
  if s.warm = 7 then
    { allDealers.foldl (fun t n => t.setDl n { t.dl n with tickEnd := 3, recover := false }) s with warm := 8, switching := true }
  else { s with switching := decide (s.warm = 0 ∨ s.warm = 8) }

/-- The time of a tick edge `len` cycles after the one before, from which the events and cycles of the tick count. -/
def State.startTick (s : State) (len : Nat) : State :=
  let t := max s.now (s.edgeAt + len)
  { s with now := t, edgeAt := t, evAcc := [], fallow := false, edgeHeld := false }

/-- A tick edge `len` cycles after the one before: EV164, TICK_COUNT, the latches, overruns, buffers, hand-offs, jobs and the ledger
(R240, R255). -/
def State.tickEdge (s : State) (len : Nat) : State :=
  let s1 := (s.event 164).fsets [(TICK_COUNT.COUNT, s.fget TICK_COUNT.COUNT + 1), (TICK_LAST.CYCLES, len)]
  let s2 := (s1.startTick len).latchCameras.latchLayers
  let s3 := (allDealers.foldl State.noteOverrun s2).edgeBuffers
  let s4 := ((rangeFrom 0 4).foldl State.jobsEdge s3).edgeLedger len s.edgeAt
  let s5 := s4.withGard (fun g => { g with copies := g.copies.map (fun c => if c.prog < columnWords then { c with prog := 0 } else c) })
  ((allDealers.foldl State.edgeDealer s5).edgeRestarts).edgeWarm

/- Tick sources (R237 to R239, R478). -/

/-- The longest time from an edge to the next under DSP0: the timer makes the edge at TICK_MAX, or at TICK_NOM while it stands in (R23, R239). -/
def State.tickLimit (s : State) : Nat :=
  if s.fget TICK_STAT.ONTIMER = 1 then s.fget TICK_NOM.CYCLES else s.fget TICK_MAX.CYCLES

/-- DSP0, the tick source, has a frame to begin (R24, R237). -/
def State.dsp0Frame (s : State) : State := s.setPipe 0 { s.pipe 0 with sent := false }

/-- TICK_EDGE: DSP0's frame start `cycles` after the previous edge, held when it comes too early (R238, R239), and none once the timer has made
the edge (R23); with SRC TIMER, the tick timer's edge. -/
def execTickEdge (cycles : BitVec 25) (s : State) : Host.Outcome State Fault Refusal :=
  let c := cycles.toNat
  if !s.ticking then .next s
  else if s.fget TICK_CFG.SRC = 1 then .next (s.tickEdge (s.fget TICK_NOM.CYCLES))
  else if s.edgeHeld || decide (s.tickLimit < c) then .next s
  else if c < s.fget TICK_MIN.CYCLES then
    if s.fget TICK_STAT.ONTIMER = 1 then .next s.dsp0Frame else .next { s.dsp0Frame.bump TICK_STAT.HOLDS 1 with edgeHeld := true }
  else .next ((s.fset TICK_STAT.ONTIMER 0).tickEdge c).dsp0Frame

/-- TICK_TIMER_EXPIRY: TICK_NOM cycles expire with SRC TIMER, or while the timer stands in for DSP0. -/
def execTickTimerExpiry (s : State) : Host.Outcome State Fault Refusal :=
  if !s.ticking then .next s
  else if s.fget TICK_CFG.SRC = 1 then .next (s.tickEdge (s.fget TICK_NOM.CYCLES))
  else if s.fget TICK_STAT.ONTIMER = 1 then .next ((s.bump TICK_STAT.MISSES 1).tickEdge (s.fget TICK_NOM.CYCLES))
  else .next s

/-- TICK_MAX_EXPIRY: no frame start of DSP0 within TICK_MAX. -/
def execTickMaxExpiry (s : State) : Host.Outcome State Fault Refusal :=
  if !s.ticking || s.fget TICK_CFG.SRC == 1 || s.fget TICK_STAT.ONTIMER == 1 || s.edgeHeld then .next s
  else .next ((((s.event 165).fset TICK_STAT.ONTIMER 1).bump TICK_STAT.MISSES 1).tickEdge (s.fget TICK_MAX.CYCLES))

/-- TICK_HOLD_EXPIRY: the held edge occurs TICK_MIN cycles after the previous one. -/
def execTickHoldExpiry (s : State) : Host.Outcome State Fault Refusal :=
  if s.ticking ∧ s.edgeHeld then .next (s.tickEdge (s.fget TICK_MIN.CYCLES)) else .next s

/-- FIRST_TICK_EDGE: every tell-tale pipe's link is up, or the bound of step 6 (`bound`) has come, in early mode; DSP0 as the tick source begins
its first frame (R478, R483).  The loader has locked the CLK block by then (R460; log entry 146). -/
def execFirstTickEdge (bound : Bool) (s : State) : Host.Outcome State Fault Refusal :=
  let up := s.usedPipes.all (fun p => !s.carriesTell p || s.fget (DSP_STAT.LINKUP p) == 1)
  if s.ticking ∨ (s.fget LOAD_STAT.STATE ≠ 1 ∧ s.fget LOAD_STAT.STATE ≠ 3) ∨ (!bound ∧ !up) then .next s
  else
    let t := { s with ticking := true, edgeAt := s.now, locks := s.locks ||| 2 ^ blockOf (CLK_SEL.reg 0) }.milestone 2 |>.tickEdge 0
    .next (if s.frameLocked 0 ∨ !s.pipeUsed 0 then t else t.frameStart 0)

/- Steps 2 and 3. -/

/-- OVERRUN_CUT of Dealer n: L0 is cut where it stands (R257, R258); a higher level that preempted it goes on as it stands.  The first deal after
the changeover still finds 0b11 (R242, R482). -/
def execOverrunCut (n : Dealer) (s : State) : Host.Outcome State Fault Refusal :=
  if !s.switching || !s.l0Runs n || s.levelActive n 7 || (s.dl n).pendMC.isSome then .next s
  else
    let s1 := (s.setFbit (LVLSTAT.ACTIVE n) 0 false).fset (DEAL_USED.CYCLES n) (ones 25)
    let d := s1.dl n
    let s2 := s1.setDl n { d with tickEnd := if d.tickEnd = 3 then 3 else 1, again := if s.lvl n = 0 then none else d.again,
                                  arrayHeld := setNatBit d.arrayHeld 0 false, cutDue := false }
    .next (if s.lvl n = 0 then s2.runNext n else s2)

/-- The early entry runs in place of a variant (R479). -/
def State.early (s : State) : Bool := !s.full

/-- The offset in the deal header of the entry the next deal start uses (R241, R242, R479). -/
def State.dealEntry (s : State) (n : Dealer) : Nat := if s.early then 0x80 else 16 * s.fget (DEAL_COND.COND n)

/-- Dealer n starts no deal: its variant is not present, or a second tile of its region is pruned (R253). -/
def State.noDeal (s : State) (n : Dealer) : Bool :=
  !natBit (s.wordData (dealBase n + s.dealEntry n)) 31 || (!s.early && decide (2 ≤ (s.prunedIn (s.region n)).length))

/-- Every driving Dealer has ended its deal, or runs none (R264). -/
def State.allEnded (s : State) : Bool :=
  allDealers.all (fun n => !s.drives n || (s.dl n).halted ||
    (!(s.dl n).startDue && (s.fget (DEAL_STAT.PHASE n) == 4 || s.fget (DEAL_STAT.PHASE n) == 5)))

/-- The device fallow begins (R264). -/
def State.noteFallow (s : State) : State :=
  if s.fallow || s.switching || !s.allEnded then s else { s.event 166 with fallow := true }

/-- A tick in which Dealer n starts no deal: the hold ends with step 3, and the Gardener settles (R253, R261). -/
def State.skipDeal (s : State) (n : Dealer) : State :=
  let s1 := s.fsets [(DEAL_STAT.PHASE n, 5), (DEAL_STAT.LASTEND n, (s.dl n).tickEnd), (DEAL_USED.CYCLES n, ones 25)]
  let s2 := s1.setDl n { s1.dl n with tickEnd := 2, recover := true, cutDue := false, startDue := false, ramping := false }
  if s.gardState = gardSETTLED then s2 else s2.settle

/-- The unpruned tiles of Dealer n's region that its ramp has still to raise. -/
def State.toRaise (s : State) (n : Dealer) : List Nat :=
  (rangeFrom 0 64).filter (fun t => natBit (s.region n) (tileQuad t) && s.rampTile t && !natBit s.raised t)

/-- Step 3 ends for Dealer n: its deal is due, or it starts none; a ramp with nothing to raise ends (R253, R261). -/
def State.afterSwitch (s : State) (n : Dealer) : State :=
  if !s.drives n || (s.dl n).halted then s
  else if s.noDeal n then s.skipDeal n
  else s.setDl n { s.dl n with startDue := true, ramping := !(s.toRaise n).isEmpty }

/-- EDGE_SWITCH: every Dealer has ended its step 2; the Gardener applies its changes for the whole device (R255, R422). -/
def execEdgeSwitch (s : State) : Host.Outcome State Fault Refusal :=
  if !s.switching || allDealers.any (fun n => s.l0Runs n || (s.levelActive n 7 && !(s.dl n).halted)) then .next s
  else
    let s1 := { s.applyEdge with switching := false }
    let s2 := { s1 with rampAll := s1.rampAll || s1.trained }
    .next (allDealers.foldl State.afterSwitch s2).noteFallow

/- Step 4: the start of a deal (R242). -/

/-- M is 1 in every PE of a set of quadrants (R96). -/
def State.setM (s : State) (q : Nat) : State := { s with mrow := s.mrow.filter (fun p => !natBit q (peQuad (p.1 / 8) (64 * (p.1 % 8)))) }

/-- The deal of Dealer n starts (R96, R242, R252). -/
def State.startDeal (s : State) (n : Dealer) : State :=
  let d := s.dl n
  let e := dealBase n + s.dealEntry n
  let v := if s.early then 0 else s.fget (DEAL_COND.COND n)
  let rec_ := d.recover
  let changed := v ≠ s.fget (DEAL_STAT.VAR n)
  let pc := natBits (s.wordData e) (if rec_ then 34 else 2) 16 * 4
  let b := s.bankAt n 0
  let w1 := d.tickEnd + (if changed ∧ d.tickEnd ≠ 3 ∧ !s.early then 4 else 0)
  let w := ((b.w.set 1 (BitVec.ofNat 32 w1)).set 2 (s.reg TICK_COUNT.reg)).set 3 (BitVec.ofNat 32 v)
  let s1 := (s.setM (s.region n)).setBankAt n 0 { b with w := w, st := s.stFor n 0 0, pc := BitVec.ofNat 32 pc }
  let s2 := s1.setDl n { s1.dl n with msp := 0, live := true, startDue := false, recover := false, cutDue := false, tickEnd := 1 }
  let s3 := s2.fsets [(LVLSTAT.ACTIVE n, 1), (LVLSTAT.CUR n, 0), (DEAL_STAT.PHASE n, 0), (DEAL_STAT.VAR n, v), (DEAL_STAT.LASTEND n, d.tickEnd),
    (DEAL_BUDGET.CYCLES n, natBits (s.wordData (e + 8)) 0 25), (DEAL_PHT.CYCLES n 0, 0), (DEAL_PHT.CYCLES n 1, 0), (DEAL_PHT.CYCLES n 2, 0)]
  let s4 := if rec_ then s3.dealerEvent n 7 else s3
  let s5 := if v ≠ 0 ∧ (changed ∨ d.tickEnd = 3) then s4.event 169 else s4
  { s5 with started := true }

/-- DEAL_START of Dealer n: when step 3 has ended and no higher level is active. -/
def execDealStart (n : Dealer) (s : State) : Host.Outcome State Fault Refusal :=
  if !(s.dl n).startDue || s.switching || (s.dl n).halted || !s.drives n || s.fget (LVLSTAT.ACTIVE n) != 0 then .next s
  else if s.noDeal n then .next (s.skipDeal n).noteFallow
  else .next (s.startDeal n)

/- PHASE and DEND (R243, R244). -/

/-- PHASE: the phase is set and its time recorded, 1 cycle. -/
def execPhase (n : Dealer) (op : SOp) (s : State) : Host.Outcome State Fault Refusal :=
  let k := op.fld 0 3
  runScalar n op s
    (firstTrap [(sysReserved op false false 7 || s.lvl n != 0 || k == 0 || decide (4 ≤ k) || decide (k ≤ s.fget (DEAL_STAT.PHASE n)),
      illReserved (op.word 2 0x30)), s.endTrap n op])
    (fun s => (s.fsets [(DEAL_STAT.PHASE n, k), (DEAL_PHT.CYCLES n (k - 1), s.sinceEdge n)]).advance n op 1)

/-- DEND: the deal's work for the tick ends, 1 cycle; the last one of the driving Dealers begins the device fallow. -/
def execDend (n : Dealer) (op : SOp) (s : State) : Host.Outcome State Fault Refusal :=
  let w := op.word 2 0x31
  runScalar n op s
    (firstTrap [(sysReserved op false false 0 || s.lvl n != 0, illReserved w), ((s.dl n).msp != 0, { code := trapBounds, info := w })])
    (fun s =>
      let used := s.sinceEdge n
      let s1 := s.fsets [(DEAL_STAT.PHASE n, 4), (DEAL_USED.CYCLES n, used), (DEAL_PEAK.CYCLES n, max used (s.fget (DEAL_PEAK.CYCLES n)))]
      let s2 := (s1.charge n 1).dealerEvent n 5
      let s3 := s2.setFbit (LVLSTAT.ACTIVE n) 0 false
      ((s3.setDl n { s3.dl n with tickEnd := 0 }).runNext n).noteFallow)

/- The sprout ramp (R260 to R263). -/

/-- A tile is raised; a column copy in it is abandoned (R76, R266). -/
def State.raiseTile (s : State) (t : Nat) : State :=
  let s1 := { s with raised := setNatBit s.raised t true }
  s1.withGard (fun g => { g with copies := g.copies.map (fun c : ColCopy => if c.tile = t ∧ c.prog < columnWords then { c with prog := 0 } else c) })

/-- What one quadrant does at a grid point: its Dealer's ramp raises its lowest lowered tile, or its Dealer's lowering lowers its highest
raised one. -/
def State.gridQuad (s : State) (q : Nat) : State :=
  match allDealers.find? (fun n => natBit (s.region n) q) with
  | none => s
  | some n =>
    let d := s.dl n
    if d.ramping then
      match (s.toRaise n).find? (fun t => tileQuad t == q) with
      | some t => s.raiseTile t
      | none => s
    else if d.lowering then
      match ((rangeFrom 0 64).filter (fun t => tileQuad t == q && natBit s.raised t)).getLast? with
      | some t => { s with raised := setNatBit s.raised t false }
      | none => s
    else s

/-- GRID_POINT: the ramp of a Dealer with every tile raised ends; then each quadrant changes at most one tile. -/
def execGridPoint (s : State) : Host.Outcome State Fault Refusal :=
  if s.switching then .next s
  else
    let s1 := allDealers.foldl (fun t n =>
      if (t.dl n).ramping ∧ (t.toRaise n).isEmpty then t.setDl n { t.dl n with ramping := false } else t) s
    .next ((rangeFrom 0 4).foldl State.gridQuad s1)

/-- TILE_LOWER_IDLE_EXPIRY of Dealer n: 4,096 cycles of its fallow window with no array instruction. -/
def execTileLowerIdleExpiry (n : Dealer) (s : State) : Host.Outcome State Fault Refusal :=
  if !s.dealerFallow n || (s.dl n).ramping then .next s else .next (s.setDl n { s.dl n with lowering := true })

/-- ARRAY_HOLD_RELEASE of Dealer n: the held array instruction of each level may be checked and start. -/
def execArrayHoldRelease (n : Dealer) (s : State) : Host.Outcome State Fault Refusal :=
  if s.mustHold n then .next s else .next (s.setDl n { s.dl n with arrayHeld := 0 })

/- Events (R208). -/

/-- A reserved source, which is never raised (R236). -/
def reservedSource (e : Nat) : Bool :=
  (decide (213 ≤ e) && decide (e ≤ 227)) || (decide (257 ≤ e) && decide (e ≤ 259)) || e == 274 || e == 275 ||
    (decide (288 ≤ e) && decide (e ≤ 291))

/-- EVENT_ASSERT of source e. -/
def execEventAssert (e : Fin 320) (s : State) : Host.Outcome State Fault Refusal :=
  if reservedSource e.val then .next s else .next (s.event e.val)

end Sys2Proof.Machine
end

