-- ==== Sys2Proof/Machine/Background.lean ====
section
/-!
DEFINITION. Background work (spec/08 R265 to R267, spec/02 R76, spec/14 R415): plane scrub, the location of a UE by test, column copies,
and the step that names its work.
-/
namespace Sys2Proof.Machine

open Sys2Proof

/-- A column that failed the test is acted on as a lasting PLANE fault; 64 and 65 are the dummy columns (R415). -/
def State.testedColumn (s : State) (t word : Nat) (c : Fin 66) : State :=
  let loc := if c.val < 64 then 64 * t + c.val else 4096 + 64 * t + (c.val - 64)
  let r : Report := { cls := clsUE, kind := clsPLANE, loc := loc, word := word }
  if s.outOfService r then s
  else if c.val < 64 then s.graftColumn t c.val r
  else s.dummyFault t (c.val - 64) r

/-- The first row word of tile t that waits to be located by test: it is rewritten with D = 0, and each failing column is acted on; where
none fails the ledger counts the report (R415). -/
def State.locateUE (s : State) (t word : Nat) (bad : List (Fin 66)) : State :=
  let s0 := s.withGard (fun g => { g with tests := g.tests.filter (fun a => a != word), held := g.held.filter (fun p => !(p.ue && p.word == word)) })
  let s1 := s0.putWord word 0
  if bad.isEmpty then s1.ledger 8 16 16 1 else bad.foldl (fun u c => u.testedColumn t word c) s1

/-- The next row word of a tile's scrub pass is scrubbed; EV284 when every unpruned tile has ended its pass (R267). -/
def State.scrubPlane (s : State) (t : Nat) : State :=
  let i := Sparse.get 0 s.gard.scrubPos t
  let a := rowWordAddr (i / 64) (64 * (t / 8) + i % 64) (t % 8)
  let s1 := if i / 64 < 1983 then s.scrubWord a else s
  if i + 1 < columnWords then s1.withGard (fun g => { g with scrubPos := Sparse.set 0 g.scrubPos t (i + 1) })
  else
    let s2 := s1.withGard (fun g => { g with scrubPos := Sparse.set 0 g.scrubPos t 0, scrubDone := t :: g.scrubDone.filter (fun u => u != t) })
    if (rangeFrom 0 64).all (fun u => s2.pruned u || s2.gard.scrubDone.contains u) then
      (s2.withGard (fun g => { g with scrubDone := [] })).event 284
    else s2

/-- A step of the Gardener at the plane port of a lowered tile in its fallow window. -/
def State.planeStep (s : State) (t : Nat) (bad : List (Fin 66)) : State :=
  if s.pruned t || !s.tileQuiet t || s.gardState == gardHALTED then s
  else match s.gard.tests.find? (fun a => tileOfAddr a == t) with
    | some word => s.locateUE t word bad
    | none => s.scrubPlane t

/-- PLANE_SCRUB_STEP at tile t; `bad` lists the columns that fail when the step tests a row word. -/
def execPlaneScrubStep (t : Fin 64) (bad : List (Fin 66)) (s : State) : Host.Outcome State Fault Refusal := .next (s.planeStep t.val bad)

/-- The copy of tile t under way moves on by 64 row words, or starts again when the window ends (R76). -/
def State.copyStep (s : State) (t : Nat) (ended : Bool) : State :=
  match s.gard.copies.find? (fun c => c.tile == t) with
  | none => s
  | some c =>
    if c.prog = columnWords ∨ !s.tileQuiet t ∨ s.gardState = gardHALTED then s
    else
      let p := if ended then 0 else min columnWords (c.prog + 64)
      s.withGard (fun g => { g with copies := g.copies.map (fun d => if d = c then { d with prog := p } else d) })

/-- GRAFT_COPY_STEP of tile t; `ended` tells that the fallow window ends. -/
def execGraftCopyStep (t : Fin 64) (ended : Bool) (s : State) : Host.Outcome State Fault Refusal := .next (s.copyStep t.val ended)

/-- BACKGROUND_STEP: the work's step runs in its window, or yields its unit: a column copy then starts again later, other work pauses
(R266).  Telemetry shows in registers that hold their values in the state. -/
def execBackgroundStep (work : BgWork) (yields : Bool) (s : State) : Host.Outcome State Fault Refusal :=
  match work with
  | .planeScrub t bad => .next (if yields then s else s.planeStep t.val bad)
  | .columnCopy t => .next (s.copyStep t.val yields)
  | .weeding b faulty => .next (if yields then s else s.weedStep b faulty)
  | .dramScrub => .next (if yields then s else s.dramScrub)
  | .telemetry => .next s

/-- BACKGROUND_YIELD_OVERDUE: a step at the unit whose block has event source e did not yield in time: EV167 and a report (R266, R414). -/
def execBackgroundYieldOverdue (e : Fin 320) (s : State) : Host.Outcome State Fault Refusal :=
  .next ((s.event 167).report { cls := 10, kind := 10, loc := e.val })

end Sys2Proof.Machine
end

