-- ==== Sys2Proof/Machine/Microcode.lean ====
section
/-!
DEFINITION. Microcode (spec/05 R147 to R176) and the customer opcodes (spec/03 R114 to R117): the microword's fields, one cycle of the
array under a microword (spec/02 R41 to R65), the sequencer, dispatch and its checks, illegal opcodes, machine checks and the root's
reloads, and the loader's writes of microwords.
-/
namespace Sys2Proof.Machine

open Sys2Proof

/- Fields of a microword (R153). -/

def uNAM (w : Nat) : Nat := natBits w 0 3
def uCOND (w : Nat) : Nat := natBits w 3 3
def uLCSEL (w : Nat) : Nat := natBits w 6 2
def uLCLD (w : Nat) : Bool := natBit w 8
def uLCVAL (w : Nat) : Nat := natBits w 9 3
def uSAMPLE (w : Nat) : Bool := natBit w 12
def uESAMP (w : Nat) : Bool := natBit w 13
def uTARGET (w : Nat) : Nat := natBits w 16 14
def uROOT (w : Nat) : Bool := natBit w 30
def uXSRC (w : Nat) : Nat := natBits w 32 3
def uDIR (w : Nat) : Nat := natBits w 35 2
def uMODE (w : Nat) : Nat := natBits w 37 2
def uFN (w : Nat) : Nat := natBits w 39 4
def uSHCOL (w : Nat) : Nat := natBits w 43 1
def uHAND (w : Nat) : Nat := natBits w 44 4
def uWT (w : Nat) : Bool := natBit w 48
def uWL (w : Nat) : Bool := natBit w 49
def uWM (w : Nat) : Bool := natBit w 50
def uWC (w : Nat) : Bool := natBit w 51
def uMSPOP (w : Nat) : Nat := natBits w 52 2
def uSCOM (w : Nat) : Nat := natBits w 54 4
def uEBIT (w : Nat) : Nat := natBits w 58 3
def uRAM (w : Nat) : Nat := natBits w 64 3
def uROFF (w : Nat) : Nat := natBits w 67 11
def uRIDX (w : Nat) : Nat := natBits w 78 2
def uWAM (w : Nat) : Nat := natBits w 80 3
def uWOFF (w : Nat) : Nat := natBits w 83 11
def uWIDX (w : Nat) : Nat := natBits w 94 2
def uIMM16 (w : Nat) : Nat := natBits w 96 16
def uNOGATE (w : Nat) : Bool := natBit w 112
def uLINE (w : Nat) : Nat := natBits w 128 16

/-- A reserved encoding of R153. -/
def microReserved (w : Nat) : Bool :=
  uNAM w == 7 || uCOND w == 7 || uLCVAL w == 7 || natBit w 15 || natBit w 31 || decide (6 ≤ uXSRC w) || uMODE w == 3 ||
  (uMODE w != 1 && uFN w != 0) || (uMODE w == 0 && uWC w) || uMSPOP w == 3 || decide (8 ≤ uSCOM w) ||
  (uESAMP w && uEBIT w == 7) || natBits w 61 3 != 0 || natBits w 113 15 != 0 || (uXSRC w == 0 && uRAM w == 0)

/-- The state of a running routine.  The lists hold one 64-bit row for each row of the quadrant set: C, T, L, and L one and two cycles
ago; the microstack holds return addresses, each with the store it lies in; `samples` and `esamples` hold the issue cycle and result of each sample, the most recent first (R160, R161). -/
structure URun where
  s : State
  c : List Nat
  t : List Nat
  l : List Nat
  l1 : List Nat
  lc : List Nat
  it : List Nat
  stk : List (Bool × Nat)
  tcmp : Nat
  eor : Nat
  samples : List (Nat × Bool × Nat)
  esamples : List (Nat × Nat)
  cyc : Nat
  root : Bool
  addr : Nat

/-- What the routine runs with: the Dealer, the instruction, the descriptors PDD, PDA, PDB and PDC, the quadrant set and its rows, and the
other rows of the region with their L, which the routine does not change (R63, R155). -/
structure UEnv where
  n : Dealer
  aop : Nat
  op : AOp
  pds : List Word
  q : Nat
  rows : List (Nat × Nat)
  others : List (Nat × Nat) := []
  otherL : List Nat := []

/-- The L of PE (y, x) in an image of rows. -/
def rowImage (rows : List (Nat × Nat)) (ls : List Nat) (y x : Nat) : Bool :=
  match (rows.zip ls).find? (fun p => p.1.1 == y && p.1.2 == x / 64) with
  | some p => natBit p.2 (x % 64)
  | none => false

/-- A plane address of a microword; none when no plane is named or the access is suppressed (R154).  DESIGN CHOICE (log entry 134): an
absolute address plus its index wraps modulo 2,048, and an MSP-relative one outside P0 to P2047 is suppressed. -/
def uPlane (e : UEnv) (u : URun) (mode off idx : Nat) : Option Nat :=
  let i := if idx = 0 then 0 else u.it.getD (idx - 1) 0
  let rel (lo hi base : Int) : Option Nat :=
    let a := base + toSigned 11 off + i
    if lo ≤ a ∧ a ≤ hi then some a.toNat else none
  let field (k : Nat) : Option Nat :=
    let w := e.pds.getD k 0
    rel (pdBase w) ((pdBase w : Int) + pdWidth w - 1) (pdBase w)
  match mode with
  | 1 => some ((off + i) % 2048)
  | 2 => field 0
  | 3 => field 1
  | 4 => field 2
  | 5 => field 3
  | 6 => rel 0 2047 (1920 + (u.s.dl e.n).msp)
  | 7 => rel 1984 2047 1984
  | _ => none

/-- Operand X of every row (R41, R51, R55, R58).  DESIGN CHOICE (log entry 129): HOLD across a runner passes the element's own L of the same
image, that of the end of cycle k − 2. -/
def uOperand (e : UEnv) (u : URun) (w : Nat) : List Nat :=
  let dir := (uDIR w + 2) % 4
  let link (k : Nat) (ls : List Nat) : List Nat :=
    let im := rowImage e.rows ls
    e.rows.map (fun r => wordOf (fun c => u.s.linkIn e.n e.q dir k im r.1 (64 * r.2 + c)) 64)
  match uXSRC w with
  | 0 =>
    match uPlane e u (uRAM w) (uROFF w) (uRIDX w) with
    | some p => if p = 1983 then e.rows.map (fun _ => 0) else e.rows.map (fun r => u.s.planeVal (rowWordAddr p r.1 r.2))
    | none => e.rows.map (fun _ => 0)
  | 1 => link 1 u.l
  | 2 => link 64 u.l1
  | 3 =>
    let im := rowImage e.rows u.l
    e.rows.map (fun r => wordOf (fun c =>
      let p := u.s.shufSrc (uHAND w) (uSHCOL w) r.1 (64 * r.2 + c)
      im p.1 p.2) 64)
  | 5 => e.rows.map (fun _ => ones 64)
  | _ => e.rows.map (fun _ => 0)

/-- The ALU of one row: Z and the carry that ADD leaves (R41). -/
def uALU (w x t c : Nat) : Nat × Nat :=
  match uMODE w with
  | 0 => (x ^^^ t ^^^ c, (x &&& t) ||| (x &&& c) ||| (t &&& c))
  | 1 =>
    let f := uFN w
    let nx := ones 64 - x
    let nt := ones 64 - t
    ((if natBit f 0 then nx &&& nt else 0) ||| (if natBit f 1 then nx &&& t else 0) |||
     (if natBit f 2 then x &&& nt else 0) ||| (if natBit f 3 then x &&& t else 0), c)
  | _ => ((x &&& c) ||| (t &&& (ones 64 - c)), c)

/-- The result of the most recent sample issued at least `k` cycles before this microword; 0 when there is none (R160). -/
def sampleAt (u : URun) (k : Nat) : Bool × Nat :=
  match u.samples.find? (fun p => decide (p.1 + k ≤ u.cyc)) with
  | some p => p.2
  | none => (false, 0)

/-- The exception OR as a branch sees it. -/
def eorAt (u : URun) : Nat :=
  match u.esamples.find? (fun p => decide (p.1 + 18 ≤ u.cyc)) with
  | some p => p.2
  | none => 0

/-- The load value of a loop counter (R153, R158). -/
def uLoad (e : UEnv) (w : Nat) : Nat :=
  natBits (match uLCVAL w with
    | 0 => natBits (uIMM16 w) 0 12
    | 1 => pdWidth (e.pds.getD 0 0) - 1
    | 2 => pdWidth (e.pds.getD 1 0) - 1
    | 3 => pdWidth (e.pds.getD 2 0) - 1
    | 4 => pdWidth (e.pds.getD 3 0) - 1
    | 5 => e.op.imm
    | _ => natBits e.op.extW 0 9) 0 12

/-- The microwords left to the plane rows: one row's plane written where M, or every PE with NOGATE, lets it (R41, R43). -/
def uWrite (e : UEnv) (u : URun) (w : Nat) (zs : List Nat) : State :=
  match uPlane e u (uWAM w) (uWOFF w) (uWIDX w) with
  | none => u.s
  | some p => (e.rows.zip zs).foldl (fun t rz =>
      let m := if uNOGATE w then ones 64 else (u.s.mRow rz.1.1 rz.1.2).toNat
      if p < 1983 ∧ m = 0 then t
      else t.putPlane (rowWordAddr p rz.1.1 rz.1.2) ((rz.2 &&& m) ||| (u.s.planeVal (rowWordAddr p rz.1.1 rz.1.2) &&& (ones 64 - m))) false) u.s

/-- How a routine goes on after a microword: the next one, the end, or a machine check. -/
inductive UNext where
  | next (u : URun)
  | done (u : URun)
  | check (m : MCheck) (s : State)

/-- The condition of a BRANCH (R153). -/
def uCond (u : URun) (w : Nat) : Bool :=
  match uCOND w with
  | 0 => (sampleAt u 18).1
  | 1 => !(sampleAt u 18).1
  | 2 => decide (u.tcmp ≤ (sampleAt u 26).2)
  | 3 => decide ((sampleAt u 26).2 < u.tcmp)
  | 4 => eorAt u != 0
  | 5 => eorAt u == 0
  | _ => u.lc.getD (uLCSEL w) 0 == 0

/-- A machine check named by the microword at hand. -/
def uCheck (e : UEnv) (u : URun) (cause w : Nat) (s : State) : UNext :=
  .check { cause := cause, aop := e.aop, root := u.root, addr := u.addr, line := uLINE w } s

/-- The mask stack depth counts up or down; past its ends, 56 and 0, to a free depth (log entry 180). -/
def State.countMsp (s : State) (n : Dealer) (up : Bool) : State :=
  let m := (s.dl n).msp
  if up ∧ m < 56 then s.setDl n { s.dl n with msp := m + 1 }
  else if !up ∧ 0 < m then s.setDl n { s.dl n with msp := m - 1 }
  else
    let d := s.draw 18
    d.2.setDl n { d.2.dl n with msp := d.1 % 57 }

/-- The scalar commits and the mask stack depth (R153); W registers through IMM7 [4:0]. -/
def uScalar (e : UEnv) (u : URun) (w : Nat) : State × Nat :=
  let s := u.s
  let r := natBits e.op.imm 0 5
  let s1 := match uSCOM w with
    | 1 => s.wrW e.n r (BitVec.ofNat 32 (b2n (sampleAt u 18).1))
    | 2 => s.wrW e.n r (BitVec.ofNat 32 (sampleAt u 26).2)
    | 3 => s.wrW e.n r (BitVec.ofNat 32 (eorAt u))
    | 4 => s.setFpc e.n (fpcRaiseA (s.bank e.n).fpc (eorAt u))
    | _ => s
  let s2 := match uMSPOP w with
    | 1 => s1.countMsp e.n true
    | 2 => s1.countMsp e.n false
    | _ => s1
  (s2, match uSCOM w with | 6 => uIMM16 w | 7 => natBits (s.rdW e.n r).toNat 0 19 | _ => u.tcmp)

/-- The next microaddress (R157), its loop counter, index and microstack; a machine check USTACK under R159. -/
def uNextAddr (e : UEnv) (u : URun) (w : Nat) : UNext :=
  let go (v : URun) (root : Bool) (a : Nat) : UNext := .next { v with root := root, addr := if root then a % 512 else a % 16384 }
  let seq := go u u.root (u.addr + 1)
  match uNAM w with
  | 0 => seq
  | 1 => go u (uROOT w) (uTARGET w)
  | 2 => if uCond u w then go u (uROOT w) (uTARGET w) else seq
  | 3 =>
    let i := uLCSEL w
    let v := u.lc.getD i 0
    if v = 0 then seq
    else go { u with lc := u.lc.set i (v - 1), it := u.it.set i (u.it.getD i 0 + 1) } (uROOT w) (uTARGET w)
  | 4 => if 8 ≤ u.stk.length then uCheck e u 7 w u.s else go { u with stk := (u.root, u.addr + 1) :: u.stk } (uROOT w) (uTARGET w)
  | 5 =>
    match u.stk with
    | a :: l => go { u with stk := l } a.1 a.2
    | [] => uCheck e u 7 w u.s
  | _ => .done u

/-- Whether NAM cannot be carried out (R159): the microword is then not issued (R170). -/
def uStackBad (u : URun) (w : Nat) : Bool := (uNAM w == 4 && decide (8 ≤ u.stk.length)) || (uNAM w == 5 && u.stk.isEmpty)

/-- The row words a microword reads: its operand's, the destination's where M keeps some of the 64 PEs, and a hand's lines (R50, R323); whether
one is uncorrectable, and the reports. -/
def uReads (e : UEnv) (u : URun) (w : Nat) : Bool × State :=
  let a : Bool × State := match uXSRC w with
    | 0 => (match uPlane e u (uRAM w) (uROFF w) (uRIDX w) with
      | some p => u.s.scanPlanes e.rows [p]
      | none => (false, u.s))
    | 3 => (false, u.s.handReports e.q (uHAND w))
    | _ => (false, u.s)
  if uNOGATE w then a
  else match uPlane e u (uWAM w) (uWOFF w) (uWIDX w) with
    | some p => let b := a.2.scanPlanes (u.s.partRows e.rows) [p]; (a.1 || b.1, b.2)
    | none => a

/-- One microword issued: operand, ALU, updates, plane write, samples over the Dealer's region (R63), scalar commits, loop counter and next
address.  An uncorrectable row word ends the routine after the microword (R50).  DESIGN CHOICE (log entry 135): ESAMP ors its result into
the exception's bit of EOR. -/
def uIssue (e : UEnv) (u : URun) (w : Nat) : UNext :=
  let ue := uReads e u w
  let u0 := { u with s := ue.2 }
  let xs := uOperand e u0 w
  let zc := ((xs.zip u0.t).zip u0.c).map (fun p => uALU w p.1.1 p.1.2 p.2)
  let zs := zc.map Prod.fst
  let s1 := uWrite e u0 w zs
  let s2 := if uWM w then (e.rows.zip zs).foldl (fun t p => t.setMRow p.1.1 p.1.2 p.2) s1 else s1
  let l := if uWL w then zs else u0.l
  let u1 : URun := { u0 with s := s2, c := (if uMODE w = 0 then zc.map Prod.snd else if uWC w then zs else u0.c),
                             t := (if uWT w then zs else u0.t), l := l, l1 := u0.l }
  let im := rowImage e.rows l
  let cnt := if uSAMPLE w || uESAMP w then s2.countOver e.rows im + s2.countOver e.others (rowImage e.others e.otherL) else 0
  let u2 := if uSAMPLE w then { u1 with samples := (u1.cyc, cnt != 0, cnt) :: u1.samples } else u1
  let u3 := if uESAMP w then
      let v := u2.eor ||| (if cnt ≠ 0 then 2 ^ uEBIT w else 0)
      { u2 with eor := v, esamples := (u2.cyc, v) :: u2.esamples } else u2
  let sc := uScalar e u3 w
  let u4 : URun := { u3 with s := sc.1, tcmp := sc.2 }
  let u5 := if uLCLD w then { u4 with lc := u4.lc.set (uLCSEL w) (uLoad e w), it := u4.it.set (uLCSEL w) 0 } else u4
  if ue.1 then uCheck e u5 6 w u5.s
  else match uNextAddr e u5 w with
    | .next v => .next { v with cyc := v.cyc + 1 }
    | .done v => .done { v with cyc := v.cyc + 1 }
    | .check m s => .check m s

/-- A fetched microword and its parity (R152, R163); the root's words pass their parity. -/
def uFetch (e : UEnv) (u : URun) : Nat × Bool :=
  if u.root then ((Config.rootWord u.addr).toNat, true)
  else
    let w := u.s.microword e.n u.addr
    (w, u.s.microPar e.n u.addr == microParity w 9)

/-- The trap decision of R141 at a microword with SCOM 0b0101: enabled exceptions of EOR. -/
def uTraps (e : UEnv) (u : URun) (w : Nat) : Bool := uSCOM w == 5 && (eorAt u &&& fpcTE (u.s.bank e.n).fpc) != 0

/-- The sequencer (R156), at most the given number of microwords: the routine's end, its trap, or its machine check. -/
def uRun (e : UEnv) : Nat → URun → Option (UNext × Bool)
  | 0, _ => none
  | k + 1, u =>
    let f := uFetch e u
    if !f.2 then some (uCheck e u (if u.root then 9 else 1) f.1 u.s, false)
    else if microReserved f.1 then some (uCheck e u 4 f.1 u.s, false)
    else if uStackBad u f.1 then some (uCheck e u 7 f.1 u.s, false)
    else if uTraps e u f.1 then some (.done u, true)
    else match uIssue e u f.1 with
      | .next v => uRun e k v
      | r => some (r, false)

/- Dispatch (R162, R163, R116). -/

def dENTRY (x : Nat) : Nat := natBits x 0 14
def dUSE (x : Nat) (k : Nat) : Bool := natBit x (16 + k)
def dEXT (x : Nat) : Bool := natBit x 20
def dWEQ (x : Nat) : Bool := natBit x 21
def dRST (x : Nat) : Bool := natBit x 22
def dWMAX (x : Nat) : Nat := natBits x 24 6
def dTAIL (x : Nat) : Nat := natBits x 32 14
def dTLEN (x : Nat) : Nat := natBits x 46 2

/-- The first tail microword whose parity fails (R163). -/
def State.tailBad (s : State) (n : Dealer) (x : Nat) : Option Nat :=
  if !dRST x then none
  else (rangeFrom (dTAIL x) (dTLEN x + 1)).find? (fun m => s.microPar n m != microParity (s.microword n m) 9)

/-- The results still in flight when a routine that began at count `base` ends (R64, R209): 26 cycles after the last SAMPLE, 18 after the
last ESAMP, whichever is later. -/
def State.drainSamples (s : State) (n : Dealer) (base : Nat) (v : URun) : State :=
  let a := match v.samples with | p :: _ => base + p.1 + 26 | [] => 0
  let b := match v.esamples with | p :: _ => base + p.1 + 18 | [] => 0
  s.setDl n { s.dl n with drainTo := max (s.dl n).drainTo (max a b) }

/-- The number of microwords a routine may issue (R117). -/
def microLimit : Nat := 4096

/-- CUSTOMER_OPCODE: opcode 0x380 + a (R115 to R117).  A routine that passes its limit, which the loader lets none do (R168), stays at
its word. -/
def execCustomerOpcode (n : Dealer) (a : Fin 128) (op : AOp) (s : State) : Host.Outcome State Fault Refusal :=
  let aop := 0x380 + a.val
  let x := (s.dispEntry n aop).1
  let u : AUse := { d := dUSE x 0, a := dUSE x 1, b := dUSE x 2, c := dUSE x 3, imm := 127,
                    ext := if dEXT x then some (ones 32) else none }
  let pds := s.usedPDs n op u
  let badW := pds.any (fun w => decide (dWMAX x + 1 < pdWidth w)) ||
    (dWEQ x && (match pds with | w :: l => l.any (fun v => pdWidth v != pdWidth w) | [] => false))
  let q : Option Nat := if dUSE x 0 then some (pdQset (s.rdPD n op.pdd)) else if dUSE x 1 then some (pdQset (s.rdPD n op.pda)) else none
  runArray n aop op s (s.arrayTrap n aop op u badW q) (q == some 0) none (fun s =>
    match s.tailBad n x with
    | some m => s.raiseMC n { cause := 2, aop := aop, addr := m, line := uLINE (s.microword n m) }
    | none =>
      let rows := s.rows (q.getD (s.region n))
      let s1 := s.tUndefined
      let others := (s.rows (s.region n)).filter (fun r => !natBit (q.getD (s.region n)) (peQuad r.1 (64 * r.2)))
      let e : UEnv := { n := n, aop := aop, op := op, q := q.getD (s.region n), rows := rows, others := others,
                        otherL := others.map (fun r => (Config.peRow 2 s1.tEpoch (8 * r.1 + r.2)).toNat),
                        pds := [s.rdPD n op.pdd, s.rdPD n op.pda, s.rdPD n op.pdb, s.rdPD n op.pdc] }
      let free (k : Nat) : List Nat := rows.map (fun r => (Config.peRow k s1.tEpoch (8 * r.1 + r.2)).toNat)
      let r := uRun e microLimit {
        s := s1, c := free 0, t := free 1, l := free 2, l1 := free 3, lc := [0, 0, 0, 0], it := [0, 0, 0],
        stk := [], tcmp := 0, eor := 0, samples := [], esamples := [], cyc := 0, root := false, addr := dENTRY x }
      match r with
      | none => s1
      | some (.next v, _) => v.s
      | some (.check m t, _) => t.raiseMC n m
      | some (.done v, true) =>
        (v.s.arrayFPTrap n op v.cyc (eorAt v)).drainSamples n ((v.s.dl n).cyc) v
      | some (.done v, false) =>
        let t := v.s.arrayEnd n op v.cyc
        t.drainSamples n (v.s.dl n).cyc v)

/- Illegal opcodes (R114, R187). -/

/-- Opcodes with a meaning: class and opcode, or array opcode. -/
def inRanges (x : Nat) (l : List (Nat × Nat)) : Bool := l.any (fun p => decide (p.1 ≤ x) && decide (x ≤ p.2))

def opcodeDefined (w : Word) : Bool :=
  let opc := getField w 23 6
  match getField w 30 2 with
  | 0 => inRanges opc [(0x00, 0x11), (0x13, 0x14), (0x20, 0x31), (0x38, 0x3F)]
  | 1 => inRanges opc [(0x00, 0x00), (0x04, 0x06), (0x08, 0x0A), (0x12, 0x14), (0x18, 0x18), (0x20, 0x25), (0x28, 0x31)]
  | 2 => inRanges opc [(0x00, 0x01), (0x08, 0x0B), (0x10, 0x15), (0x20, 0x20), (0x22, 0x22), (0x28, 0x31)]
  | _ => inRanges (getField w 20 10) [(0x000, 0x005), (0x008, 0x00A), (0x040, 0x041), (0x080, 0x083), (0x088, 0x089),
      (0x08C, 0x08E), (0x0C0, 0x0C5), (0x0C8, 0x0CB), (0x0D0, 0x0D5), (0x0D8, 0x0DA), (0x0E0, 0x0E1), (0x0E8, 0x0EB),
      (0x140, 0x151), (0x160, 0x171), (0x380, 0x3FF)]

/-- ILL_OPCODE: a word whose opcode has no meaning traps, and an array word that the hold of R262 kept is then held no more; a word with a meaning leaves the state, as it is no such word. -/
def execIllOpcode (n : Dealer) (w : Word) (s : State) : Host.Outcome State Fault Refusal :=
  let array := getField w 30 2 == 3
  if (s.dl n).halted then .fault .dealerHalted
  else if (s.dl n).pendMC.isSome || opcodeDefined w || (if array then s.coreIdle n || ((s.dl n).cutDue && s.lvl n == 0) else s.levelWaits n) then .next s
  else if array && s.mustHold n then .next (s.holdArray n)
  else .next ((s.trap n { code := trapIllOpcode, info := w } (if array then natBit w.toNat 7 else natBit w.toNat 29) false).unhold n (s.lvl n).val)

/- Machine checks (R169 to R175). -/

/-- Whether a dispatch entry's cut instruction may be re-executed (R167). -/
def State.reExecutes (s : State) (n : Dealer) (m : MCheck) : Bool :=
  decide (m.aop < 0x380) || dRST (s.dispEntry n m.aop).1

/-- The report of a machine check to the Gardener (R169, R414). -/
def State.reportMC (s : State) (n : Dealer) (m : MCheck) (lasting : Bool) : State :=
  let loc := 65536 * n.val + m.addr
  if m.cause ≤ 4 then s.report { cls := 5, kind := 5, loc := loc, lasting := lasting }
  else match m.cause with
    | 5 => s.report { cls := 6, kind := 6, loc := n.val, lasting := lasting }
    | 9 => s.report { cls := 8, kind := 5, loc := loc, ue := true }
    | _ => s

/-- The root leaves L7 for the interrupted level. -/
def State.leaveL7 (s : State) (n : Dealer) : State :=
  let s1 := s.setFbit (LVLSTAT.ACTIVE n) 7 false
  s1.fset (LVLSTAT.CUR n) (s.fget (MCCAUSE.LEVEL n))

/-- A deal restart as a machine check's action. -/
def State.mcRestart (s : State) (n : Dealer) : State := ((s.leaveL7 n).fset (MCCAUSE.ACTION n) 1).dealRestart n

/-- The cut instruction issues again. -/
def State.mcAgain (s : State) (n : Dealer) (m : MCheck) : State :=
  let t := s.leaveL7 n
  t.setDl n { t.dl n with pendMC := none, again := some m, reload := false }

/-- Entry to L7 for a machine check: MCCAUSE and MCADDR written, L7 current and active, the check counted, and the machine-check event; 9
cycles (R169). -/
def State.enterRoot (s : State) (n : Dealer) (m : MCheck) : State :=
  let lv := if (s.dl n).reload then s.fget (MCCAUSE.LEVEL n) else (s.lvl n).val
  let s0 := (s.spend n 9).fsets [(MCCAUSE.AOP n, m.aop), (MCCAUSE.LEVEL n, lv), (MCCAUSE.ACTION n, 0), (MCCAUSE.CAUSE n, m.cause),
    (MCADDR.ROOT n, b2n m.root), (MCADDR.LINE n, m.line), (MCADDR.ADDR n, m.addr), (LVLSTAT.CUR n, 7)]
  (((s0.setFbit (LVLSTAT.ACTIVE n) 7 true).bump (MCCOUNT.COUNT n) 1).ledger 3 16 16 1).dealerEvent n 2

/-- MACHINE_CHECK_ENTRY: the machine check that waits, or the one the command names, enters L7 (R169); a dispatch entry that is
uncorrectable again after its reload is a UE in configuration state (R425).  A second one that arises while a word is reloaded, before the
re-executed instruction ends, makes a deal restart.  A cause outside the table of R169 is no machine check. -/
def execMachineCheckEntry (n : Dealer) (mc : MCheck) (s : State) : Host.Outcome State Fault Refusal :=
  let d := s.dl n
  let m := match d.pendMC with | some p => if d.reload then mc else p | none => mc
  if m.cause = 0 ∨ 10 < m.cause ∨ d.halted then .next s
  else
    let s2 := s.enterRoot n m
    let twice := d.again.isSome
    let same := match d.again with | some p => p.cause == 1 && m.cause == 1 && p.addr == m.addr && p.root == m.root | none => false
    let entry : Bool := match d.again with | some p => p.cause == 3 && p.aop == m.aop | none => false
    if m.cause = 9 then
      let t := ((s2.leaveL7 n).fset (MCCAUSE.ACTION n) 2).reportMC n m false
      .next (t.setDl n { t.dl n with pendMC := none, reload := false, halted := true })
    else if m.cause = 6 ∨ m.cause = 7 ∨ m.cause = 8 ∨ m.cause = 10 then .next ((s2.mcRestart n).reportMC n m false)
    else if d.reload ∨ twice ∨ !s2.reExecutes n m then
      let t := (s2.mcRestart n).reportMC n m same
      .next (if m.cause = 3 ∧ entry then t.report { cls := 8, kind := 5, loc := 65536 * n.val + m.addr, ue := true, config := true } else t)
    else if m.cause = 5 then .next ((s2.mcAgain n m).reportMC n m false)
    else .next (s2.setDl n { s2.dl n with pendMC := some m, reload := true })

/-- The reloaded word enters its store, and the cut instruction issues again: at most 10 µs after detection, or 27 µs where the loader reads
the word from flash, the entry included (R170, R172). -/
def State.reloaded (s : State) (n : Dealer) (m : MCheck) (w cost : Nat) : State :=
  let s1 :=
    if m.cause = 3 then s.putWord (ctlBase n + 0x80000 + 8 * m.aop) (natBits w 0 64)
    else
      let a := ctlBase n + 0x20 * m.addr
      ((s.putWord a (natBits w 0 64)).putWord (a + 8) (natBits w 64 64)).putWord (a + 16) (natBits w 128 16 + 65536 * microParity w 9)
  ((s1.mcAgain n m).spend n cost).reportMC n m false

/-- The image copy holds the verified VUCODE section, and the UCODE section where the image has one (R172). -/
def State.copyHolds (s : State) : Bool :=
  s.sectsDone != 0 && ((mainOrder s.plan).drop s.sectsDone).all (fun x => x.typ != 1 && x.typ != 3)

/-- The word of the image that a machine check reloads: the dispatch entry, or the microword. -/
def State.imageWord (s : State) (m : MCheck) : Nat := if m.cause = 3 then planDisp s.plan m.aop else planMicroword s.plan m.addr

/-- MICROCODE_RELOAD_DONE: the root's read of the shadow copy, once the copy holds the microcode, ends with POISON, or with the word of the
verified image that the copy holds; another word is no such event (R169, R170, R172, R486; log entry 163). -/
def execMicrocodeReloadDone (n : Dealer) (poison : Bool) (w : BitVec 144) (s : State) : Host.Outcome State Fault Refusal :=
  match (s.dl n).pendMC with
  | some m =>
    if !(s.dl n).reload || !s.copyHolds then .next s
    else if poison then .next ((s.mcRestart n).reportMC n m false)
    else if w.toNat ≠ s.imageWord m then .next s
    else .next (s.reloaded n m w.toNat 9991)
  | none => .next s

/-- The bytes of 64 microwords, or of 64 dispatch entries, in the order of R176. -/
def blockBytes (k : Nat) : List (BitVec 144) → List Byte
  | [] => []
  | w :: l => bytesOfNat k w.toNat ++ blockBytes k l

/-- The words of the block as the loader placed them in the early load. -/
def State.loadedBlock (s : State) (disp : Bool) (b : Nat) : List (BitVec 144) :=
  (rangeFrom (64 * b) 64).map (fun m => BitVec.ofNat 144 (if disp then planDisp s.plan m else planMicroword s.plan m))

/-- FLASH_BLOCK_RELOAD_DONE: before the copy holds the microcode, the loader's read of a block of 64 words from flash ends; its CRC-32 must match the one kept from the early
load, else, as where the read gives fewer than 64 words, a deal restart follows and a lasting UCODE fault is counted (R172). -/
def execFlashBlockReloadDone (n : Dealer) (done : Bool) (block : List (BitVec 144)) (s : State) : Host.Outcome State Fault Refusal :=
  match (s.dl n).pendMC with
  | some m =>
    if !(s.dl n).reload || s.copyHolds then .next s
    else
      let disp := m.cause == 3
      let i := if disp then m.aop else m.addr
      let k := if disp then 8 else 18
      if done && block.length == 64 && crc32 (blockBytes k block) == crc32 (blockBytes k (s.loadedBlock disp (i / 64))) then
        .next (s.reloaded n m (block.getD (i % 64) 0).toNat 26991)
      else .next ((s.mcRestart n).report { cls := 5, kind := 5, loc := 65536 * n.val + m.addr, lasting := true })
  | none => .next s

/-- CONTROL_STORE_WRITE: a loader write to the control-store window of Dealer n, refused outside start-up and warm restarts (R150,
R151). -/
def execControlStoreWrite (n : Dealer) (off : Nat) (v : DWord) (s : State) : Host.Outcome State Fault Refusal :=
  let r := s.memWrite .loader (ctlBase n + off % 0x100000) 8 v.toNat
  .next (r.2.emit (.status .loader r.1 0))

end Sys2Proof.Machine
end

