-- ==== Sys2Proof/Machine/Plan.lean ====
section
/-!
DEFINITION. What a verified image does to the state (spec/17 R472, R477, R480, R486; spec/05 R147, R148, R176; spec/16 R461): its registers,
stores, banks, levels and plans, at start-up and again in step 7 of a warm restart (spec/14 R427).
-/
namespace Sys2Proof.Machine

open Sys2Proof

/- Registers. -/

/-- The registers that no image sets, whatever their access code: the identity and the fuses (SYS_ID, SYS_LCS, SYS_UID), what the microcode and the
deal header give (UCVER, UCCRC, DEAL_BUDGET), the sources and gates that the loader switches by rules of its own (R458 to R461), the nursery's
owner (R330), and the DRAM port map, which is the identity until the Gardener's swap (R355). -/
def fixedReg (off : Nat) : Bool :=
  [SYS_ID.reg, SYS_LCS.reg, SYS_UID_LO.reg, SYS_UID_HI.reg, BANK_OWNER.reg 32, TRL_DMAP.reg, TRL_DMAP_SH.reg].contains off ||
    allDealers.any (fun n => off == UCVER.reg n || off == UCCRC.reg n || off == DEAL_BUDGET.reg n) ||
    (rangeFrom 0 7).any (fun d => off == CLK_SEL.reg d) || (rangeFrom 0 25).any (fun g => off == CLK_GATE.reg g)

/-- A route of the Trellis. -/
def routeReg (off : Nat) : Bool := decide (TRL_RTE.reg 0 0 ≤ off) && decide (off < TRL_RTE.reg 24 0)

/-- A sticky field that hardware updates and whose first value the image gives: the layers' owners (R288) and the active routes (R369). -/
def firstValue (off lo : Nat) : Bool :=
  (routeReg off && lo == (TRL_RTE.ACTIVE 0 0).lo) ||
    (rangeFrom 0 6).any (fun p => (rangeFrom 0 16).any (fun l => off == DSP_LAYER.reg p l && lo == (DSP_LAYER.OWNER p l).lo))

/-- A field that an image sets: every field that software or the image itself writes, and at start-up those of `firstValue`; no table is staged
until the Gardener's swap (R371). -/
def imageField (warm : Bool) (off : Nat) (f : FieldSpec) : Bool :=
  !fixedReg off && !(routeReg off && f.lo == (TRL_RTE.SHADOW 0 0).lo) &&
  match f.acc with
  | .ro => !(warm && f.sk)
  | .rw => !(warm && f.sk)
  | .rwl => !(warm && f.sk)
  | .rv => !warm && f.sk && firstValue off f.lo
  | _ => false

/-- The bits that always read 1: LVLPRIV bit 7 (R181) and BANK_GRANT bit 0 (R328). -/
def alwaysOne (off : Nat) : Nat :=
  if allDealers.any (fun n => off == LVLPRIV.reg n) then 0x80 else if (rangeFrom 0 33).any (fun b => off == BANK_GRANT.reg b) then 1 else 0

/-- A register after the image's value for it. -/
def imageValue (warm : Bool) (off : Nat) (old : Word) (v : Word) : Word :=
  match regGroupAt off with
  | some g => (g.fields.filter (imageField warm off)).foldl (fun w f => putField w f.lo f.wid (getField v f.lo f.wid)) old |||
      BitVec.ofNat 32 (alwaysOne off)
  | none => old

/-- The registers that a warm restart leaves alone: it changes no clock (R466), no route of the Trellis (R376) and nothing of the Espalier
(R443); its banks' owners come from the image (R333). -/
def warmSkips (off : Nat) : Bool :=
  (decide (0x10000 ≤ off) && decide (off < 0x20000)) || (decide (0x300000 ≤ off) && decide (off < 0x380000)) ||
    (decide (0x600000 ≤ off) && decide (off < 0x680000))

/-- CONFIG and TELL applied; the frames of a CAN trim reference that the image changes are counted afresh (R455). -/
def State.applyConfig (s : State) (p : Plan) (warm : Bool) : State :=
  let t := p.config.foldl (fun t c => if warm && warmSkips c.1 then t else t.setReg c.1 (imageValue warm c.1 (t.reg c.1) c.2)) s
  if t.fget CLK_TRIM.REF = s.fget CLK_TRIM.REF then t else { t with canTrim := 0 }

/-- The value that CONFIG gives a register, the last where it names it more than once. -/
def planWord (p : Plan) (off : Nat) : Option Nat := (p.config.reverse.find? (fun c => c.1 == off)).map (fun c => c.2.toNat)

/-- The clock switches of the image: domain and CLK_SELd. -/
def planSwitchList (p : Plan) : List (Nat × Nat) := (rangeFrom 0 7).filterMap (fun d => (planWord p (CLK_SEL.reg d)).map (fun v => (d, v)))

/-- An accepted fallback reference takes the place of the image's (R465). -/
def State.applyFallback (s : State) : State :=
  s.fbRef.foldl (fun t p => t.fset (CLK_PLL.REF p.1) p.2) s

/-- A PLL whose reference or frequency the image changes locks afresh, and one that it stops is ready no longer (R451): with the plan read the ROM's
references and frequencies give way to it. -/
def State.relockPlls (s : State) (before : State) : State :=
  let now := s.fset LOAD_STAT.STATE 1
  let khz (t : State) (p : Nat) : Nat := if before.romPll p then 0 else t.fget (CLK_PLLF.KHZ p)
  (rangeFrom 0 6).foldl (fun t p =>
    if before.pllRef p = now.pllRef p ∧ khz before p = khz now p then t else t.setPllReady p false) s

/- Microcode and deal stores. -/

/-- The bytes UCCRC covers (R176). -/
def planMicroBytes (p : Plan) : List Byte :=
  (rangeFrom 0 16384).flatMap (fun m => bytesOfNat 18 (planMicroword p m)) ++ (rangeFrom 0 1024).flatMap (fun a => bytesOfNat 8 (planDisp p a))

/-- A microword with its parity enters the control store of Dealer n. -/
def State.loadMicroword (s : State) (n : Dealer) (m w : Nat) : State :=
  let a := ctlBase n + 0x20 * m
  ((s.putWord a (natBits w 0 64)).putWord (a + 8) (natBits w 64 64)).putWord (a + 16) (natBits w 128 16 + 65536 * microParity w 9)

/-- Control store, dispatch table, UCVER and UCCRC of Dealer n. -/
def State.loadMicrocode (s : State) (p : Plan) (n : Dealer) : State :=
  let s1 := (rangeFrom 0 16384).foldl (fun t m => t.loadMicroword n m (planMicroword p m)) s
  let s2 := (rangeFrom 0 1024).foldl (fun t a => t.putWord (ctlBase n + 0x80000 + 8 * a) (planDisp p a)) s1
  s2.fsets [(UCVER.VPATCH n, p.vpatch), (UCVER.CVER n, p.cver), (UCCRC.CRC n, crc32 (planMicroBytes p))]

/-- The Dealer whose deal-store image Dealer n receives: its own, or that of the Dealer it covers as a standby (R21, R472). -/
def State.dealSource (s : State) (n : Dealer) : Dealer :=
  match s.fget ARRAY_MODE.MODE with
  | 0 => n
  | 1 => if n.val < 2 then 0 else 2
  | _ => 0

/-- The deal store of Dealer n: the image's words, and 0 elsewhere. -/
def State.loadDeals (s : State) (p : Plan) (n : Dealer) : State :=
  let src := s.dealSource n
  let mine := p.deals.filter (fun w => decide (dealBase src ≤ w.1) && decide (w.1 < dealBase src + 0x40000))
  mine.foldl (fun t w => t.putWord (dealBase n + (w.1 - dealBase src)) w.2.toNat) (s.zeroRange (dealBase n) 0x40000)

/-- The stores of every Dealer. -/
def State.loadStores (s : State) (p : Plan) : State :=
  allDealers.foldl (fun t n => (t.loadMicrocode p n).loadDeals p n) s

/- Levels, hands, banks. -/

/-- Registers of a list in place of the first ones of a vector. -/
def fillFrom {α : Type} {n : Nat} (v : Vector α n) (l : List α) : Vector α n :=
  (l.take n).zipIdx.foldl (fun u p => u.setIfInBounds p.2 p.1) v

/-- The starting values of a level's bank. -/
def State.loadLevel (s : State) (x : LevelInit) : State :=
  let b := s.bankAt x.dealer x.level
  s.setBankAt x.dealer x.level { b with
    w := (fillFrom b.w x.w).set 0 0, f := fillFrom b.f x.f, pd := fillFrom b.pd x.pd, sg := fillFrom b.sg x.sg,
    st := s.stFor x.dealer x.level.val x.st, fpc := x.fpc, pc := x.pc, xvec := x.xvec }

def State.loadLevels (s : State) (p : Plan) : State := p.levels.foldl State.loadLevel s

/-- The hand lines the image supplies (R61). -/
def State.loadHands (s : State) (p : Plan) : State :=
  p.hands.foldl (fun t h => t.putLine h.1 h.2) s

/-- The banks the image marks are cleared (R332, R333). -/
def State.clearMarked (s : State) (p : Plan) : State :=
  (rangeFrom 0 32).foldl (fun t b => if natBit p.clearBanks.toNat b then t.startClear b else t) s

/-- Bytes written from an address on, in words with valid check bits, which keep their other bytes. -/
def State.placeBytes (s : State) (a : Nat) (l : List Byte) : State :=
  (rangeFrom (a / 8) ((a % 8 + l.length + 7) / 8)).foldl (fun t k =>
    let lo := max a (8 * k)
    let hi := min (a + l.length) (8 * k + 8)
    t.putWord (8 * k) (mergeBytes (t.wordData (8 * k)) (lo - 8 * k) (hi - lo) (natOfBytes ((l.drop (lo - a)).take (hi - lo))))) s

/-- The BANK sections enter the scratch banks (R472). -/
def State.loadBanks (s : State) (p : Plan) : State := (p.ofType 7).foldl (fun t x => t.placeBytes x.1.dest x.2) s

/-- The roles of the Dealers at start-up (R20, R21). -/
def State.startRoles (s : State) : State :=
  allDealers.foldl (fun t n => t.setRole n (if s.dealSource n = n then 0 else 1)) s

/-- The icon store (R298). -/
def State.loadIcons (s : State) (p : Plan) : State :=
  { s with icons := p.icons.foldl (fun l w => Sparse.set 0 l w.1 w.2) [], iconSyn := [] }

/-- Every enabled tell-tale shows INIT (R297). -/
def State.initTells (s : State) : State :=
  (rangeFrom 0 256).foldl (fun t i => if t.fget (TELL_DEF_W0.EN i) = 1 then t.fset (TELL_SST.STATE i) (t.fget (TELL_DEF_W2.INIT i)) else t) s

/- Ports, links, gates. -/

/-- The gates of the blocks the image uses, and their roots (R461). -/
def State.openGates (s : State) : State :=
  (rangeFrom 0 25).foldl (fun t g => if t.gateNeeded g || (gateChildren g).any t.gateNeeded then t.fset (CLK_GATE.EN g) 1 else t) s

/-- SPI and CAN-FD command ports answer once configured; the power-over-coax switches of the links in use close (R484, R503). -/
def State.startPorts (s : State) : State :=
  let s1 := (rangeFrom 0 4).foldl (fun t k =>
    if t.fget (SEAT_CFG.EN k) = 1 ∧ 3 ≤ t.fget (SEAT_CFG.CMDP k) then t.fset (SEAT_STAT.PORTUP k) 1 else t) s
  (rangeFrom 0 14).foldl (fun t k => if t.fget (PAD_POC.EN k) = 1 then t.fset (PAD_POC.STATE k) 1 else t) s1

/-- Bytes of the image copy: the header, and every EARLY and MAIN section at its offset (R486). -/
def planExtent (p : Plan) : Nat :=
  (p.sects.filter (fun x => x.typ != 0x12)).foldl (fun m x => max m (x.off + x.size)) 4096

/-- The image in the state: what step 4 of start-up writes (R477), before anything starts. -/
def State.withPlan (s : State) (p : Plan) : State :=
  let s0 := { s.applyConfig p false with plan := p, locks := p.locks, selPlan := planSwitchList p, onXB := s.onXB || (s.xtalFailed 0 && p.xb) }
  let s1 := (s0.applyFallback.relockPlls s).startRoles
  let s2 := ((s1.loadHands p).loadStores p).clearMarked p
  let s3 := (((s2.loadBanks p).loadLevels p).loadIcons p).initTells
  s3.fsets [(LOAD_COPY.BASE, p.copyBase / 2 ^ 21), (LOAD_COPY.SIZE, (planExtent p + 4095) / 4096)]

/-- EARLY_SECTION_APPLY: step 4 of start-up; the loader makes the clock switches whose source is ready. -/
def State.applyEarly (s : State) (p : Plan) : State :=
  (((s.withPlan p).espConfigure.espTells.openGates.startPorts.planSwitches).fset LOAD_STAT.STATE 1).milestone 0

/-- Step 7 of a warm restart (R427, R333): configuration, control stores, deal stores, the levels' values and the banks' owners again, then
the Gardener's changes that the configuration undoes. -/
def State.applyAgain (s : State) (p : Plan) : State :=
  let s1 := (s.applyConfig p true).loadStores p
  let s2 := (s1.loadLevels p).clearMarked p
  let s3 := s2.gard.moves.foldl (fun t m => (t.moveRoutes m.1 m.2).moveOwners m.1 m.2) s2
  s2.gard.edges.foldl (fun t e => t.setReg e.1 e.2) s3

end Sys2Proof.Machine
end

