-- ==== Sys2Proof/Machine/Checks.lean ====
section
/-!
DEFINITION. The loader's checks on an image's contents (spec/17 R472, R473; spec/05 R168; spec/08 R248; spec/09 R294; spec/10 R316; spec/12
R370; spec/13 R382; spec/15 R449; spec/18 R507), made on the state that the image would give.
-/
namespace Sys2Proof.Machine

open Sys2Proof

/-- No two members of a list stand in relation `bad`. -/
def pairwiseOk {α : Type} (bad : α → α → Bool) : List α → Bool
  | [] => true
  | x :: l => l.all (fun y => !bad x y) && pairwiseOk bad l

/-- Two ranges (first, length) meet. -/
def rangesMeet (a b : Nat × Nat) : Bool := decide (a.1 < b.1 + b.2) && decide (b.1 < a.1 + a.2) && a.2 != 0 && b.2 != 0

/-- The end of DRAM. -/
def dramEnd : Nat := 2 ^ 37

/- The section table (R472): check 0x86. -/

def sectEarly (x : Section) : Bool := decide (x.typ < 0x10)
def sectMain (x : Section) : Bool := x.typ == 0x10 || x.typ == 0x11

/-- An entry that breaks R472 by itself: type, offset, size, end in the slot, destination. -/
def sectBad (x : Section) : Bool :=
  let stop := x.off + x.size
  ! [1, 2, 3, 4, 5, 6, 7, 8, 0x10, 0x11, 0x12].contains x.typ || x.off % 4096 != 0 || decide (x.off < 4096) || x.size == 0 ||
    decide (120 * 2 ^ 20 < stop) || (x.typ != 0x12 && decide (0x5400000 < stop)) ||
    (if x.typ = 7 then decide (x.dest < storeBase 0) || decide (storeBase 32 < x.dest + x.size)
     else if x.typ = 0x10 then decide (dramEnd < x.dest + x.size) else x.dest != 0)

def sectCount (l : List Section) (t : Nat) : Nat := (l.filter (fun x => x.typ == t)).length

/-- The table as a whole breaks R472: counts, totals, overlaps. -/
def tableBad (l : List Section) : Bool :=
  [1, 2, 4, 5].any (fun t => sectCount l t != 1) || [3, 6, 8, 0x11].any (fun t => decide (1 < sectCount l t)) ||
    decide (8 * 2 ^ 20 < ((l.filter sectEarly).map Section.size).sum) || decide (72 * 2 ^ 20 < ((l.filter sectMain).map Section.size).sum) ||
    !pairwiseOk (fun x y => rangesMeet (x.off, x.size) (y.off, y.size)) l

/- Ranges of DRAM the image names. -/

/-- The slot rings of the enabled contexts (R272). -/
def State.cameraRings (s : State) : List (Nat × Nat) :=
  (rangeFrom 0 16).flatMap (fun i =>
    let c := i / 2
    let x := i % 2
    if s.fget (CAM_CTX_FMT.EN c x) = 1 then
      let pitch := 128 * ((s.fget (CAM_CTX_SIZE.WIDTH c x) + 63) / 64)
      let stride := (pitch * s.fget (CAM_CTX_SIZE.HEIGHT c x) + 4095) / 4096 * 4096
      [(s.fget (CAM_CTX_RING.BASE c x) * 4096, stride * (3 + s.fget (CAM_CTX_RING.N4 c x)))]
    else [])

/-- The frame buffers of every pipe. -/
def State.frameBuffers (s : State) : List (Nat × Nat) :=
  (rangeFrom 0 6).flatMap (fun p => (rangeFrom 0 3).map (fun k =>
    (s.fget (DSP_FB.BASE p k) * 4096, s.fget (DSP_FBP.PITCH p) * 256 * s.fget (DSP_VTIM.ACTIVE p))))

def State.enabledSeats (s : State) : List Nat := (rangeFrom 0 4).filter (fun k => s.fget (SEAT_CFG.EN k) == 1)

/-- The present segments of the seats: seat, segment, range. -/
def State.seatSegments (s : State) : List (Nat × Nat × (Nat × Nat)) :=
  (rangeFrom 0 4).flatMap (fun k => ((rangeFrom 0 16).filter (fun g => s.fget (SEAT_SEG_W1.PRESENT k g) == 1)).map
    (fun g => (k, g, (s.segAddr k g 0, s.fget (SEAT_SEG_W2.LIMIT k g) + 1))))

/- Check 0x89. -/

/-- A value of CONFIG that is reserved, in itself or beside the other fields of its register. -/
def State.valueBad (s : State) (c : Nat × Word) : Bool :=
  match regGroupAt c.1 with
  | none => true
  | some g => res0Bits g.fields c.2.toNat || g.fields.any (fun f => valueReserved f (getField c.2 f.lo f.wid)) || s.crossReserved c.1 c.2.toNat

/-- A field whose reserved values hang on whether its block is in use: a value outside `lo` to `hi`, but for the 0 of an unused block (log
entry 144). -/
def outsideUse (used : Bool) (lo hi v : Nat) : Bool := (used || v != 0) && (decide (v < lo) || decide (hi < v))

/-- A PLL's fields whose reserved values hang on its number (R451); a stopped PLL may have no frequency. -/
def State.pllBad (s : State) (p : Nat) : Bool :=
  let khz := s.fget (CLK_PLLF.KHZ p)
  let runs := s.fget (CLK_PLL.REF p) != 0
  match pllKhz p with
    | some k => outsideUse runs k k khz || s.fget (CLK_PLLF.SSC p) != 0 || s.fget (CLK_PLL.REF p) == 3 || s.fget (CLK_PLL.FBREF p) == 3
    | none => outsideUse runs 25000 600000 khz

/-- A source of a domain that is reserved: SYS has FIRC only (R457). -/
def selBad (p : Plan) : Bool := match planWord p (CLK_SEL.reg 6) with | some v => natBit v 0 | none => false

/-- An owner of a cold-frame half that is reserved: nobody, or a code that is none (R339, COLD_CFG). -/
def State.coldBad (s : State) : Bool :=
  [s.fget COLD_CFG.OWN0, s.fget COLD_CFG.OWN1].any (fun o => o == 0 || decide (9 < o))

/-- A lane rate or a trip threshold that is reserved (spec/09, spec/18); the rates that DSP_CFG.RATE gives for eDP are reserved for DP (R292). -/
def State.rateBad (s : State) : Bool :=
  (rangeFrom 0 8).any (fun c => outsideUse (s.fget (CAM_CFG.EN c) == 1) 80 4500 (s.fget (CAM_CFG.RATE c))) ||
    (rangeFrom 0 6).any (fun q => if s.fget (DSP_CFG.KIND q) = 3 then outsideUse true 80 4500 (s.fget (DSP_CFG.DSIRATE q))
      else s.fget (DSP_CFG.DSIRATE q) != 0 || (s.fget (DSP_CFG.KIND q) == 1 && decide (4 ≤ s.fget (DSP_CFG.RATE q)))) ||
    (rangeFrom 0 14).any (fun k => outsideUse (s.fget (PAD_POC.EN k) == 1) 100 1500 (s.fget (PAD_POC.VTRIP k)))

/-- A route that R233 refuses. -/
def State.routeBad (s : State) (e : Nat) : Bool :=
  match s.fget (EVT_ROUTE.KIND e) with
  | 1 =>
    let n : Dealer := Fin.ofNat 4 (s.fget (EVT_ROUTE.DEALER e))
    let k := s.fget (EVT_ROUTE.LEVEL e)
    let j := s.fget (EVT_ROUTE.TASK e)
    let kind := s.levelKind n k
    k == 0 || k == 7 || kind == 0 || s.role n != 0 || (kind == 1 && j != 0) || (kind == 2 && !s.fbit (TASKSTAT.EXIST n k) j)
  | 4 => !natBit (s.fget ESP_EIBANK.BANKS) (s.fget (EVT_ROUTE.ELINE e) / 8) || s.plan.esp.isNone
  | _ => false

/-- A level area or save pool that reaches past its bank, or lies in a bank its Dealer does not own (R212). -/
def State.areaBad (s : State) (n : Dealer) : Bool :=
  let owns (b : Nat) : Bool := s.fget (BANK_OWNER.OWNER b) == 5 + n.val
  (!owns (s.fget (LBASE.BANK n)) || decide (55 < s.fget (LBASE.BLK n)) ||
    (s.reg (SPOOL.reg n) != 0 && (!owns (s.fget (SPOOL.BANK n)) || decide (1024 < s.fget (SPOOL.FIRST n) + s.fget (SPOOL.COUNT n) + 1))))

/-- The plan gives a function to a pin that it also assigns to the Espalier: its entries for one PAD_MUXn say both (R507). -/
def espPadBad (p : Plan) : Bool :=
  (rangeFrom 0 96).any (fun g =>
    let fs := (p.config.filter (fun c => c.1 == PAD_MUX.reg g)).map (fun c => getField c.2 (PAD_MUX.FUNC g).lo (PAD_MUX.FUNC g).wid)
    fs.contains 1 && fs.any (fun f => decide (2 ≤ f)))

/-- A pin plan that R507 refuses. -/
def State.padsBad (s : State) : Bool :=
  let f (g : Nat) : Nat × Nat := (s.fget (PAD_MUX.FUNC g), s.fget (PAD_MUX.SEL g))
  (rangeFrom 0 96).any (fun g => match f g with | (2, k) => decide (4 ≤ k) | (3, _) => false | (_, k) => k != 0) ||
    !pairwiseOk (fun g h => decide (2 ≤ (f g).1) && f g == f h) (rangeFrom 0 96)

/-- The image copy's range meets a DEST, a segment of a seat, a ring or a frame buffer. -/
def State.copyBad (s : State) (p : Plan) : Bool :=
  let r := (p.copyBase, planExtent p)
  (p.sects.filter (fun x => x.typ == 0x10)).any (fun x => rangesMeet r (x.dest, x.size)) ||
    s.seatSegments.any (fun g => rangesMeet r g.2.2) || (s.cameraRings ++ s.frameBuffers).any (rangesMeet r)

/-- Check 0x89 fails. -/
def State.bad89 (s : State) (p : Plan) : Bool :=
  p.config.any s.valueBad || (rangeFrom 0 6).any s.pllBad || s.fget (GARD_CLASS.STRIKES 8) != 0 ||
    s.rateBad || s.padsBad || espPadBad p || selBad p || s.coldBad || p.hands.any (fun h => !isPermutation h.2) || (rangeFrom 0 320).any s.routeBad || allDealers.any s.areaBad || s.copyBad p

/- Check 0x8A (R473, R478 to R480). -/

/-- An early buffer of a pipe does not lie in banks of the Dealer that owns its early layer. -/
def State.earlyBufBad (s : State) (p : Plan) (q k : Nat) : Bool :=
  let a := p.earlyBufs.getD (3 * q + k) 0
  let size := (s.fget (DSP_HTIM.ACTIVE q) + 15) / 16 * 8 * s.fget (DSP_VTIM.ACTIVE q)
  let own := 5 + s.fget (DSP_LAYER.OWNER q 0)
  decide (a < storeBase 0) || decide (storeBase 32 < a + size) || a % 8 != 0 ||
    (rangeFrom 0 32).any (fun b => rangesMeet (a, size) (storeBase b, storeSize b) && s.fget (BANK_OWNER.OWNER b) != own)

def State.bad8A (s : State) (p : Plan) : Bool :=
  decide (8 < ((rangeFrom 0 64).filter (natBit p.earlyTiles.toNat)).length) ||
    s.usedPipes.any (fun q => (s.carriesTell q && decide (19500000 < s.fget (DSP_FSOFF.CYCLES q))) ||
      s.role (Fin.ofNat 4 (s.fget (DSP_LAYER.OWNER q 0))) != 0 || (rangeFrom 0 3).any (s.earlyBufBad p q))

/- Customer microcode (R168). -/

/-- The customer entries of the image with V = 1: opcode and entry. -/
def customerEntries (p : Plan) : List (Nat × Nat) :=
  ((rangeFrom 0 1024).map (fun a => (a, ((lastWord p.ucode (0x80000 + 8 * a)).getD 0).toNat))).filter (fun x => natBit x.2 15)

def inCustomer (m : Nat) : Bool := decide (12288 ≤ m) && decide (m < 16384)

/-- The microwords that may follow microword m, where the callees of `ret` are those that return: the word after a CALL follows only then. -/
def microNext (p : Plan) (ret : List Nat) (m : Nat) : List Nat :=
  let w := planMicroword p m
  match uNAM w with
  | 0 => [m + 1]
  | 1 => [uTARGET w]
  | 2 => [uTARGET w, m + 1]
  | 3 => [uTARGET w, m + 1]
  | 4 => uTARGET w :: (if ret.contains (uTARGET w) then [m + 1] else [])
  | _ => []

/-- The microwords of the same routine that may follow microword m. -/
def microOver (p : Plan) (ret : List Nat) (m : Nat) : List Nat :=
  if uNAM (planMicroword p m) = 4 then (microNext p ret m).drop 1 else microNext p ret m

/-- The microwords reachable from a list of them: what lies outside the customer region is kept but not followed. -/
def microReach (next : Nat → List Nat) : Nat → List Nat → List Nat → List Nat
  | 0, _, seen => seen
  | _, [], seen => seen
  | k + 1, m :: l, seen =>
    if seen.contains m then microReach next k l seen
    else microReach next k ((if inCustomer m then next m else []) ++ l) (m :: seen)

/-- The targets of the CALLs in the customer region. -/
def callTargets (p : Plan) : List Nat :=
  (((rangeFrom 12288 4096).map (planMicroword p)).filter (fun w => uNAM w == 4)).map uTARGET |>.eraseDups

/-- The callees that can come to a RET over microwords of `through`, found from those known so far. -/
def returning (p : Plan) (through : Nat → Bool) : Nat → List Nat → List Nat
  | 0, ret => ret
  | k + 1, ret => returning p through k ((callTargets p).filter (fun t =>
      (microReach (fun m => if through m then microOver p ret m else []) 16384 [t] []).any
        (fun m => inCustomer m && through m && uNAM (planMicroword p m) == 5)))

/-- The callees that return. -/
def returners (p : Plan) : List Nat := returning p (fun _ => true) (callTargets p).length []

def isLoop (p : Plan) (m : Nat) : Bool := uNAM (planMicroword p m) == 3

/-- The callees that return without a LOOP. -/
def straightReturners (p : Plan) : List Nat := returning p (fun m => !isLoop p m) (callTargets p).length []

def reachable (p : Plan) (x : Nat) : List Nat := microReach (microNext p (returners p)) 16384 [dENTRY x] []

def bad01 (p : Plan) : Bool :=
  (customerEntries p).any (fun x => decide (x.1 < 0x380) || !inCustomer (dENTRY x.2) || (dRST x.2 && !inCustomer (dTAIL x.2)))

def bad02 (p : Plan) : Bool := (customerEntries p).any (fun x => (reachable p x.2).any (fun m => !inCustomer m || uROOT (planMicroword p m)))

/-- A field value outside the Customer column of R153. -/
def customerBad (w : Nat) : Bool :=
  microReserved w || uESAMP w || uROOT w || uWM w || uMSPOP w != 0 || ! [0, 1, 2, 6, 7].contains (uSCOM w) || uEBIT w != 0 || uNOGATE w ||
    (uRAM w == 1 && (decide (uROFF w < 1920) || decide (1982 < uROFF w))) || (uWAM w == 1 && (decide (uWOFF w < 1976) || decide (1982 < uWOFF w))) ||
    uWAM w == 6

/-- Check 0x03.  DESIGN CHOICE (log entry 162): a res0 bit of a customer dispatch entry is refused under it. -/
def bad03 (p : Plan) : Bool :=
  (customerEntries p).any (fun x => natBit x.2 14 || natBit x.2 23 || natBits x.2 30 2 != 0 || natBits x.2 60 4 != 0 ||
    (reachable p x.2).any (fun m => customerBad (planMicroword p m)))

/-- A descriptor that a microword names without its declaration in USE. -/
def descBad (x w : Nat) : Bool :=
  let used (k : Nat) : Bool := uRAM w == k + 2 || uWAM w == k + 2 || uLCVAL w == k + 1
  (rangeFrom 0 4).any (fun k => used k && !dUSE x k)

def bad04 (p : Plan) : Bool :=
  (customerEntries p).any (fun x => (dUSE x.2 3 && !dEXT x.2) || (reachable p x.2).any (fun m => descBad x.2 (planMicroword p m)))

/- Paths through a routine (checks 0x05 to 0x08; log entry 114). -/

/-- A path at the microword it comes to: the address, each loop counter (none until LCLD loads it, then its value, or none where the value
comes from the instruction), the calls not yet returned from (return address and target), and the microwords issued since the last SAMPLE. -/
structure UPath where
  addr : Nat
  lc : List (Option (Option Nat))
  calls : List (Nat × Nat)
  since : Option Nat
  deriving DecidableEq, Repr

/-- The value a loop counter is loaded with: the largest that its source can give (R168, check 0x06); or, where the counts stay open, 0 for an
IMM16 of 0 and any value else. -/
def countOf (x : Nat) (largest : Bool) (w : Nat) : Option Nat :=
  if largest then some (match uLCVAL w with | 0 => natBits (uIMM16 w) 0 12 | 5 => 127 | 6 => 511 | _ => dWMAX x)
  else if uLCVAL w = 0 ∧ natBits (uIMM16 w) 0 12 = 0 then some 0
  else none

/-- The loop counters and the distance to the last sample once a path's microword has issued, before its NAM. -/
def UPath.issue (x : Nat) (largest : Bool) (w : Nat) (u : UPath) : UPath :=
  { u with lc := if uLCLD w then u.lc.set (uLCSEL w) (some (countOf x largest w)) else u.lc,
           since := if uSAMPLE w then some 1 else u.since.map (fun k => min 27 (k + 1)) }

/-- The microwords a path goes on to; it may follow either side of a BRANCH, and of a LOOP whose counter may hold any value, which holds 0 once
the path has passed it. -/
def UPath.follow (w : Nat) (u : UPath) : List UPath :=
  let at' (a : Nat) : UPath := { u with addr := a }
  match uNAM w with
  | 0 => [at' (u.addr + 1)]
  | 1 => [at' (uTARGET w)]
  | 2 => [at' (uTARGET w), at' (u.addr + 1)]
  | 3 => match u.lc.getD (uLCSEL w) none with
    | some (some (v + 1)) => [{ u with addr := uTARGET w, lc := u.lc.set (uLCSEL w) (some (some v)) }]
    | some (some 0) => [at' (u.addr + 1)]
    | some none => [at' (uTARGET w), { u with addr := u.addr + 1, lc := u.lc.set (uLCSEL w) (some (some 0)) }]
    | none => [at' (uTARGET w), at' (u.addr + 1)]
  | 4 => [{ u with addr := uTARGET w, calls := (u.addr + 1, uTARGET w) :: u.calls }]
  | 5 => match u.calls with
    | c :: l => [{ u with addr := c.1, calls := l }]
    | [] => []
  | _ => []

/-- The length of the longest path of a routine, from those at hand, with every loop at its largest count; none when one has not ended within
the given number of microwords. -/
def walkPaths (p : Plan) (x : Nat) : Nat → List UPath → Option Nat
  | 0, l => if l.isEmpty then some 0 else none
  | k + 1, l =>
    if l.isEmpty then some 0
    else
      let issued := (l.filter (fun u => inCustomer u.addr)).map (fun u => (planMicroword p u.addr, u.issue x true (planMicroword p u.addr)))
      (walkPaths p x k (issued.flatMap (fun v => v.2.follow v.1)).eraseDups).map (fun n => n + 1)

/-- A path that does not end at END: a RET without a call, a ninth call, or a routine that calls itself. -/
def callBroken (x w : Nat) (u : UPath) : Bool :=
  (uNAM w == 5 && u.calls.isEmpty) ||
    (uNAM w == 4 && (decide (8 ≤ u.calls.length) || uTARGET w == dENTRY x || u.calls.any (fun c => c.2 == uTARGET w)))

/-- Every place a path of a routine can come to, its counts left open, with the microword there and the counters and the sample distance as it
issues; a path is not followed past a broken call. -/
def placesOf (p : Plan) (x : Nat) : Nat → List UPath → List UPath → List (Nat × UPath)
  | 0, _, _ => []
  | _, [], _ => []
  | k + 1, u :: l, seen =>
    if seen.contains u || !inCustomer u.addr then placesOf p x k l seen
    else
      let w := planMicroword p u.addr
      let v := u.issue x false w
      (w, v) :: placesOf p x k ((if callBroken x w v then [] else v.follow w) ++ l) (u :: seen)

/-- The path of a routine at its entry. -/
def entryPath (x : Nat) : UPath := { addr := dENTRY x, lc := [none, none, none, none], calls := [], since := none }

/-- Some path of a routine comes to a place that is `bad`; the bound is above what a routine of 4,096 microwords comes to. -/
def somePath (p : Plan) (x : Nat) (bad : Nat → UPath → Bool) : Bool :=
  (placesOf p x (2 ^ 64) [entryPath x] []).any (fun v => bad v.1 v.2)

/-- A LOOP whose counter no LCLD has loaded. -/
def loopUnloaded (w : Nat) (u : UPath) : Bool := uNAM w == 3 && (u.lc.getD (uLCSEL w) none).isNone

/-- The microwords of a list that have a successor in it and are no LOOP, again and again: what remains holds a cycle without a LOOP. -/
def peelCycles (p : Plan) : Nat → List Nat → List Nat
  | 0, l => l
  | k + 1, l => peelCycles p k (l.filter (fun m => !isLoop p m && (microNext p (straightReturners p) m).any l.contains))

def bad05 (p : Plan) : Bool :=
  (customerEntries p).any (fun x => let ms := reachable p x.2
    !(peelCycles p ms.length ms).isEmpty || somePath p x.2 loopUnloaded)

def dWORST (x : Nat) : Nat := natBits x 48 12

def bad06 (p : Plan) : Bool :=
  (customerEntries p).any (fun x => walkPaths p x.2 microLimit [entryPath x.2] != some (dWORST x.2 + 1))

def bad07 (p : Plan) : Bool := (customerEntries p).any (fun x => somePath p x.2 (callBroken x.2))

/-- A BRANCH closer to the last sample than R160 allows. -/
def branchEarly (w : Nat) (u : UPath) : Bool :=
  let apart (k : Nat) : Bool := match u.since with | some d => decide (d ≤ k) | none => false
  uNAM w == 2 && (if uCOND w ≤ 1 then apart 18 else if uCOND w ≤ 3 then apart 26 else false)

def bad08 (p : Plan) : Bool := (customerEntries p).any (fun x => somePath p x.2 branchEarly)

/-- The CRC-32 of the customer region and the customer dispatch entries, against the image's value (check 0x0A). -/
def bad0A (p : Plan) : Bool :=
  p.sects.any (fun x => x.typ == 3) &&
    crc32 ((rangeFrom 12288 4096).flatMap (fun m => bytesOfNat 18 (planMicroword p m)) ++
      (rangeFrom 0x380 128).flatMap (fun a => bytesOfNat 8 (planDisp p a))) != p.ucrc

def uCOMMIT (w : Nat) : Bool := natBit w 14

/-- A microword that must stand in the commit tail (R166). -/
def mustCommit (w : Nat) : Bool :=
  (decide (2 ≤ uWAM w) && decide (uWAM w ≤ 5)) || (uWAM w == 1 && decide (1976 ≤ uWOFF w) && decide (uWOFF w ≤ 1982)) ||
    [1, 2, 3].contains (uSCOM w)

/-- A routine that breaks R164 or R166. -/
def tailBroken (p : Plan) (x : Nat) : Bool :=
  let inTail (m : Nat) : Bool := decide (dTAIL x ≤ m) && decide (m ≤ dTAIL x + dTLEN x)
  let ms := reachable p x
  let ret := returners p
  let tail := rangeFrom (dTAIL x) (dTLEN x + 1)
  ms.any (fun m =>
    let w := planMicroword p m
    (mustCommit w && !uCOMMIT w) || (uCOMMIT w && !inTail m) || (uNAM w == 6 && !inTail m) ||
      (!inTail m && (microNext p ret m).any (fun k => inTail k && k != dTAIL x))) || (inTail (dENTRY x) && dENTRY x != dTAIL x) ||
    tail.any (fun m =>
      let w := planMicroword p m
      !uCOMMIT w || (microNext p ret m).any (fun k => !inTail k) || (uXSRC w == 0 && uRAM w != 7) || uNAM w == 4 || uNAM w == 5 || (uNAM w == 2 && uCOND w != 6))

/-- Check 0x09.  DESIGN CHOICE (log entry 162): a TAIL or TLEN that is not 0 with RST = 0 is refused under it. -/
def bad09 (p : Plan) : Bool :=
  (customerEntries p).any (fun x =>
    if dRST x.2 then tailBroken p x.2 else (reachable p x.2).any (fun m => uCOMMIT (planMicroword p m)) || dTAIL x.2 != 0 || dTLEN x.2 != 0)

/- Ticks and deals (R248). -/

def State.bad20 (s : State) : Bool :=
  let lo := s.fget TICK_MIN.CYCLES
  let nom := s.fget TICK_NOM.CYCLES
  let hi := s.fget TICK_MAX.CYCLES
  let px := s.fget (DSP_HTIM.TOTAL 0) * s.fget (DSP_VTIM.TOTAL 0) * 1000000
  let khz := s.fget (DSP_PCLK.KHZ 0)
  decide (lo < 8333333) || decide (nom < lo) || decide (hi < nom) || decide (33333333 < hi) ||
    (s.fget TICK_CFG.SRC == 0 && (decide (px / khz < lo) || decide (hi < (px + khz - 1) / khz) || s.fget (DSP_FSOFF.CYCLES 0) != 0))

/-- The variants of Dealer n that are present, the early entry (8) among them (R241, R472). -/
def State.presentVariants (s : State) (n : Dealer) : List Nat := (rangeFrom 0 9).filter (s.variantPresent n)

def State.driving (s : State) : List Dealer := allDealers.filter (fun n => s.role n == 0)

def State.bad21 (s : State) : Bool :=
  s.driving.any (fun n => ([0, 1, 4, 8] ++ (if s.fget ARRAY_MODE.MODE = 0 then [2] else [])).any (fun v => !s.variantPresent n v))

/-- Entry v of Dealer n has a 1 in a res0 bit; START and RECOVERY always lie within the deal store by their width. -/
def State.entryBad (s : State) (n : Dealer) (v : Nat) : Bool :=
  let a := dealBase n + 16 * v
  let w := s.wordData a + 2 ^ 64 * s.wordData (a + 8)
  natBits w 18 13 != 0 || natBits w 0 2 != 0 || natBits w 50 14 != 0 || natBits w 32 2 != 0 || natBits w 89 39 != 0

def State.bad22 (s : State) : Bool := s.driving.any (fun n => (rangeFrom 0 9).any (s.entryBad n))

def State.bad23 (s : State) : Bool :=
  let m := s.fget TICK_MIN.CYCLES
  s.driving.any (fun n => (s.presentVariants n).any (fun v =>
    let b := natBits (s.wordData (dealBase n + 16 * v + 8)) 0 25
    decide (96 * m / 100 < b) || decide (m < b + (4 * m + 99) / 100)))

/-- A route of another kind with a CAP; every route of KIND DEALER has its CAP, acceptances minus one, in EVT_CAPs. -/
def State.bad24 (s : State) : Bool := (rangeFrom 0 320).any (fun e => s.fget (EVT_ROUTE.KIND e) != 1 && s.fget (EVT_CAP.CAP e) != 0)

/- Pixel paths (R294). -/

def State.camPorts (s : State) : List Nat := (rangeFrom 0 8).filter (fun c => s.fget (CAM_CFG.EN c) == 1)

def State.ctxBad (s : State) (c x : Nat) : Bool :=
  let w := s.fget (CAM_CTX_SIZE.WIDTH c x)
  let h := s.fget (CAM_CTX_SIZE.HEIGHT c x)
  s.fget (CAM_CTX_FMT.EN c x) == 1 && (w % 2 != 0 || decide (w < 16) || decide (4096 < w) || decide (h < 16) || decide (4096 < h) ||
    ! [0x1E, 0x2B, 0x2C, 0x2D, 0x2E].contains (s.fget (CAM_CTX_FMT.DT c x)))

def State.bad30 (s : State) : Bool :=
  (rangeFrom 0 8).any (fun c => s.ctxBad c 0 || s.ctxBad c 1 ||
    (s.fget (CAM_CTX_FMT.EN c 0) == 1 && s.fget (CAM_CTX_FMT.EN c 1) == 1 && s.fget (CAM_CTX_FMT.VC c 0) == s.fget (CAM_CTX_FMT.VC c 1) &&
      s.fget (CAM_CTX_FMT.DT c 0) == s.fget (CAM_CTX_FMT.DT c 1)))

/-- The declared peak rates of the image's cameras: payload of each port in kbit/s, frames of each enabled context in thousandths per second. -/
def State.bad31 (s : State) (p : Plan) : Bool :=
  (rangeFrom 0 8).any (fun c => decide (2 ^ s.fget (CAM_CFG.LANES c) * s.fget (CAM_CFG.RATE c) * 1000 < Sparse.get 0 p.camPayload c)) ||
    decide (1200000000 * 1000 < ((rangeFrom 0 16).map (fun i =>
      if s.fget (CAM_CTX_FMT.EN (i / 2) (i % 2)) = 1 then
        s.fget (CAM_CTX_SIZE.WIDTH (i / 2) (i % 2)) * s.fget (CAM_CTX_SIZE.HEIGHT (i / 2) (i % 2)) * Sparse.get 0 p.camFrames i
      else 0)).sum)

def State.bad32 (s : State) : Bool :=
  s.cameraRings.any (fun r => decide (dramEnd < r.1 + r.2) || s.frameBuffers.any (rangesMeet r)) || !pairwiseOk rangesMeet s.cameraRings

/-- The back porch of a pipe's line, or of its frame, is below 1. -/
def porchBad (total active fp width : Nat) : Bool := decide (total < active + fp + width + 1)

def State.pipeBad (s : State) (p : Nat) : Bool :=
  let kind := s.fget (DSP_CFG.KIND p)
  let h := s.fget (DSP_HTIM.ACTIVE p)
  let v := s.fget (DSP_VTIM.ACTIVE p)
  let rate := s.fget (DSP_CFG.DSIRATE p)
  (if p < 4 then kind == 3 else kind != 3) || (kind == 3 && (decide (rate < 80) || decide (4500 < rate))) || decide (9000000 < h * v) || decide (4096 < v) || decide (8192 < h) ||
    porchBad (s.fget (DSP_HTIM.TOTAL p)) h (s.fget (DSP_HSYNC.FP p)) (s.fget (DSP_HSYNC.WIDTH p)) ||
    porchBad (s.fget (DSP_VTIM.TOTAL p)) v (s.fget (DSP_VSYNC.FP p)) (s.fget (DSP_VSYNC.WIDTH p))

/-- The target of the pipe's picture parameter set in sixteenths of a bit per pixel (VESA DSC 1.2a: the two low bits of byte 4, then byte 5;
log entry 76). -/
def State.dscTarget (s : State) (p : Nat) : Nat :=
  natBits (s.fget (DSP_PPS.PPS p 1)) 0 2 * 256 + natBits (s.fget (DSP_PPS.PPS p 1)) 8 8

/-- The slices per line of the picture parameter set: pic_width (bytes 8 and 9) over slice_width (bytes 12 and 13; log entry 76). -/
def State.dscSlices (s : State) (p : Nat) : Nat :=
  let half (i lo : Nat) : Nat := natBits (s.fget (DSP_PPS.PPS p i)) lo 8 * 256 + natBits (s.fget (DSP_PPS.PPS p i)) (lo + 8) 8
  (half 2 0 + half 3 0 - 1) / half 3 0

/-- DSC is on where it may not be: only on DSP0 to DSP3 with KIND DP or eDP, with 8 or 10 bits per channel, a target of 8.0 to 12.0 bits per pixel
and 1, 2 or 4 slices per line (R292; the code of the latter conditions is log entry 171). -/
def State.dscBad (s : State) (p : Nat) : Bool :=
  s.fget (DSP_CFG.DSC p) == 1 && (decide (4 ≤ p) || (s.fget (DSP_CFG.KIND p) != 1 && s.fget (DSP_CFG.KIND p) != 2) || s.fget (DSP_CFG.BPC p) == 0 ||
    decide (s.dscTarget p < 128) || decide (192 < s.dscTarget p) || ! [1, 2, 4].contains (s.dscSlices p))

def State.bad33 (s : State) : Bool := s.usedPipes.any s.pipeBad || (rangeFrom 0 6).any s.dscBad

def State.bad34 (s : State) : Bool :=
  decide (1992 * s.fget TICK_MIN.CYCLES / 1000 < (s.usedPipes.map (fun p => s.fget (DSP_HTIM.ACTIVE p) * s.fget (DSP_VTIM.ACTIVE p))).sum)

def State.bad35 (s : State) : Bool :=
  s.usedPipes.any (fun p => !(p == 0 && s.fget TICK_CFG.SRC == 0) &&
    (decide (s.fget TICK_MIN.CYCLES * s.fget (DSP_PCLK.KHZ p) < (s.fget (DSP_VTIM.TOTAL p) + 1) * s.fget (DSP_HTIM.TOTAL p) * 1000000) ||
      decide (s.fget TICK_MIN.CYCLES ≤ s.fget (DSP_FSOFF.CYCLES p))))

/-- The lane rate of a DP or eDP pipe in kbit/s. -/
def laneKbps (rate : Nat) : Nat := [1620000, 2700000, 5400000, 8100000, 2160000, 2430000, 3240000, 4320000].getD rate 0

/-- Bits per pixel on the link, in sixteenths. -/
def State.linkBits (s : State) (p : Nat) : Nat :=
  if s.fget (DSP_CFG.DSC p) = 1 then s.dscTarget p else 16 * (3 * s.depth p)

/-- Thousandths of the lane rate that carry pixels: FEC is used on DP whenever DSC is on (the link table of spec/09). -/
def State.linkShare (s : State) (p : Nat) : Nat :=
  if s.fget (DSP_CFG.KIND p) = 3 then 10000 else if s.fget (DSP_CFG.KIND p) = 1 ∧ s.fget (DSP_CFG.DSC p) = 1 then 8 * 976 else 8000

def State.bad36 (s : State) : Bool :=
  s.usedPipes.any (fun p =>
    let rate := if s.fget (DSP_CFG.KIND p) = 3 then s.fget (DSP_CFG.DSIRATE p) * 1000 else laneKbps (s.fget (DSP_CFG.RATE p))
    decide (2 ^ s.fget (DSP_CFG.LANES p) * rate * s.linkShare p * 16 < s.fget (DSP_PCLK.KHZ p) * s.linkBits p * 10000))

def State.bad37 (s : State) : Bool :=
  decide (64 < ((rangeFrom 0 6).map (fun p => s.fget (DSP_FBP.LBGRAN p))).sum) ||
    (rangeFrom 0 6).any (fun p => decide (s.fget (DSP_FBP.LBGRAN p) * 32768 < 16 * s.fget (DSP_HTIM.ACTIVE p) * 4))

/-- An enabled layer whose bands are out of order or beyond the pipe's, or whose owner is no driving Dealer. -/
def State.layerBad (s : State) (p l : Nat) : Bool :=
  s.fget (DSP_LAYER.EN p l) == 1 &&
    (decide (s.fget (DSP_LAYER.LAST p l) < s.fget (DSP_LAYER.FIRST p l)) || decide (s.bands p ≤ s.fget (DSP_LAYER.LAST p l)) ||
      s.role (Fin.ofNat 4 (s.fget (DSP_LAYER.OWNER p l))) != 0)

def State.bad38 (s : State) : Bool :=
  (rangeFrom 0 6).any (fun p => (rangeFrom 0 16).any (s.layerBad p)) ||
    (rangeFrom 0 6).any (fun p => decide (s.fget (DSP_FBP.PITCH p) * 256 < s.fget (DSP_HTIM.ACTIVE p) * 4)) ||
    s.frameBuffers.any (fun r => decide (dramEnd < r.1 + r.2))

/- Tell-tales (R316). -/

/-- The icons of a definition's states, primary and fallback, with their state records. -/
def State.tellRecords (s : State) (i : Nat) : List Nat := rangeFrom (s.fget (TELL_DEF_W2.SREC i)) (s.fget (TELL_DEF_W2.NST i))

def State.enabledTells (s : State) : List Nat := (rangeFrom 0 256).filter (fun i => s.fget (TELL_DEF_W0.EN i) == 1)
def State.enabledDboxes (s : State) : List Nat := (rangeFrom 0 64).filter (fun b => s.fget (TELL_DBOX_W0.EN b) == 1)

/-- A box for checks 0x40 and 0x44. -/
structure CheckBox where
  pipe : Nat
  deal : Bool
  x : Nat
  y : Nat
  w : Nat
  h : Nat

def State.checkBoxes (s : State) : List CheckBox :=
  s.enabledTells.map (fun i =>
    let icons := (s.tellRecords i).flatMap (fun r => [s.fget (TELL_SREC_W0.ICON r), s.fget (TELL_SREC_W0.FBICON r)])
    { pipe := s.fget (TELL_DEF_W0.PIPE i), deal := false, x := s.fget (TELL_DEF_W1.X i), y := s.fget (TELL_DEF_W1.Y i),
      w := icons.foldl (fun m k => max m (s.iconW k)) 0, h := icons.foldl (fun m k => max m (s.iconH k)) 0 }) ++
    s.enabledDboxes.map (fun b =>
      { pipe := s.fget (TELL_DBOX_W0.PIPE b), deal := true, x := s.fget (TELL_DBOX_W1.X b), y := s.fget (TELL_DBOX_W1.Y b),
        w := s.fget (TELL_DBOX_W2.W b), h := s.fget (TELL_DBOX_W2.H b) })

def boxesMeet (a b : CheckBox) : Bool := a.pipe == b.pipe && rangesMeet (a.x, a.w) (b.x, b.w) && rangesMeet (a.y, a.h) (b.y, b.h)

def State.bad40 (s : State) : Bool :=
  let l := s.checkBoxes
  l.any (fun b => !s.pipeUsed b.pipe || decide (s.fget (DSP_HTIM.ACTIVE b.pipe) < b.x + b.w) || decide (s.fget (DSP_VTIM.ACTIVE b.pipe) < b.y + b.h) ||
      decide (8 < (l.filter (fun c => c.pipe == b.pipe && decide (c.y ≤ b.y) && decide (b.y < c.y + c.h))).length)) ||
    !pairwiseOk boxesMeet l ||
    (rangeFrom 0 6).any (fun p => decide (32 < (l.filter (fun b => b.pipe == p && !b.deal)).length) ||
      decide (16 < (l.filter (fun b => b.pipe == p && b.deal)).length))

def State.bad41 (s : State) : Bool :=
  s.enabledTells.any (fun i =>
    let src := s.fget (TELL_DEF_W0.SRC i)
    let t := s.fget (TELL_DEF_W0.TIMEOUT i)
    let n := s.fget (TELL_DEF_W2.NST i)
    (if src < 4 then s.fget (SEAT_CFG.EN src) == 0 || t == 0 || decide (500 < t)
     else s.plan.esp.isNone || t != 0 || decide (61 < s.fget (TELL_DEF_W0.ELINE i))) ||
    n == 0 || decide (n < s.fget (TELL_DEF_W2.INIT i)) || decide (n < s.fget (TELL_DEF_W2.SAFE i)) ||
    decide (2047 < s.fget (TELL_DEF_W2.SREC i) + n - 1))

/-- An icon without a valid header, or that leaves the store (R298). -/
def State.iconBad (s : State) (icon : Nat) : Bool :=
  let h0 := (s.iconWord (64 * icon)).1
  let h1 := (s.iconWord (64 * icon + 4)).1
  let w := natBits h0 0 9
  let h := natBits h0 16 9
  w == 0 || decide (256 < w) || h == 0 || decide (256 < h) || natBits h0 9 7 != 0 || natBits h0 25 7 != 0 || h1 != 0 ||
    decide (0x80000 < 64 * icon + 8 + h * ((w + 15) / 16) * 4)

/-- The codes of an icon in raster order. -/
def State.iconCodes (s : State) (icon : Nat) : List Nat :=
  let w := s.iconW icon
  (rangeFrom 0 (s.iconH icon)).flatMap (fun y => (rangeFrom 0 w).map (fun i => (s.iconCode icon w y i).1))

def State.recordBad (s : State) (r : Nat) : Bool :=
  let a := s.fget (TELL_SREC_W0.ICON r)
  let b := s.fget (TELL_SREC_W0.FBICON r)
  s.iconBad a || s.iconBad b || s.iconW a != s.iconW b || s.iconH a != s.iconH b ||
    s.fget (TELL_SREC_W6.NPIX r) != ((s.iconCodes a).filter (fun c => c != 0)).length

def State.bad42 (s : State) : Bool := s.enabledTells.any (fun i => (s.tellRecords i).any s.recordBad)

/-- The CRC of an icon drawn with two colours at depth b (R309, R310). -/
def State.goldOf (s : State) (b icon cola colb : Nat) : Nat :=
  ((s.iconCodes icon).foldl (fun crc c =>
    match c with
    | 0 => crc
    | 1 => tallyPixel crc (reduceColour b cola)
    | 2 => tallyPixel crc (reduceColour b colb)
    | _ => tallyPixel crc 0) 0xFFFFFFFF) ^^^ 0xFFFFFFFF

def State.bad43 (s : State) : Bool :=
  s.enabledTells.any (fun i => (s.tellRecords i).any (fun r =>
    let gold (icon : Nat) : Nat := s.goldOf (s.depth (s.fget (TELL_DEF_W0.PIPE i))) icon (s.fget (TELL_SREC_W1.COLA r)) (s.fget (TELL_SREC_W2.COLB r))
    s.fget (TELL_SREC_W4.GOLD r) != gold (s.fget (TELL_SREC_W0.ICON r)) || s.fget (TELL_SREC_W5.FBGOLD r) != gold (s.fget (TELL_SREC_W0.FBICON r))))

def State.bad44 (s : State) : Bool :=
  s.checkBoxes.any (fun b =>
    let ht := s.fget (DSP_HTIM.TOTAL b.pipe)
    let khz := s.fget (DSP_PCLK.KHZ b.pipe)
    let lines := s.fget (DSP_VTIM.ACTIVE b.pipe) + s.fget (DSP_VSYNC.FP b.pipe) - (b.y + b.h)
    decide (khz < 5 * ht) || decide (50 * lines * ht < 3 * khz))

def State.bad45 (s : State) : Bool :=
  s.enabledDboxes.any (fun b => s.role (Fin.ofNat 4 (s.fget (TELL_DBOX_W0.OWNER b))) != 0) ||
    (rangeFrom 0 4).any (fun p => s.fget (TELL_RB.EN p) == 1 && (s.fget (DSP_CFG.KIND p) != 2 || s.fget (DSP_CFG.DSC p) != 0))

/- The Trellis (R370). -/

/-- The output port of dimension order, x first, from router r toward router d; none at d itself. -/
def dimensionPort (r d : Nat) : Option Nat :=
  if r % 6 < d % 6 then some 1 else if d % 6 < r % 6 then some 3 else if r / 6 < d / 6 then some 2 else if d / 6 < r / 6 then some 0 else none

def State.bad50 (s : State) : Bool :=
  (rangeFrom 0 24).any (fun r => (rangeFrom 0 24).any (fun d =>
    let port := s.fget (TRL_RTE.ACTIVE r (nodeOf d))
    match dimensionPort r d with
    | some k => port != k
    | none => decide (port < 4)))

/-- The port of an alternate set at router r toward the node of router d. -/
def altSetPort (a : AltSet) (r d : Nat) : Nat := Sparse.get 0 a.routes (64 * r + nodeOf d)

/-- A set takes a packet from router r to router d in at most so many hops, through routers other than `dead`. -/
def altSetDelivers (a : AltSet) (dead d : Nat) : Nat → Nat → Bool
  | 0, _ => false
  | k + 1, r =>
    if r = dead then false
    else if r = d then decide (4 ≤ altSetPort a r d)
    else match neighbour r (altSetPort a r d) with
      | some x => altSetDelivers a dead d k x
      | none => false

/-- The link directions that a packet toward router d takes one after the other at router r: each as 4 × router + port. -/
def altSetTurn (a : AltSet) (r d : Nat) : Option (Nat × Nat) :=
  match neighbour r (altSetPort a r d) with
  | some x => if x = d then none else some (4 * r + altSetPort a r d, 4 * x + altSetPort a x d)
  | none => none

/-- The dependencies that remain when the channels nothing depends on are taken away, again and again. -/
def peelTurns : Nat → List (Nat × Nat) → List (Nat × Nat)
  | 0, l => l
  | k + 1, l => peelTurns k (l.filter (fun e => l.any (fun f => f.1 == e.2)))

/-- The set of router `dead` (24 for a link's set) does not deliver, or its channel dependencies have a cycle; a packet keeps its virtual
channel on its way, so that the eight graphs are the same (R363, log entry 114). -/
def altSetBroken (a : AltSet) (dead : Nat) : Bool :=
  let live := (rangeFrom 0 24).filter (fun r => r != dead)
  let turns := (live.flatMap (fun d => (live.filter (fun r => r != d)).filterMap (fun r => altSetTurn a r d))).eraseDups
  live.any (fun d => live.any (fun r => !altSetDelivers a dead d 25 r)) || !(peelTurns 97 turns).isEmpty

/-- Check 0x51: the sets of the 38 links and of the 24 routers. -/
def bad51 (p : Plan) : Bool :=
  (rangeFrom 0 62).any (fun k => match p.altSets.find? (fun x => x.1 == k) with
    | some x => altSetBroken x.2 (if k < 38 then 24 else k - 38)
    | none => true)

def State.tagRanges (s : State) : List (Nat × Nat) :=
  ((rangeFrom 0 96).filter (fun p => s.fget (TRL_TAG.V p) == 1)).map (fun p => (s.fget (TRL_TAG.BASE p), s.fget (TRL_TAG.SIZE p) + 1))

/-- The agents that issue requests with this image: the tiles, the Dealers, the loader, the Gardener, the seats, and the pipes and camera ports in
use (R353). -/
def State.requesters (s : State) : List Agent :=
  (rangeFrom 0 64).map (fun t => .ctu (Fin.ofNat 64 t)) ++ allDealers.map .dealer ++ [.loader, .gardener] ++
    s.enabledSeats.map (fun k => .seat (Fin.ofNat 4 k)) ++ s.usedPipes.map (fun p => .pipe (Fin.ofNat 6 p)) ++
    s.camPorts.map (fun c => .camera (Fin.ofNat 8 c))

/-- A port of router and local number `q` holds fewer than 8 tags. -/
def State.fewTags (s : State) (q : Nat × Nat) : Bool :=
  s.fget (TRL_TAG.V (4 * q.1 + q.2)) == 0 || decide (s.fget (TRL_TAG.SIZE (4 * q.1 + q.2)) < 7)

def State.bad52 (s : State) : Bool :=
  s.tagRanges.any (fun r => decide (2048 < r.1 + r.2) || decide (r.2 < 8)) || !pairwiseOk rangesMeet s.tagRanges ||
    (s.requesters.filterMap s.agentPort).any s.fewTags

/- Seats (R382). -/

/-- The ports of an enabled seat, by their CMDP code. -/
def State.seatPorts (s : State) (k : Nat) : List Nat :=
  s.fget (SEAT_CFG.CMDP k) :: (if s.fget (SEAT_CFG.NTCP k) = 0 then [] else [s.fget (SEAT_CFG.NTCP k) + 4])

def State.bad60 (s : State) : Bool :=
  !pairwiseOk (fun a b => a == b) (s.enabledSeats.flatMap s.seatPorts) ||
    !pairwiseOk (fun a b => a == b) ((s.enabledSeats.map (fun k => s.fget (SEAT_CFG.IRQ k))).filter (fun q => q != 0)) ||
    s.enabledSeats.any (fun k => (s.fget (SEAT_CFG.CMDP k) == 3 || s.fget (SEAT_CFG.CMDP k) == 4) && s.fget (SEAT_CFG.IRQ k) == 0)

def State.bad61 (s : State) : Bool :=
  let l := s.seatSegments
  l.any (fun g => decide (dramEnd < g.2.2.1 + g.2.2.2) || (s.fget (SEAT_SEG_W1.WRA g.1 g.2.1) == 1 &&
      (l.any (fun o => o.1 != g.1 && rangesMeet o.2.2 g.2.2) || (s.cameraRings ++ s.frameBuffers).any (rangesMeet g.2.2)))) ||
    s.enabledSeats.any (fun k => decide (s.fget (SEAT_CFG.CMDP k) < 3) &&
      (let ap := (l.filter (fun g => g.1 == k)).map (fun g => (65536 * s.fget (SEAT_SEG_W3.APOFF k g.2.1), g.2.2.2))
       !pairwiseOk rangesMeet ap || ap.any (fun r => decide (2 ^ s.fget (SEAT_AP.APSZ k) < r.1 + r.2))))

/-- The pipe and layer pairs granted, each with its seat. -/
def State.grantedLayers (s : State) : List (Nat × Nat × Nat) :=
  (rangeFrom 0 4).flatMap (fun k => ((rangeFrom 0 16).filter (fun j => s.fget (SEAT_LAYER.EN k j) == 1)).map
    (fun j => (k, s.fget (SEAT_LAYER.PIPE k j), s.fget (SEAT_LAYER.LAYER k j))))

def State.bad62 (s : State) : Bool :=
  s.grantedLayers.any (fun g => s.fget (DSP_LAYER.EN g.2.1 g.2.2) == 0) ||
    !pairwiseOk (fun a b => a.2 == b.2 && a.1 != b.1) s.grantedLayers

def State.bad63 (s : State) : Bool :=
  decide (9 * s.fget TICK_MIN.CYCLES < (s.enabledSeats.map (fun k => (s.fget (SEAT_CFG.STEP k) + 1) * 65536)).sum) ||
    decide (10 < (s.enabledSeats.map (fun k => s.fget (SEAT_AP.APBW k))).sum)

/-- The MSI-X vector of a source at a seat. -/
def State.evVector (s : State) (k e : Nat) : Nat := s.fget ⟨SEAT_EVVEC.reg k (e / 4), 8 * (e % 4), 6⟩

def State.bad64 (s : State) : Bool :=
  (rangeFrom 0 320).any (fun e => s.fget (EVT_ROUTE.KIND e) == 2 &&
    (let k := s.fget (EVT_ROUTE.SEAT e)
     s.pcieSeat k && decide (s.evVector k e < 2)))

/- The Espalier (R449). -/

/-- Every select field of the bitstream, those of alternate clocks included. -/
def espSelects (b : Bitstream) : List Nat :=
  (b.inputs ++ b.gpioOut ++ b.gpioOe ++ b.eo ++ b.gl).map Prod.snd ++ b.macros.filterMap (fun m => m.2.alt)

def bad70 (b : Bitstream) : Bool :=
  b.res0 || crc32 b.bytes != b.crc || (espSelects b).any (fun v => decide (1185 < v)) || b.macros.any (fun m => decide (16 < m.2.sum.length) || m.2.sum.any (fun t => decide (96 ≤ t)) ||
    (match m.2.xorTerm with | some t => decide (96 ≤ t) | none => false))

def State.bad71 (s : State) (b : Bitstream) : Bool :=
  decide (s.fget ESP_FCLK.KHZ < 10000) || decide (250000 < s.fget ESP_FCLK.KHZ) || b.macros.any (fun m => m.2.kind != 0 && m.2.fg.isNone)

def State.bad72 (s : State) (b : Bitstream) : Bool :=
  (espSelects b).any (fun v => decide (2 ≤ v) && decide (v < 98) && !s.espPad (v - 2)) ||
    b.gpioOe.any (fun p => p.2 != 0 && !s.espPad p.1) || (rangeFrom 0 4).any (fun g => s.fget (ESP_FG.SRC g) == 1 && !s.espPad g)

def State.bad73 (s : State) (b : Bitstream) : Bool :=
  (espSelects b).any (fun v => decide (98 ≤ v) && decide (v < 162) && !natBit (s.fget ESP_EIBANK.BANKS) ((v - 98) / 8)) ||
    s.enabledTells.any (fun i => s.fget (TELL_DEF_W0.SRC i) == 4 &&
      (rangeFrom (s.fget (TELL_DEF_W0.ELINE i)) 3).any (fun k => decide (Sparse.get 0 b.eo k < 162)))

/- The block checks in order (R473, order 12). -/

/-- Code and outcome of every block check that the image's contents decide. -/
def State.blockChecks (s : State) (p : Plan) : List (Nat × Bool) :=
  let esp (f : Bitstream → Bool) : Bool := match p.esp with | some b => f b | none => false
  [(0x01, bad01 p), (0x02, bad02 p), (0x03, bad03 p), (0x04, bad04 p), (0x05, bad05 p), (0x06, bad06 p), (0x07, bad07 p),
   (0x08, bad08 p), (0x09, bad09 p), (0x0A, bad0A p),
   (0x20, s.bad20), (0x21, s.bad21), (0x22, s.bad22), (0x23, s.bad23), (0x24, s.bad24),
   (0x30, s.bad30), (0x31, s.bad31 p), (0x32, s.bad32), (0x33, s.bad33), (0x34, s.bad34), (0x35, s.bad35), (0x36, s.bad36), (0x37, s.bad37), (0x38, s.bad38),
   (0x40, s.bad40), (0x41, s.bad41), (0x42, s.bad42), (0x43, s.bad43), (0x44, s.bad44), (0x45, s.bad45),
   (0x50, s.bad50), (0x51, bad51 p), (0x52, s.bad52),
   (0x60, s.bad60), (0x61, s.bad61), (0x62, s.bad62), (0x63, s.bad63), (0x64, s.bad64),
   (0x70, esp bad70), (0x71, esp s.bad71), (0x72, esp s.bad72), (0x73, esp s.bad73)]

/-- The first code that fails. -/
def firstCode (computed : List (Nat × Bool)) : Option Nat := (computed.find? (fun x => x.2)).map Prod.fst

end Sys2Proof.Machine
end

