-- ==== Sys2Proof/Machine/Loader.lean ====
section
/-!
DEFINITION. The loader (spec/17 R470 to R491): the checks on a slot, the early section, DRAM training, the main read, and step 7 of a warm
restart.
-/
namespace Sys2Proof.Machine

open Sys2Proof

/- The flash (R470). -/

/-- The loader has read the SFDP parameters of the flash on xSPI k and switched it from 1S-1S-1S to 8D-8D-8D. -/
def State.flashFound (s : State) (k : Nat) (img : Image) : State := if img.answers then { s with xspi := setNatBit s.xspi k true } else s

/-- The rate at which the loader reads, in MHz DDR. -/
def State.xspiMHz (s : State) : Nat := if s.fget CLK_STAT.XAR = 1 then 200 else 100

/- Accepting a slot (R473). -/

/-- Checks 1 to 6: flash, header, part, key, signature, security version. -/
def State.headerFault (s : State) (img : Image) : Option Nat :=
  let p := img.plan
  let header := p.magic != 0x52464559 || p.format != 1 || !p.zerosOk || p.nsect == 0 || decide (32 < p.nsect) ||
    decide (32 < p.svn) || p.copyBase % 2 ^ 21 != 0 || decide (dramEnd < p.copyBase + 84 * 2 ^ 20)
  if !img.answers then some 0x80
  else if header then some 0x81
  else if p.part ≠ s.fget SYS_ID.PART then some 0x82
  else if (if s.fget SYS_LCS.KEYSET = 1 then p.keyHash != s.keyHash else decide (2 ≤ s.fget SYS_LCS.STATE)) then some 0x83
  else if !p.sigOk then some 0x84
  else if p.svn < s.fget SYS_LCS.MINSVN then some 0x85
  else none

/-- Check 7, the section table; the section it names, where one entry breaks it. -/
def tableFault (p : Plan) : Option (Option Nat) :=
  match p.sects.findIdx? sectBad with
  | some i => some (some i)
  | none => if tableBad p.sects then some none else none

/-- Checks 8 to 12, after the section table: the code and the section it names. -/
def State.contentFault (s : State) (img : Image) : Option (Nat × Option Nat) :=
  let p := img.plan
  match p.sects.zipIdx.findIdx? (fun x => sectEarly x.1 && !x.1.verifies (p.bytes x.2)) with
  | some i => some (0x87, some i)
  | none =>
    let t := s.withPlan p
    if !img.vendorOk then some (0x88, none)
    else if t.bad89 p then some (0x89, none)
    else if t.bad8A p ∨ img.earlyDram then some (0x8A, none)
    else (firstCode (t.blockChecks p)).map (fun c => (c, none))

/-- The first check that a slot fails, in the order of R473. -/
def State.slotFault (s : State) (img : Image) : Option (Nat × Option Nat) :=
  match s.headerFault img with
  | some c => some (c, none)
  | none =>
    match tableFault img.plan with
    | some i => some (0x86, i)
    | none => s.contentFault img

/-- The slot is invalid: its code, and slot B is tried or SAFE HOLD entered (R473, R474). -/
def State.slotInvalid (s : State) (code : Nat) (sect : Option Nat) : State :=
  let s1 := match sect with | some i => s.fset LOAD_FAULT.SECT i | none => s
  if s1.fget LOAD_STAT.SLOT = 0 then s1.fsets [(LOAD_FAULT.ACODE, code), (LOAD_STAT.SLOT, 1)]
  else (s1.fset LOAD_FAULT.BCODE code).enterSafeHold

/-- SLOT_CHECK_DONE: the reading and checking of the slot in use ends (R473 to R477); with no crystal to continue on, SAFE HOLD (R453). -/
def execSlotCheckDone (img : Image) (s : State) : Host.Outcome State Fault Refusal :=
  if s.inReset ≠ 0 ∨ s.fget LOAD_STAT.STATE ≠ 0 then .next s
  else
    let t := s.flashFound (s.fget LOAD_STAT.SLOT) img
    match s.slotFault img with
    | some (code, sect) => .next (t.slotInvalid code sect)
    | none =>
      if s.xtalFailed 0 && (s.xtalFailed 1 || !s.xbUsed img.plan.xb) then .next t.enterSafeHold
      else .next (t.applyEarly img.plan)

/- DRAM training (R346, R477, R481). -/

/-- DRAM_TRAINING_DONE. -/
def execDramTrainingDone (ok : Bool) (s : State) : Host.Outcome State Fault Refusal :=
  if s.fget DRAM_STAT.TRAIN ≠ 1 then .next s
  else if ok then .next (((s.fset DRAM_STAT.TRAIN 2).event 135).milestone 4)
  else .next (s.fset DRAM_STAT.TRAIN 3)

/- The main read (R482, R483). -/

/-- A verified section, read as `l`, enters the copy, with the header before the first one; a DATA section also goes to its DEST. -/
def State.placeSection (s : State) (x : Section) (l : List Byte) : State :=
  let p := s.plan
  let s1 := if s.sectsDone = 0 then s.placeBytes p.copyBase (bytesAt p.header 0 4096) else s
  let s2 := s1.placeBytes (p.copyBase + x.off) l
  let s3 := if x.typ = 0x10 then s2.placeBytes x.dest l else s2
  { s3 with sectsDone := s.sectsDone + 1 }

/-- The number of a section in the table. -/
def sectIndex (p : Plan) (x : Section) : Nat := (p.sects.findIdx? (fun y => y == x)).getD 0

/-- The life-cycle request of an LCREQ section (R488, R489): a change it may make becomes a fuse to program, any other is ignored. -/
def State.lcreqSection (s : State) (r : Nat × Nat) : State :=
  let uid := s.fget SYS_UID_LO.UID + 2 ^ 32 * s.fget SYS_UID_HI.UID
  let st := s.fget SYS_LCS.STATE
  let anyDevice := r.1 == 2 ^ 64 - 1
  let allowed : Bool :=
    if st = 2 then r.2 == 3 && r.1 == uid
    else s.lcAllowed r.2 && (r.1 == uid || (anyDevice && st == 0))
  if allowed then { s with lcReq := some r.2 } else s

/-- MAIN_READ_DONE: every section is verified and placed; the changeover follows at the next edge, and the fuses the image asks for are
programmed (R482, R490, R491). -/
def State.mainDone (s : State) : State :=
  let p := s.plan
  let s1 := ({ s with mainRead := true }).milestone 5
  let s2 := match p.lcreq with | some r => s1.lcreqSection r | none => s1
  let s3 := if p.bindKey ∧ s.fget SYS_LCS.KEYSET = 0 ∧ s.fget SYS_LCS.STATE ≤ 1 then { s2 with keyFuse := some p.keyHash } else s2
  if p.raise then { s3 with svnFuse := some p.svn } else s3

/-- The bytes of section x from the other slot: its header passes checks 1 to 7 and its section table is the started slot's byte for byte, and
they verify (R483). -/
def State.otherGives (s : State) (x : Section) : Option Image → Option (List Byte)
  | some o =>
    let l := o.plan.bytes (sectIndex s.plan x)
    if (s.headerFault o).isNone ∧ (tableFault o.plan).isNone ∧ bytesAt o.plan.header 0x80 2048 = bytesAt s.plan.header 0x80 2048 ∧ x.verifies l
    then some l else none
  | none => none

/-- The bytes that the main read takes for section x: of the first or the second read of the started slot, or of the other slot; and whether they
are the other slot's. -/
def State.sectionRead (s : State) (x : Section) (first second : List Byte) (other : Option Image) : Option (List Byte × Bool) :=
  if x.verifies first then some (first, false)
  else if x.verifies second then some (second, false)
  else (s.otherGives x other).map (fun l => (l, true))

/-- MAIN_SECTION_READ: the next section of the main read; `first` and `second` are what the two reads from the started slot give, `other` the
other slot (R482, R483). -/
def execMainSectionRead (first second : List Byte) (other : Option Image) (s : State) : Host.Outcome State Fault Refusal :=
  if s.fget LOAD_STAT.STATE ≠ 1 ∨ !s.trained ∨ s.mainRead then .next s
  else match (mainOrder s.plan)[s.sectsDone]? with
    | none => .next s
    | some x =>
      match s.sectionRead x first second other with
      | some r =>
        let s1 := s.placeSection x r.1
        let s2 := if r.2 then s1.fset LOAD_STAT.MIRROR 1 else s1
        .next (if s2.sectsDone = (mainOrder s.plan).length then s2.mainDone else s2)
      | none =>
        .next (s.fsets [(LOAD_FAULT.MCODE, 0x8B), (LOAD_FAULT.SECT, sectIndex s.plan x), (LOAD_STAT.STATE, 3)]).endImports

/- Step 7 of a warm restart (R427, R428, R486). -/

/-- A byte of the image copy as the loader reads it. -/
def State.copyByte (s : State) (a : Nat) : Byte :=
  BitVec.ofNat 8 (natBits (correct (s.wordData a) (decodeSyn (s.wordSyn a).toNat)) (8 * (a % 8)) 8)

/-- A section of the image copy fails its HASH, or has a word that cannot be read (R428, R486). -/
def State.copyFails (s : State) (x : Section) : Bool :=
  let a := s.plan.copyBase + x.off
  !x.verifies ((rangeFrom a x.size).map s.copyByte) ||
    (rangeFrom (a / 8) ((x.size + 7) / 8)).any (fun k => decodeSyn (s.wordSyn (8 * k)).toNat == .ue)

/-- The sections already placed in the copy that fail there. -/
def State.failedCopies (s : State) : List Section := ((mainOrder s.plan).take s.sectsDone).filter s.copyFails

/-- The sections that fail in the copy are placed again as flash holds them (R428). -/
def State.rereadCopy (s : State) : State :=
  s.failedCopies.foldl (fun t x => t.placeBytes (s.plan.copyBase + x.off) (s.plan.bytes (sectIndex s.plan x))) s

/-- WARM_IMAGE_VERIFIED: the HASH of every section in the copy is checked; one that fails is read again from flash, which `reread` tells has
ended, and the step ends only then; configuration and stores are applied again (R427, R428, R486). -/
def execWarmImageVerified (reread : Bool) (s : State) : Host.Outcome State Fault Refusal :=
  if s.warm ≠ 5 ∨ (!reread ∧ !s.failedCopies.isEmpty) then .next s
  else .next { (s.rereadCopy.applyAgain s.plan).fset LOAD_STAT.STATE s.gard.loadState with warm := 7 }

end Sys2Proof.Machine
end

