-- ==== Sys2Proof/Machine/Strings.lean ====
section
/-!
DEFINITION. The string and move class and its REP prefix (spec/06 R192 to R197).
-/
namespace Sys2Proof

open Machine

/- Fields of format STR. -/

def SOp.sSize (op : SOp) : Nat := 2 ^ op.fld 21 2
def SOp.sDown (op : SOp) : Bool := op.fld 20 1 == 1
def SOp.sWr (op : SOp) : Nat := op.fld 17 3
def SOp.sSgs (op : SOp) : Nat := op.fld 14 3
def SOp.sSgd (op : SOp) : Nat := op.fld 11 3
def SOp.sStop (op : SOp) : Nat := op.fld 9 2

/-- The operand bits of an instruction word. -/
def SOp.ofWord (w : Word) : SOp := { bits := BitVec.ofNat 23 w.toNat }

end Sys2Proof

namespace Sys2Proof.Machine

open Sys2Proof

/-- CT, OS and OD are W12, W13 and W14. -/
def regCT : Nat := 12
def regOS : Nat := 13
def regOD : Nat := 14

/-- How one iteration ends: a trap, with nothing changed; a machine check or an access that waits; PLMOV with an empty quadrant set; or done, with
whether an access error ended it. -/
inductive Iter where
  | trap (t : Trap)
  | cut (s : State)
  | empty
  | done (s : State) (err : Bool)
  deriving DecidableEq, Repr

/-- OS or OD advanced by one element (R193). -/
def State.advanceReg (s : State) (n : Dealer) (r : Nat) (down : Bool) (k : Nat) : State :=
  s.wrW n r (if down then s.rdW n r - BitVec.ofNat 32 k else s.rdW n r + BitVec.ofNat 32 k)

/-- The checks of an element access (R184, R193). -/
def State.elemChecks (s : State) (n : Dealer) (sg r k : Nat) (rd wr : Bool) : List (Bool × Trap) :=
  segChecks (s.rdSG n sg) sg (s.rdW n r).toNat k rd wr false

/-- An element load: whether it failed, its value, and the state with any access error recorded (R189). -/
def State.elemLoad (s : State) (n : Dealer) (sg r k : Nat) : Bool × Nat × State :=
  let x := s.rdSG n sg
  let off := (s.rdW n r).toNat
  let q := s.segRead n x off k
  if q.1 = stOK then (false, q.2.1, q.2.2) else (true, 0, q.2.2.accessError n q.1 (Desc.base x + off) sg false)

/-- An element store of v at OD. -/
def State.elemStore (s : State) (n : Dealer) (sg k v : Nat) : Bool × State :=
  let x := s.rdSG n sg
  let off := (s.rdW n regOD).toNat
  let q := s.segWrite n x off k v
  if q.1 = stOK then (false, q.2) else (true, q.2.accessError n q.1 (Desc.base x + off) sg true)

/-- An element access waits for a tag of its Dealer's port (R360). -/
def State.elemWaits (s : State) (n : Dealer) (sg r k : Nat) : Bool := s.segWaits n (s.rdSG n sg) (s.rdW n r).toNat k

def State.elemLoadCost (s : State) (n : Dealer) (sg r k : Nat) : Nat := s.loadCost n (s.rdSG n sg) (s.rdW n r).toNat k
def State.elemStoreCost (s : State) (n : Dealer) (sg k : Nat) : Nat := s.storeCost n (s.rdSG n sg) (s.rdW n regOD).toNat k

/-- The data register of BFILL and BSEEK: WR, or the pair WR, WR + 1 for 8 bytes. -/
def State.strData (s : State) (n : Dealer) (op : SOp) : Nat := natBits (s.rdPair n op.sWr) 0 (8 * op.sSize)

/-- One iteration of BMOVE (R193). -/
def iterBmove (n : Dealer) (op : SOp) (s : State) : Iter :=
  let k := op.sSize
  match firstTrap (s.elemChecks n op.sSgs regOS k true false ++ s.elemChecks n op.sSgd regOD k false true) with
  | some t => .trap t
  | none =>
    if s.elemWaits n op.sSgs regOS k || s.elemWaits n op.sSgd regOD k then .cut s else
    let cost := s.elemLoadCost n op.sSgs regOS k + s.elemStoreCost n op.sSgd k + 1
    let r := s.elemLoad n op.sSgs regOS k
    let w := if r.1 then (true, r.2.2) else r.2.2.elemStore n op.sSgd k r.2.1
    .done (((w.2.advanceReg n regOS op.sDown k).advanceReg n regOD op.sDown k).charge n cost) w.1

/-- One iteration of BFILL (R193). -/
def iterBfill (n : Dealer) (op : SOp) (s : State) : Iter :=
  let k := op.sSize
  match firstTrap (s.elemChecks n op.sSgd regOD k false true) with
  | some t => .trap t
  | none =>
    if s.elemWaits n op.sSgd regOD k then .cut s else
    let cost := s.elemStoreCost n op.sSgd k + 1
    let w := s.elemStore n op.sSgd k (s.strData n op)
    .done ((w.2.advanceReg n regOD op.sDown k).charge n cost) w.1

/-- One iteration of BCOMP (R193): both loads are made; a failure of either leaves the flags. -/
def iterBcomp (n : Dealer) (op : SOp) (s : State) : Iter :=
  let k := op.sSize
  match firstTrap (s.elemChecks n op.sSgs regOS k true false ++ s.elemChecks n op.sSgd regOD k true false) with
  | some t => .trap t
  | none =>
    if s.elemWaits n op.sSgs regOS k || s.elemWaits n op.sSgd regOD k then .cut s else
    let cost := s.elemLoadCost n op.sSgs regOS k + s.elemLoadCost n op.sSgd regOD k + 1
    let x := s.elemLoad n op.sSgs regOS k
    let y := x.2.2.elemLoad n op.sSgd regOD k
    let err := x.1 || y.1
    let t := if err then y.2.2 else y.2.2.setSt n (stWithFlags (y.2.2.st n) (subFlags (8 * k) x.2.1 y.2.1 0).2)
    .done (((t.advanceReg n regOS op.sDown k).advanceReg n regOD op.sDown k).charge n cost) err

/-- One iteration of BSEEK (R193). -/
def iterBseek (n : Dealer) (op : SOp) (s : State) : Iter :=
  let k := op.sSize
  match firstTrap (s.elemChecks n op.sSgd regOD k true false) with
  | some t => .trap t
  | none =>
    if s.elemWaits n op.sSgd regOD k then .cut s else
    let cost := s.elemLoadCost n op.sSgd regOD k + 1
    let y := s.elemLoad n op.sSgd regOD k
    let t := if y.1 then y.2.2 else y.2.2.setSt n (stWithFlags (y.2.2.st n) (subFlags (8 * k) (s.strData n op) y.2.1 0).2)
    .done ((t.advanceReg n regOD op.sDown k).charge n cost) y.1

/-- The descriptor PLMOV names in [19:16]. -/
def plmovPd (op : SOp) : Nat := op.fld 16 4

/-- One iteration of PLMOV (R193, R197); an uncorrectable row word of the source, or of a destination written in part,
raises PLANE_UE (R50). -/
def iterPlmov (n : Dealer) (op : SOp) (s : State) : Iter :=
  let os := (s.rdW n regOS).toNat
  let od := (s.rdW n regOD).toNat
  let q := pdQset (s.rdPD n (plmovPd op))
  match firstTrap [(decide (1919 < os), { code := trapSegLimit, info := s.rdW n regOS }),
      (decide (1919 < od), { code := trapSegLimit, info := s.rdW n regOD }),
      ((q &&& (15 - s.region n)) != 0, { code := trapSegRights, info := op.word 2 0x15 })] with
  | some t => .trap t
  | none =>
    if q = 0 then .empty
    else
      let rows := s.rows q
      let r := s.scanPlanes rows [os]
      let d := r.2.scanPlanes (s.partRows rows) [od]
      if r.1 || d.1 then .cut (d.2.raiseMC n { cause := 6 })
      else
        let t := d.2.writeField rows od 1 s.mAt (fun y x => b2n (s.planeBit os y x))
        .done (((t.advanceReg n regOS op.sDown 1).advanceReg n regOD op.sDown 1).charge n 3) false

/-- The members of the class: opcode, whether any reserved field is not 0, whether a STOP field is present, and the iteration. -/
structure StrOp where
  opc : Nat
  reserved : SOp → Bool
  stops : Bool
  iter : Dealer → SOp → State → Iter

def pairOdd (op : SOp) : Bool := op.sSize == 8 && op.sWr % 2 == 1

def strBmove : StrOp := ⟨0x11, fun op => op.fld 17 3 != 0 || op.fld 0 11 != 0, false, iterBmove⟩
def strBfill : StrOp := ⟨0x12, fun op => op.fld 14 3 != 0 || op.fld 0 11 != 0 || pairOdd op, false, iterBfill⟩
def strBcomp : StrOp := ⟨0x13, fun op => op.fld 17 3 != 0 || op.fld 0 9 != 0, true, iterBcomp⟩
def strBseek : StrOp := ⟨0x14, fun op => op.fld 14 3 != 0 || op.fld 0 9 != 0 || pairOdd op, true, iterBseek⟩
def strPlmov : StrOp := ⟨0x15, fun op => op.fld 21 2 != 0 || op.fld 0 16 != 0, false, iterPlmov⟩

/-- The member a word under REP names; none for every other word and for one that sets EXT (R196). -/
def strOf (w : Word) : Option StrOp :=
  if getField w 29 3 ≠ 4 then none
  else match getField w 23 6 with
    | 0x11 => some strBmove | 0x12 => some strBfill | 0x13 => some strBcomp | 0x14 => some strBseek | 0x15 => some strPlmov
    | _ => none

/-- A string instruction without REP: one iteration, CT unchanged (R194); STOP has no effect and no value of it traps (log entry 173). -/
def runString (x : StrOp) (n : Dealer) (op : SOp) (s : State) : Host.Outcome State Fault Refusal :=
  let base := firstTrap [(op.hasExt || x.reserved op, illReserved (op.word 2 x.opc)), s.endTrap n op]
  runScalar n op s base (fun s =>
    match x.iter n op s with
    | .trap t => s.trap n t false false
    | .cut t => t
    | .empty => s.advance n op 1
    | .done t _ => t.advance n op 0)

def execBmove (n : Dealer) (op : SOp) (s : State) : Host.Outcome State Fault Refusal := runString strBmove n op s
def execBfill (n : Dealer) (op : SOp) (s : State) : Host.Outcome State Fault Refusal := runString strBfill n op s
def execBcomp (n : Dealer) (op : SOp) (s : State) : Host.Outcome State Fault Refusal := runString strBcomp n op s
def execBseek (n : Dealer) (op : SOp) (s : State) : Host.Outcome State Fault Refusal := runString strBseek n op s
def execPlmov (n : Dealer) (op : SOp) (s : State) : Host.Outcome State Fault Refusal := runString strPlmov n op s

/-- The word after the string word. -/
def State.repOut (s : State) (n : Dealer) : State := s.setPc n (s.pc n + 8)

/-- The loop of R194, its first argument bounding the iterations left: it stops when CT is 0, at a trap or a machine check, after an
access error, at a STOP condition, and with the PC at the REP word where a level is to be entered or another task is to run (R195, R207).  A PLMOV with
an empty QSET costs its REP word's cycle alone (log entry 174). -/
def repLoop (x : StrOp) (n : Dealer) (op : SOp) : Nat → State → State
  | 0, s => s.repOut n
  | k + 1, s =>
    if s.rdW n regCT = 0 then s.repOut n
    else match x.iter n op s with
      | .trap t => s.trap n t false true
      | .cut t => t
      | .empty => s.repOut n
      | .done t err =>
        let u := t.wrW n regCT (t.rdW n regCT - 1)
        if err then u.repOut n
        else if x.stops && op.sStop == 1 && stZ (u.st n) then u.repOut n
        else if x.stops && op.sStop == 2 && !stZ (u.st n) then u.repOut n
        else if u.interrupts n then u
        else
          let v := u.taskAccept n
          if (v.outranks n).isSome then v else repLoop x n op k v

/-- REP with the word that follows it (R194 to R196, R198): the prefix check, the reserved fields, and the loop; at the last word of the deal
store, where no word follows, the reserved fields and then SEG_LIMIT; 1 cycle for the REP word, and
1 for the string word when no iteration runs. -/
def execRep (n : Dealer) (op : SOp) (next : Word) (s : State) : Host.Outcome State Fault Refusal :=
  let nop := SOp.ofWord next
  let stop (t : Trap) : Host.Outcome State Fault Refusal := .next (s.trap n t op.hasExt true)
  if (s.dl n).halted then .fault .dealerHalted
  else if (s.dl n).pendMC.isSome || s.levelWaits n then .next s
  else if 0x3FFFC < s.pc n + 4 then
    stop (if op.hasExt || op.bits != 0 then illReserved (op.word 2 0x10) else { code := trapSegLimit, info := BitVec.ofNat 32 (s.pc n + 4) })
  else match strOf next with
    | none => stop { code := trapIllPrefix, info := next }
    | some x =>
      match firstTrap [(op.hasExt || op.bits != 0, illReserved (op.word 2 0x10)),
          (x.reserved nop || (x.stops && nop.sStop == 3), illReserved next),
          (decide (0x3FFFC < s.pc n + 8), { code := trapSegLimit, info := BitVec.ofNat 32 (s.pc n + 8) })] with
      | some t => stop t
      | none =>
        if s.rdW n regCT = 0 then .next ((s.charge n 2).repOut n)
        else .next (repLoop x n nop (s.rdW n regCT).toNat (s.charge n 1))

end Sys2Proof.Machine
end

