-- ==== Sys2Proof/Machine/Dispatch.lean ====
section
/-!
DEFINITION. The dispatch of commands to their meanings: one arm for each constructor of `Instr`, in the order of
spec/opcode_table.json.
-/
namespace Sys2Proof.Machine

open Sys2Proof

/-- The effect of a command on everything but the queue. -/
def exec (i : Instr) (s : State) : Host.Outcome State Fault Refusal :=
  match i with
  | .registerWrite ag off v => Sys2Proof.Machine.execRegisterWrite ag off v s
  | .tickEdge cycles => Sys2Proof.Machine.execTickEdge cycles s
  | .tickTimerExpiry => Sys2Proof.Machine.execTickTimerExpiry s
  | .tickMaxExpiry => Sys2Proof.Machine.execTickMaxExpiry s
  | .tickHoldExpiry => Sys2Proof.Machine.execTickHoldExpiry s
  | .overrunCut n => Sys2Proof.Machine.execOverrunCut n s
  | .edgeSwitch => Sys2Proof.Machine.execEdgeSwitch s
  | .dealStart n => Sys2Proof.Machine.execDealStart n s
  | .gridPoint => Sys2Proof.Machine.execGridPoint s
  | .tileLowerIdleExpiry n => Sys2Proof.Machine.execTileLowerIdleExpiry n s
  | .arrayHoldRelease n => Sys2Proof.Machine.execArrayHoldRelease n s
  | .backgroundStep work yields => Sys2Proof.Machine.execBackgroundStep work yields s
  | .backgroundYieldOverdue e => Sys2Proof.Machine.execBackgroundYieldOverdue e s
  | .planeScrubStep t bad => Sys2Proof.Machine.execPlaneScrubStep t bad s
  | .graftCopyStep t ended => Sys2Proof.Machine.execGraftCopyStep t ended s
  | .eventAssert e => Sys2Proof.Machine.execEventAssert e s
  | .levelEntry n => Sys2Proof.Machine.execLevelEntry n s
  | .machineCheckEntry n mc => Sys2Proof.Machine.execMachineCheckEntry n mc s
  | .microcodeReloadDone n poison w => Sys2Proof.Machine.execMicrocodeReloadDone n poison w s
  | .flashBlockReloadDone n done block => Sys2Proof.Machine.execFlashBlockReloadDone n done block s
  | .controlStoreWrite n off v => Sys2Proof.Machine.execControlStoreWrite n off v s
  | .arrayMov n op => Sys2Proof.Machine.execArrayMov n op s
  | .arrayZext n op => Sys2Proof.Machine.execArrayZext n op s
  | .arraySext n op => Sys2Proof.Machine.execArraySext n op s
  | .arrayNot n op => Sys2Proof.Machine.execArrayNot n op s
  | .arrayBool n op => Sys2Proof.Machine.execArrayBool n op s
  | .arraySel n op => Sys2Proof.Machine.execArraySel n op s
  | .arrayClr n op => Sys2Proof.Machine.execArrayClr n op s
  | .arraySeti n op => Sys2Proof.Machine.execArraySeti n op s
  | .arraySetw n op => Sys2Proof.Machine.execArraySetw n op s
  | .arrayXmove n op => Sys2Proof.Machine.execArrayXmove n op s
  | .arrayShuf n op => Sys2Proof.Machine.execArrayShuf n op s
  | .arrayAny n op => Sys2Proof.Machine.execArrayAny n op s
  | .arrayCnt n op => Sys2Proof.Machine.execArrayCnt n op s
  | .arrayFlgrd n op => Sys2Proof.Machine.execArrayFlgrd n op s
  | .arrayFlgclr n op => Sys2Proof.Machine.execArrayFlgclr n op s
  | .arrayFlgany n op => Sys2Proof.Machine.execArrayFlgany n op s
  | .arrayMpush n op => Sys2Proof.Machine.execArrayMpush n op s
  | .arrayMpushn n op => Sys2Proof.Machine.execArrayMpushn n op s
  | .arrayMelse n op => Sys2Proof.Machine.execArrayMelse n op s
  | .arrayMpop n op => Sys2Proof.Machine.execArrayMpop n op s
  | .arrayAdd n op => Sys2Proof.Machine.execArrayAdd n op s
  | .arrayAddc n op => Sys2Proof.Machine.execArrayAddc n op s
  | .arraySub n op => Sys2Proof.Machine.execArraySub n op s
  | .arraySubb n op => Sys2Proof.Machine.execArraySubb n op s
  | .arrayAddi n op => Sys2Proof.Machine.execArrayAddi n op s
  | .arrayNeg n op => Sys2Proof.Machine.execArrayNeg n op s
  | .arrayAddsu n op => Sys2Proof.Machine.execArrayAddsu n op s
  | .arrayAddss n op => Sys2Proof.Machine.execArrayAddss n op s
  | .arraySubsu n op => Sys2Proof.Machine.execArraySubsu n op s
  | .arraySubss n op => Sys2Proof.Machine.execArraySubss n op s
  | .arrayCmpeq n op => Sys2Proof.Machine.execArrayCmpeq n op s
  | .arrayCmpne n op => Sys2Proof.Machine.execArrayCmpne n op s
  | .arrayCmpltu n op => Sys2Proof.Machine.execArrayCmpltu n op s
  | .arrayCmplts n op => Sys2Proof.Machine.execArrayCmplts n op s
  | .arrayCmpleu n op => Sys2Proof.Machine.execArrayCmpleu n op s
  | .arrayCmples n op => Sys2Proof.Machine.execArrayCmples n op s
  | .arrayShl n op => Sys2Proof.Machine.execArrayShl n op s
  | .arrayShru n op => Sys2Proof.Machine.execArrayShru n op s
  | .arrayShrs n op => Sys2Proof.Machine.execArrayShrs n op s
  | .arrayMulwu n op => Sys2Proof.Machine.execArrayMulwu n op s
  | .arrayMulws n op => Sys2Proof.Machine.execArrayMulws n op s
  | .arrayDivu n op => Sys2Proof.Machine.execArrayDivu n op s
  | .arrayDivs n op => Sys2Proof.Machine.execArrayDivs n op s
  | .arrayRemu n op => Sys2Proof.Machine.execArrayRemu n op s
  | .arrayRems n op => Sys2Proof.Machine.execArrayRems n op s
  | .arrayFadd n op => Sys2Proof.Machine.execArrayFadd n op s
  | .arrayFsub n op => Sys2Proof.Machine.execArrayFsub n op s
  | .arrayFmul n op => Sys2Proof.Machine.execArrayFmul n op s
  | .arrayFma n op => Sys2Proof.Machine.execArrayFma n op s
  | .arrayFdiv n op => Sys2Proof.Machine.execArrayFdiv n op s
  | .arrayFsqrt n op => Sys2Proof.Machine.execArrayFsqrt n op s
  | .arrayFmin n op => Sys2Proof.Machine.execArrayFmin n op s
  | .arrayFmax n op => Sys2Proof.Machine.execArrayFmax n op s
  | .arrayFcmpeq n op => Sys2Proof.Machine.execArrayFcmpeq n op s
  | .arrayFcmplt n op => Sys2Proof.Machine.execArrayFcmplt n op s
  | .arrayFcmple n op => Sys2Proof.Machine.execArrayFcmple n op s
  | .arrayFneg n op => Sys2Proof.Machine.execArrayFneg n op s
  | .arrayFabs n op => Sys2Proof.Machine.execArrayFabs n op s
  | .arrayFcvtI n op => Sys2Proof.Machine.execArrayFcvtI n op s
  | .arrayFcvtIu n op => Sys2Proof.Machine.execArrayFcvtIu n op s
  | .arrayFcvtF n op => Sys2Proof.Machine.execArrayFcvtF n op s
  | .arrayFcvtFu n op => Sys2Proof.Machine.execArrayFcvtFu n op s
  | .arrayFcvtX n op => Sys2Proof.Machine.execArrayFcvtX n op s
  | .customerOpcode n a op => Sys2Proof.Machine.execCustomerOpcode n a op s
  | .add n op => Sys2Proof.Machine.execAdd n op s
  | .addc n op => Sys2Proof.Machine.execAddc n op s
  | .sub n op => Sys2Proof.Machine.execSub n op s
  | .subb n op => Sys2Proof.Machine.execSubb n op s
  | .and n op => Sys2Proof.Machine.execAnd n op s
  | .or n op => Sys2Proof.Machine.execOr n op s
  | .xor n op => Sys2Proof.Machine.execXor n op s
  | .andn n op => Sys2Proof.Machine.execAndn n op s
  | .shl n op => Sys2Proof.Machine.execShl n op s
  | .shru n op => Sys2Proof.Machine.execShru n op s
  | .shrs n op => Sys2Proof.Machine.execShrs n op s
  | .mul n op => Sys2Proof.Machine.execMul n op s
  | .mulwu n op => Sys2Proof.Machine.execMulwu n op s
  | .mulws n op => Sys2Proof.Machine.execMulws n op s
  | .divu n op => Sys2Proof.Machine.execDivu n op s
  | .divs n op => Sys2Proof.Machine.execDivs n op s
  | .remu n op => Sys2Proof.Machine.execRemu n op s
  | .rems n op => Sys2Proof.Machine.execRems n op s
  | .sltu n op => Sys2Proof.Machine.execSltu n op s
  | .slts n op => Sys2Proof.Machine.execSlts n op s
  | .fadd n op => Sys2Proof.Machine.execFadd n op s
  | .fsub n op => Sys2Proof.Machine.execFsub n op s
  | .fmul n op => Sys2Proof.Machine.execFmul n op s
  | .fma n op => Sys2Proof.Machine.execFma n op s
  | .fdiv n op => Sys2Proof.Machine.execFdiv n op s
  | .fsqrt n op => Sys2Proof.Machine.execFsqrt n op s
  | .fmin n op => Sys2Proof.Machine.execFmin n op s
  | .fmax n op => Sys2Proof.Machine.execFmax n op s
  | .fcmpeq n op => Sys2Proof.Machine.execFcmpeq n op s
  | .fcmplt n op => Sys2Proof.Machine.execFcmplt n op s
  | .fcmple n op => Sys2Proof.Machine.execFcmple n op s
  | .fneg n op => Sys2Proof.Machine.execFneg n op s
  | .fabs n op => Sys2Proof.Machine.execFabs n op s
  | .fcvtI n op => Sys2Proof.Machine.execFcvtI n op s
  | .fcvtIu n op => Sys2Proof.Machine.execFcvtIu n op s
  | .fcvtF n op => Sys2Proof.Machine.execFcvtF n op s
  | .fcvtFu n op => Sys2Proof.Machine.execFcvtFu n op s
  | .fcvtX n op => Sys2Proof.Machine.execFcvtX n op s
  | .fmfw n op => Sys2Proof.Machine.execFmfw n op s
  | .fmtw n op => Sys2Proof.Machine.execFmtw n op s
  | .mtpd n op => Sys2Proof.Machine.execMtpd n op s
  | .mfpd n op => Sys2Proof.Machine.execMfpd n op s
  | .mfs n op => Sys2Proof.Machine.execMfs n op s
  | .mts n op => Sys2Proof.Machine.execMts n op s
  | .sgld n op => Sys2Proof.Machine.execSgld n op s
  | .sgrd n op => Sys2Proof.Machine.execSgrd n op s
  | .addi n op => Sys2Proof.Machine.execAddi n op s
  | .andi n op => Sys2Proof.Machine.execAndi n op s
  | .ori n op => Sys2Proof.Machine.execOri n op s
  | .xori n op => Sys2Proof.Machine.execXori n op s
  | .shli n op => Sys2Proof.Machine.execShli n op s
  | .shrui n op => Sys2Proof.Machine.execShrui n op s
  | .shrsi n op => Sys2Proof.Machine.execShrsi n op s
  | .cmpi n op => Sys2Proof.Machine.execCmpi n op s
  | .sltui n op => Sys2Proof.Machine.execSltui n op s
  | .sltsi n op => Sys2Proof.Machine.execSltsi n op s
  | .movi n op => Sys2Proof.Machine.execMovi n op s
  | .ldb n op => Sys2Proof.Machine.execLdb n op s
  | .ldbu n op => Sys2Proof.Machine.execLdbu n op s
  | .ldh n op => Sys2Proof.Machine.execLdh n op s
  | .ldhu n op => Sys2Proof.Machine.execLdhu n op s
  | .ldw n op => Sys2Proof.Machine.execLdw n op s
  | .ldd n op => Sys2Proof.Machine.execLdd n op s
  | .stb n op => Sys2Proof.Machine.execStb n op s
  | .sth n op => Sys2Proof.Machine.execSth n op s
  | .stw n op => Sys2Proof.Machine.execStw n op s
  | .std n op => Sys2Proof.Machine.execStd n op s
  | .fldS n op => Sys2Proof.Machine.execFldS n op s
  | .fldD n op => Sys2Proof.Machine.execFldD n op s
  | .fstS n op => Sys2Proof.Machine.execFstS n op s
  | .fstD n op => Sys2Proof.Machine.execFstD n op s
  | .aadd n op => Sys2Proof.Machine.execAadd n op s
  | .lea n op => Sys2Proof.Machine.execLea n op s
  | .b n op => Sys2Proof.Machine.execB n op s
  | .call n op => Sys2Proof.Machine.execCall n op s
  | .jr n op => Sys2Proof.Machine.execJr n op s
  | .jalr n op => Sys2Proof.Machine.execJalr n op s
  | .bchkSegment n op => Sys2Proof.Machine.execBchkSegment n op s
  | .bchkRange n op => Sys2Proof.Machine.execBchkRange n op s
  | .rep n op next => Sys2Proof.Machine.execRep n op next s
  | .bmove n op => Sys2Proof.Machine.execBmove n op s
  | .bfill n op => Sys2Proof.Machine.execBfill n op s
  | .bcomp n op => Sys2Proof.Machine.execBcomp n op s
  | .bseek n op => Sys2Proof.Machine.execBseek n op s
  | .plmov n op => Sys2Proof.Machine.execPlmov n op s
  | .xret n op => Sys2Proof.Machine.execXret n op s
  | .nop n op => Sys2Proof.Machine.execNop n op s
  | .wget n op => Sys2Proof.Machine.execWget n op s
  | .wput n op => Sys2Proof.Machine.execWput n op s
  | .savel n op => Sys2Proof.Machine.execSavel n op s
  | .saveu n op => Sys2Proof.Machine.execSaveu n op s
  | .restl n op => Sys2Proof.Machine.execRestl n op s
  | .restu n op => Sys2Proof.Machine.execRestu n op s
  | .swto n op => Sys2Proof.Machine.execSwto n op s
  | .lret n op => Sys2Proof.Machine.execLret n op s
  | .phase n op => Sys2Proof.Machine.execPhase n op s
  | .dend n op => Sys2Proof.Machine.execDend n op s
  | .arrayHselWrite ag v => Sys2Proof.Machine.execArrayHselWrite ag v s
  | .arrayHdataWrite ag v => Sys2Proof.Machine.execArrayHdataWrite ag v s
  | .arrayHdataRead ag => Sys2Proof.Machine.execArrayHdataRead ag s
  | .ctuGo ag t v => Sys2Proof.Machine.execCtuGo ag t v s
  | .ctuTransferDone t => Sys2Proof.Machine.execCtuTransferDone t s
  | .csi2LongPacket c vc dt px crcOk hdrBad => Sys2Proof.Machine.execCsi2LongPacket c vc dt px crcOk hdrBad s
  | .csi2FrameStart c vc fnum hdrBad => Sys2Proof.Machine.execCsi2FrameStart c vc fnum hdrBad s
  | .csi2FrameEnd c vc hdrBad => Sys2Proof.Machine.execCsi2FrameEnd c vc hdrBad s
  | .cameraLineWritten c x => Sys2Proof.Machine.execCameraLineWritten c x s
  | .fsyncPulseStart c => Sys2Proof.Machine.execFsyncPulseStart c s
  | .fsyncPulseEnd c => Sys2Proof.Machine.execFsyncPulseEnd c s
  | .dspCommitWrite ag p v => Sys2Proof.Machine.execDspCommitWrite ag p v s
  | .pipeFrameStart p => Sys2Proof.Machine.execPipeFrameStart p s
  | .pipeLine p missing => Sys2Proof.Machine.execPipeLine p missing s
  | .displayLinkLost p => Sys2Proof.Machine.execDisplayLinkLost p s
  | .displayLinkUp p sup => Sys2Proof.Machine.execDisplayLinkUp p sup s
  | .tallyVerdict p deal id => Sys2Proof.Machine.execTallyVerdict p deal id s
  | .safetyNoticePost => Sys2Proof.Machine.execSafetyNoticePost s
  | .panelReadback p reading => Sys2Proof.Machine.execPanelReadback p reading s
  | .telltaleSet seat cmd => Sys2Proof.Machine.execTelltaleSet seat cmd s
  | .telltaleTimeout t => Sys2Proof.Machine.execTelltaleTimeout t s
  | .tellHcmtWrite ag v => Sys2Proof.Machine.execTellHcmtWrite ag v s
  | .storePortAAccess ag acc b => Sys2Proof.Machine.execStorePortAAccess ag acc b s
  | .storePortBAccess n seg acc => Sys2Proof.Machine.execStorePortBAccess n seg acc s
  | .bankHandoverWrite ag b owner => Sys2Proof.Machine.execBankHandoverWrite ag b owner s
  | .bankHandoverClear ag b owner => Sys2Proof.Machine.execBankHandoverClear ag b owner s
  | .bankClearDone b => Sys2Proof.Machine.execBankClearDone b s
  | .weedingStep b faulty => Sys2Proof.Machine.execWeedingStep b faulty s
  | .weedRemap b => Sys2Proof.Machine.execWeedRemap b s
  | .weedUnmap b => Sys2Proof.Machine.execWeedUnmap b s
  | .tamperInput t ns held part reads => Sys2Proof.Machine.execTamperInput t ns held part reads s
  | .glitchDetect held part reads => Sys2Proof.Machine.execGlitchDetect held part reads s
  | .coldWipeDone ok => Sys2Proof.Machine.execColdWipeDone ok s
  | .dramTrainingDone ok => Sys2Proof.Machine.execDramTrainingDone ok s
  | .dramRequest ag qos acc => Sys2Proof.Machine.execDramRequest ag qos acc s
  | .dramScrubStep => Sys2Proof.Machine.execDramScrubStep s
  | .trellisRd ag p errs => Sys2Proof.Machine.execTrellisRd ag p errs s
  | .trellisWr ag p errs => Sys2Proof.Machine.execTrellisWr ag p errs s
  | .trellisWrp ag p errs => Sys2Proof.Machine.execTrellisWrp ag p errs s
  | .trellisFadd ag p errs => Sys2Proof.Machine.execTrellisFadd ag p errs s
  | .trellisEvt p errs => Sys2Proof.Machine.execTrellisEvt p errs s
  | .trellisRdresp p errs seg => Sys2Proof.Machine.execTrellisRdresp p errs seg s
  | .trellisWrack p errs seg => Sys2Proof.Machine.execTrellisWrack p errs seg s
  | .tagTimeout tag seg => Sys2Proof.Machine.execTagTimeout tag seg s
  | .tagRelease tag => Sys2Proof.Machine.execTagRelease tag s
  | .trlSwapCommit ag v => Sys2Proof.Machine.execTrlSwapCommit ag v s
  | .tableSwapDone => Sys2Proof.Machine.execTableSwapDone s
  | .routerIsolate r => Sys2Proof.Machine.execRouterIsolate r s
  | .linkTokenDrop r drop => Sys2Proof.Machine.execLinkTokenDrop r drop s
  | .linkTokenResume r l => Sys2Proof.Machine.execLinkTokenResume r l s
  | .pcieConfigRequest req => Sys2Proof.Machine.execPcieConfigRequest req s
  | .apertureRead k o n => Sys2Proof.Machine.execApertureRead k o n s
  | .apertureWrite k o data => Sys2Proof.Machine.execApertureWrite k o data s
  | .doorbell k pi => Sys2Proof.Machine.execDoorbell k pi s
  | .completionCiWrite k ci => Sys2Proof.Machine.execCompletionCiWrite k ci s
  | .writeCmd p bytes => Sys2Proof.Machine.execWriteCmd p bytes s
  | .readCmp p => Sys2Proof.Machine.execReadCmp p s
  | .readNtc p => Sys2Proof.Machine.execReadNtc p s
  | .readState p => Sys2Proof.Machine.execReadState p s
  | .spiFrameError p => Sys2Proof.Machine.execSpiFrameError p s
  | .canCommandFrame c ide id bytes => Sys2Proof.Machine.execCanCommandFrame c ide id bytes s
  | .canTransmitDone c => Sys2Proof.Machine.execCanTransmitDone c s
  | .canErrorState c st => Sys2Proof.Machine.execCanErrorState c st s
  | .commandTake k => Sys2Proof.Machine.execCommandTake k s
  | .jobStepDone k data flash => Sys2Proof.Machine.execJobStepDone k data flash s
  | .hostPortDown k => Sys2Proof.Machine.execHostPortDown k s
  | .hostPortUp k => Sys2Proof.Machine.execHostPortUp k s
  | .seatWatchdogExpiry k => Sys2Proof.Machine.execSeatWatchdogExpiry k s
  | .pciePerstRelease p => Sys2Proof.Machine.execPciePerstRelease p s
  | .gardenerReport rep ms => Sys2Proof.Machine.execGardenerReport rep ms s
  | .reportJudgement => Sys2Proof.Machine.execReportJudgement s
  | .standbySelfcheckFail n => Sys2Proof.Machine.execStandbySelfcheckFail n s
  | .transientScrub k met => Sys2Proof.Machine.execTransientScrub k met s
  | .imageCopyRepair => Sys2Proof.Machine.execImageCopyRepair s
  | .warmDramBack ok => Sys2Proof.Machine.execWarmDramBack ok s
  | .warmTelltaleCheckDone => Sys2Proof.Machine.execWarmTelltaleCheckDone s
  | .warmImageVerified reread => Sys2Proof.Machine.execWarmImageVerified reread s
  | .espOutputsRelease => Sys2Proof.Machine.execEspOutputsRelease s
  | .espWriteEnable => Sys2Proof.Machine.execEspWriteEnable s
  | .espResetRelease => Sys2Proof.Machine.execEspResetRelease s
  | .espRunEntry => Sys2Proof.Machine.execEspRunEntry s
  | .espRecoveryEntry => Sys2Proof.Machine.execEspRecoveryEntry s
  | .espEoRise k => Sys2Proof.Machine.execEspEoRise k s
  | .espTestEnter ag => Sys2Proof.Machine.execEspTestEnter ag s
  | .espTestExit ag => Sys2Proof.Machine.execEspTestExit ag s
  | .espTestStop ag => Sys2Proof.Machine.execEspTestStop ag s
  | .espTestStep ag => Sys2Proof.Machine.execEspTestStep ag s
  | .xtalQualified x => Sys2Proof.Machine.execXtalQualified x s
  | .xtalQualTimeout x => Sys2Proof.Machine.execXtalQualTimeout x s
  | .pllLock p => Sys2Proof.Machine.execPllLock p s
  | .clkNativeSwitch ag d src => Sys2Proof.Machine.execClkNativeSwitch ag d src s
  | .clkRampSwitch ag d src => Sys2Proof.Machine.execClkRampSwitch ag d src s
  | .rampStepExpiry d => Sys2Proof.Machine.execRampStepExpiry d s
  | .clkGateWrite ag g en => Sys2Proof.Machine.execClkGateWrite ag g en s
  | .trimWindow target within => Sys2Proof.Machine.execTrimWindow target within s
  | .canTrimFrame c => Sys2Proof.Machine.execCanTrimFrame c s
  | .clockMonitorFail src => Sys2Proof.Machine.execClockMonitorFail src s
  | .fircMonitorWarning => Sys2Proof.Machine.execFircMonitorWarning s
  | .sircWindowTimeout => Sys2Proof.Machine.execSircWindowTimeout s
  | .sircQualified => Sys2Proof.Machine.execSircQualified s
  | .powerOnReset ns => Sys2Proof.Machine.execPowerOnReset ns s
  | .resetNAssert ns => Sys2Proof.Machine.execResetNAssert ns s
  | .resetRelease strap => Sys2Proof.Machine.execResetRelease strap s
  | .supplyWarning rail outside => Sys2Proof.Machine.execSupplyWarning rail outside s
  | .supplyResetExpiry => Sys2Proof.Machine.execSupplyResetExpiry s
  | .thermalThreshold tj => Sys2Proof.Machine.execThermalThreshold tj s
  | .thermalShutdownExpiry => Sys2Proof.Machine.execThermalShutdownExpiry s
  | .pocOvercurrent k mv => Sys2Proof.Machine.execPocOvercurrent k mv s
  | .pocRetryExpiry k => Sys2Proof.Machine.execPocRetryExpiry k s
  | .slotCheckDone img => Sys2Proof.Machine.execSlotCheckDone img s
  | .firstTickEdge bound => Sys2Proof.Machine.execFirstTickEdge bound s
  | .mainSectionRead first second other => Sys2Proof.Machine.execMainSectionRead first second other s
  | .sysLcreqWrite ag v => Sys2Proof.Machine.execSysLcreqWrite ag v s
  | .fuseProgrammingDone => Sys2Proof.Machine.execFuseProgrammingDone s
  | .illOpcode n w => Sys2Proof.Machine.execIllOpcode n w s
  | .cameraLanesStopState c => Sys2Proof.Machine.execCameraLanesStopState c s
  | .gpioPadInputChange g level => Sys2Proof.Machine.execGpioPadInputChange g level s
  | .dramRefresh suit => Sys2Proof.Machine.execDramRefresh suit s

end Sys2Proof.Machine
end

