-- ==== Sys2Proof/WellFormed.lean ====
section
/-!
DEFINITION. Which commands can reach the hardware at all: lists of the lengths the rules fix, packets whose header names the row's command and
whose data units agree with COUNT, accesses that lie where the row's unit stands.  Every other command is well formed by its operand types.
-/
namespace Sys2Proof

/-- A packet with the command of its row: data units as COUNT says, or none; a tag in range (R357, R358, R360). -/
def packetOf (cmd : Nat) (units : Bool) (p : Packet) : Bool :=
  p.cmd == cmd && (if units then p.data.length == p.count else p.data.isEmpty) && decide (p.tag < 2048)

/-- An access of at most 8 bytes at a store: a scratch bank, the nursery or the cold frame (R32, R324). -/
def storeAccess (a : PortAcc) : Bool :=
  ((decide (0x4000000000 ≤ a.addr) && decide (a.addr < 0x4000840000)) || (decide (0x4001000000 ≤ a.addr) && decide (a.addr < 0x4001040000))) &&
    decide (a.len ≤ 8)

/-- Well-formed commands. -/
def Instr.wf : Instr → Bool
  | .registerWrite _ _ _ => true
  | .tickEdge _ => true
  | .tickTimerExpiry => true
  | .tickMaxExpiry => true
  | .tickHoldExpiry => true
  | .overrunCut _ => true
  | .edgeSwitch => true
  | .dealStart _ => true
  | .gridPoint => true
  | .tileLowerIdleExpiry _ => true
  | .arrayHoldRelease _ => true
  | .backgroundStep _ _ => true
  | .backgroundYieldOverdue _ => true
  | .planeScrubStep _ _ => true
  | .graftCopyStep _ _ => true
  | .eventAssert _ => true
  | .levelEntry _ => true
  | .machineCheckEntry _ mc => decide (1 ≤ mc.cause) && decide (mc.cause ≤ 10)
  | .microcodeReloadDone _ _ _ => true
  | .flashBlockReloadDone _ _ block => block.length == 64
  | .controlStoreWrite _ _ _ => true
  | .arrayMov _ _ => true
  | .arrayZext _ _ => true
  | .arraySext _ _ => true
  | .arrayNot _ _ => true
  | .arrayBool _ _ => true
  | .arraySel _ _ => true
  | .arrayClr _ _ => true
  | .arraySeti _ _ => true
  | .arraySetw _ _ => true
  | .arrayXmove _ _ => true
  | .arrayShuf _ _ => true
  | .arrayAny _ _ => true
  | .arrayCnt _ _ => true
  | .arrayFlgrd _ _ => true
  | .arrayFlgclr _ _ => true
  | .arrayFlgany _ _ => true
  | .arrayMpush _ _ => true
  | .arrayMpushn _ _ => true
  | .arrayMelse _ _ => true
  | .arrayMpop _ _ => true
  | .arrayAdd _ _ => true
  | .arrayAddc _ _ => true
  | .arraySub _ _ => true
  | .arraySubb _ _ => true
  | .arrayAddi _ _ => true
  | .arrayNeg _ _ => true
  | .arrayAddsu _ _ => true
  | .arrayAddss _ _ => true
  | .arraySubsu _ _ => true
  | .arraySubss _ _ => true
  | .arrayCmpeq _ _ => true
  | .arrayCmpne _ _ => true
  | .arrayCmpltu _ _ => true
  | .arrayCmplts _ _ => true
  | .arrayCmpleu _ _ => true
  | .arrayCmples _ _ => true
  | .arrayShl _ _ => true
  | .arrayShru _ _ => true
  | .arrayShrs _ _ => true
  | .arrayMulwu _ _ => true
  | .arrayMulws _ _ => true
  | .arrayDivu _ _ => true
  | .arrayDivs _ _ => true
  | .arrayRemu _ _ => true
  | .arrayRems _ _ => true
  | .arrayFadd _ _ => true
  | .arrayFsub _ _ => true
  | .arrayFmul _ _ => true
  | .arrayFma _ _ => true
  | .arrayFdiv _ _ => true
  | .arrayFsqrt _ _ => true
  | .arrayFmin _ _ => true
  | .arrayFmax _ _ => true
  | .arrayFcmpeq _ _ => true
  | .arrayFcmplt _ _ => true
  | .arrayFcmple _ _ => true
  | .arrayFneg _ _ => true
  | .arrayFabs _ _ => true
  | .arrayFcvtI _ _ => true
  | .arrayFcvtIu _ _ => true
  | .arrayFcvtF _ _ => true
  | .arrayFcvtFu _ _ => true
  | .arrayFcvtX _ _ => true
  | .customerOpcode _ _ _ => true
  | .add _ _ => true
  | .addc _ _ => true
  | .sub _ _ => true
  | .subb _ _ => true
  | .and _ _ => true
  | .or _ _ => true
  | .xor _ _ => true
  | .andn _ _ => true
  | .shl _ _ => true
  | .shru _ _ => true
  | .shrs _ _ => true
  | .mul _ _ => true
  | .mulwu _ _ => true
  | .mulws _ _ => true
  | .divu _ _ => true
  | .divs _ _ => true
  | .remu _ _ => true
  | .rems _ _ => true
  | .sltu _ _ => true
  | .slts _ _ => true
  | .fadd _ _ => true
  | .fsub _ _ => true
  | .fmul _ _ => true
  | .fma _ _ => true
  | .fdiv _ _ => true
  | .fsqrt _ _ => true
  | .fmin _ _ => true
  | .fmax _ _ => true
  | .fcmpeq _ _ => true
  | .fcmplt _ _ => true
  | .fcmple _ _ => true
  | .fneg _ _ => true
  | .fabs _ _ => true
  | .fcvtI _ _ => true
  | .fcvtIu _ _ => true
  | .fcvtF _ _ => true
  | .fcvtFu _ _ => true
  | .fcvtX _ _ => true
  | .fmfw _ _ => true
  | .fmtw _ _ => true
  | .mtpd _ _ => true
  | .mfpd _ _ => true
  | .mfs _ _ => true
  | .mts _ _ => true
  | .sgld _ _ => true
  | .sgrd _ _ => true
  | .addi _ _ => true
  | .andi _ _ => true
  | .ori _ _ => true
  | .xori _ _ => true
  | .shli _ _ => true
  | .shrui _ _ => true
  | .shrsi _ _ => true
  | .cmpi _ _ => true
  | .sltui _ _ => true
  | .sltsi _ _ => true
  | .movi _ _ => true
  | .ldb _ _ => true
  | .ldbu _ _ => true
  | .ldh _ _ => true
  | .ldhu _ _ => true
  | .ldw _ _ => true
  | .ldd _ _ => true
  | .stb _ _ => true
  | .sth _ _ => true
  | .stw _ _ => true
  | .std _ _ => true
  | .fldS _ _ => true
  | .fldD _ _ => true
  | .fstS _ _ => true
  | .fstD _ _ => true
  | .aadd _ _ => true
  | .lea _ _ => true
  | .b _ _ => true
  | .call _ _ => true
  | .jr _ _ => true
  | .jalr _ _ => true
  | .bchkSegment _ _ => true
  | .bchkRange _ _ => true
  | .rep _ _ _ => true
  | .bmove _ _ => true
  | .bfill _ _ => true
  | .bcomp _ _ => true
  | .bseek _ _ => true
  | .plmov _ _ => true
  | .xret _ _ => true
  | .nop _ _ => true
  | .wget _ _ => true
  | .wput _ _ => true
  | .savel _ _ => true
  | .saveu _ _ => true
  | .restl _ _ => true
  | .restu _ _ => true
  | .swto _ _ => true
  | .lret _ _ => true
  | .phase _ _ => true
  | .dend _ _ => true
  | .arrayHselWrite _ _ => true
  | .arrayHdataWrite _ _ => true
  | .arrayHdataRead _ => true
  | .ctuGo _ _ _ => true
  | .ctuTransferDone _ => true
  | .csi2LongPacket _ _ _ _ _ _ => true
  | .csi2FrameStart _ _ _ _ => true
  | .csi2FrameEnd _ _ _ => true
  | .cameraLineWritten _ _ => true
  | .fsyncPulseStart _ => true
  | .fsyncPulseEnd _ => true
  | .dspCommitWrite _ _ _ => true
  | .pipeFrameStart _ => true
  | .pipeLine _ _ => true
  | .displayLinkLost _ => true
  | .displayLinkUp _ _ => true
  | .tallyVerdict _ _ _ => true
  | .safetyNoticePost => true
  | .panelReadback _ _ => true
  | .telltaleSet _ _ => true
  | .telltaleTimeout _ => true
  | .tellHcmtWrite _ _ => true
  | .storePortAAccess _ acc sec => storeAccess acc && (match sec with | some x => decide (x.2.2.len ≤ 8) | none => true)
  | .storePortBAccess _ _ acc => storeAccess acc
  | .bankHandoverWrite _ _ _ => true
  | .bankHandoverClear _ _ _ => true
  | .bankClearDone _ => true
  | .weedingStep _ _ => true
  | .weedRemap _ => true
  | .weedUnmap _ => true
  | .tamperInput _ _ _ _ _ => true
  | .glitchDetect _ _ _ => true
  | .coldWipeDone _ => true
  | .dramTrainingDone _ => true
  | .dramRequest _ _ acc => decide (acc.addr < 2 ^ 37) && decide (acc.len ≤ 8)
  | .dramScrubStep => true
  | .trellisRd _ p _ => packetOf 0 false p
  | .trellisWr _ p _ => packetOf 1 true p
  | .trellisWrp _ p _ => packetOf 2 true p
  | .trellisFadd _ p _ => packetOf 3 true p
  | .trellisEvt p _ => packetOf 4 false p
  | .trellisRdresp p _ _ => packetOf 5 true p
  | .trellisWrack p _ _ => packetOf 6 false p
  | .tagTimeout _ _ => true
  | .tagRelease _ => true
  | .trlSwapCommit _ _ => true
  | .tableSwapDone => true
  | .routerIsolate _ => true
  | .linkTokenDrop _ drop => drop.cut.all (fun p => decide (p.tag < 2048))
  | .linkTokenResume _ _ => true
  | .pcieConfigRequest _ => true
  | .apertureRead _ _ n => decide (n ≤ 4096)
  | .apertureWrite _ _ _ => true
  | .doorbell _ _ => true
  | .completionCiWrite _ _ => true
  | .writeCmd _ _ => true
  | .readCmp _ => true
  | .readNtc _ => true
  | .readState _ => true
  | .spiFrameError _ => true
  | .canCommandFrame _ _ _ _ => true
  | .canTransmitDone _ => true
  | .canErrorState _ _ => true
  | .commandTake _ => true
  | .jobStepDone _ _ _ => true
  | .hostPortDown _ => true
  | .hostPortUp _ => true
  | .seatWatchdogExpiry _ => true
  | .pciePerstRelease _ => true
  | .gardenerReport rpt _ => match rpt with | some r => decide (r.cls ≤ 11) && decide (r.kind ≤ 11) | none => true
  | .reportJudgement => true
  | .standbySelfcheckFail _ => true
  | .transientScrub _ _ => true
  | .imageCopyRepair => true
  | .warmDramBack _ => true
  | .warmTelltaleCheckDone => true
  | .warmImageVerified _ => true
  | .espOutputsRelease => true
  | .espWriteEnable => true
  | .espResetRelease => true
  | .espRunEntry => true
  | .espRecoveryEntry => true
  | .espEoRise _ => true
  | .espTestEnter _ => true
  | .espTestExit _ => true
  | .espTestStop _ => true
  | .espTestStep _ => true
  | .xtalQualified _ => true
  | .xtalQualTimeout _ => true
  | .pllLock _ => true
  | .clkNativeSwitch _ _ _ => true
  | .clkRampSwitch _ _ _ => true
  | .rampStepExpiry _ => true
  | .clkGateWrite _ _ _ => true
  | .trimWindow _ _ => true
  | .canTrimFrame _ => true
  | .clockMonitorFail _ => true
  | .fircMonitorWarning => true
  | .sircWindowTimeout => true
  | .sircQualified => true
  | .powerOnReset _ => true
  | .resetNAssert _ => true
  | .resetRelease _ => true
  | .supplyWarning _ _ => true
  | .supplyResetExpiry => true
  | .thermalThreshold _ => true
  | .thermalShutdownExpiry => true
  | .pocOvercurrent _ _ => true
  | .pocRetryExpiry _ => true
  | .slotCheckDone _ => true
  | .firstTickEdge _ => true
  | .mainSectionRead _ _ _ => true
  | .sysLcreqWrite _ _ => true
  | .fuseProgrammingDone => true
  | .illOpcode _ _ => true
  | .cameraLanesStopState _ => true
  | .gpioPadInputChange _ _ => true
  | .dramRefresh _ => true

end Sys2Proof
end

