-- ==== Sys2Proof/Safety.lean ====
section
/-!
DEFINITION. What counts as a sound state and as a sound step: the three sparse maps that back the byte memories, the registers and the
syndromes in their canonical form; what every command must respect; and when a Dealer executes instructions.
-/
namespace Sys2Proof.Machine

open Sys2Proof

/-- The byte memories, the device registers and the syndromes are in canonical form: equal contents are equal data. -/
abbrev State.Canonical (s : State) : Prop :=
  Memory.wf s.mem = true ∧ Sparse.wf 0 s.regs = true ∧ Sparse.wf 0 s.syn = true

/-- The mask stack of every Dealer has a depth of at most 56 (R97). -/
abbrev State.MasksFit (s : State) : Prop := ∀ n : Dealer, (s.dl n).msp ≤ 56

/-- Every line of every hand of every tile is a permutation of 0 to 63 (R59). -/
abbrev State.HandsPermute (s : State) : Prop := ∀ k, isPermutation (Sparse.get identityLine s.hands k) = true

/-- What every command respects, whatever it does: the canonical form is kept, the mask stacks stay within their depth and the hand lines stay
permutations, the waiting commands stay as they are, what was sent stays
sent, and the ACLK count and the count of free values never fall. -/
structure State.Evolves (s t : State) : Prop where
  canonical : s.Canonical → t.Canonical
  masks : s.MasksFit → t.MasksFit
  hands : s.HandsPermute → t.HandsPermute
  queue : t.pending = s.pending
  sent : s.outs <+: t.outs
  clock : s.now ≤ t.now
  draws : s.fresh ≤ t.fresh

/-- A Dealer executes the scalar instruction its command names: no machine check has halted it, none waits for its entry (R169), its core runs
(it has had its first deal start, is not retired, and its current level is active: R203, R423, R484), no overrun has ended its level 0 (R29, R257),
and no array instruction of its level waits for the ramp (R262). -/
abbrev State.executes (s : State) (n : Dealer) : Prop := (s.dl n).halted = false ∧ (s.dl n).pendMC = none ∧ s.levelWaits n = false

/-- A Dealer starts the array instruction its command names: as for a scalar instruction, but one that waited for the ramp is the one that
starts (R262). -/
abbrev State.issues (s : State) (n : Dealer) : Prop :=
  (s.dl n).halted = false ∧ (s.dl n).pendMC = none ∧ s.coreIdle n = false ∧ ((s.dl n).cutDue && s.lvl n == 0) = false

/-- A command is answered: the machine has a next state, neither a fault nor a refusal. -/
def Answered (o : Host.Outcome State Fault Refusal) : Prop := ∃ t, o = .next t

/-- No Dealer is halted: every instruction is then executed or waits, and none stops the machine. -/
abbrev State.NoneHalted (s : State) : Prop := ∀ n : Dealer, (s.dl n).halted = false

/-- What an instruction of Dealer n leaves alone when it writes only the registers listed of the current level's bank (W, F, PD and SG
registers), its PC, ST and FPC: every other register of the bank, the banks of the other levels, the mask stack depth, the other Dealers, every
byte of memory with its syndrome, and every device register. -/
structure State.Frame (n : Dealer) (ws fs pds sgs : List Nat) (s t : State) : Prop where
  w : ∀ r, r < 32 → r ∉ ws → t.rdW n r = s.rdW n r
  f : ∀ r, r < 16 → r ∉ fs → t.rdF n r = s.rdF n r
  pd : ∀ r, r < 16 → r ∉ pds → t.rdPD n r = s.rdPD n r
  sg : ∀ r, r < 8 → r ∉ sgs → t.rdSG n r = s.rdSG n r
  xpc : (t.bank n).xpc = (s.bank n).xpc
  xcause : (t.bank n).xcause = (s.bank n).xcause
  xinfo : (t.bank n).xinfo = (s.bank n).xinfo
  xvec : (t.bank n).xvec = (s.bank n).xvec
  levels : ∀ k, k ≠ s.lvl n → t.bankAt n k = s.bankAt n k
  msp : (t.dl n).msp = (s.dl n).msp
  dealers : ∀ m, m ≠ n → t.dl m = s.dl m
  bytes : ∀ a, t.byte a = s.byte a
  syndromes : ∀ a, t.wordSyn a = s.wordSyn a
  registers : ∀ o, t.reg o = s.reg o

/-- The command completes: Wd receives `v` (W0 nothing, R177), ST becomes a word that `st` holds of, FPC stays, the PC moves to the next
word, and nothing else changes. -/
def WritesW (i : Instr) (n : Dealer) (op : SOp) (v : Word) (st : Word → Prop) (s : State) : Prop :=
  ∃ t, exec i s = .next t ∧ t.rdW n op.d = (if op.d = 0 then 0 else v) ∧ st (t.st n) ∧ (t.bank n).fpc = (s.bank n).fpc ∧
    t.pc n = s.nextPc n op ∧ s.Frame n [op.d] [] [] [] t

/-- A Dealer is at a scalar instruction that it executes, with a next word in its deal store (R191). -/
structure State.Ready (s : State) (n : Dealer) (op : SOp) : Prop where
  runs : s.executes n
  next : s.nextPc n op ≤ 0x3FFFC

/-- A word of format REG that uses D, A and B only, the fields it does not use being 0 (R178, R179). -/
def wordReg (op : SOp) : Prop := op.ext = none ∧ op.fld 0 8 = 0

/-- A word of format IMM: with an extension word, IMM13 is 0 (R179). -/
def wordImm (op : SOp) : Prop := op.ext = none ∨ op.imm13 = 0

/-- ST with the four flags as given and every other bit as before. -/
structure FlagsAre (c z n v : Bool) (old new : Word) : Prop where
  carry : stC new = c
  zero : stZ new = z
  negative : stN new = n
  overflow : stV new = v
  rest : ∀ i, 4 ≤ i → i < 32 → new.getLsbD i = old.getLsbD i

/-- How a scalar instruction ends that writes only the registers listed and no flag: ST and FPC stay, the PC moves to the next word, and
nothing else changes. -/
structure State.Ends (n : Dealer) (op : SOp) (ws fs pds sgs : List Nat) (s t : State) : Prop where
  st : t.st n = s.st n
  fpc : (t.bank n).fpc = (s.bank n).fpc
  pc : t.pc n = s.nextPc n op
  frame : s.Frame n ws fs pds sgs t

/-- An instruction that writes group g (0 the F registers, 1 the PD registers) after LAZY_FILL (R214): from the state `u` that LAZY_FILL
leaves, the next state is as `P u` says; where LAZY_FILL fails, its machine check waits and the instruction has done nothing else. -/
def FillsThen (i : Instr) (n : Dealer) (g : Nat) (s : State) (P : State → State → Prop) : Prop :=
  ((s.lazyFill n g).1 = true → ∃ t, exec i s = .next t ∧ P (s.lazyFill n g).2 t) ∧
  ((s.lazyFill n g).1 = false → exec i s = .next (s.lazyFill n g).2)

/-- Only the current level's bank of Dealer n changes, to `b`: the banks of the other levels, the mask stack depth, the other Dealers, every
byte of memory with its syndrome, and every device register stay. -/
structure State.OnlyBank (n : Dealer) (b : Bank) (s t : State) : Prop where
  bank : t.bank n = b
  levels : ∀ k, k ≠ s.lvl n → t.bankAt n k = s.bankAt n k
  msp : (t.dl n).msp = (s.dl n).msp
  dealers : ∀ m, m ≠ n → t.dl m = s.dl m
  bytes : ∀ a, t.byte a = s.byte a
  syndromes : ∀ a, t.wordSyn a = s.wordSyn a
  registers : ∀ o, t.reg o = s.reg o

/-- Dealer n is out of its deal until the next one starts (R174, R231): no level is active, no emergency area is in use, level 0 is current,
no task's state is in the banks, DEAL_USED reads all ones, the restart is counted, and the next deal starts at RECOVERY. -/
structure State.Restarted (n : Dealer) (s t : State) : Prop where
  active : t.fget (LVLSTAT.ACTIVE n) = 0
  embusy : t.fget (LVLSTAT.EMBUSY n) = 0
  level : t.fget (LVLSTAT.CUR n) = 0
  resident : ∀ k, k < 8 → t.fget (TASKSTAT.RESV n k) = 0
  used : t.fget (DEAL_USED.CYCLES n) = 2 ^ 25 - 1
  restarts : t.fget (DEAL_OVR.RESTARTS n) = satAdd (DEAL_OVR.RESTARTS n).wid (s.fget (DEAL_OVR.RESTARTS n)) 1
  recovery : (t.dl n).tickEnd = 2 ∧ (t.dl n).recover = true
  dealers : ∀ m, m ≠ n → t.dl m = s.dl m
  bytes : ∀ a, t.byte a = s.byte a
  syndromes : ∀ a, t.wordSyn a = s.wordSyn a

/-- An instruction of Dealer n, with an extension word when `ext`, takes a trap (R199): XPC receives its address, XCAUSE the code, the
segment register and EXTW, XINFO `info`, FPC `fpc`, TRP is set and execution continues at XVEC, nothing else changing.  With TRP already set
the trap makes a deal restart instead (R200). -/
def TrapTaken (n : Dealer) (code : Nat) (info : Word) (seg : Nat) (ext : Bool) (fpc : Word) (s t : State) : Prop :=
  if stTRP (s.st n) then s.Restarted n t
  else
    s.OnlyBank n { s.bank n with xpc := (s.bank n).pc, xcause := BitVec.ofNat 32 (code + 2 ^ 8 * seg + 2 ^ 12 * (if ext then 1 else 0)),
                                 xinfo := info, st := (s.bank n).st ||| 0x8000, pc := (s.bank n).xvec, fpc := fpc } t

/-- The end of a floating-point instruction in the state `s` (R143): without an enabled exception `b` is the bank with the result, and SSF
takes the exceptions of `fl`; an enabled exception takes trap FP, which leaves the destination and SSF and records the enabled exceptions in
TCAUSE with TSRC 0. -/
def FloatEnds (n : Dealer) (op : SOp) (fl : Nat) (b : Bank) (s t : State) : Prop :=
  if fl &&& fpcTE (s.bank n).fpc = 0 then
    s.OnlyBank n { b with fpc := (s.bank n).fpc ||| BitVec.ofNat 32 (fl % 32 * 2 ^ 13), pc := BitVec.ofNat 32 (s.nextPc n op) } t
  else TrapTaken n 8 0 0 false (fpcTrapped (s.bank n).fpc fl false) s t

/-- The k bytes from address a on are in DRAM or in one store, Dealer n may access them now, its path to them meets no absorber and no port that
is down (R186), no weeding or graft moves their cells, and every word that holds one of them has valid check bits. -/
structure State.Sound (s : State) (n : Dealer) (a k : Nat) : Prop where
  whole : regionOf (a + k - 1) = regionOf a
  admits : (regionOf a = .dram ∧ s.fget DRAM_STAT.TRAIN = 2 ∧ s.fget DRAM_STAT.SREF = 0 ∧ s.inImageCopy a = false ∧
      s.inImageCopy (a + k - 1) = false) ∨
    ∃ b, regionOf a = .store b ∧ s.storeStatus b (.dealer n) = stOK ∧ (b < 32 → s.fget (BANK_STAT.WEED b) = weedIDLE)
  clear : ∀ i, i < k → s.pathTurns (.dealer n) (a + i) = none
  valid : ∀ i, i < k → s.wordSyn (a + i) = 0

/-- An access of k bytes at an offset of a segment passes the checks of R184. -/
structure Segment.Admits (x : Desc) (off : Int) (k : Nat) (rd wr : Bool) : Prop where
  present : Desc.present x = true
  reads : rd = true → Desc.rda x = true
  writes : wr = true → Desc.wra x = true
  low : 0 ≤ off
  high : off + k - 1 ≤ Desc.limit x

/-- The address that an access to a CODE segment reads in the Dealer's deal store, or the address of any other segment (R182, R186). -/
def descAddr (n : Dealer) (x : Desc) (off : Int) : Nat :=
  (if Desc.space x = spCODE then dealBase n else 0) + (Desc.base x + off.toNat)

/-- A load of k bytes through a segment reaches sound bytes: of the Dealer's deal store through CODE, of DRAM or a store otherwise. -/
def State.Loads (s : State) (n : Dealer) (x : Desc) (off : Int) (k : Nat) : Prop :=
  (Desc.space x = spCODE ∧ ∀ i, i < k → s.wordSyn (descAddr n x off + i) = 0) ∨
  ((Desc.space x = spDRAM ∨ Desc.space x = spSCRATCH) ∧ s.Sound n (descAddr n x off) k)

/-- The k low bytes of v stand from address a on, the lowest first (R5), and `b` is the bank of Dealer n; every other byte, every syndrome,
every device register and everything else of the Dealers is as before. -/
structure State.Stored (n : Dealer) (a k v : Nat) (b : Bank) (s t : State) : Prop where
  stored : ∀ i, i < k → t.byte (a + i) = BitVec.ofNat 8 (v / 256 ^ i)
  bytes : ∀ x, (x < a ∨ a + k ≤ x) → t.byte x = s.byte x
  syndromes : ∀ x, t.wordSyn x = s.wordSyn x
  registers : ∀ o, t.reg o = s.reg o
  bank : t.bank n = b
  levels : ∀ k, k ≠ s.lvl n → t.bankAt n k = s.bankAt n k
  msp : (t.dl n).msp = (s.dl n).msp
  dealers : ∀ m, m ≠ n → t.dl m = s.dl m

/-- A store that changes, of the bank, the PC alone. -/
abbrev State.StoresTo (n : Dealer) (op : SOp) (a k v : Nat) (s t : State) : Prop :=
  s.Stored n a k v { s.bank n with pc := BitVec.ofNat 32 (s.nextPc n op) } t

/-- A word of format MEM: with an extension word, DISP10 is 0 (R179). -/
def wordMem (op : SOp) : Prop := op.ext = none ∨ op.disp10 = 0

/-- An access of Dealer n to address a failed with a status other than OK (R189), which left the state `u`: ST.AE is set, ACCSTAT and ACCADDR
record it, the Dealer's access-error event is pending where it is routed to a level, and the PC moves to the next word; of the Dealers' other
registers only the W registers in `ws` and the F registers in `fs` may change, and no byte of memory does. -/
structure State.AccessFailed (n : Dealer) (op : SOp) (status a seg : Nat) (wr : Bool) (ws fs : List Nat) (u t : State) : Prop where
  bank : t.bank n = { u.bank n with w := (t.bank n).w, f := (t.bank n).f, st := u.st n ||| 0x10, pc := BitVec.ofNat 32 (u.nextPc n op) }
  w : ∀ r, r < 32 → r ∉ ws → t.rdW n r = u.rdW n r
  f : ∀ r, r < 16 → r ∉ fs → t.rdF n r = u.rdF n r
  levels : ∀ k, k ≠ u.lvl n → t.bankAt n k = u.bankAt n k
  msp : (t.dl n).msp = (u.dl n).msp
  dealers : ∀ m, m ≠ n → t.dl m = u.dl m
  status : t.fget (ACCSTAT.STATUS n) = status % 2 ^ 8
  seg : t.fget (ACCSTAT.SEG n) = seg % 2 ^ 3
  wr : t.fget (ACCSTAT.WR n) = if wr then 1 else 0
  level : t.fget (ACCSTAT.LEVEL n) = (u.lvl n).val
  lo : t.fget (ACCADDR_LO.ADDR_LO n) = a % 2 ^ 32
  hi : t.fget (ACCADDR_HI.ADDR_HI n) = a / 2 ^ 32 % 2 ^ 16
  event : u.fget (EVT_ROUTE.KIND (64 + 8 * n.val)) = 1 → t.fget (bitFld (EVT_PEND.reg 0) (64 + 8 * n.val)) = 1
  bytes : ∀ x, t.byte x = u.byte x

/-- The 32-bit word and the 64-bit doubleword that stand at an address, the lowest byte first (R5). -/
def State.wordAt (s : State) (a : Nat) : Word := BitVec.ofNat 32 (natOfBytes (s.bytes a 4))
def State.doubleAt (s : State) (a : Nat) : DWord := BitVec.ofNat 64 (natOfBytes (s.bytes a 8))

/-- Every access of at most 8 bytes within the k bytes from address a on is sound for Dealer n. -/
def State.SoundSpan (s : State) (n : Dealer) (a k : Nat) : Prop := ∀ i z, 0 < z → z ≤ 8 → i + z ≤ k → s.Sound n (a + i) z

/-- A word of the context instructions: no operand field and no extension word, every reserved field being 0. -/
def wordPlain (op : SOp) : Prop := op.ext = none ∧ op.bits = 0

/-- Bit j of a field of eight bits. -/
def bitOf (f : Fld) (j : Nat) : Fld := ⟨f.off, f.lo + j, 1⟩

/-- Source e is pending and level k of Dealer n may accept it (R205, R217, R250): its route names the level, its cap allows one more, and at
a TASK level its task is not ready. -/
structure State.Offers (s : State) (n : Dealer) (k e : Nat) : Prop where
  source : e < 320
  pending : s.fget (bitFld (EVT_PEND.reg 0) e) = 1
  routed : s.fget (EVT_ROUTE.KIND e) = 1 ∧ s.fget (EVT_ROUTE.DEALER e) = n.val ∧ s.fget (EVT_ROUTE.LEVEL e) = k
  capped : Sparse.get 0 s.evAcc e ≤ s.fget (EVT_CAP.CAP e)
  idle : s.levelKind n k = 2 → s.fget (bitOf (TASKSTAT.READY n k) (s.fget (EVT_ROUTE.TASK e))) = 0

/-- No level of Dealer n above c waits to be entered. -/
def State.NoneAbove (s : State) (n : Dealer) (c : Nat) : Prop :=
  ∀ k, c < k → k ≤ 6 → s.fget (bitOf (LVLSTAT.ACTIVE n) k) = 1 ∨ ((∀ e, ¬s.Offers n k e) ∧ s.fget (TASKSTAT.READY n k) = 0)

/-- Nothing stops a REP between two iterations (R194, R207): no level above the current one is to be entered, and at a TASK level no event of its
tasks is to be accepted and no ready task outranks the running one. -/
def State.Undisturbed (s : State) (n : Dealer) : Prop :=
  s.interrupts n = false ∧ (s.inTask n = true → (∀ e ∈ s.pendingSources, s.acceptable n (s.lvl n).val e = false) ∧
    ∀ j, s.topReady n (s.lvl n).val = some j → j ≤ s.fget (TASKSTAT.RES n (s.lvl n).val))

/-- CT counted down after an iteration (R194). -/
def State.counted (s : State) (n : Dealer) : State := s.wrW n 12 (s.rdW n 12 - 1)

/-- The STOP condition of a BCOMP or BSEEK holds after an iteration (R194, R196). -/
def StopsAt (x : StrOp) (n : Dealer) (op : SOp) (s : State) : Prop :=
  x.stops = true ∧ ((op.fld 9 2 = 1 ∧ stZ (s.st n) = true) ∨ (op.fld 9 2 = 2 ∧ stZ (s.st n) = false))

/-- A REP makes k iterations from s, the state `t` being the one after them: none ends in an access error, meets its STOP condition or is followed by
an interruption (R194, R195). -/
def Iterated (x : StrOp) (n : Dealer) (op : SOp) : Nat → State → State → Prop
  | 0, s, t => t = s
  | k + 1, s, t => ∃ u, x.iter n op s = .done u false ∧ ¬StopsAt x n op (u.counted n) ∧ (u.counted n).Undisturbed n ∧
      Iterated x n op k (u.counted n) t

/-- Task r of level k is stored in its TCB, to resume at `pc` (R212, R218): W1 to W15, ST, PC and FPC, and the groups that are dirty. -/
structure State.TaskStored (n : Dealer) (k : Fin 8) (r : Nat) (pc : Word) (s t : State) : Prop where
  low : ∀ i : Fin 32, 0 < i.val → i.val < 16 → t.wordAt (s.tcb n k r + 4 * i.val) = (s.bankAt n k).w.get i
  st : t.wordAt (s.tcb n k r + 0x140) = (s.bankAt n k).st
  pc : t.wordAt (s.tcb n k r + 0x144) = pc
  fpc : t.wordAt (s.tcb n k r + 0x148) = (s.bankAt n k).fpc
  w16 : natBit ((s.dl n).dirty.get k) 0 = true → ∀ i : Fin 32, 16 ≤ i.val → i.val < 24 → t.wordAt (s.tcb n k r + 4 * i.val) = (s.bankAt n k).w.get i
  w24 : natBit ((s.dl n).dirty.get k) 1 = true → ∀ i : Fin 32, 24 ≤ i.val → t.wordAt (s.tcb n k r + 4 * i.val) = (s.bankAt n k).w.get i
  f : natBit ((s.dl n).dirty.get k) 2 = true → ∀ i : Fin 16, t.doubleAt (s.tcb n k r + 0x80 + 8 * i.val) = (s.bankAt n k).f.get i
  pd : natBit ((s.dl n).dirty.get k) 3 = true → ∀ i : Fin 16, t.wordAt (s.tcb n k r + 0x100 + 4 * i.val) = (s.bankAt n k).pd.get i
  bytes : ∀ x, (x < s.tcb n k r ∨ s.tcb n k r + 0x14C ≤ x) → t.byte x = s.byte x

/-- Task j of level k runs: the bank holds the context of its TCB, W1 being the source that woke the task if one did (R217, R218). -/
structure State.TaskRuns (n : Dealer) (k : Fin 8) (j : Nat) (s t : State) : Prop where
  res : t.fget (TASKSTAT.RES n k) = j
  level : t.fget (LVLSTAT.CUR n) = k.val
  w : ∀ i : Fin 32, 1 < i.val → (t.bankAt n k).w.get i = t.wordAt (s.tcb n k j + 4 * i.val)
  w1 : (t.bankAt n k).w.get 1 = (if Sparse.get 0 (s.dl n).wake (8 * k.val + j) = 0 then t.wordAt (s.tcb n k j + 4)
    else BitVec.ofNat 32 (Sparse.get 0 (s.dl n).wake (8 * k.val + j) - 1))
  f : ∀ i : Fin 16, (t.bankAt n k).f.get i = t.doubleAt (s.tcb n k j + 0x80 + 8 * i.val)
  pd : ∀ i : Fin 16, (t.bankAt n k).pd.get i = t.wordAt (s.tcb n k j + 0x100 + 4 * i.val)
  pc : (t.bankAt n k).pc = t.wordAt (s.tcb n k j + 0x144)
  fpc : (t.bankAt n k).fpc = t.wordAt (s.tcb n k j + 0x148)
  shared : (t.bankAt n k).sg = (s.bankAt n k).sg ∧ (t.bankAt n k).xvec = (s.bankAt n k).xvec

/- The array. -/

/-- Every row word of a plane that holds check bits is stored with valid ones. -/
def State.PlanesClean (s : State) : Prop := ∀ p y j, p < 1983 → y < 512 → j < 8 → s.wordSyn (rowWordAddr p y j) = 0

/-- Dealer n starts an array instruction: it may start one, no ramp or lowered tile holds it (R262, R263), the opcode has a dispatch entry with
valid check bits (R162), and the deal store has a next word (R191). -/
structure State.ArrayReady (s : State) (n : Dealer) (aop : Nat) (op : AOp) : Prop where
  runs : s.issues n
  raised : s.mustHold n = false
  valid : s.wordSyn (ctlBase n + 0x80000 + 8 * aop) = 0
  entry : natBit (s.wordData (ctlBase n + 0x80000 + 8 * aop)) 15 = true
  next : s.pc n + 4 + 4 * op.extN ≤ 0x3FFFC

/-- A plane descriptor without reserved values whose field lies at or below P1919 (R86). -/
def fieldFits (w : Word) : Prop := pdReserved w = false ∧ pdBase w + pdWidth w ≤ 1920

/-- A PE that an instruction counts: in the quadrant set, in a tile that executes, with M = 1 (R87, R96). -/
def State.counts (s : State) (q y x : Nat) : Bool := natBit q (peQuad y x) && s.rampTile (peTile y x) && s.mAt y x

/-- In the PEs counted the planes are what `f` says; in every other PE they stay. -/
def State.PlanesAre (s : State) (q : Nat) (f : Nat → Nat → Nat → Bool) (t : State) : Prop :=
  ∀ p y x, p < 1983 → y < 512 → x < 512 → t.planeBit p y x = if s.counts q y x then f p y x else s.planeBit p y x

/-- An array instruction leaves everything but the planes, the T planes and the bank of its level: `b` is that bank. -/
structure State.OnlyPlanes (n : Dealer) (b : Bank) (s t : State) : Prop where
  bank : t.bank n = b
  levels : ∀ k, k ≠ s.lvl n → t.bankAt n k = s.bankAt n k
  msp : (t.dl n).msp = (s.dl n).msp
  dealers : ∀ m, m ≠ n → t.dl m = s.dl m
  registers : ∀ o, t.reg o = s.reg o
  bytes : ∀ a, (a < 0x4100000000 ∨ 0x4104000000 ≤ a) → t.byte a = s.byte a
  masks : t.mrow = s.mrow

/-- Field d and the flag planes of the PEs counted: d takes `v`, and flag plane P1976 + k is set where bit k of `fl` is 1 (R105, R110). -/
def State.fieldPlanes (s : State) (d : Word) (v fl : Nat → Nat → Nat) (p y x : Nat) : Bool :=
  if pdBase d ≤ p ∧ p < pdBase d + pdWidth d then natBit (v y x) (p - pdBase d)
  else if 1976 ≤ p ∧ natBit (fl y x) (p - 1976) then true else s.planeBit p y x

/-- The bank of the current level with the PC after an array instruction (R85). -/
def State.pastArray (s : State) (n : Dealer) (op : AOp) : Bank := { s.bank n with pc := BitVec.ofNat 32 (s.pc n + 4 + 4 * op.extN) }

/-- The quadrant set q lies within the region of Dealer n (R87). -/
def State.Within (s : State) (n : Dealer) (q : Nat) : Prop := ∀ k, k < 4 → natBit q k = true → natBit (s.region n) k = true

/-- Dealer n is at an array instruction that it executes and that passes the checks of R95: its planes hold no error, the descriptors `pds` that
it uses are legal, and its quadrant set q lies within the region. -/
structure State.ArrayRuns (s : State) (n : Dealer) (aop : Nat) (op : AOp) (pds : List Word) (q : Nat) : Prop where
  ready : s.ArrayReady n aop op
  clean : s.PlanesClean
  fits : ∀ w ∈ pds, fieldFits w
  within : s.Within n q

/-- The value of a field in a PE, bit 0 at its base plane (R86). -/
def State.valueAt (s : State) (w : Word) (y x : Nat) : Nat := s.fieldAt (pdBase w) (pdWidth w) y x

/-- An array instruction completes: in the PEs counted the field d takes the value `v` and the flag planes that `fl` names are set; nothing else
changes but the PC and the T planes. -/
def ArrayWrites (i : Instr) (n : Dealer) (op : AOp) (d : Word) (v fl : Nat → Nat → Nat) (s : State) : Prop :=
  ∃ t, exec i s = .next t ∧ s.OnlyPlanes n (s.pastArray n op) t ∧ s.PlanesAre (pdQset d) (s.fieldPlanes d v fl) t

/-- A command is answered to an agent with a status and a value; `P` holds of the state in which the answer is sent. -/
def Answers (i : Instr) (ag : Agent) (status data : Nat) (s : State) (P : State → Prop) : Prop :=
  ∃ t, exec i s = .next (t.emit (.status ag status data)) ∧ P t

/-- Only the device registers listed change: every other register, every byte with its syndrome, the Dealers and the packets stay. -/
structure State.Only (os : List Nat) (s t : State) : Prop where
  registers : ∀ o, o ∉ os → t.reg o = s.reg o
  bytes : ∀ a, t.byte a = s.byte a
  syndromes : ∀ a, t.wordSyn a = s.wordSyn a
  dealers : t.dealers = s.dealers
  packets : t.net = s.net

/-- Event e has been asserted: where its route goes to a level, its bit is pending (R208). -/
def State.Signals (s : State) (e : Nat) (t : State) : Prop := s.fget (EVT_ROUTE.KIND e) = 1 → t.fget (bitFld (EVT_PEND.reg 0) e) = 1

/-- Local port l of router r is open: the router is in service, the port does not absorb, and its far side is not in reset (R373 to R377). -/
structure State.PortOpen (s : State) (r l : Nat) : Prop where
  router : s.fget (TRL_RTR.STATE r) = 0
  absorbs : natBit (s.fget (TRL_RTR.ABSP r)) (4 + l) = false
  up : s.portDown r l = false

/-- No flag plane is set. -/
def noFlags : Nat → Nat → Nat := fun _ _ => 0

end Sys2Proof.Machine
end

