-- ==== Sys2Proof/Certificates/Slice0/Obligations.lean ====
section
/-!
DEFINITION. The statements about the machine, from the numbered rules of the specification.
-/
open Sys2Proof Sys2Proof.Machine

/- Scalar instructions. -/

/-- R123 and the rows of R187: ADD, ADDC, SUB, SUBB, ADDI and CMPI write Wd (CMPI nothing) and set C, Z, N and V as for an addition or
subtraction: C the carry, or the borrow a < b + c; Z a zero result; N its bit 31; V signed overflow.  Nothing else changes. -/
def Obligations.IntegerAddSubtract : Prop :=
  ∀ (n : Dealer) (op : SOp) (s : State), s.Ready n op →
    let a := s.rdW n op.a
    let b := s.rdW n op.b
    let i := BitVec.ofNat 32 (op.imm true)
    let c : Nat := if stC (s.st n) then 1 else 0
    let sum (y : Word) (c : Nat) : Word := a + y + BitVec.ofNat 32 c
    let diff (y : Word) (c : Nat) : Word := a - y - BitVec.ofNat 32 c
    let addSt (y : Word) (c : Nat) : Word → Prop := fun st =>
      FlagsAre (decide (2 ^ 32 ≤ a.toNat + y.toNat + c)) (sum y c == 0) (sum y c).msb (decide (a.toInt + y.toInt + c ≠ (sum y c).toInt)) (s.st n) st
    let subSt (y : Word) (c : Nat) : Word → Prop := fun st =>
      FlagsAre (decide (a.toNat < y.toNat + c)) (diff y c == 0) (diff y c).msb (decide (a.toInt - y.toInt - c ≠ (diff y c).toInt)) (s.st n) st
    (wordReg op →
      WritesW (.add n op) n op (sum b 0) (addSt b 0) s ∧ WritesW (.addc n op) n op (sum b c) (addSt b c) s ∧
      WritesW (.sub n op) n op (diff b 0) (subSt b 0) s ∧ WritesW (.subb n op) n op (diff b c) (subSt b c) s) ∧
    (wordImm op → WritesW (.addi n op) n op (sum i 0) (addSt i 0) s ∧ (op.d = 0 → WritesW (.cmpi n op) n op (diff i 0) (subSt i 0) s))

/-- R187: AND, OR, XOR, ANDN and their immediate forms, whose immediate is zero-extended, write Wd and set Z and N from the result; C, V and
everything else stay. -/
def Obligations.IntegerLogic : Prop :=
  ∀ (n : Dealer) (op : SOp) (s : State), s.Ready n op →
    let a := s.rdW n op.a
    let b := s.rdW n op.b
    let i := BitVec.ofNat 32 (op.imm false)
    let zn (r : Word) : Word → Prop := fun st => FlagsAre (stC (s.st n)) (r == 0) r.msb (stV (s.st n)) (s.st n) st
    (wordReg op →
      WritesW (.and n op) n op (a &&& b) (zn (a &&& b)) s ∧ WritesW (.or n op) n op (a ||| b) (zn (a ||| b)) s ∧
      WritesW (.xor n op) n op (a ^^^ b) (zn (a ^^^ b)) s ∧ WritesW (.andn n op) n op (a &&& ~~~b) (zn (a &&& ~~~b)) s) ∧
    (wordImm op →
      WritesW (.andi n op) n op (a &&& i) (zn (a &&& i)) s ∧ WritesW (.ori n op) n op (a ||| i) (zn (a ||| i)) s ∧
      WritesW (.xori n op) n op (a ^^^ i) (zn (a ^^^ i)) s)

/-- R188: a shift count of 0 writes nothing and leaves the flags; a count from 1 to 63 shifts, 32 and more giving 0, or 32 copies of the
sign bit for SHRS and SHRSI; Z and N are set from the result. -/
def Obligations.IntegerShifts : Prop :=
  ∀ (n : Dealer) (op : SOp) (s : State), s.Ready n op →
    let a := s.rdW n op.a
    let kept (i : Instr) : Prop := WritesW i n op (s.rdW n op.d) (fun st => st = s.st n) s
    let zn (r : Word) : Word → Prop := fun st => FlagsAre (stC (s.st n)) (r == 0) r.msb (stV (s.st n)) (s.st n) st
    let shift (k : Nat) (i : Instr) (r : Word) : Prop := if k = 0 then kept i else WritesW i n op r (zn r) s
    let k := (s.rdW n op.b).toNat % 64
    (wordReg op →
      shift k (.shl n op) (a <<< k) ∧ shift k (.shru n op) (a >>> k) ∧ shift k (.shrs n op) (a.sshiftRight k)) ∧
    (wordImm op → op.imm false ≤ 63 →
      shift (op.imm false) (.shli n op) (a <<< op.imm false) ∧ shift (op.imm false) (.shrui n op) (a >>> op.imm false) ∧
      shift (op.imm false) (.shrsi n op) (a.sshiftRight (op.imm false)))

/-- R124 and R187: MUL gives the low 32 bits of the product; MULWU and MULWS write the whole 64-bit product to the pair Wd, Wd+1 of an even
d, its low half in Wd, and no flag changes; an odd d traps ILL_RESERVED. -/
def Obligations.IntegerMultiply : Prop :=
  ∀ (n : Dealer) (op : SOp) (s : State), s.Ready n op → wordReg op →
    let a := s.rdW n op.a
    let b := s.rdW n op.b
    WritesW (.mul n op) n op (a * b) (fun st => st = s.st n) s ∧
    (op.d % 2 = 0 →
      ∀ p ∈ [(Instr.mulwu n op, a.zeroExtend 64 * b.zeroExtend 64), (Instr.mulws n op, a.signExtend 64 * b.signExtend 64)],
        ∃ t, exec p.1 s = .next t ∧ (op.d ≠ 0 → t.rdW n op.d = p.2.extractLsb' 0 32) ∧ t.rdW n (op.d + 1) = p.2.extractLsb' 32 32 ∧
          t.rdW n 0 = 0 ∧ t.st n = s.st n ∧ (t.bank n).fpc = (s.bank n).fpc ∧ t.pc n = s.nextPc n op ∧
          s.Frame n [op.d, op.d + 1] [] [] [] t) ∧
    (op.d % 2 = 1 → ∀ p ∈ [(Instr.mulwu n op, 0x0C), (.mulws n op, 0x0D)],
      ∃ t, exec p.1 s = .next t ∧ TrapTaken n 2 (op.word 0 p.2) 0 false (s.bank n).fpc s t)

/-- R125: with a divisor other than 0, DIVU and REMU give the unsigned quotient and remainder, DIVS the quotient rounded toward zero
(0x8000_0000 by −1 gives 0x8000_0000) and REMS the remainder with the sign of the dividend, and no flag changes; a divisor of 0 traps
DIV_ZERO with the dividend. -/
def Obligations.IntegerDivide : Prop :=
  ∀ (n : Dealer) (op : SOp) (s : State), s.Ready n op → wordReg op →
    let a := s.rdW n op.a
    let b := s.rdW n op.b
    (b ≠ 0 →
      WritesW (.divu n op) n op (a / b) (fun st => st = s.st n) s ∧ WritesW (.remu n op) n op (a % b) (fun st => st = s.st n) s ∧
      WritesW (.divs n op) n op (BitVec.ofInt 32 (a.toInt.tdiv b.toInt)) (fun st => st = s.st n) s ∧
      WritesW (.rems n op) n op (BitVec.ofInt 32 (a.toInt.tmod b.toInt)) (fun st => st = s.st n) s) ∧
    (b = 0 → ∀ i ∈ [Instr.divu n op, .divs n op, .remu n op, .rems n op],
      ∃ t, exec i s = .next t ∧ TrapTaken n 12 a 0 false (s.bank n).fpc s t)

/-- R187: the instructions that write a W register and no flag: comparisons into a register, moves of an immediate, of a plane descriptor, of
a segment register's word, of a special register and of a binary32 value, and LEA. -/
def Obligations.MovesToW : Prop :=
  ∀ (n : Dealer) (op : SOp) (s : State), s.Ready n op →
    let a := s.rdW n op.a
    let b := s.rdW n op.b
    let one (c : Bool) : Word := if c then 1 else 0
    let w (i : Instr) (v : Word) : Prop := WritesW i n op v (fun st => st = s.st n) s
    (wordReg op → w (.sltu n op) (one (decide (a.toNat < b.toNat))) ∧ w (.slts n op) (one (decide (a.toInt < b.toInt)))) ∧
    (wordImm op →
      w (.sltui n op) (one (decide (a.toNat < op.imm false))) ∧
      w (.sltsi n op) (one (decide (a.toInt < (BitVec.ofNat 32 (op.imm true)).toInt))) ∧
      (op.a = 0 → w (.movi n op) (BitVec.ofNat 32 (op.imm true)))) ∧
    (op.ext = none → op.fld 0 13 = 0 → op.a ≤ 15 → w (.mfpd n op) (s.rdPD n op.a) ∧ w (.fmfw n op) ((s.rdF n op.a).extractLsb' 0 32)) ∧
    (wordReg op → op.a ≤ 7 → op.b ≤ 3 → w (.sgrd n op) ((s.rdSG n op.a).extractLsb' (32 * op.b) 32)) ∧
    (wordReg op → op.a = 0 → op.b ≤ 7 →
      w (.mfs n op) ([(s.bank n).st, (s.bank n).fpc, (s.bank n).pc, (s.bank n).xpc, (s.bank n).xcause, (s.bank n).xinfo, (s.bank n).xvec,
        BitVec.ofNat 32 (s.dl n).msp].getD op.b 0)) ∧
    ((op.ext = none ∨ op.disp10 = 0) → op.sg = 0 →
      w (.lea n op) (s.rdW n op.a + (match op.ext with | some x => x | none => (BitVec.ofNat 10 op.disp10).signExtend 32)))

/-- R187: FMFW.D, FMTW, MTPD and SGLD move a value to a register pair, an F register, a PD register and a segment register; FMTW and MTPD
after LAZY_FILL (R214).  SGLD needs a privileged level and a descriptor that passes the checks of R183. -/
def Obligations.MovesToOtherRegisters : Prop :=
  ∀ (n : Dealer) (op : SOp) (s : State), s.Ready n op → op.ext = none →
    (op.fld 0 6 = 0 → op.fmt = 1 → op.b = 0 → op.a ≤ 15 → op.d % 2 = 0 →
      ∃ t, exec (.fmfw n op) s = .next t ∧ (op.d ≠ 0 → t.rdW n op.d = (s.rdF n op.a).extractLsb' 0 32) ∧
        t.rdW n (op.d + 1) = (s.rdF n op.a).extractLsb' 32 32 ∧ s.Ends n op [op.d, op.d + 1] [] [] [] t) ∧
    (op.fld 0 6 = 0 → op.fmt ≤ 1 → op.b = 0 → op.d ≤ 15 → (op.fmt = 1 → op.a % 2 = 0) →
      FillsThen (.fmtw n op) n 0 s (fun u t =>
        t.rdF n op.d = (if op.fmt = 1 then u.rdW n (op.a + 1) ++ u.rdW n op.a else (u.rdW n op.a).zeroExtend 64) ∧
        u.Ends n op [] [op.d] [] [] t)) ∧
    (op.fld 0 13 = 0 → op.d ≤ 15 →
      FillsThen (.mtpd n op) n 1 s (fun u t => t.rdPD n op.d = u.rdW n op.a ∧ u.Ends n op [] [] [op.d] [] t)) ∧
    (op.fld 0 13 = 0 → op.d ≤ 7 → op.a % 4 = 0 → s.priv n = true →
      let x : Desc := s.rdW n (op.a + 3) ++ s.rdW n (op.a + 2) ++ s.rdW n (op.a + 1) ++ s.rdW n op.a
      Desc.reserved x = false → (Desc.present x && Desc.wra x && Desc.space x == spCODE) = false → Desc.beyond x = false →
      ∃ t, exec (.sgld n op) s = .next t ∧ t.rdSG n op.d = x ∧ s.Ends n op [] [] [] [op.d] t)

/-- R9, R187 and the tables of the special registers: MTS writes ST, FPC, XPC, XCAUSE, XINFO or XVEC (XVEC at a privileged level only) by the
selector in D.  A value that puts a reserved value into a field is refused whole and raises EV270; else the writable fields take the value:
of ST the flags and AE, of FPC the fields below TCAUSE. -/
def Obligations.MoveToSpecial : Prop :=
  ∀ (n : Dealer) (op : SOp) (s : State), s.Ready n op → op.ext = none → op.fld 0 13 = 0 → op.d ∈ [0, 1, 3, 4, 5, 6] →
    (op.d = 6 → s.priv n = true) →
    let v := s.rdW n op.a
    let b := s.bank n
    let low (k : Nat) (old : Word) : Word := BitVec.ofNat 32 (v.toNat % 2 ^ k + old.toNat / 2 ^ k * 2 ^ k)
    let fits : Prop :=
      (op.d = 0 → v.extractLsb' 16 16 = 0 ∧ v.extractLsb' 5 6 = 0) ∧ (op.d = 1 → v.extractLsb' 24 8 = 0) ∧
      (op.d = 3 ∨ op.d = 6 → v.extractLsb' 18 14 = 0 ∧ v.extractLsb' 0 2 = 0) ∧
      (op.d = 4 → v.extractLsb' 13 19 = 0 ∧ v.extractLsb' 0 8 ≤ 0x0C)
    let b' : Bank := { b with
      st := if op.d = 0 then low 5 b.st else b.st, fpc := if op.d = 1 then low 18 b.fpc else b.fpc,
      xpc := if op.d = 3 then v else b.xpc, xcause := if op.d = 4 then v else b.xcause,
      xinfo := if op.d = 5 then v else b.xinfo, xvec := if op.d = 6 then v else b.xvec,
      pc := BitVec.ofNat 32 (s.nextPc n op) }
    (fits → ∃ t, exec (.mts n op) s = .next t ∧ s.OnlyBank n b' t) ∧
    (¬fits → ∃ t, exec (.mts n op) s = .next t ∧ (s.event 270).OnlyBank n { b with pc := BitVec.ofNat 32 (s.nextPc n op) } t)

/-- R127, R130, R135 to R137, R143 and the catalogue of spec/04: the floating-point instructions with an F destination, after LAZY_FILL
(R214).  A binary32 result clears bits [63:32] of Fd. -/
def Obligations.FloatToF : Prop :=
  ∀ (n : Dealer) (op : SOp) (s : State), s.Ready n op → op.ext = none → op.fld 0 1 = 0 → op.fmt ≤ 1 → op.d ≤ 15 →
    let f := op.ffmt
    let x (r : Nat) (u : State) : Nat := (u.rdF n r).toNat % 2 ^ f.width
    let rm (u : State) : Rm := fpcRM (u.bank n).fpc
    let ftz (u : State) : Bool := fpcFTZ (u.bank n).fpc
    let gives (i : Instr) (res : State → FRes) : Prop := FillsThen i n 0 s (fun u t =>
      FloatEnds n op (res u).fl { u.bank n with f := (u.bank n).f.set (Fin.ofNat 16 op.d) (BitVec.ofNat 64 (res u).bits) } u t)
    (op.c = 0 → op.a ≤ 15 → op.b ≤ 15 →
      gives (.fadd n op) (fun u => fAdd f (rm u) (ftz u) false (x op.a u) (x op.b u)) ∧
      gives (.fsub n op) (fun u => fAdd f (rm u) (ftz u) true (x op.a u) (x op.b u)) ∧
      gives (.fmul n op) (fun u => fMul f (rm u) (ftz u) (x op.a u) (x op.b u)) ∧
      gives (.fdiv n op) (fun u => fDiv f (rm u) (ftz u) (x op.a u) (x op.b u)) ∧
      gives (.fmin n op) (fun u => fMinMax f (ftz u) false (x op.a u) (x op.b u)) ∧
      gives (.fmax n op) (fun u => fMinMax f (ftz u) true (x op.a u) (x op.b u))) ∧
    (op.c ≤ 15 → op.a ≤ 15 → op.b ≤ 15 →
      gives (.fma n op) (fun u => fFma f (rm u) (ftz u) (x op.a u) (x op.b u) (x op.c u))) ∧
    (op.c = 0 → op.b = 0 → op.a ≤ 15 →
      gives (.fsqrt n op) (fun u => fSqrt f (rm u) (ftz u) (x op.a u)) ∧
      gives (.fneg n op) (fun u => ⟨x op.a u ^^^ 2 ^ (f.width - 1), 0⟩) ∧
      gives (.fabs n op) (fun u => ⟨x op.a u % 2 ^ (f.width - 1), 0⟩) ∧
      gives (.fcvtX n op) (fun u => fConvert f (if op.fmt = 1 then fmtS else fmtD) (rm u) (ftz u) (x op.a u))) ∧
    (op.c = 0 → op.b = 0 →
      gives (.fcvtF n op) (fun u => fFromInt f (rm u) true 32 (u.rdW n op.a).toNat) ∧
      gives (.fcvtFu n op) (fun u => fFromInt f (rm u) false 32 (u.rdW n op.a).toNat))

/-- R136, R137, R143: the floating-point comparisons and the conversions to an integer write a W register. -/
def Obligations.FloatToW : Prop :=
  ∀ (n : Dealer) (op : SOp) (s : State), s.Ready n op → op.ext = none → op.fld 0 1 = 0 → op.fmt ≤ 1 → op.c = 0 → op.a ≤ 15 →
    let f := op.ffmt
    let x (r : Nat) : Nat := (s.rdF n r).toNat % 2 ^ f.width
    let rm := fpcRM (s.bank n).fpc
    let ftz := fpcFTZ (s.bank n).fpc
    let gives (i : Instr) (r : FRes) : Prop := ∃ t, exec i s = .next t ∧
      FloatEnds n op r.fl { s.bank n with
        w := if op.d = 0 then (s.bank n).w else (s.bank n).w.set (Fin.ofNat 32 op.d) (BitVec.ofNat 32 r.bits) } s t
    (op.b ≤ 15 →
      gives (.fcmpeq n op) (fCompare f ftz .eq (x op.a) (x op.b)) ∧ gives (.fcmplt n op) (fCompare f ftz .lt (x op.a) (x op.b)) ∧
      gives (.fcmple n op) (fCompare f ftz .le (x op.a) (x op.b))) ∧
    (op.b = 0 → gives (.fcvtI n op) (fToInt f rm ftz true 32 (x op.a)) ∧ gives (.fcvtIu n op) (fToInt f rm ftz false 32 (x op.a)))

/- Memory. -/

/-- R184, R186, R187 and R5: a load through a segment that admits it writes the bytes at SG base + Wa + disp, the lowest address in the
lowest bits, extended as the instruction says; FLD after LAZY_FILL.  Nothing else changes. -/
def Obligations.Loads : Prop :=
  ∀ (n : Dealer) (op : SOp) (s : State), s.Ready n op → wordMem op →
    let x := s.rdSG n op.sg
    let off := s.memOffset n op
    let a := descAddr n x off
    let v (u : State) (k : Nat) : Nat := natOfBytes (u.bytes a k)
    let loads (k : Nat) (i : Instr) (r : Word) : Prop :=
      Segment.Admits x off k true false → s.Loads n x off k → WritesW i n op r (fun st => st = s.st n) s
    loads 1 (.ldb n op) ((BitVec.ofNat 8 (v s 1)).signExtend 32) ∧ loads 1 (.ldbu n op) (BitVec.ofNat 32 (v s 1)) ∧
    loads 2 (.ldh n op) ((BitVec.ofNat 16 (v s 2)).signExtend 32) ∧ loads 2 (.ldhu n op) (BitVec.ofNat 32 (v s 2)) ∧
    loads 4 (.ldw n op) (BitVec.ofNat 32 (v s 4)) ∧
    (op.d % 2 = 0 → Segment.Admits x off 8 true false → s.Loads n x off 8 →
      ∃ t, exec (.ldd n op) s = .next t ∧ (op.d ≠ 0 → t.rdW n op.d = BitVec.ofNat 32 (v s 8)) ∧
        t.rdW n (op.d + 1) = BitVec.ofNat 32 (v s 8 / 2 ^ 32) ∧ s.Ends n op [op.d, op.d + 1] [] [] [] t) ∧
    (op.d ≤ 15 → ∀ p ∈ [(Instr.fldS n op, 4), (Instr.fldD n op, 8)], Segment.Admits x off p.2 true false → s.segWaits n x off.toNat p.2 = false →
      FillsThen p.1 n 0 s (fun u t => u.Loads n x off p.2 →
        t.rdF n op.d = BitVec.ofNat 64 (v u p.2) ∧ u.Ends n op [] [op.d] [] [] t))

/-- R184, R187, R190 and R5: a store through a segment that admits it changes exactly the bytes at SG base + Wa + disp. -/
def Obligations.Stores : Prop :=
  ∀ (n : Dealer) (op : SOp) (s : State), s.Ready n op → wordMem op →
    let x := s.rdSG n op.sg
    let off := s.memOffset n op
    let a := descAddr n x off
    let stores (k : Nat) (i : Instr) (v : Nat) : Prop :=
      Segment.Admits x off k false true → (Desc.space x = spDRAM ∨ Desc.space x = spSCRATCH) → s.Sound n a k →
        ∃ t, exec i s = .next t ∧ s.StoresTo n op a k v t
    stores 1 (.stb n op) (s.rdW n op.d).toNat ∧ stores 2 (.sth n op) (s.rdW n op.d).toNat ∧ stores 4 (.stw n op) (s.rdW n op.d).toNat ∧
    (op.d % 2 = 0 → stores 8 (.std n op) ((s.rdW n op.d).toNat + 2 ^ 32 * (s.rdW n (op.d + 1)).toNat)) ∧
    (op.d ≤ 15 → stores 4 (.fstS n op) (s.rdF n op.d).toNat ∧ stores 8 (.fstD n op) (s.rdF n op.d).toNat)

/-- R190: AADD stores the sum of the word and Wd, and Wd receives the word as it was; the access is to SCRATCH or DRAM at a multiple of 4. -/
def Obligations.FetchAndAdd : Prop :=
  ∀ (n : Dealer) (op : SOp) (s : State), s.Ready n op → wordMem op →
    let x := s.rdSG n op.sg
    let off := s.memOffset n op
    let a := descAddr n x off
    Segment.Admits x off 4 true true → (Desc.space x = spDRAM ∨ Desc.space x = spSCRATCH) → s.Sound n a 4 → off % 4 = 0 → a % 4 = 0 →
      let w := natOfBytes (s.bytes a 4)
      ∃ t, exec (.aadd n op) s = .next t ∧ (∀ i, i < 4 → t.byte (a + i) = BitVec.ofNat 8 ((w + (s.rdW n op.d).toNat) / 256 ^ i)) ∧
        (∀ y, (y < a ∨ a + 4 ≤ y) → t.byte y = s.byte y) ∧ (∀ y, t.wordSyn y = s.wordSyn y) ∧ (∀ o, t.reg o = s.reg o) ∧
        t.bank n = { s.bank n with w := if op.d = 0 then (s.bank n).w else (s.bank n).w.set (Fin.ofNat 32 op.d) (BitVec.ofNat 32 w),
                                   pc := BitVec.ofNat 32 (s.nextPc n op) } ∧
        (∀ k, k ≠ s.lvl n → t.bankAt n k = s.bankAt n k) ∧ (∀ m, m ≠ n → t.dl m = s.dl m)

/-- R213, R214 and R218: LAZY_FILL does nothing at a level that is not a HANDLER, or for a group it has already filled; else it stores the 16
registers of the group in the lazy frame of the level area, from the lowest number up, and the group counts as filled.  Registers keep their
values.
Its charge, and that of the other costs given as at most, is log entry 8. -/
def Obligations.LazyFill : Prop :=
  ∀ (n : Dealer) (s : State) (g : Nat), g < 2 →
    let k := s.lvl n
    let a := if g = 0 then s.lazyF n k.val else s.lazyPD n k.val
    let z := if g = 0 then 8 else 4
    let v (i : Nat) : Nat := if g = 0 then (s.rdF n i).toNat else (s.rdPD n i).toNat
    let r := s.lazyFill n g
    (s.levelKind n k.val ≠ 1 ∨ natBit ((s.dl n).filled.get k) g = true → r = (true, s)) ∧
    (s.levelKind n k.val = 1 → natBit ((s.dl n).filled.get k) g = false → (∀ i, i < 16 → s.Sound n (a + z * i) z) →
      r.1 = true ∧ (∀ i j, i < 16 → j < z → r.2.byte (a + z * i + j) = BitVec.ofNat 8 (v i / 256 ^ j)) ∧
      (∀ x, (x < a ∨ a + 16 * z ≤ x) → r.2.byte x = s.byte x) ∧ (∀ x, r.2.wordSyn x = s.wordSyn x) ∧ (∀ o, r.2.reg o = s.reg o) ∧
      (∀ m j, r.2.bankAt m j = s.bankAt m j) ∧ (∀ m, m ≠ n → r.2.dl m = s.dl m) ∧
      natBit ((r.2.dl n).filled.get k) g = true ∧ natBit ((r.2.dl n).filled.get k) (1 - g) = natBit ((s.dl n).filled.get k) (1 - g) ∧
      (∀ j, j ≠ k → (r.2.dl n).filled.get j = (s.dl n).filled.get j))

/-- R184 and R198: a load, store or AADD through a segment that is absent traps SEG_ABSENT; through one without the right for the access,
SEG_RIGHTS; with a byte outside the segment, SEG_LIMIT; XINFO receives the offset and XCAUSE the segment register.
The place of AADD's alignment check is log entry 14. -/
def Obligations.SegmentChecks : Prop :=
  ∀ (n : Dealer) (op : SOp) (s : State), s.executes n → wordMem op →
    let x := s.rdSG n op.sg
    let off := s.memOffset n op
    let traps (i : Instr) (code : Nat) : Prop := ∃ t, exec i s = .next t ∧
      TrapTaken n code (BitVec.ofInt 32 off) op.sg op.ext.isSome (s.bank n).fpc s t
    let checks (p : Instr × Nat × Bool × Bool) : Prop :=
      (Desc.present x = false → traps p.1 6) ∧
      (Desc.present x = true → (p.2.2.1 = true ∧ Desc.rda x = false) ∨ (p.2.2.2 = true ∧ Desc.wra x = false) → traps p.1 5) ∧
      (Desc.present x = true → (p.2.2.1 = true → Desc.rda x = true) → (p.2.2.2 = true → Desc.wra x = true) →
        off < 0 ∨ (Desc.limit x : Int) < off + p.2.1 - 1 → traps p.1 4)
    (∀ p ∈ [(Instr.ldb n op, 1, true, false), (.ldbu n op, 1, true, false), (.ldh n op, 2, true, false), (.ldhu n op, 2, true, false),
        (.ldw n op, 4, true, false), (.stb n op, 1, false, true), (.sth n op, 2, false, true), (.stw n op, 4, false, true)], checks p) ∧
    (op.d % 2 = 0 → ∀ p ∈ [(Instr.ldd n op, 8, true, false), (.std n op, 8, false, true)], checks p) ∧
    (op.d ≤ 15 → ∀ p ∈ [(Instr.fldS n op, 4, true, false), (.fldD n op, 8, true, false), (.fstS n op, 4, false, true),
        (.fstD n op, 8, false, true)], checks p) ∧
    ((Desc.space x = spDRAM ∨ Desc.space x = spSCRATCH) → off % 4 = 0 → checks (.aadd n op, 4, true, true)) ∧
    (Desc.present x = true → Desc.space x ∈ [spPLANE, spDEVICE, spCODE] ∨ off % 4 ≠ 0 → traps (.aadd n op) 5)

/-- R189, R190 and R193: a load, store, AADD or string element whose access, to any space, is answered with a status other than OK completes: a
load writes all ones to its destination, AADD to Wd, a store and BMOVE's store leave memory as the target left it, which is as it was but where a
512-byte boundary splits the access (R354), BCOMP and BSEEK leave the flags, the offsets move on, and the access error is recorded.  An access whose
port has no free tag waits (R360).
That AADD at an address that is no multiple of 4 is REFUSED is log entry 14; how a split access ends, log entry 16. -/
def Obligations.AccessErrors : Prop :=
  ∀ (n : Dealer) (op : SOp) (s : State), s.Ready n op →
    (wordMem op →
      let x := s.rdSG n op.sg
      let off := s.memOffset n op
      let o := off.toNat
      let a := Desc.base x + o
      let fails (i : Instr) (st : Nat) (wr : Bool) (ws : List Nat) (u : State) (P : State → Prop) : Prop :=
        ∃ t, exec i s = .next t ∧ u.AccessFailed n op st a op.sg wr ws [] t ∧ (∀ d ∈ ws, d ≠ 0 → t.rdW n d = BitVec.allOnes 32) ∧ P t
      let same (t : State) : Prop := ∀ y, t.byte y = s.byte y
      let loads (p : Instr × Nat × List Nat) : Prop := Segment.Admits x off p.2.1 true false →
        (s.segWaits n x o p.2.1 = true → exec p.1 s = .next s) ∧
        (s.segWaits n x o p.2.1 = false → let r := s.segRead n x o p.2.1
          r.1 ≠ stOK → fails p.1 r.1 false p.2.2 r.2.2 same)
      let stores (p : Instr × Nat × Nat) : Prop := Segment.Admits x off p.2.1 false true → Desc.space x ≠ spCODE →
        (s.segWaits n x o p.2.1 = true → exec p.1 s = .next s) ∧
        (s.segWaits n x o p.2.1 = false → let r := s.segWrite n x o p.2.1 p.2.2
          r.1 ≠ stOK → fails p.1 r.1 true [] r.2 (fun t =>
            (regionOf a = .dram ∨ (∃ b, regionOf a = .store b) ∨ regionOf a = .plane) → a % 512 + p.2.1 ≤ 512 → same t))
      (∀ p ∈ [(Instr.ldb n op, 1, [op.d]), (.ldbu n op, 1, [op.d]), (.ldh n op, 2, [op.d]), (.ldhu n op, 2, [op.d]), (.ldw n op, 4, [op.d])], loads p) ∧
      (op.d % 2 = 0 → loads (.ldd n op, 8, [op.d, op.d + 1])) ∧
      (op.d ≤ 15 → ∀ p ∈ [(Instr.fldS n op, 4), (.fldD n op, 8)], Segment.Admits x off p.2 true false →
        (s.segWaits n x o p.2 = true → exec p.1 s = .next s) ∧
        (s.segWaits n x o p.2 = false → FillsThen p.1 n 0 s (fun u t => let r := u.segRead n x o p.2
          r.1 ≠ stOK → r.2.2.AccessFailed n op r.1 a op.sg false [] [op.d] t ∧ t.rdF n op.d = BitVec.allOnes 64 ∧ ∀ y, t.byte y = u.byte y))) ∧
      (∀ p ∈ [(Instr.stb n op, 1, (s.rdW n op.d).toNat), (.sth n op, 2, (s.rdW n op.d).toNat), (.stw n op, 4, (s.rdW n op.d).toNat)], stores p) ∧
      (op.d % 2 = 0 → stores (.std n op, 8, (s.rdW n op.d).toNat + 2 ^ 32 * (s.rdW n (op.d + 1)).toNat)) ∧
      (op.d ≤ 15 → stores (.fstS n op, 4, (s.rdF n op.d).toNat) ∧ stores (.fstD n op, 8, (s.rdF n op.d).toNat)) ∧
      (Segment.Admits x off 4 true true → (Desc.space x = spDRAM ∨ Desc.space x = spSCRATCH) → off % 4 = 0 →
        (a % 4 ≠ 0 → fails (.aadd n op) stREFUSED true [op.d] s same) ∧
        (a % 4 = 0 → s.segWaits n x o 4 = true → exec (.aadd n op) s = .next s) ∧
        (a % 4 = 0 → s.segWaits n x o 4 = false →
          let r := s.segRead n x o 4
          let w := r.2.2.segWrite n x o 4 (r.2.1 + (s.rdW n op.d).toNat)
          (r.1 ≠ stOK → fails (.aadd n op) r.1 true [op.d] r.2.2 same) ∧
          (r.1 = stOK → w.1 ≠ stOK → fails (.aadd n op) w.1 true [op.d] w.2 (fun _ => True))))) ∧
    (op.ext = none →
      let k := 2 ^ op.fld 21 2
      let ss := op.fld 14 3
      let sd := op.fld 11 3
      let src := s.rdSG n ss
      let dst := s.rdSG n sd
      let os := (s.rdW n 13).toNat
      let od := (s.rdW n 14).toNat
      let moved (x : Word) : Word := if op.fld 20 1 = 1 then x - BitVec.ofNat 32 k else x + BitVec.ofNat 32 k
      let data := ((s.rdW n (op.fld 17 3)).toNat + 2 ^ 32 * (s.rdW n (op.fld 17 3 + 1)).toNat) % 2 ^ (8 * k)
      let both (t : State) : Prop := t.rdW n 13 = moved (s.rdW n 13) ∧ t.rdW n 14 = moved (s.rdW n 14)
      let one (t : State) : Prop := t.rdW n 14 = moved (s.rdW n 14)
      let fails (i : Instr) (st a seg : Nat) (wr : Bool) (ws : List Nat) (u : State) (P : State → Prop) : Prop :=
        ∃ t, exec i s = .next t ∧ u.AccessFailed n op st a seg wr ws [] t ∧ P t
      (op.fld 17 3 = 0 → op.fld 0 11 = 0 → Segment.Admits src os k true false → Segment.Admits dst od k false true →
        s.segWaits n src os k = false → s.segWaits n dst od k = false →
        let r := s.segRead n src os k
        let w := r.2.2.segWrite n dst od k r.2.1
        (r.1 ≠ stOK → fails (.bmove n op) r.1 (Desc.base src + os) ss false [13, 14] r.2.2 (fun t => both t ∧ ∀ y, t.byte y = s.byte y)) ∧
        (r.1 = stOK → w.1 ≠ stOK → fails (.bmove n op) w.1 (Desc.base dst + od) sd true [13, 14] w.2 both)) ∧
      (op.fld 14 3 = 0 → op.fld 0 11 = 0 → (k = 8 → op.fld 17 3 % 2 = 0) → Segment.Admits dst od k false true → s.segWaits n dst od k = false →
        let w := s.segWrite n dst od k data
        w.1 ≠ stOK → fails (.bfill n op) w.1 (Desc.base dst + od) sd true [14] w.2 one) ∧
      (op.fld 17 3 = 0 → op.fld 0 9 = 0 → Segment.Admits src os k true false → Segment.Admits dst od k true false →
        s.segWaits n src os k = false → s.segWaits n dst od k = false →
        let r := s.segRead n src os k
        let q := r.2.2.segRead n dst od k
        (r.1 = stOK → q.1 ≠ stOK → fails (.bcomp n op) q.1 (Desc.base dst + od) sd false [13, 14] q.2.2 both) ∧
        (r.1 ≠ stOK → ∃ t, exec (.bcomp n op) s = .next t ∧ t.st n = s.st n ||| 0x10 ∧ both t ∧ t.pc n = s.pc n + 4 ∧ (∀ y, t.byte y = s.byte y) ∧
          (∀ d, d < 32 → d ≠ 13 → d ≠ 14 → t.rdW n d = s.rdW n d) ∧ ∀ m, m ≠ n → t.dl m = s.dl m)) ∧
      (op.fld 14 3 = 0 → op.fld 0 9 = 0 → (k = 8 → op.fld 17 3 % 2 = 0) → Segment.Admits dst od k true false → s.segWaits n dst od k = false →
        let q := s.segRead n dst od k
        q.1 ≠ stOK → fails (.bseek n op) q.1 (Desc.base dst + od) sd false [14] q.2.2 (fun t => one t ∧ ∀ y, t.byte y = s.byte y)))

/-- R191 and R192: B, CALL, JR and JALR transfer control to a word-aligned offset of the deal store, or trap SEG_LIMIT with the target; BCHK
goes on where its check holds; NOP only moves the PC.  CALL writes PC + 4 to W31, JALR to Wd. -/
def Obligations.Transfers : Prop :=
  ∀ (n : Dealer) (op : SOp) (s : State), s.executes n → op.ext = none →
    let b := s.bank n
    let st := s.st n
    let next := BitVec.ofNat 32 (s.pc n + 4)
    let lt := stN st != stV st
    let holds := [true, stZ st, !stZ st, stC st, !stC st, lt, !lt, stZ st || lt, !stZ st && !lt, stC st || stZ st, !stC st && !stZ st, stN st,
      !stN st, stV st, !stV st, stAE st].getD (op.fld 19 4) false
    let rel : Int := s.pc n + 4 * (BitVec.ofNat 19 (op.fld 0 19)).toInt
    let reg : Int := (s.rdW n op.a).toNat
    let inside (t : Int) : Prop := 0 ≤ t ∧ t ≤ 0x3FFFC ∧ t % 4 = 0
    let goes (i : Instr) (c : Bank) : Prop := ∃ t, exec i s = .next t ∧ s.OnlyBank n c t
    let out (i : Instr) (x : Int) : Prop := ¬inside x → ∃ t, exec i s = .next t ∧ TrapTaken n 4 (BitVec.ofInt 32 x) 0 false b.fpc s t
    let link (r : Nat) : Vector Word 32 := if r = 0 then b.w else b.w.set (Fin.ofNat 32 r) next
    (holds = true → (inside rel → goes (.b n op) { b with pc := BitVec.ofInt 32 rel }) ∧ out (.b n op) rel) ∧
    (holds = false → s.pc n + 4 ≤ 0x3FFFC → goes (.b n op) { b with pc := next }) ∧
    (op.fld 19 4 = 0 → (inside rel → goes (.call n op) { b with w := link 31, pc := BitVec.ofInt 32 rel }) ∧ out (.call n op) rel) ∧
    (op.d = 0 → op.sub = 0 → (inside reg → goes (.jr n op) { b with pc := s.rdW n op.a }) ∧ out (.jr n op) reg) ∧
    (op.sub = 0 → (inside reg → goes (.jalr n op) { b with w := link op.d, pc := s.rdW n op.a }) ∧ out (.jalr n op) reg) ∧
    (s.pc n + 4 ≤ 0x3FFFC →
      (op.bits = 0 → goes (.nop n op) { b with pc := next }) ∧
      (op.a = 0 → op.sub < 32 → Desc.present (s.rdSG n (op.sub % 8)) = true →
        (s.rdW n op.d).toNat + 2 ^ (op.sub / 8) - 1 ≤ Desc.limit (s.rdSG n (op.sub % 8)) → goes (.bchkSegment n op) { b with pc := next }) ∧
      (op.fld 0 8 = 0 → (s.rdW n op.a).toInt ≤ (s.rdW n op.d).toInt → (s.rdW n op.d).toInt ≤ (s.rdW n op.b).toInt →
        goes (.bchkRange n op) { b with pc := next }))

/-- R125, R179, R181, R183, R191, R192, R198, R201, R206, R222, R223, R243 and R244: the other traps of scalar instructions.  A word with a reserved
field, EXT where its format has none, a register or selector out of range, or an odd pair traps ILL_RESERVED with the word in XINFO; a word without a
next word in the deal store traps SEG_LIMIT unless it transfers control; a privileged instruction at another level traps PRIV, and so does WGET or
WPUT with WIN.LVL above the current level; a divisor of 0 traps DIV_ZERO with the dividend; BCHK traps BOUNDS with the value it checks; an opcode
without a meaning traps ILL_OPCODE.
XINFO of a word without a next word is log entry 13; SG in LEA, log entry 12; where SEG_LIMIT of the last word stands, log entry 172. -/
def Obligations.ScalarTraps : Prop :=
  ∀ (n : Dealer) (op : SOp) (s : State), s.executes n →
    let traps (i : Instr) (code : Nat) (info : Word) (sg : Nat) : Prop :=
      ∃ t, exec i s = .next t ∧ TrapTaken n code info sg op.ext.isSome (s.bank n).fpc s t
    let ill (cls : Nat) (good : Prop) (ps : List (Instr × Nat)) : Prop := ¬good → ∀ p ∈ ps, traps p.1 2 (op.word cls p.2) 0
    let last (good : Prop) (ps : List (Instr × Nat)) : Prop :=
      good → 0x3FFFC < s.nextPc n op → ∀ p ∈ ps, traps p.1 4 (BitVec.ofNat 32 (s.nextPc n op)) 0
    let word (cls : Nat) (good : Prop) (ps : List (Instr × Nat)) : Prop := ill cls good ps ∧ last good ps
    let priv (good : Prop) (ps : List (Instr × Nat × Nat)) : Prop := good → s.priv n = false → ∀ p ∈ ps, traps p.1 11 (op.word p.2.1 p.2.2) 0
    let plain := op.ext = none ∧ op.fld 0 1 = 0
    let float := plain ∧ op.fmt ≤ 1
    let lone := op.ext = none ∧ op.fld 0 13 = 0
    let k := 2 ^ op.fld 21 2
    let pair := k = 8 → op.fld 17 3 % 2 = 0
    let x := s.rdSG n op.sg
    let off := s.memOffset n op
    let above := s.lvl n < Fin.ofNat 8 ((s.dl n).win.extractLsb' 8 3).toNat
    let idx := ((s.dl n).win.extractLsb' 0 8).toNat
    -- REG: integers
    word 0 (wordReg op) [(.add n op, 0), (.addc n op, 1), (.sub n op, 2), (.subb n op, 3), (.and n op, 4), (.or n op, 5), (.xor n op, 6),
      (.andn n op, 7), (.shl n op, 8), (.shru n op, 9), (.shrs n op, 10), (.mul n op, 11), (.divu n op, 14), (.divs n op, 15), (.remu n op, 16),
      (.rems n op, 17), (.sltu n op, 19), (.slts n op, 20)] ∧
    word 0 (wordReg op ∧ op.d % 2 = 0) [(.mulwu n op, 12), (.mulws n op, 13)] ∧
    -- REG: floating point
    word 0 (float ∧ op.c = 0 ∧ op.d ≤ 15 ∧ op.a ≤ 15 ∧ op.b ≤ 15) [(.fadd n op, 0x20), (.fsub n op, 0x21), (.fmul n op, 0x22), (.fdiv n op, 0x24),
      (.fmin n op, 0x26), (.fmax n op, 0x27)] ∧
    word 0 (float ∧ op.c ≤ 15 ∧ op.d ≤ 15 ∧ op.a ≤ 15 ∧ op.b ≤ 15) [(.fma n op, 0x23)] ∧
    word 0 (float ∧ op.c = 0 ∧ op.b = 0 ∧ op.d ≤ 15 ∧ op.a ≤ 15) [(.fsqrt n op, 0x25), (.fneg n op, 0x2B), (.fabs n op, 0x2C), (.fcvtX n op, 0x31)] ∧
    word 0 (float ∧ op.c = 0 ∧ op.a ≤ 15 ∧ op.b ≤ 15) [(.fcmpeq n op, 0x28), (.fcmplt n op, 0x29), (.fcmple n op, 0x2A)] ∧
    word 0 (float ∧ op.c = 0 ∧ op.b = 0 ∧ op.a ≤ 15) [(.fcvtI n op, 0x2D), (.fcvtIu n op, 0x2E)] ∧
    word 0 (float ∧ op.c = 0 ∧ op.b = 0 ∧ op.d ≤ 15) [(.fcvtF n op, 0x2F), (.fcvtFu n op, 0x30)] ∧
    -- REG: moves
    word 0 (float ∧ op.c = 0 ∧ op.b = 0 ∧ op.a ≤ 15 ∧ (op.fmt = 1 → op.d % 2 = 0)) [(.fmfw n op, 0x38)] ∧
    word 0 (float ∧ op.c = 0 ∧ op.b = 0 ∧ op.d ≤ 15 ∧ (op.fmt = 1 → op.a % 2 = 0)) [(.fmtw n op, 0x39)] ∧
    word 0 (lone ∧ op.d ≤ 15) [(.mtpd n op, 0x3A)] ∧ word 0 (lone ∧ op.a ≤ 15) [(.mfpd n op, 0x3B)] ∧
    word 0 (wordReg op ∧ op.a = 0 ∧ op.b ≤ 7) [(.mfs n op, 0x3C)] ∧ word 0 (wordReg op ∧ op.a ≤ 7 ∧ op.b ≤ 3) [(.sgrd n op, 0x3F)] ∧
    ill 0 (lone ∧ op.d ∈ [0, 1, 3, 4, 5, 6]) [(.mts n op, 0x3D)] ∧
    last (lone ∧ op.d ∈ [0, 1, 3, 4, 5, 6] ∧ (op.d = 6 → s.priv n = true)) [(.mts n op, 0x3D)] ∧ priv (lone ∧ op.d = 6) [(.mts n op, 0, 0x3D)] ∧
    ill 0 (lone ∧ op.d ≤ 7 ∧ op.a % 4 = 0 ∧ Desc.reserved (s.descOfW n op.a) = false) [(.sgld n op, 0x3E)] ∧
    priv (lone ∧ op.d ≤ 7 ∧ op.a % 4 = 0 ∧ Desc.reserved (s.descOfW n op.a) = false) [(.sgld n op, 0, 0x3E)] ∧
    -- IMM
    word 1 (wordImm op) [(.addi n op, 0), (.andi n op, 4), (.ori n op, 5), (.xori n op, 6), (.sltui n op, 0x13), (.sltsi n op, 0x14)] ∧
    word 1 (wordImm op ∧ op.imm false ≤ 63) [(.shli n op, 8), (.shrui n op, 9), (.shrsi n op, 10)] ∧
    word 1 (wordImm op ∧ op.d = 0) [(.cmpi n op, 0x12)] ∧ word 1 (wordImm op ∧ op.a = 0) [(.movi n op, 0x18)] ∧
    -- MEM
    ill 1 (wordMem op) [(.ldb n op, 0x20), (.ldbu n op, 0x21), (.ldh n op, 0x22), (.ldhu n op, 0x23), (.ldw n op, 0x24), (.stb n op, 0x28),
      (.sth n op, 0x29), (.stw n op, 0x2A), (.aadd n op, 0x30)] ∧
    ill 1 (wordMem op ∧ op.d % 2 = 0) [(.ldd n op, 0x25), (.std n op, 0x2B)] ∧
    ill 1 (wordMem op ∧ op.d ≤ 15) [(.fldS n op, 0x2C), (.fldD n op, 0x2D), (.fstS n op, 0x2E), (.fstD n op, 0x2F)] ∧
    word 1 (wordMem op ∧ op.sg = 0) [(.lea n op, 0x31)] ∧
    last (wordMem op ∧ Segment.Admits x off 1 true false) [(.ldb n op, 0x20), (.ldbu n op, 0x21)] ∧
    last (wordMem op ∧ Segment.Admits x off 2 true false) [(.ldh n op, 0x22), (.ldhu n op, 0x23)] ∧
    last (wordMem op ∧ Segment.Admits x off 4 true false) [(.ldw n op, 0x24)] ∧
    last (wordMem op ∧ op.d % 2 = 0 ∧ Segment.Admits x off 8 true false) [(.ldd n op, 0x25)] ∧
    last (wordMem op ∧ op.d ≤ 15 ∧ Segment.Admits x off 4 true false) [(.fldS n op, 0x2C)] ∧
    last (wordMem op ∧ op.d ≤ 15 ∧ Segment.Admits x off 8 true false) [(.fldD n op, 0x2D)] ∧
    last (wordMem op ∧ Segment.Admits x off 1 false true) [(.stb n op, 0x28)] ∧ last (wordMem op ∧ Segment.Admits x off 2 false true) [(.sth n op, 0x29)] ∧
    last (wordMem op ∧ Segment.Admits x off 4 false true) [(.stw n op, 0x2A)] ∧
    last (wordMem op ∧ op.d % 2 = 0 ∧ Segment.Admits x off 8 false true) [(.std n op, 0x2B)] ∧
    last (wordMem op ∧ op.d ≤ 15 ∧ Segment.Admits x off 4 false true) [(.fstS n op, 0x2E)] ∧
    last (wordMem op ∧ op.d ≤ 15 ∧ Segment.Admits x off 8 false true) [(.fstD n op, 0x2F)] ∧
    last (wordMem op ∧ Segment.Admits x off 4 true true ∧ (Desc.space x = spDRAM ∨ Desc.space x = spSCRATCH) ∧ off % 4 = 0) [(.aadd n op, 0x30)] ∧
    -- BR and SYS
    ill 2 (op.ext = none) [(.b n op, 0)] ∧ ill 2 (op.ext = none ∧ op.fld 19 4 = 0) [(.call n op, 1)] ∧
    last (op.ext = none ∧ condHolds (s.st n) (op.fld 19 4) = false) [(.b n op, 0)] ∧
    ill 2 (op.ext = none ∧ op.d = 0 ∧ op.sub = 0) [(.jr n op, 8)] ∧ ill 2 (op.ext = none ∧ op.sub = 0) [(.jalr n op, 9)] ∧
    word 2 (op.ext = none ∧ op.a = 0 ∧ op.sub < 32) [(.bchkSegment n op, 0x0A)] ∧ word 2 (wordReg op) [(.bchkRange n op, 0x0B)] ∧
    word 2 (wordPlain op) [(.nop n op, 0x22)] ∧ ill 2 (wordPlain op) [(.xret n op, 0x20)] ∧
    ill 2 (op.ext = none ∧ op.a = 0 ∧ op.sub ≤ 2 ∧ (op.sub < 2 → idx ≤ 0x77)) [(.wget n op, 0x28)] ∧
    ill 2 (op.ext = none ∧ op.d = 0 ∧ op.sub ≤ 2 ∧ (op.sub < 2 → idx ≤ 0x76 ∧ (idx = 0x72 → Fin.ofNat 8 ((s.dl n).win.extractLsb' 8 3).toNat ≠ s.lvl n) ∧
      (0x50 ≤ idx → idx < 0x70 → idx % 4 = 3 → Desc.reserved (s.stagedDesc n (s.rdW n op.a)) = false))) [(.wput n op, 0x29)] ∧
    priv (op.ext = none ∧ op.a = 0 ∧ op.sub ≤ 2 ∧ (op.sub < 2 → idx ≤ 0x77)) [(.wget n op, 2, 0x28)] ∧
    priv (op.ext = none ∧ op.d = 0 ∧ op.sub ≤ 2 ∧ (op.sub < 2 → idx < 0x50)) [(.wput n op, 2, 0x29)] ∧
    (op.ext = none → op.sub < 2 → above →
      (op.a = 0 → idx ≤ 0x77 → traps (.wget n op) 11 (op.word 2 0x28) 0) ∧ (op.d = 0 → idx < 0x50 → traps (.wput n op) 11 (op.word 2 0x29) 0)) ∧
    ill 2 (wordPlain op) [(.savel n op, 0x2A), (.saveu n op, 0x2B), (.restl n op, 0x2C), (.restu n op, 0x2D), (.swto n op, 0x2E)] ∧
    priv (wordPlain op) [(.savel n op, 2, 0x2A), (.saveu n op, 2, 0x2B), (.restl n op, 2, 0x2C), (.restu n op, 2, 0x2D)] ∧
    ill 2 (wordPlain op ∧ (s.lvl n).val ≠ 0) [(.lret n op, 0x2F)] ∧ ill 2 (wordPlain op ∧ (s.lvl n).val = 0) [(.dend n op, 0x31)] ∧
    word 2 (op.ext = none ∧ op.fld 3 20 = 0 ∧ (s.lvl n).val = 0 ∧ 1 ≤ op.fld 0 3 ∧ op.fld 0 3 ≤ 3 ∧ s.fget (DEAL_STAT.PHASE n) < op.fld 0 3)
      [(.phase n op, 0x30)] ∧
    -- STR
    word 2 (op.ext = none ∧ op.fld 17 3 = 0 ∧ op.fld 0 11 = 0) [(.bmove n op, 0x11)] ∧
    word 2 (op.ext = none ∧ op.fld 14 3 = 0 ∧ op.fld 0 11 = 0 ∧ pair) [(.bfill n op, 0x12)] ∧
    word 2 (op.ext = none ∧ op.fld 17 3 = 0 ∧ op.fld 0 9 = 0) [(.bcomp n op, 0x13)] ∧
    word 2 (op.ext = none ∧ op.fld 14 3 = 0 ∧ op.fld 0 9 = 0 ∧ pair) [(.bseek n op, 0x14)] ∧
    word 2 (op.ext = none ∧ op.fld 21 2 = 0 ∧ op.fld 0 16 = 0) [(.plmov n op, 0x15)] ∧
    -- values
    (wordReg op → s.nextPc n op ≤ 0x3FFFC → s.rdW n op.b = 0 →
      ∀ i ∈ [Instr.divu n op, .divs n op, .remu n op, .rems n op], traps i 12 (s.rdW n op.a) 0) ∧
    (op.ext = none → s.pc n + 4 ≤ 0x3FFFC →
      (op.a = 0 → op.sub < 32 →
        Desc.present (s.rdSG n (op.sub % 8)) = false ∨ Desc.limit (s.rdSG n (op.sub % 8)) < (s.rdW n op.d).toNat + 2 ^ (op.sub / 8) - 1 →
        traps (.bchkSegment n op) 7 (s.rdW n op.d) (op.sub % 8)) ∧
      (op.fld 0 8 = 0 → ¬((s.rdW n op.a).toInt ≤ (s.rdW n op.d).toInt ∧ (s.rdW n op.d).toInt ≤ (s.rdW n op.b).toInt) →
        traps (.bchkRange n op) 7 (s.rdW n op.d) 0)) ∧
    (∀ w : Word, opcodeDefined w = false → w.extractLsb' 30 2 ≠ 3 →
      ∃ t, exec (.illOpcode n w) s = .next t ∧ TrapTaken n 1 w 0 (w.getLsbD 29) (s.bank n).fpc s t)

/- Strings. -/

/-- R193 and R194: without REP, BMOVE, BFILL, BCOMP and BSEEK make one iteration on elements of 1, 2, 4 or 8 bytes at OS and OD, move the
offsets used one element up or down, and leave CT.  BCOMP and BSEEK set the flags of a subtraction at the element's width. -/
def Obligations.StringElements : Prop :=
  ∀ (n : Dealer) (op : SOp) (s : State), s.Ready n op → op.ext = none →
    let k := 2 ^ op.fld 21 2
    let b := s.bank n
    let src := s.rdSG n (op.fld 14 3)
    let dst := s.rdSG n (op.fld 11 3)
    let r := op.fld 17 3
    let os := s.rdW n 13
    let od := s.rdW n 14
    let moved (x : Word) : Word := if op.fld 20 1 = 1 then x - BitVec.ofNat 32 k else x + BitVec.ofNat 32 k
    let reads (x : Desc) (o : Word) : Prop := Segment.Admits x o.toNat k true false ∧ s.Loads n x o.toNat k
    let writes : Prop := Segment.Admits dst od.toNat k false true ∧ (Desc.space dst = spDRAM ∨ Desc.space dst = spSCRATCH) ∧
      s.Sound n (descAddr n dst od.toNat) k
    let elem (x : Desc) (o : Word) : BitVec (8 * k) := BitVec.ofNat (8 * k) (natOfBytes (s.bytes (descAddr n x o.toNat) k))
    let data : BitVec (8 * k) := BitVec.ofNat (8 * k) ((s.rdW n r).toNat + 2 ^ 32 * (s.rdW n (r + 1)).toNat)
    let next := BitVec.ofNat 32 (s.pc n + 4)
    let one := b.w.set 14 (moved od)
    let both := (b.w.set 13 (moved os)).set 14 (moved od)
    let compares (i : Instr) (x y : BitVec (8 * k)) (w : Vector Word 32) : Prop := ∃ t st, exec i s = .next t ∧
      FlagsAre (decide (x.toNat < y.toNat)) (x == y) (x - y).msb (decide (x.toInt - y.toInt ≠ (x - y).toInt)) (s.st n) st ∧
      s.OnlyBank n { b with w := w, st := st, pc := next } t
    (op.fld 17 3 = 0 → op.fld 0 11 = 0 → reads src os → writes →
      ∃ t, exec (.bmove n op) s = .next t ∧ s.Stored n (descAddr n dst od.toNat) k (elem src os).toNat { b with w := both, pc := next } t) ∧
    (op.fld 14 3 = 0 → op.fld 0 11 = 0 → (k = 8 → r % 2 = 0) → writes →
      ∃ t, exec (.bfill n op) s = .next t ∧ s.Stored n (descAddr n dst od.toNat) k data.toNat { b with w := one, pc := next } t) ∧
    (op.fld 17 3 = 0 → op.fld 0 9 = 0 → reads src os → reads dst od → compares (.bcomp n op) (elem src os) (elem dst od) both) ∧
    (op.fld 14 3 = 0 → op.fld 0 9 = 0 → (k = 8 → r % 2 = 0) → reads dst od → compares (.bseek n op) data (elem dst od) one)

/-- R194 to R196: under REP with CT = 0 no iteration is made.  With CT above 0 the string word is iterated, up or down, CT counting down after each
iteration, until CT is 0, an iteration ends in an access error, or a STOP condition of BCOMP or BSEEK holds after one, and the PC moves past the string
word; an iteration that traps leaves what the iterations before it did, and the trap is precise at the REP word, with REPT; a machine check cuts an
iteration and the PC stays at the REP word; an event to be entered, or a task that outranks the running one, is met after an iteration with the PC at
the REP word (R207); PLMOV with an empty quadrant set makes no iteration (R197).  So BFILL towards higher offsets fills CT elements.  A word after REP
outside the class traps ILL_PREFIX, REPT set, with that word.
XINFO of a reserved field under REP is log entry 18; a PLMOV with an empty quadrant set, log entry 174. -/
def Obligations.Repeats : Prop :=
  ∀ (n : Dealer) (op : SOp) (w : Word) (s : State), s.executes n → s.pc n + 8 ≤ 0x3FFFC →
    let b := s.bank n
    let rep := Instr.rep n op w
    let str := SOp.ofWord w
    let next := BitVec.ofNat 32 (s.pc n + 8)
    let past (u : State) : State := u.setPc n (u.pc n + 8)
    let k := 2 ^ str.fld 21 2
    let c := (s.rdW n 12).toNat
    let od := (s.rdW n 14).toNat
    let x := s.rdSG n (str.fld 11 3)
    let data (i : Nat) : Nat := ((s.rdW n (str.fld 17 3)).toNat + 2 ^ 32 * (s.rdW n (str.fld 17 3 + 1)).toNat) / 256 ^ (i % k)
    let fill : Prop := w.extractLsb' 23 9 = 0x112 ∧ str.fld 20 1 = 0 ∧ str.fld 14 3 = 0 ∧ str.fld 0 11 = 0 ∧ (k = 8 → str.fld 17 3 % 2 = 0)
    (op.ext = none → op.bits = 0 →
      (∀ y : StrOp, strOf w = some y → y.reserved str = false → (y.stops = true → str.fld 9 2 ≠ 3) →
        (c = 0 → ∃ t, exec rep s = .next t ∧ s.OnlyBank n { b with pc := next } t) ∧
        (0 < c → ∀ (i : Nat) (v : State), i ≤ c → Iterated y n str i (s.charge n 1) v →
          (v.rdW n 12 = 0 → exec rep s = .next (past v)) ∧
          (v.rdW n 12 ≠ 0 →
            (∀ e, y.iter n str v = .trap e → exec rep s = .next (v.trap n e false true)) ∧
            (∀ u, y.iter n str v = .cut u → exec rep s = .next u) ∧
            (y.iter n str v = .empty → exec rep s = .next (past v)) ∧
            (∀ u, y.iter n str v = .done u true → exec rep s = .next (past (u.counted n))) ∧
            (∀ u, y.iter n str v = .done u false →
              (StopsAt y n str (u.counted n) → exec rep s = .next (past (u.counted n))) ∧
              (¬StopsAt y n str (u.counted n) → (u.counted n).interrupts n = true → exec rep s = .next (u.counted n)) ∧
              (¬StopsAt y n str (u.counted n) → (u.counted n).interrupts n = false → (((u.counted n).taskAccept n).outranks n).isSome = true →
                exec rep s = .next ((u.counted n).taskAccept n)))))) ∧
      (fill → 0 < c → Segment.Admits x od (k * c) false true → (Desc.space x = spDRAM ∨ Desc.space x = spSCRATCH) →
        (∀ i, i < c → s.Sound n (descAddr n x od + k * i) k) → s.Undisturbed n →
        ∃ t, exec rep s = .next t ∧ (∀ i, i < k * c → t.byte (descAddr n x od + i) = BitVec.ofNat 8 (data i)) ∧
          (∀ y, (y < descAddr n x od ∨ descAddr n x od + k * c ≤ y) → t.byte y = s.byte y) ∧ (∀ y, t.wordSyn y = s.wordSyn y) ∧
          (∀ o, t.reg o = s.reg o) ∧ t.bank n = { b with w := (b.w.set 12 0).set 14 (BitVec.ofNat 32 (od + k * c)), pc := next } ∧
          (∀ j, j ≠ s.lvl n → t.bankAt n j = s.bankAt n j) ∧ (∀ m, m ≠ n → t.dl m = s.dl m))) ∧
    (w.extractLsb' 29 3 ≠ 4 ∨ (w.extractLsb' 23 6).toNat < 0x11 ∨ 0x15 < (w.extractLsb' 23 6).toNat →
      ∃ t, exec rep s = .next t ∧ TrapTaken n (3 + 2 ^ 11) w 0 op.ext.isSome b.fpc s t)

/- Levels and tasks. -/

/-- R223, R224 and the table of the window: WGET reads the register of level WIN.LVL that WIN.IDX names, WPUT writes it; SUB [0] = 1 moves IDX
on; SUB [1] = 1 reads or writes WIN itself.  WPUT stages words 0 to 2 of a segment register and commits it with word 3; a special register
takes what MTS would write.
The staging words and the refusal of a reserved WIN are log entries 15 and 21. -/
def Obligations.Window : Prop :=
  ∀ (n : Dealer) (op : SOp) (s : State), s.Ready n op → op.ext = none → s.priv n = true →
    let win := (s.dl n).win
    let i := (win.extractLsb' 0 8).toNat
    let k : Fin 8 := Fin.ofNat 8 (win.extractLsb' 8 3).toNat
    let b := s.bankAt n k
    let f := b.f.get (Fin.ofNat 16 ((i - 0x20) / 2))
    let sg := b.sg.get (Fin.ofNat 8 ((i - 0x50) / 4))
    let read : Word :=
      if i = 0 then 0 else if i < 0x20 then b.w.get (Fin.ofNat 32 i) else if i < 0x40 then f.extractLsb' (32 * (i % 2)) 32
      else if i < 0x50 then b.pd.get (Fin.ofNat 16 (i - 0x40)) else if i < 0x70 then sg.extractLsb' (32 * (i % 4)) 32
      else [b.st, b.fpc, b.pc, b.xpc, b.xcause, b.xinfo, b.xvec].getD (i - 0x70)
        (BitVec.ofNat 32 ((s.dl n).dirty.get k % 16 + 16 * ((s.dl n).filled.get k % 4)))
    let inc : Word := if op.sub % 2 = 0 then win else win &&& 0xFFFFFF00 ||| (if i = 0x77 then 0 else BitVec.ofNat 32 (i + 1))
    let next := BitVec.ofNat 32 (s.pc n + 4)
    let v := s.rdW n op.a
    let put (b : Bank) : Bank :=
      if i = 0 then b else if i < 0x20 then { b with w := b.w.set (Fin.ofNat 32 i) v }
      else if i < 0x40 then { b with f := b.f.set (Fin.ofNat 16 ((i - 0x20) / 2)) (if i % 2 = 0 then f.extractLsb' 32 32 ++ v else v ++ f.extractLsb' 0 32) }
      else if i < 0x50 then { b with pd := b.pd.set (Fin.ofNat 16 (i - 0x40)) v } else { b with pc := v }
    let rest (u t : State) : Prop := (t.dl n).win = inc ∧ (∀ j, j ≠ k → j ≠ s.lvl n → t.bankAt n j = u.bankAt n j) ∧
      (∀ a, t.byte a = u.byte a) ∧ (∀ o, t.reg o = u.reg o) ∧ (∀ m, m ≠ n → t.dl m = u.dl m)
    let became (u : State) (c : Bank) (t : State) : Prop := t.bankAt n k = (if k = s.lvl n then { c with pc := next } else c) ∧
      (k ≠ s.lvl n → t.bank n = { s.bank n with pc := next }) ∧ rest u t
    let staged : Desc := v ++ (s.dl n).stage.get 2 ++ (s.dl n).stage.get 1 ++ (s.dl n).stage.get 0
    let low (x : Nat) (old : Word) : Word := BitVec.ofNat 32 (v.toNat % 2 ^ x + old.toNat / 2 ^ x * 2 ^ x)
    let fits : Prop :=
      (i = 0x70 → v.extractLsb' 16 16 = 0 ∧ v.extractLsb' 5 6 = 0) ∧ (i = 0x71 → v.extractLsb' 24 8 = 0) ∧
      (i = 0x73 ∨ i = 0x76 → v.extractLsb' 18 14 = 0 ∧ v.extractLsb' 0 2 = 0) ∧
      (i = 0x74 → v.extractLsb' 13 19 = 0 ∧ v.extractLsb' 0 8 ≤ 0x0C)
    let special : Bank := { b with
      st := if i = 0x70 then low 5 b.st else b.st, fpc := if i = 0x71 then low 18 b.fpc else b.fpc, xpc := if i = 0x73 then v else b.xpc,
      xcause := if i = 0x74 then v else b.xcause, xinfo := if i = 0x75 then v else b.xinfo, xvec := if i = 0x76 then v else b.xvec }
    (op.a = 0 → op.sub = 2 → ∃ t, exec (.wget n op) s = .next t ∧ t.rdW n op.d = (if op.d = 0 then 0 else win) ∧ s.Ends n op [op.d] [] [] [] t) ∧
    (op.d = 0 → op.sub = 2 → v.extractLsb' 11 21 = 0 → (v.extractLsb' 0 8).toNat ≤ 0x77 →
      ∃ t, exec (.wput n op) s = .next t ∧ (t.dl n).win = v ∧ s.Ends n op [] [] [] [] t) ∧
    (op.sub < 2 → i ≤ 0x77 → k ≤ s.lvl n →
      (op.a = 0 → ∃ t, exec (.wget n op) s = .next t ∧ t.rdW n op.d = (if op.d = 0 then 0 else read) ∧ (t.dl n).win = inc ∧
        s.Ends n op [op.d] [] [] [] t) ∧
      (op.d = 0 → (i < 0x20 ∨ (k ≠ s.lvl n ∧ (i < 0x50 ∨ (i = 0x72 ∧ v ≤ 0x3FFFC ∧ v.toNat % 4 = 0)))) →
        ∃ t, exec (.wput n op) s = .next t ∧ became s (put b) t) ∧
      (op.d = 0 → k = s.lvl n → 0x20 ≤ i → i < 0x40 → FillsThen (.wput n op) n 0 s (fun u => became u (put b))) ∧
      (op.d = 0 → k = s.lvl n → 0x40 ≤ i → i < 0x50 → FillsThen (.wput n op) n 1 s (fun u => became u (put b))) ∧
      (op.d = 0 → 0x50 ≤ i → i < 0x70 → i % 4 ≠ 3 → ∃ t, exec (.wput n op) s = .next t ∧
        (t.dl n).stage = (s.dl n).stage.set (Fin.ofNat 3 (i % 4)) v ∧ t.bank n = { s.bank n with pc := next } ∧
        (k ≠ s.lvl n → t.bankAt n k = b) ∧ rest s t) ∧
      (op.d = 0 → 0x50 ≤ i → i < 0x70 → i % 4 = 3 → Desc.reserved staged = false → (Desc.present staged && Desc.wra staged && Desc.space staged == spCODE) = false →
        Desc.beyond staged = false → ∃ t, exec (.wput n op) s = .next t ∧ became s { b with sg := b.sg.set (Fin.ofNat 8 ((i - 0x50) / 4)) staged } t) ∧
      (op.d = 0 → i ∈ [0x70, 0x71, 0x73, 0x74, 0x75, 0x76] → fits → ∃ t, exec (.wput n op) s = .next t ∧ became s special t))

/-- R228 and R229: SAVE_EXHAUSTED with EMBUSY clear stores the lower registers and the trap state in the emergency area, sets EMBUSY and takes
the trap.  XRET continues at XPC with TRP 0; with EMBUSY set it reloads the registers of the emergency area and clears EMBUSY. -/
def Obligations.EmergencyArea : Prop :=
  ∀ (n : Dealer) (op : SOp) (s : State), s.executes n → wordPlain op →
    let k := s.lvl n
    let b := s.bank n
    let a := s.areaAddr n (0x200 * k.val)
    let busy := bitFld (LVLSTAT.EMBUSY n).off ((LVLSTAT.EMBUSY n).lo + k.val)
    let wordOf (i : Nat) : Word := if i = 0 then 0 else b.w.get (Fin.ofNat 32 i)
    let back : Bank := { b with pc := b.xpc, st := b.st &&& 0xFFFF7FFF }
    (b.xpc.toNat ≤ 0x3FFFC → b.xpc.toNat % 4 = 0 → s.fget busy = 0 → ∃ t, exec (.xret n op) s = .next t ∧ s.OnlyBank n back t) ∧
    (b.xpc.toNat ≤ 0x3FFFC → b.xpc.toNat % 4 = 0 → s.fget busy = 1 → s.SoundSpan n a 0x54 →
      ∃ t, exec (.xret n op) s = .next t ∧ (∀ i, i < 32 → t.rdW n i = if 0 < i ∧ i < 16 then s.wordAt (a + 4 * i) else s.rdW n i) ∧
        (∀ i, i < 32 → (i < 11 ∨ 14 < i) → (t.st n).getLsbD i = (s.wordAt (a + 0x40)).getLsbD i) ∧ (t.bank n).pc = b.xpc ∧
        (t.bank n).xpc = s.wordAt (a + 0x48) ∧ (t.bank n).xcause = s.wordAt (a + 0x4C) ∧ (t.bank n).xinfo = s.wordAt (a + 0x50) ∧
        t.fget busy = 0 ∧ (∀ x, t.byte x = s.byte x) ∧ (∀ j, j ≠ k → t.bankAt n j = s.bankAt n j) ∧ ∀ m, m ≠ n → t.dl m = s.dl m) ∧
    (s.nextPc n op ≤ 0x3FFFC → s.priv n = true → s.fget (SFL.VALID n) = 0 → s.fget busy = 0 → s.SoundSpan n a 0x54 → ∀ p ∈ [(Instr.savel n op, 0x2A), (.saveu n op, 0x2B)],
      ∃ t, exec p.1 s = .next t ∧ (∀ i, i < 16 → t.wordAt (a + 4 * i) = wordOf i) ∧ t.wordAt (a + 0x40) = b.st ∧ t.wordAt (a + 0x44) = b.pc ∧
        t.wordAt (a + 0x48) = b.xpc ∧ t.wordAt (a + 0x4C) = b.xcause ∧ t.wordAt (a + 0x50) = b.xinfo ∧
        (∀ x, (x < a ∨ a + 0x54 ≤ x) → t.byte x = s.byte x) ∧ t.fget busy = 1 ∧
        t.bank n = { b with xpc := b.pc, xcause := 0x0A, xinfo := op.word 2 p.2, st := b.st ||| 0x8000, pc := b.xvec } ∧
        (∀ j, j ≠ k → t.bankAt n j = s.bankAt n j) ∧ ∀ m, m ≠ n → t.dl m = s.dl m)

/-- R225 to R227: SAVEL and SAVEU move the lower or upper half of the bank of level WIN.LVL to the area at the head of SFL, and link it at the
head of that level's chain; RESTL and RESTU load it from the head of the chain and return the area to SFL.  RESTL changes of ST only C, Z, N, V
and AE, and into the current level transfers control to the PC saved.  An empty chain traps BOUNDS.
What RESTL restores of ST is log entry 126, and a load that fails as a whole log entry 23. -/
def Obligations.SaveAreas : Prop :=
  ∀ (n : Dealer) (op : SOp) (s : State), s.executes n → wordPlain op → s.priv n = true →
    let k : Fin 8 := Fin.ofNat 8 ((s.dl n).win.extractLsb' 8 3).toNat
    let b := s.bankAt n k
    let cur := s.lvl n
    let next := BitVec.ofNat 32 (s.pc n + 4)
    let link (valid area : Nat) : Word := BitVec.ofNat 32 (2 ^ 15 * valid + area)
    let ws (lo : Nat) : List Word := (List.range 16).map (fun i => if lo + i = 0 then 0 else b.w.get (Fin.ofNat 32 (lo + i)))
    let sfl := s.fget (SFL.AREA n)
    let sah := s.fget (SAH.AREA n k.val)
    let a := s.saveArea n sfl
    let c := s.saveArea n sah
    let heads (t : State) (f h : Word) : Prop :=
      t.fget (SFL.VALID n) = (f.extractLsb' 15 1).toNat ∧ t.fget (SFL.AREA n) = (f.extractLsb' 0 10).toNat ∧
      t.fget (SAH.VALID n k.val) = (h.extractLsb' 15 1).toNat ∧ t.fget (SAH.AREA n k.val) = (h.extractLsb' 0 10).toNat
    let others (t : State) : Prop := (∀ j, j ≠ k → j ≠ cur → t.bankAt n j = s.bankAt n j) ∧ ∀ m, m ≠ n → t.dl m = s.dl m
    let returned (t : State) : Prop := heads t (link 1 sah) (s.wordAt c) ∧ t.wordAt c = link (s.fget (SFL.VALID n)) sfl ∧ others t ∧
      ∀ x, (x < c ∨ c + 4 ≤ x) → t.byte x = s.byte x
    (s.nextPc n op ≤ 0x3FFFC → s.fget (SFL.VALID n) = 1 → sfl ≤ s.fget (SPOOL.COUNT n) → s.SoundSpan n a 256 →
      ∀ p ∈ [(Instr.savel n op, 1, ws 0 ++ [b.st, b.pc]), (.saveu n op, 2, ws 16 ++ b.pd.toList)],
        ∃ t, exec p.1 s = .next t ∧ heads t (s.wordAt a) (link 1 sfl) ∧ t.wordAt a = link (s.fget (SAH.VALID n k.val)) sah ∧
          t.wordAt (a + 4) = BitVec.ofNat 32 (p.2.1 + 256 * k.val) ∧ (∀ i, i < 62 → t.wordAt (a + 8 + 4 * i) = p.2.2.getD i 0) ∧
          (∀ x, (x < a ∨ a + 256 ≤ x) → t.byte x = s.byte x) ∧ t.bank n = { s.bank n with pc := next } ∧ (k ≠ cur → t.bankAt n k = b) ∧ others t) ∧
    (s.fget (SAH.VALID n k.val) = 0 → ∀ p ∈ [(Instr.restl n op, 0x2C), (.restu n op, 0x2D)],
      ∃ t, exec p.1 s = .next t ∧ TrapTaken n 7 (op.word 2 p.2) 0 false (s.bank n).fpc s t) ∧
    (s.fget (SAH.VALID n k.val) = 1 → sah ≤ s.fget (SPOOL.COUNT n) → s.SoundSpan n c 256 →
      let target := s.wordAt (c + 0x4C)
      ((s.wordAt (c + 4)).extractLsb' 0 4 = 1 → ((s.wordAt (c + 4)).extractLsb' 8 3).toNat = k.val →
          (if k = cur then target.toNat ≤ 0x3FFFC ∧ target.toNat % 4 = 0 else s.nextPc n op ≤ 0x3FFFC) →
        ∃ t, exec (.restl n op) s = .next t ∧
          (∀ i : Fin 32, (t.bankAt n k).w.get i = if 0 < i.val ∧ i.val < 16 then s.wordAt (c + 8 + 4 * i.val) else b.w.get i) ∧
          (t.bankAt n k).st = b.st &&& 0xFFFFFFE0 ||| s.wordAt (c + 0x48) &&& 0x1F ∧ (t.bankAt n k).pc = target ∧ (t.bankAt n k).f = b.f ∧
          (t.bankAt n k).pd = b.pd ∧ (t.bankAt n k).sg = b.sg ∧ (k ≠ cur → t.bank n = { s.bank n with pc := next }) ∧ returned t) ∧
      ((s.wordAt (c + 4)).extractLsb' 0 4 = 2 → ((s.wordAt (c + 4)).extractLsb' 8 3).toNat = k.val → (k ≠ cur ∨ s.levelKind n cur.val ≠ 1) →
        s.nextPc n op ≤ 0x3FFFC →
        ∃ t, exec (.restu n op) s = .next t ∧
          (∀ i : Fin 32, (t.bankAt n k).w.get i = if 16 ≤ i.val then s.wordAt (c + 8 + 4 * (i.val - 16)) else b.w.get i) ∧
          (∀ i : Fin 16, (t.bankAt n k).pd.get i = s.wordAt (c + 0x48 + 4 * i.val)) ∧ (t.bankAt n k).st = b.st ∧ (t.bankAt n k).f = b.f ∧
          (k ≠ cur → (t.bankAt n k).pc = b.pc) ∧ t.pc n = s.pc n + 4 ∧ returned t))

/-- R203 to R207, R213 and R215: at a boundary the highest level above the current one that an event waits for is entered, the event of the
lowest number accepted, its number in W1 and the PC at LVEC.  LRET leaves a HANDLER level: it reloads the groups that the lazy frame holds, and
the highest level still active runs, at its PC.
That the entry is charged its bound is log entry 8. -/
def Obligations.HandlerLevels : Prop :=
  ∀ (n : Dealer) (s : State), (s.dl n).halted = false → (s.dl n).pendMC = none → (s.dl n).live = true → s.fget (bitOf (LVLSTAT.ACTIVE n) 7) = 0 →
    (∀ (k : Fin 8) (e : Nat), (s.lvl n).val < k.val → 1 ≤ k.val → k.val ≤ 6 → s.levelKind n k.val = 1 → s.fget (bitOf (LVLSTAT.ACTIVE n) k.val) = 0 →
      s.NoneAbove n k.val → s.Offers n k.val e → (∀ i, i < e → ¬s.Offers n k.val i) →
      ∃ t, exec (.levelEntry n) s = .next t ∧ t.fget (LVLSTAT.CUR n) = k.val ∧ t.fget (bitOf (LVLSTAT.ACTIVE n) k.val) = 1 ∧
        t.fget (bitFld (EVT_PEND.reg 0) e) = 0 ∧ (t.bankAt n k).w = (s.bankAt n k).w.set 1 (BitVec.ofNat 32 e) ∧
        (t.bankAt n k).pc = BitVec.ofNat 32 (4 * s.fget (LVEC.VEC n k.val)) ∧ (t.bankAt n k).f = (s.bankAt n k).f ∧
        (t.bankAt n k).pd = (s.bankAt n k).pd ∧ (t.bankAt n k).sg = (s.bankAt n k).sg ∧ stTRP (t.bankAt n k).st = false ∧
        (∀ i, i < 11 → (t.bankAt n k).st.getLsbD i = (s.bankAt n k).st.getLsbD i) ∧ (t.dl n).filled.get k = 0 ∧
        (t.dl n).mspRec.get k = (s.dl n).msp ∧ (∀ j, j ≠ k → t.bankAt n j = s.bankAt n j) ∧ (∀ x, t.byte x = s.byte x) ∧
        ∀ m, m ≠ n → t.dl m = s.dl m) ∧
    (∀ (op : SOp) (j : Fin 8), wordPlain op → s.levelWaits n = false →
      let k := s.lvl n
      let g := (s.dl n).filled.get k
      let b := s.bank n
      k.val ≠ 0 → s.levelKind n k.val = 1 → (s.dl n).msp = (s.dl n).mspRec.get k →
      (natBit g 0 = true → s.SoundSpan n (s.lazyF n k.val) 128) → (natBit g 1 = true → s.SoundSpan n (s.lazyPD n k.val) 64) →
      (∀ i e, ¬s.Offers n i e) → (∀ i, i < 8 → s.fget (TASKSTAT.READY n i) = 0) →
      j.val < k.val → s.fget (bitOf (LVLSTAT.ACTIVE n) j.val) = 1 → (∀ i, j.val < i → i < 8 → i ≠ k.val → s.fget (bitOf (LVLSTAT.ACTIVE n) i) = 0) →
      ∃ t, exec (.lret n op) s = .next t ∧ t.fget (LVLSTAT.CUR n) = j.val ∧ t.fget (bitOf (LVLSTAT.ACTIVE n) k.val) = 0 ∧
        (∀ i : Fin 16, (t.bankAt n k).f.get i = if natBit g 0 then s.doubleAt (s.lazyF n k.val + 8 * i.val) else b.f.get i) ∧
        (∀ i : Fin 16, (t.bankAt n k).pd.get i = if natBit g 1 then s.wordAt (s.lazyPD n k.val + 4 * i.val) else b.pd.get i) ∧
        (t.bankAt n k).w = b.w ∧ (t.bankAt n k).sg = b.sg ∧ (t.bankAt n k).st = b.st &&& 0xFFFF7FFF ∧ (t.dl n).filled.get k = 0 ∧
        (∀ i, i ≠ k → t.bankAt n i = s.bankAt n i) ∧ (∀ x, t.byte x = s.byte x) ∧ ∀ m, m ≠ n → t.dl m = s.dl m)

/-- R217, R218, R221 and R222: SWTO makes no switch at a level that is no TASK level, with TRP set, or without another ready task; else it
stores the running task, ready still, and runs the highest other ready one.  LRET at a TASK level stores the task, no longer ready, and runs
the highest ready task; without one the level becomes inactive and the highest level still active runs.
The events a TASK level accepts are log entry 24. -/
def Obligations.TaskLevels : Prop :=
  ∀ (n : Dealer) (op : SOp) (s : State), s.Ready n op → wordPlain op → (s.dl n).msp = (s.dl n).mspRec.get (s.lvl n) →
    let k := s.lvl n
    let r := s.fget (TASKSTAT.RES n k.val)
    let ready (t : State) (j : Nat) : Prop := t.fget (bitOf (TASKSTAT.READY n k.val) j) = 1
    let next := BitVec.ofNat 32 (s.pc n + 4)
    let top (j : Nat) : Prop := j < 8 ∧ j ≠ r ∧ ready s j ∧ ∀ i, j < i → i < 8 → i ≠ r → ¬ready s i
    let quiet (t : State) : Prop := (∀ i, i ≠ k → t.bankAt n i = s.bankAt n i) ∧ ∀ m, m ≠ n → t.dl m = s.dl m
    (s.levelKind n k.val ≠ 2 ∨ stTRP (s.st n) = true ∨ (∀ i, i < 8 → i ≠ r → ¬ready s i) →
      ∃ t, exec (.swto n op) s = .next t ∧ s.OnlyBank n { s.bank n with pc := next } t) ∧
    (s.levelKind n k.val = 2 → s.SoundSpan n (s.tcb n k r) 0x14C → ∀ j, top j → s.SoundSpan n (s.tcb n k j) 0x14C →
      (stTRP (s.st n) = false → ∃ t, exec (.swto n op) s = .next t ∧ s.TaskStored n k r next t ∧ s.TaskRuns n k j t ∧
        (∀ i, i < 8 → (ready t i ↔ ready s i)) ∧ quiet t) ∧
      (k.val ≠ 0 → (∀ e, e < 320 → s.fget (EVT_ROUTE.DEALER e) = n.val → s.fget (EVT_ROUTE.LEVEL e) = k.val → s.fget (EVT_ROUTE.TASK e) = r →
          s.fget (bitFld (EVT_PEND.reg 0) e) = 0) →
        ∃ t, exec (.lret n op) s = .next t ∧ s.TaskStored n k r next t ∧ s.TaskRuns n k j t ∧ (∀ i, i < 8 → (ready t i ↔ ready s i ∧ i ≠ r)) ∧ quiet t)) ∧
    (s.levelKind n k.val = 2 → s.SoundSpan n (s.tcb n k r) 0x14C → k.val ≠ 0 → (∀ i, i < 8 → i ≠ r → ¬ready s i) → (s.dl n).live = true →
      (∀ i, i < 8 → i ≠ k.val → s.fget (TASKSTAT.READY n i) = 0) → (∀ i, i < 10 → s.reg (EVT_PEND.reg i) = 0) →
      ∀ j : Fin 8, j.val < k.val → s.fget (bitOf (LVLSTAT.ACTIVE n) j.val) = 1 → (∀ i, j.val < i → i < 8 → i ≠ k.val → s.fget (bitOf (LVLSTAT.ACTIVE n) i) = 0) →
        ∃ t, exec (.lret n op) s = .next t ∧ s.TaskStored n k r next t ∧ t.fget (LVLSTAT.CUR n) = j.val ∧
          t.fget (bitOf (LVLSTAT.ACTIVE n) k.val) = 0 ∧ t.fget (TASKSTAT.READY n k.val) = 0 ∧ quiet t)

/- Events, register writes, ticks and deals. -/

/-- R208, R232, R234, R236, R358 and R439: an asserted event goes to the one destination of its route.  For a level it sets the source's pending
bit; for a seat the bit of the seat's EVP, and an EVT packet leaves for the command port, and for a notice port beside it, when the bit rises
unmasked; for the Espalier the source waits for its line; a source that is pending already, or routed to NONE, merges, counted in EVT_MERGE.  A
reserved source is never raised.
That a seat with two ports gets both packets is log entry 65. -/
def Obligations.EventDelivery : Prop :=
  ∀ (e : Fin 320) (s : State),
    let pend := bitFld (EVT_PEND.reg 0) e.val
    let k := s.fget (EVT_ROUTE.SEAT e.val)
    let evp := bitFld (SEAT_EVP.reg k 0) e.val
    let merges (t : State) : Prop := t.fget EVT_MERGE.COUNT = min (2 ^ 32 - 1) (s.fget EVT_MERGE.COUNT + 1) ∧
      (∀ o, o ≠ EVT_MERGE.reg → t.reg o = s.reg o) ∧ t.net = s.net ∧ t.eiPend = s.eiPend
    let sets (f : Fld) (t : State) : Prop := t.fget f = 1 ∧ (∀ o, o ≠ f.off → t.reg o = s.reg o) ∧
      (∀ g : Fld, g.off = f.off → g.lo + g.wid ≤ f.lo ∨ (f.lo < g.lo ∧ g.lo + g.wid ≤ 32) → t.fget g = s.fget g)
    let reserved : Prop := (213 ≤ e.val ∧ e.val ≤ 227) ∨ (257 ≤ e.val ∧ e.val ≤ 259) ∨ e.val ∈ [274, 275, 288, 289, 290, 291]
    (reserved → exec (.eventAssert e) s = .next s) ∧
    (¬reserved → ∃ t, exec (.eventAssert e) s = .next t ∧ t.mem = s.mem ∧ t.syn = s.syn ∧ t.dealers = s.dealers ∧
      (s.fget (EVT_ROUTE.KIND e.val) = 1 → if s.fget pend = 1 then merges t else sets pend t ∧ t.net = s.net ∧ t.eiPend = s.eiPend) ∧
      (s.fget (EVT_ROUTE.KIND e.val) = 2 → if s.fget evp = 1 then merges t else sets evp t ∧ t.eiPend = s.eiPend ∧
        t.net = if s.fget (bitFld (SEAT_EVM.reg k 0) e.val) = 1 then s.net
          else s.net ++ [evtPacket ([16, 21, 21].getD (s.fget (SEAT_CFG.CMDP k)) 24) e.val] ++
            (if s.fget (SEAT_CFG.CMDP k) < 3 ∧ s.fget (SEAT_CFG.NTCP k) ≠ 0 then [evtPacket 24 e.val] else [])) ∧
      (s.fget (EVT_ROUTE.KIND e.val) = 3 → t.regs = s.regs ∧ t.net = s.net ∧ t.eiPend = s.eiPend ∧ t.outs = s.outs ++ [.gardEvent e.val]) ∧
      (s.fget (EVT_ROUTE.KIND e.val) = 4 → if Sparse.get false s.eiPend e.val then merges t
        else t.regs = s.regs ∧ t.net = s.net ∧ ∀ i, Sparse.get false t.eiPend i = if i = e.val then true else Sparse.get false s.eiPend i) ∧
      (s.fget (EVT_ROUTE.KIND e.val) = 0 → merges t))

/-- R243, R244 and R264: PHASE sets a later phase of the deal and records its time; DEND ends the tick's work: the phase reads DEND, DEAL_USED
takes the cycles since the edge and DEAL_PEAK the largest, and L0 is no longer active.  A PHASE that does not move on traps ILL_RESERVED. -/
def Obligations.PhaseAndDend : Prop :=
  ∀ (n : Dealer) (op : SOp) (s : State), s.executes n → op.ext = none → (s.lvl n).val = 0 →
    let k := op.fld 0 3
    let now := s.sinceEdge n % 2 ^ 25
    (s.pc n + 4 ≤ 0x3FFFC → op.fld 3 20 = 0 → 1 ≤ k → k ≤ 3 → s.fget (DEAL_STAT.PHASE n) < k →
      ∃ t, exec (.phase n op) s = .next t ∧ t.fget (DEAL_STAT.PHASE n) = k ∧ t.fget (DEAL_PHT.CYCLES n (k - 1)) = now ∧
        (∀ o, o ≠ DEAL_STAT.reg n → o ≠ DEAL_PHT.reg n (k - 1) → t.reg o = s.reg o) ∧
        t.bank n = { s.bank n with pc := BitVec.ofNat 32 (s.pc n + 4) } ∧ (∀ a, t.byte a = s.byte a) ∧ ∀ m, m ≠ n → t.dl m = s.dl m) ∧
    (op.fld 3 20 = 0 → k = 0 ∨ 4 ≤ k ∨ k ≤ s.fget (DEAL_STAT.PHASE n) →
      ∃ t, exec (.phase n op) s = .next t ∧ TrapTaken n 2 (op.word 2 0x30) 0 false (s.bank n).fpc s t) ∧
    (op.bits = 0 → (s.dl n).msp = 0 → (∀ k e, ¬s.Offers n k e) → s.fget (LVLSTAT.ACTIVE n) = 1 → (∀ j, j < 8 → s.fget (TASKSTAT.READY n j) = 0) →
      (s.fget (EVT_ROUTE.KIND (64 + 8 * n.val + 5)) = 1 → s.fget (EVT_ROUTE.DEALER (64 + 8 * n.val + 5)) ≠ n.val) →
      ∃ t, exec (.dend n op) s = .next t ∧ t.fget (DEAL_STAT.PHASE n) = 4 ∧ t.fget (DEAL_USED.CYCLES n) = now ∧
        t.fget (DEAL_PEAK.CYCLES n) = max (s.sinceEdge n) (s.fget (DEAL_PEAK.CYCLES n)) % 2 ^ 25 ∧ t.fget (LVLSTAT.ACTIVE n) = 0 ∧
        (t.dl n).tickEnd = 0 ∧ t.bank n = s.bank n ∧ (∀ a, t.byte a = s.byte a) ∧ (∀ m, m ≠ n → t.dl m = s.dl m) ∧
        (s.fget (EVT_ROUTE.KIND (64 + 8 * n.val + 5)) = 1 → t.fget (bitFld (EVT_PEND.reg 0) (64 + 8 * n.val + 5)) = 1) ∧
        (s.switching = false → (∀ m, m ≠ n → s.drives m = true → (s.dl m).startDue = false ∧ s.fget (DEAL_STAT.PHASE m) ∈ [4, 5]) →
          s.drives n = true → (s.dl n).startDue = false → t.fallow = true))

/-- R23, R24, R237 to R240, R255, R460 and R478: where tick edges come from.  A frame start before TICK_MIN is held and counted; the edge then comes
at TICK_MIN; without a frame start the timer makes the edge at TICK_MAX and stands in for DSP0, so no later frame start makes it; with SRC TIMER
it makes every edge.  A frame start that TICK_EDGE brings is DSP0's own: its next frame is then due (R24), and with the first edge, in early mode or
after EARLY_ONLY, it begins.  At an edge EV164 is raised, TICK_COUNT advances and TICK_LAST takes the interval.  That a frame start after the timer's edge
is none, and what a held edge does with a second frame start, are log entries 7 and 100; that the first edge locks the CLK block, log entry 146. -/
def Obligations.TickSources : Prop :=
  ∀ s : State, s.ticking = true →
    let timer := s.fget TICK_CFG.SRC = 1
    let onTimer := s.fget TICK_STAT.ONTIMER = 1
    let limit := if s.fget TICK_STAT.ONTIMER = 1 then s.fget TICK_NOM.CYCLES else s.fget TICK_MAX.CYCLES
    (timer → exec .tickTimerExpiry s = .next (s.tickEdge (s.fget TICK_NOM.CYCLES))) ∧
    (¬timer → onTimer → exec .tickTimerExpiry s = .next ((s.bump TICK_STAT.MISSES 1).tickEdge (s.fget TICK_NOM.CYCLES))) ∧
    (¬timer → ¬onTimer → s.edgeHeld = false →
      exec .tickMaxExpiry s = .next ((((s.event 165).fset TICK_STAT.ONTIMER 1).bump TICK_STAT.MISSES 1).tickEdge (s.fget TICK_MAX.CYCLES))) ∧
    (s.edgeHeld = true → exec .tickHoldExpiry s = .next (s.tickEdge (s.fget TICK_MIN.CYCLES))) ∧
    (∀ c : BitVec 25,
      (timer → exec (.tickEdge c) s = .next (s.tickEdge (s.fget TICK_NOM.CYCLES))) ∧
      (¬timer → s.edgeHeld = true ∨ limit < c.toNat → exec (.tickEdge c) s = .next s) ∧
      (¬timer → s.edgeHeld = false → c.toNat ≤ limit →
        (s.fget TICK_MIN.CYCLES ≤ c.toNat → exec (.tickEdge c) s = .next ((s.fset TICK_STAT.ONTIMER 0).tickEdge c.toNat).dsp0Frame) ∧
        (c.toNat < s.fget TICK_MIN.CYCLES → onTimer → exec (.tickEdge c) s = .next s.dsp0Frame) ∧
        (c.toNat < s.fget TICK_MIN.CYCLES → ¬onTimer →
          exec (.tickEdge c) s = .next { s.dsp0Frame.bump TICK_STAT.HOLDS 1 with edgeHeld := true }))) ∧
    (∀ len, len < 2 ^ 25 → (∀ n, (s.dl n).restartRun < 3) →
      let t := s.tickEdge len
      t.fget TICK_COUNT.COUNT = (s.fget TICK_COUNT.COUNT + 1) % 2 ^ 32 ∧ t.fget TICK_LAST.CYCLES = len ∧ t.evAcc = [] ∧ t.fallow = false ∧
      t.edgeHeld = false ∧ t.edgeAt = max s.now (s.edgeAt + len) ∧ t.now = t.edgeAt ∧ (∀ n, (t.dl n).cyc = 0) ∧
      (s.fget (EVT_ROUTE.KIND 164) = 1 → t.fget (bitFld (EVT_PEND.reg 0) 164) = 1)) ∧
    (∀ u : State, u.ticking = false → u.fget LOAD_STAT.STATE = 1 ∨ u.fget LOAD_STAT.STATE = 3 →
      let t := ({ u with ticking := true, edgeAt := u.now, locks := u.locks ||| 2 ^ blockOf (CLK_SEL.reg 0) }.milestone 2).tickEdge 0
      exec (.firstTickEdge true) u =
        .next (if u.fget TICK_CFG.SRC = 1 ∨ u.fget (DSP_CFG.KIND 0) = 0 then t else t.frameStart 0))

/-- R242, R253, R255, R257, R258, R422 and R479: a deal that overruns the edge is cut, DEAL_USED reads all ones, and a higher level that preempted
it goes on as it stands; once every Dealer has ended step 2 the Gardener's changes are applied, and each driving Dealer's deal is due or, without
its variant, does not start; then L0 starts at the entry of its variant, or the early entry, RECOVERY after a deal restart or a tick without a
deal, with the end of the last deal in W1, TICK_COUNT in W2 and the variant in W3.
The order of the changes of one edge is log entry 38. -/
def Obligations.Deals : Prop :=
  ∀ (n : Dealer) (s : State),
    let b := s.bankAt n 0
    let v := if s.full then s.fget (DEAL_COND.COND n) else 0
    let entry (u : State) (m : Dealer) : Nat := dealBase m + (if u.full then 16 * u.fget (DEAL_COND.COND m) else 0x80)
    let absent (u : State) (m : Dealer) : Prop :=
      natBit (u.wordData (entry u m)) 31 = false ∨ (u.full = true ∧ 2 ≤ (u.prunedIn (u.region m)).length)
    let unstarted (t : State) (m : Dealer) : Prop :=
      t.fget (DEAL_STAT.PHASE m) = 5 ∧ t.fget (DEAL_USED.CYCLES m) = 2 ^ 25 - 1 ∧ (t.dl m).startDue = false ∧ (t.dl m).recover = true
    let hdr := s.wordData (entry s n)
    let how := (s.dl n).tickEnd
    let w1 := how + (if s.full = true ∧ v ≠ s.fget (DEAL_STAT.VAR n) ∧ how ≠ 3 then 4 else 0)
    let w := ((b.w.set 1 (BitVec.ofNat 32 w1)).set 2 (s.reg TICK_COUNT.reg)).set 3 (BitVec.ofNat 32 v)
    let starts : Nat := natBits hdr (if (s.dl n).recover then 34 else 2) 16 * 4
    (s.switching = true → (s.dl n).halted = false → (s.dl n).pendMC = none → s.fget (bitOf (LVLSTAT.ACTIVE n) 0) = 1 →
      s.fget (bitOf (LVLSTAT.ACTIVE n) 7) = 0 →
      ∃ t, exec (.overrunCut n) s = .next t ∧ t.fget (bitOf (LVLSTAT.ACTIVE n) 0) = 0 ∧ t.fget (DEAL_USED.CYCLES n) = 2 ^ 25 - 1 ∧
        (t.dl n).tickEnd = (if how = 3 then 3 else 1) ∧ (t.dl n).cutDue = false ∧ (∀ m, m ≠ n → t.dl m = s.dl m) ∧
        ((s.lvl n).val ≠ 0 → (∀ k, t.bankAt n k = s.bankAt n k) ∧ (t.dl n).again = (s.dl n).again ∧
          (∀ k, k ≠ 0 → natBit (t.dl n).arrayHeld k = natBit (s.dl n).arrayHeld k) ∧
          (∀ o, o ≠ LVLSTAT.reg n → o ≠ DEAL_USED.reg n → t.reg o = s.reg o) ∧ ∀ a, t.byte a = s.byte a)) ∧
    (s.switching = true → (∀ m, (s.dl m).halted = true ∨ (s.fget (bitOf (LVLSTAT.ACTIVE m) 0) = 0 ∧ s.fget (bitOf (LVLSTAT.ACTIVE m) 7) = 0)) →
      ∃ t, exec .edgeSwitch s = .next t ∧ t.switching = false ∧
        (∀ m, t.drives m = true → (t.dl m).halted = false → (¬absent t m → (t.dl m).startDue = true) ∧ (absent t m → unstarted t m)) ∧
        (s.gard.lost = [] → s.gard.tilePrunes = [] → s.gard.bankPrunes = [] → s.gard.copies = [] → s.gard.graft = none → s.gard.suit = none →
          t.mem = s.mem)) ∧
    ((s.dl n).startDue = true → s.switching = false → (s.dl n).halted = false → s.drives n = true → s.fget (LVLSTAT.ACTIVE n) = 0 →
      (absent s n → ∃ t, exec (.dealStart n) s = .next t ∧ unstarted t n ∧ t.fget (LVLSTAT.ACTIVE n) = 0) ∧
      (¬absent s n → ∃ t, exec (.dealStart n) s = .next t ∧ t.fget (LVLSTAT.ACTIVE n) = 1 ∧ t.fget (LVLSTAT.CUR n) = 0 ∧
        t.fget (DEAL_STAT.PHASE n) = 0 ∧ t.fget (DEAL_STAT.VAR n) = v % 8 ∧ t.fget (DEAL_STAT.LASTEND n) = how % 4 ∧ (t.bankAt n 0).w = w ∧
        (t.bankAt n 0).pc = BitVec.ofNat 32 starts ∧ (t.bankAt n 0).f = b.f ∧ (t.bankAt n 0).pd = b.pd ∧ (t.bankAt n 0).sg = b.sg ∧
        (t.dl n).msp = 0 ∧ (t.dl n).startDue = false ∧ (t.dl n).recover = false ∧
        (∀ k, k ≠ 0 → t.bankAt n k = s.bankAt n k) ∧ (∀ a, t.byte a = s.byte a) ∧ ∀ m, m ≠ n → t.dl m = s.dl m))

/-- R260, R262 and R263: each quadrant raises or lowers at most one tile at a grid point; 4,096 cycles of a Dealer's fallow window without an
array instruction begin lowering; array instructions held by a ramp stay held until it ends and then go on.  That no tile changes between the
edge and the end of step 3 is log entry 102. -/
def Obligations.Ramps : Prop :=
  ∀ s : State,
    (∃ t, exec .gridPoint s = .next t ∧ t.regs = s.regs ∧ t.mem = s.mem ∧
      ∀ q, q < 4 → ∀ i j, i < 64 → j < 64 → tileQuad i = q → tileQuad j = q → natBit t.raised i ≠ natBit s.raised i →
        natBit t.raised j ≠ natBit s.raised j → i = j) ∧
    (∀ (n : Dealer) (q i : Nat), q < 4 → s.switching = false → (s.dl n).ramping = true → natBit (s.region n) q = true →
      (∀ m : Dealer, m < n → natBit (s.region m) q = false) → (s.toRaise n).find? (fun j => tileQuad j == q) = some i →
      ∃ t, exec .gridPoint s = .next t ∧ natBit t.raised i = true) ∧
    (∀ n : Dealer, (s.dl n).ramping = false → s.fget (DEAL_STAT.PHASE n) ∈ [4, 5] → s.switching = false → (s.dl n).startDue = false →
      exec (.tileLowerIdleExpiry n) s = .next (s.setDl n { s.dl n with lowering := true })) ∧
    (∀ n : Dealer, exec (.arrayHoldRelease n) s = .next (if s.mustHold n then s else s.setDl n { s.dl n with arrayHeld := 0 }))

/- The array instructions. -/

/-- R105: MOV, ZEXT, SEXT, NOT, BOOL, SEL, CLR, SETI and SETW write field d in the PEs of the quadrant set with M = 1, from the fields they
read, the immediate or a W register, filled with zeros or copies of the sign bit; no other plane and no flag plane changes. -/
def Obligations.ArrayLogic : Prop :=
  ∀ (n : Dealer) (op : AOp) (s : State),
    let d := s.rdPD n op.pdd
    let a := s.rdPD n op.pda
    let b := s.rdPD n op.pdb
    let c := s.rdPD n op.pdc
    let w := pdWidth d
    let q := pdQset d
    let read (x : Word) (i j : Nat) : BitVec w := BitVec.ofNat w (s.valueAt x i j)
    (op.ext = none → op.pdb = 0 → op.imm = 0 →
      (s.ArrayRuns n 0x000 op [d, a] q → pdWidth a = w → ArrayWrites (.arrayMov n op) n op d (fun i j => (read a i j).toNat) noFlags s) ∧
      (s.ArrayRuns n 0x001 op [d, a] q → pdWidth a ≤ w → ArrayWrites (.arrayZext n op) n op d (s.valueAt a) noFlags s) ∧
      (s.ArrayRuns n 0x002 op [d, a] q → pdWidth a ≤ w →
        ArrayWrites (.arraySext n op) n op d (fun i j => ((BitVec.ofNat (pdWidth a) (s.valueAt a i j)).signExtend w).toNat) noFlags s) ∧
      (s.ArrayRuns n 0x003 op [d, a] q → pdWidth a = w → ArrayWrites (.arrayNot n op) n op d (fun i j => (~~~read a i j).toNat) noFlags s)) ∧
    (op.ext = none → op.imm < 16 → s.ArrayRuns n 0x004 op [d, a, b] q → pdWidth a = w → pdWidth b = w →
      ArrayWrites (.arrayBool n op) n op d (fun i j => wordOf (fun k =>
        op.imm7.getLsbD (2 * ((read a i j).getLsbD k).toNat + ((read b i j).getLsbD k).toNat)) w) noFlags s) ∧
    (op.ext ≠ none → op.extW < 16 → op.imm = 0 → s.ArrayRuns n 0x005 op [d, a, b, c] q → pdWidth a = w → pdWidth b = w → pdWidth c = 1 →
      ArrayWrites (.arraySel n op) n op d (fun i j => if s.valueAt c i j = 1 then s.valueAt a i j else s.valueAt b i j) noFlags s) ∧
    (op.pda = 0 → op.pdb = 0 →
      (op.ext = none → op.imm = 0 → s.ArrayRuns n 0x008 op [d] q → ArrayWrites (.arrayClr n op) n op d (fun _ _ => 0) noFlags s) ∧
      (op.ext ≠ none → op.imm = 0 → s.ArrayRuns n 0x009 op [d] q → ArrayWrites (.arraySeti n op) n op d (fun _ _ => op.extW % 2 ^ w) noFlags s) ∧
      (op.ext = none → op.imm < 32 → s.ArrayRuns n 0x00A op [d] q →
        ArrayWrites (.arraySetw n op) n op d (fun _ _ => ((s.rdW n op.imm).zeroExtend w).toNat) noFlags s))

/-- R109, R118, R119, R121, R122: the integer instructions of the array: sums, differences and shifts modulo 2^w; saturating results, P1982 set
where the clamp changed the value; comparisons into one bit; exact products in 2w bits; quotients and remainders, P1981 set where the divisor
is 0, which gives all ones or a.  Nothing else changes, and a shift by 0 changes no plane.  R104, R120: ADDC and SUBB read their carry plane and
write the sum or difference to field d and the carry or borrow to that plane, in the same PEs; a carry plane that shares a plane with d, a or b
traps ILL_RESERVED. -/
def Obligations.ArrayIntegers : Prop :=
  (∀ (n : Dealer) (op : AOp) (s : State),
    let d := s.rdPD n op.pdd
    let a := s.rdPD n op.pda
    let b := s.rdPD n op.pdb
    let q := pdQset d
    let w := pdWidth a
    let x (i j : Nat) : BitVec w := BitVec.ofNat w (s.valueAt a i j)
    let y (i j : Nat) : BitVec w := BitVec.ofNat w (s.valueAt b i j)
    let least : Int := -(2 ^ (w - 1))
    let most : Int := 2 ^ (w - 1) - 1
    let large : Int := 2 ^ w - 1
    let gives (c : Instr) (v : Nat → Nat → BitVec w) : Prop := ArrayWrites c n op d (fun i j => (v i j).toNat) noFlags s
    let clamps (c : Instr) (lo hi : Int) (v : Nat → Nat → Int) : Prop :=
      ArrayWrites c n op d (fun i j => (BitVec.ofInt w (max lo (min hi (v i j)))).toNat) (fun i j => if v i j < lo ∨ hi < v i j then 2 ^ 6 else 0) s
    let compares (c : Instr) (v : Nat → Nat → Bool) : Prop := ArrayWrites c n op d (fun i j => (v i j).toNat) noFlags s
    let divides (c : Instr) (v : Nat → Nat → BitVec w) : Prop :=
      ArrayWrites c n op d (fun i j => (v i j).toNat) (fun i j => if y i j = 0 then 2 ^ 5 else 0) s
    let runs (aop : Nat) : Prop := s.ArrayRuns n aop op [d, a, b] q
    let k := op.imm
    let shifts (aop : Nat) (c : Instr) (v : Nat → Nat → BitVec w) : Prop := s.ArrayRuns n aop op [d, a] q →
      if k = 0 then ∃ t, exec c s = .next t ∧ s.OnlyPlanes n (s.pastArray n op) t ∧ (∀ a, t.byte a = s.byte a) else gives c v
    (op.ext = none → op.imm = 0 → pdWidth b = w →
      (pdWidth d = w →
        (runs 0x0C0 → gives (.arrayAdd n op) (fun i j => x i j + y i j)) ∧ (runs 0x0C2 → gives (.arraySub n op) (fun i j => x i j - y i j)) ∧
        (runs 0x0C8 → clamps (.arrayAddsu n op) 0 large (fun i j => (x i j).toNat + (y i j).toNat)) ∧
        (runs 0x0C9 → clamps (.arrayAddss n op) least most (fun i j => (x i j).toInt + (y i j).toInt)) ∧
        (runs 0x0CA → clamps (.arraySubsu n op) 0 large (fun i j => (x i j).toNat - (y i j).toNat)) ∧
        (runs 0x0CB → clamps (.arraySubss n op) least most (fun i j => (x i j).toInt - (y i j).toInt)) ∧
        (w ≤ 32 → (runs 0x0E8 → divides (.arrayDivu n op) (fun i j => if y i j = 0 then BitVec.allOnes w else x i j / y i j)) ∧
          (runs 0x0E9 → divides (.arrayDivs n op) (fun i j => if y i j = 0 then BitVec.allOnes w else (x i j).sdiv (y i j))) ∧
          (runs 0x0EA → divides (.arrayRemu n op) (fun i j => if y i j = 0 then x i j else x i j % y i j)) ∧
          (runs 0x0EB → divides (.arrayRems n op) (fun i j => if y i j = 0 then x i j else (x i j).srem (y i j))))) ∧
      (pdWidth d = 1 →
        (runs 0x0D0 → compares (.arrayCmpeq n op) (fun i j => x i j == y i j)) ∧ (runs 0x0D1 → compares (.arrayCmpne n op) (fun i j => x i j != y i j)) ∧
        (runs 0x0D2 → compares (.arrayCmpltu n op) (fun i j => (x i j).ult (y i j))) ∧
        (runs 0x0D3 → compares (.arrayCmplts n op) (fun i j => (x i j).slt (y i j))) ∧
        (runs 0x0D4 → compares (.arrayCmpleu n op) (fun i j => (x i j).ule (y i j))) ∧
        (runs 0x0D5 → compares (.arrayCmples n op) (fun i j => (x i j).sle (y i j)))) ∧
      (pdWidth d = 2 * w → w ≤ 32 →
        (runs 0x0E0 → ArrayWrites (.arrayMulwu n op) n op d (fun i j => ((x i j).zeroExtend (2 * w) * (y i j).zeroExtend (2 * w)).toNat) noFlags s) ∧
        (runs 0x0E1 → ArrayWrites (.arrayMulws n op) n op d (fun i j => ((x i j).signExtend (2 * w) * (y i j).signExtend (2 * w)).toNat) noFlags s))) ∧
    (op.pdb = 0 → pdWidth d = w →
      (op.ext ≠ none → op.imm = 0 → s.ArrayRuns n 0x0C4 op [d, a] q →
        gives (.arrayAddi n op) (fun i j => x i j + (BitVec.ofNat 32 op.extW).signExtend w)) ∧
      (op.ext = none → op.imm = 0 → s.ArrayRuns n 0x0C5 op [d, a] q → gives (.arrayNeg n op) (fun i j => -x i j)) ∧
      (op.ext = none → k < 64 → shifts 0x0D8 (.arrayShl n op) (fun i j => x i j <<< k) ∧ shifts 0x0D9 (.arrayShru n op) (fun i j => x i j >>> k) ∧
        shifts 0x0DA (.arrayShrs n op) (fun i j => (x i j).sshiftRight k)))) ∧
  (∀ (n : Dealer) (op : AOp) (s : State) (e : Word), op.ext = some e → e.toNat < 16 → op.imm = 0 →
    let d := s.rdPD n op.pdd
    let a := s.rdPD n op.pda
    let b := s.rdPD n op.pdb
    let c := s.rdPD n e.toNat
    let w := pdWidth d
    let shares (x y : Word) : Prop := ∃ p, pdBase x ≤ p ∧ p < pdBase x + pdWidth x ∧ pdBase y ≤ p ∧ p < pdBase y + pdWidth y
    let planes (v : Nat → Nat → BitVec (w + 1)) (p i j : Nat) : Bool :=
      if p = pdBase c then (v i j).getLsbD w
      else if pdBase d ≤ p ∧ p < pdBase d + w then (v i j).getLsbD (p - pdBase d) else s.planeBit p i j
    let x (y : Word) (i j : Nat) : BitVec (w + 1) := BitVec.ofNat (w + 1) (s.valueAt y i j)
    ∀ p ∈ [(Instr.arrayAddc n op, 0x0C1, fun i j => x a i j + x b i j + x c i j), (.arraySubb n op, 0x0C3, fun i j => x a i j - x b i j - x c i j)],
      s.ArrayRuns n p.2.1 op [d, a, b, c] (pdQset d) → pdWidth a = w → pdWidth b = w → pdWidth c = 1 →
        ((¬shares c d ∧ ¬shares c a ∧ ¬shares c b) →
          ∃ t, exec p.1 s = .next t ∧ s.OnlyPlanes n (s.pastArray n op) t ∧ s.PlanesAre (pdQset d) (planes p.2.2) t) ∧
        (shares c d ∨ shares c a ∨ shares c b → ∃ t, exec p.1 s = .next t ∧ TrapTaken n 2 (op.word p.2.1) 0 true (s.bank n).fpc s t))

/-- R97 and R59: in every state whose mask stacks have a depth of at most 56 and whose hand lines are all permutations of 0 to 63, a step keeps
both, whatever command stands at the front of the queue. -/
def Obligations.StepKeepsMasksAndHands : Prop :=
  ∀ s t : State, step s = .next t → (s.MasksFit → t.MasksFit) ∧ (s.HandsPermute → t.HandsPermute)

/-- R111, R112, R138, R140 and R141: the floating-point instructions of the array give in each PE counted the result and the exceptions of the
operation in the format, rounding mode and flush mode of the word and FPC.  Without an enabled exception in a counted PE, d takes the results,
the flag planes P1976 to P1980 the new exceptions and ASF their or; an enabled one writes the flag planes alone and traps ARRAY_FP.  Where the
trap finds TRP set it makes a deal restart (R200); that FPC, as all of the bank, is then as it was is the model's choice (log entry 133). -/
def Obligations.ArrayFloats : Prop :=
  ∀ (n : Dealer) (op : AOp) (s : State),
    let d := s.rdPD n op.pdd
    let a := s.rdPD n op.pda
    let b := s.rdPD n op.pdb
    let c := s.rdPD n op.pdc
    let q := pdQset d
    let f : FFmt := if op.half then fmtH else fmtS
    let g : FFmt := if op.half then fmtS else fmtH
    let width : Nat := if op.half then 16 else 32
    let base : Nat := if op.half then 0x160 else 0x140
    let fpc := (s.bank n).fpc
    let rm := s.rm n
    let ftz := s.ftz n
    let x := s.valueAt a
    let y := s.valueAt b
    let z := s.valueAt c
    let finishes (i : Instr) (r : Nat → Nat → FRes) : Prop :=
      ∀ fl, fl < 32 → (∀ k, k < 5 → (natBit fl k = true ↔ ∃ p j, p < 512 ∧ j < 512 ∧ s.counts q p j = true ∧ natBit (r p j).fl k = true)) →
        (fl &&& (fpc.extractLsb' 3 5).toNat = 0 → ∃ t, exec i s = .next t ∧
          s.OnlyPlanes n { s.pastArray n op with fpc := fpc ||| BitVec.ofNat 32 (fl * 2 ^ 8) } t ∧
          s.PlanesAre q (s.fieldPlanes d (fun p j => (r p j).bits) (fun p j => (r p j).fl)) t) ∧
        (fl &&& (fpc.extractLsb' 3 5).toNat ≠ 0 → ∃ t, exec i s = .next t ∧
          (stTRP (s.st n) = false → s.OnlyPlanes n { s.bank n with
            xpc := (s.bank n).pc, xcause := BitVec.ofNat 32 (9 + 2 ^ 12 * op.extN), xinfo := 0, st := (s.bank n).st ||| 0x8000, pc := (s.bank n).xvec,
            fpc := fpc &&& 0xFF03FFFF ||| BitVec.ofNat 32 (2 ^ 18 * (fl &&& (fpc.extractLsb' 3 5).toNat) + 2 ^ 23) } t) ∧
          (stTRP (s.st n) = true → t.bankAt n (s.lvl n) = s.bank n ∧ t.fget (LVLSTAT.ACTIVE n) = 0 ∧ t.fget (DEAL_USED.CYCLES n) = 2 ^ 25 - 1 ∧
            t.fget (DEAL_OVR.RESTARTS n) = satAdd (DEAL_OVR.RESTARTS n).wid (s.fget (DEAL_OVR.RESTARTS n)) 1 ∧ (t.dl n).recover = true ∧
            ∀ m, m ≠ n → t.dl m = s.dl m) ∧
          s.PlanesAre q (fun p i j => if 1976 ≤ p ∧ natBit (r i j).fl (p - 1976) then true else s.planeBit p i j) t)
    let one (k : Nat) (wd : Nat) (i : Instr) (r : Nat → Nat → FRes) : Prop :=
      op.ext = none → op.pdb = 0 → s.ArrayRuns n (base + k) op [d, a] q → pdWidth d = wd → pdWidth a = width → finishes i r
    let two (k : Nat) (wd : Nat) (i : Instr) (r : Nat → Nat → FRes) : Prop :=
      op.ext = none → s.ArrayRuns n (base + k) op [d, a, b] q → pdWidth d = wd → pdWidth a = width → pdWidth b = width → finishes i r
    op.imm = 0 →
      two 0 width (.arrayFadd n op) (fun i j => fAdd f rm ftz false (x i j) (y i j)) ∧
      two 1 width (.arrayFsub n op) (fun i j => fAdd f rm ftz true (x i j) (y i j)) ∧
      two 2 width (.arrayFmul n op) (fun i j => fMul f rm ftz (x i j) (y i j)) ∧
      (op.ext ≠ none → op.extW < 16 → s.ArrayRuns n (base + 3) op [d, a, b, c] q → pdWidth d = width → pdWidth a = width → pdWidth b = width →
        pdWidth c = width → finishes (.arrayFma n op) (fun i j => fFma f rm ftz (x i j) (y i j) (z i j))) ∧
      two 4 width (.arrayFdiv n op) (fun i j => fDiv f rm ftz (x i j) (y i j)) ∧
      one 5 width (.arrayFsqrt n op) (fun i j => fSqrt f rm ftz (x i j)) ∧
      two 6 width (.arrayFmin n op) (fun i j => fMinMax f ftz false (x i j) (y i j)) ∧
      two 7 width (.arrayFmax n op) (fun i j => fMinMax f ftz true (x i j) (y i j)) ∧
      two 8 1 (.arrayFcmpeq n op) (fun i j => fCompare f ftz .eq (x i j) (y i j)) ∧
      two 9 1 (.arrayFcmplt n op) (fun i j => fCompare f ftz .lt (x i j) (y i j)) ∧
      two 10 1 (.arrayFcmple n op) (fun i j => fCompare f ftz .le (x i j) (y i j)) ∧
      one 11 width (.arrayFneg n op) (fun i j => ⟨fNeg f (x i j), 0⟩) ∧ one 12 width (.arrayFabs n op) (fun i j => ⟨fAbs f (x i j), 0⟩) ∧
      one 13 width (.arrayFcvtI n op) (fun i j => fToInt f rm ftz true width (x i j)) ∧
      one 14 width (.arrayFcvtIu n op) (fun i j => fToInt f rm ftz false width (x i j)) ∧
      one 15 width (.arrayFcvtF n op) (fun i j => fFromInt f rm true width (x i j)) ∧
      one 16 width (.arrayFcvtFu n op) (fun i j => fFromInt f rm false width (x i j)) ∧
      one 17 (48 - width) (.arrayFcvtX n op) (fun i j => fConvert f g rm ftz (x i j))

/-- R96 to R98: MPUSH and MPUSHN store M in the next level of the mask stack and give M the operand's bit, MPUSH only where M was 1; MELSE
selects the PEs of the saved level that M does not; MPOP restores the saved level.  They act on every PE of the region that the array raises,
whatever M, and trap BOUNDS at depth 56 or 0. -/
def Obligations.ArrayMasks : Prop :=
  ∀ (n : Dealer) (op : AOp) (s : State), op.ext = none → op.imm = 0 → op.pdd = 0 → op.pdb = 0 →
    let a := s.rdPD n op.pda
    let msp := (s.dl n).msp
    let q := s.region n
    let m := s.mAt
    let acts (i j : Nat) : Bool := natBit q (peQuad i j) && s.rampTile (peTile i j)
    let saved := s.planeBit (1920 + msp - 1)
    let next := BitVec.ofNat 32 (s.pc n + 4)
    let ends (depth : Nat) (level : Nat → Nat → Nat → Bool) (v : Nat → Nat → Bool) (t : State) : Prop :=
      (t.dl n).msp = depth ∧ t.bank n = { s.bank n with pc := next } ∧ (∀ k, k ≠ s.lvl n → t.bankAt n k = s.bankAt n k) ∧ (∀ l, l ≠ n → t.dl l = s.dl l) ∧
      (∀ o, t.reg o = s.reg o) ∧ (∀ x, (x < 0x4100000000 ∨ 0x4104000000 ≤ x) → t.byte x = s.byte x) ∧
      ∀ i j, i < 512 → j < 512 → t.mAt i j = (if acts i j then v i j else m i j) ∧
        ∀ p, p < 1983 → t.planeBit p i j = if acts i j then level p i j else s.planeBit p i j
    let push (p i j : Nat) : Bool := if p = 1920 + msp then m i j else s.planeBit p i j
    let bounds (aop : Nat) (t : State) : Prop := TrapTaken n 7 (op.word aop) 0 false (s.bank n).fpc s t
    (pdWidth a = 1 →
      (s.ArrayRuns n 0x080 op [a] 0 →
        (msp < 56 → ∃ t, exec (.arrayMpush n op) s = .next t ∧ ends (msp + 1) push (fun i j => m i j && s.planeBit (pdBase a) i j) t) ∧
        (msp = 56 → ∃ t, exec (.arrayMpush n op) s = .next t ∧ bounds 0x080 t)) ∧
      (s.ArrayRuns n 0x081 op [a] 0 →
        (msp < 56 → ∃ t, exec (.arrayMpushn n op) s = .next t ∧ ends (msp + 1) push (fun i j => s.planeBit (pdBase a) i j) t) ∧
        (msp = 56 → ∃ t, exec (.arrayMpushn n op) s = .next t ∧ bounds 0x081 t))) ∧
    (op.pda = 0 →
      (s.ArrayRuns n 0x082 op [] 0 →
        (0 < msp → msp ≤ 56 → ∃ t, exec (.arrayMelse n op) s = .next t ∧ ends msp s.planeBit (fun i j => saved i j && !m i j) t) ∧
        (msp = 0 → ∃ t, exec (.arrayMelse n op) s = .next t ∧ bounds 0x082 t)) ∧
      (s.ArrayRuns n 0x083 op [] 0 →
        (0 < msp → msp ≤ 56 → ∃ t, exec (.arrayMpop n op) s = .next t ∧ ends (msp - 1) s.planeBit saved t) ∧
        (msp = 0 → ∃ t, exec (.arrayMpop n op) s = .next t ∧ bounds 0x083 t)))

/-- R108 and R110: ANY and CNT count the PEs of the quadrant set with M = 1 that hold a non-zero field; FLGRD copies a flag plane to field d;
FLGCLR clears the flag planes it names in every PE of the region whatever M; FLGANY gives each flag plane's or over the region with M = 1.
The PEs that ANY, CNT and FLGANY count are log entry 32. -/
def Obligations.ArrayReductions : Prop :=
  ∀ (n : Dealer) (op : AOp) (s : State), op.ext = none → op.pdb = 0 →
    let d := s.rdPD n op.pdd
    let a := s.rdPD n op.pda
    let q := pdQset a
    let region := s.region n
    let pes : List (Nat × Nat) := (List.range 512).flatMap (fun i => (List.range 512).map (fun j => (i, j)))
    let held := (pes.filter (fun e => s.counts q e.1 e.2 && s.valueAt a e.1 e.2 != 0)).length
    let writes (i : Instr) (v : Nat) : Prop := ∃ t, exec i s = .next t ∧ t.rdW n op.imm = (if op.imm = 0 then 0 else BitVec.ofNat 32 v) ∧
      (∀ r, r < 32 → r ≠ op.imm → t.rdW n r = s.rdW n r) ∧
      s.OnlyPlanes n { s.pastArray n op with w := (t.bank n).w } t ∧ ∀ x, t.byte x = s.byte x
    (op.pdd = 0 → op.imm < 32 → q ≠ 0 →
      (s.ArrayRuns n 0x088 op [a] q → writes (.arrayAny n op) (if held = 0 then 0 else 1)) ∧
      (s.ArrayRuns n 0x089 op [a] q → writes (.arrayCnt n op) held)) ∧
    (op.pda = 0 → op.imm < 7 → pdWidth d = 1 → s.ArrayRuns n 0x08C op [d] (pdQset d) →
      ArrayWrites (.arrayFlgrd n op) n op d (fun i j => (s.planeBit (1976 + op.imm) i j).toNat) noFlags s) ∧
    (op.pda = 0 → op.pdd = 0 → s.ArrayRuns n 0x08D op [] 0 → ∃ t, exec (.arrayFlgclr n op) s = .next t ∧ s.OnlyPlanes n (s.pastArray n op) t ∧
      ∀ p i j, p < 1983 → i < 512 → j < 512 → t.planeBit p i j =
        if 1976 ≤ p ∧ natBit op.imm (p - 1976) = true ∧ natBit region (peQuad i j) = true ∧ s.rampTile (peTile i j) = true then false else s.planeBit p i j) ∧
    (op.pda = 0 → op.pdd = 0 → op.imm < 32 → s.ArrayRuns n 0x08E op [] 0 →
      ∀ v, v < 128 → (∀ k, k < 7 → (natBit v k = true ↔ ∃ i j, i < 512 ∧ j < 512 ∧ s.counts region i j = true ∧ s.planeBit (1976 + k) i j = true)) →
        writes (.arrayFlgany n op) v)

/-- R51, R52, R57 to R60, R89, R106, R193 and R197: XMOVE takes field a from the PE DIST upstream: where that PE lies in the quadrant set, its
value; outside the quadrant set 0; across the region's edge 0 under ZERO, the value from the opposite edge under WRAP, and under HOLD each hop
keeps the PE's own bit, so that the value comes from the last PE that a hop reached.  SHUF permutes field a by a hand within each row or column
of a tile; a line with an uncorrectable word gives a free value and its words in error are reported (the model's choice, log entries 139 and
141).  PLMOV copies plane OS to plane OD and moves both on; it traps SEG_LIMIT above P1919 and SEG_RIGHTS for a quadrant outside the region, and
with an empty QSET it completes and changes nothing. -/
def Obligations.ArrayMovement : Prop :=
  ∀ (n : Dealer) (op : AOp) (s : State),
    let d := s.rdPD n op.pdd
    let a := s.rdPD n op.pda
    let q := pdQset d
    let w := pdWidth d
    let dist := op.extW
    let dir := op.imm
    let r := regionRect (s.region n)
    let row (i : Nat) : Int := if dir = 0 then i + dist else if dir = 2 then (i : Int) - dist else i
    let col (j : Nat) : Int := if dir = 3 then j + dist else if dir = 1 then (j : Int) - dist else j
    let inside (i j : Nat) : Prop := (r.1 : Int) ≤ row i ∧ row i < r.2.1 ∧ (r.2.2.1 : Int) ≤ col j ∧ col j < r.2.2.2
    let mode : Nat := s.fget ([ARRAY_EDGE.SOUTH n, ARRAY_EDGE.WEST n, ARRAY_EDGE.NORTH n, ARRAY_EDGE.EAST n].getD dir (ARRAY_EDGE.EAST n))
    let slid (z : Nat) : Nat := z - dist % 64 - 64 * min (dist / 64) ((z - dist % 64) / 64)
    let heldRow (i : Nat) : Nat := if dir = 0 then r.2.1 - 1 - slid (r.2.1 - 1 - i) else if dir = 2 then r.1 + slid (i - r.1) else i
    let heldCol (j : Nat) : Nat := if dir = 3 then r.2.2.2 - 1 - slid (r.2.2.2 - 1 - j) else if dir = 1 then r.2.2.1 + slid (j - r.2.2.1) else j
    let around (lo hi : Nat) (x : Int) : Nat := lo + ((x - lo) % ((hi : Int) - lo)).toNat
    (op.ext ≠ none → dist < 512 → dir < 4 → op.pdb = 0 → s.ArrayRuns n 0x040 op [d, a] q → pdWidth a = w → w ≤ 32 →
      (dist = 0 → ∃ t, exec (.arrayXmove n op) s = .next t ∧ s.OnlyPlanes n (s.pastArray n op) t ∧ ∀ x, t.byte x = s.byte x) ∧
      (0 < dist → (∀ i, i < 64 → s.rampTile i = true) → ∃ v, ArrayWrites (.arrayXmove n op) n op d v noFlags s ∧
        ∀ i j, i < 512 → j < 512 → s.counts q i j = true →
          (inside i j → natBit q (peQuad (row i).toNat (col j).toNat) = true → v i j = s.valueAt a (row i).toNat (col j).toNat) ∧
          (inside i j → natBit q (peQuad (row i).toNat (col j).toNat) = false → v i j = 0) ∧
          (¬inside i j → mode = 0 → v i j = 0) ∧
          (¬inside i j → q = s.region n → (∃ h ∈ [1, 2, 3, 4, 5, 8, 10, 12, 15], s.region n = h) →
            (mode = 1 → v i j = s.valueAt a (around r.1 r.2.1 (row i)) (around r.2.2.1 r.2.2.2 (col j))) ∧
            (mode = 2 → v i j = s.valueAt a (heldRow i) (heldCol j))))) ∧
    (op.ext = none → op.imm < 32 → op.pdb = 0 → s.ArrayRuns n 0x041 op [d, a] q → pdWidth a = w →
      ArrayWrites (.arrayShuf n op) n op d (fun i j =>
        let stored (l : Nat) : HandLine := Sparse.get identityLine s.hands l
        let lost (l : Nat) : Bool := (List.range 6).any (fun k => decodeSyn (Sparse.get 0 s.handSyn (6 * l + k)).toNat == .ue)
        let line (c : Nat) : HandLine := let l := handKey (peTile i j) (op.imm % 16) c
          if lost l then Config.handLine l (stored l) else s.handLine (peTile i j) (op.imm % 16) c
        let hand (l c : Nat) : Nat := ((line l).extractLsb' (6 * c) 6).toNat
        if op.imm < 16 then s.valueAt a i (j / 64 * 64 + hand (i % 64) (j % 64)) else s.valueAt a (i / 64 * 64 + hand (j % 64) (i % 64)) j) noFlags s ∧
      ∀ t, q ≠ 0 → exec (.arrayShuf n op) s = .next t → ∀ p ∈ s.handSyn, p.1 / 384 % 16 = op.imm % 16 → natBit q (tileQuad (p.1 / 6144)) = true →
        decodeSyn p.2.toNat ≠ .clean → ∃ x ∈ t.rpt, x.loc = p.1 ∧ x.ue = (decodeSyn p.2.toNat == .ue)) ∧
    (∀ op : SOp, s.Ready n op → op.ext = none → op.fld 21 2 = 0 → op.fld 0 16 = 0 → s.PlanesClean →
      let b := s.bank n
      let os := (s.rdW n 13).toNat
      let od := (s.rdW n 14).toNat
      let qs := ((s.rdPD n (op.fld 16 4)).extractLsb' 28 4).toNat
      let moved (x : Word) : Word := if op.fld 20 1 = 1 then x - 1 else x + 1
      let traps (x : Word) : Prop := ∃ t, exec (.plmov n op) s = .next t ∧ TrapTaken n 4 x 0 false b.fpc s t
      (1919 < os → traps (s.rdW n 13)) ∧ (os ≤ 1919 → 1919 < od → traps (s.rdW n 14)) ∧
      (os ≤ 1919 → od ≤ 1919 → ¬s.Within n qs → ∃ t, exec (.plmov n op) s = .next t ∧ TrapTaken n 5 (op.word 2 0x15) 0 false b.fpc s t) ∧
      (os ≤ 1919 → od ≤ 1919 → qs = 0 → ∃ t, exec (.plmov n op) s = .next t ∧ s.OnlyBank n { b with pc := BitVec.ofNat 32 (s.pc n + 4) } t) ∧
      (os ≤ 1919 → od ≤ 1919 → s.Within n qs → 0 < qs → ∃ t, exec (.plmov n op) s = .next t ∧
        s.OnlyPlanes n { b with w := (b.w.set 13 (moved (s.rdW n 13))).set 14 (moved (s.rdW n 14)), pc := BitVec.ofNat 32 (s.pc n + 4) } t ∧
        s.PlanesAre qs (fun p i j => if p = od then s.planeBit os i j else s.planeBit p i j) t))

/-- R146: the results at the smallest subnormal and the largest finite value of each format, with the exceptions they raise. -/
def Obligations.EdgeResults : Prop :=
  let nx := 16
  let ufnx := 24
  let ofnx := 20
  ∀ v ∈ [(fmtH, 0x7BFF, 0x1BFF, 0x0C00, 0x0C00, 0x5BFF, 0x5C00, 0x3C00, 0x7C00, 0x7E00, 0x8000, 0),
      (fmtS, 0x7F7FFFFF, 0x34FFFFFF, 0x1A3504F3, 0x1A3504F4, 0x5F7FFFFF, 0x5F800000, 0x3F800000, 0x7F800000, 0x7FC00000, 0x80000000, 16),
      (fmtD, 0x7FEFFFFFFFFFFFFF, 0x3CCFFFFFFFFFFFFF, 0x1E60000000000000, 0x1E60000000000000, 0x5FEFFFFFFFFFFFFF, 0x5FF0000000000000,
        0x3FF0000000000000, 0x7FF0000000000000, 0x7FF8000000000000, 0x8000000000000000, 0)],
    match v with
    | (f, L, Ls, Rs, Rs', RL, RL', one, inf, qN, m, rootNX) =>
      let s := 1
      let P := L - 1
      let wd := if f.width = 16 then 16 else 32
      let four (g : Rm → Bool → FRes) (rne rtz rdn rup : FRes) : Prop := g .rne false = rne ∧ g .rtz false = rtz ∧ g .rdn false = rdn ∧ g .rup false = rup
      let same (g : Rm → Bool → FRes) (x : FRes) : Prop := four g x x x x
      let flushed (g : Rm → Bool → FRes) (x : FRes) : Prop := g .rne true = x
      let kept (g : Rm → Bool → FRes) : Prop := g .rne true = g .rne false
      let exceeds (g : Rm → Bool → FRes) (i l : Nat) : Prop := four g ⟨i, ofnx⟩ ⟨l, ofnx⟩ ⟨l, ofnx⟩ ⟨i, ofnx⟩
      let up (g : Rm → Bool → FRes) (x y fl : Nat) : Prop := four g ⟨x, fl⟩ ⟨x, fl⟩ ⟨x, fl⟩ ⟨y, fl⟩
      let down (g : Rm → Bool → FRes) (x y fl fl' : Nat) : Prop := four g ⟨x, fl⟩ ⟨y, fl'⟩ ⟨y, fl'⟩ ⟨x, fl⟩
      let add (x y : Nat) : Rm → Bool → FRes := fun r z => fAdd f r z false x y
      let sub (x y : Nat) : Rm → Bool → FRes := fun r z => fAdd f r z true x y
      let mul (x y : Nat) : Rm → Bool → FRes := fun r z => fMul f r z x y
      let fma (x y c : Nat) : Rm → Bool → FRes := fun r z => fFma f r z x y c
      let div (x y : Nat) : Rm → Bool → FRes := fun r z => fDiv f r z x y
      let sqrt (x : Nat) : Rm → Bool → FRes := fun r z => fSqrt f r z x
      let least (x y : Nat) : Rm → Bool → FRes := fun _ z => fMinMax f z false x y
      let most (x y : Nat) : Rm → Bool → FRes := fun _ z => fMinMax f z true x y
      let compare (c : FCmp) (x y : Nat) : Rm → Bool → FRes := fun _ z => fCompare f z c x y
      let toInt (x : Nat) : Rm → Bool → FRes := fun r z => fToInt f r z true wd x
      let toNat (x : Nat) : Rm → Bool → FRes := fun r z => fToInt f r z false wd x
      let convert (x y : FFmt) (v : Nat) : Rm → Bool → FRes := fun r z => fConvert x y r z v
      let narrow (x y : FFmt) (top i l : Nat) : Prop := exceeds (convert x y top) i l ∧ kept (convert x y top) ∧ up (convert x y 1) 0 1 ufnx ∧ flushed (convert x y 1) ⟨0, 0⟩
      let widen (x y : FFmt) (top v l : Nat) : Prop := same (convert x y 1) ⟨v, 0⟩ ∧ flushed (convert x y 1) ⟨0, 0⟩ ∧ same (convert x y top) ⟨l, 0⟩ ∧ kept (convert x y top)
      let fromInt (y : FFmt) (signed : Bool) (w v : Nat) : Rm → Bool → FRes := fun r _ => fFromInt y r signed w v
      same (add s s) ⟨2, 0⟩ ∧ flushed (add s s) ⟨0, 0⟩ ∧ exceeds (add L L) inf L ∧ kept (add L L) ∧
      four (add L s) ⟨L, nx⟩ ⟨L, nx⟩ ⟨L, nx⟩ ⟨inf, ofnx⟩ ∧ flushed (add L s) ⟨L, 0⟩ ∧
      four (sub s s) ⟨0, 0⟩ ⟨0, 0⟩ ⟨m, 0⟩ ⟨0, 0⟩ ∧ flushed (sub s s) ⟨0, 0⟩ ∧ four (sub L L) ⟨0, 0⟩ ⟨0, 0⟩ ⟨m, 0⟩ ⟨0, 0⟩ ∧ kept (sub L L) ∧
      down (sub L s) L P nx nx ∧ flushed (sub L s) ⟨L, 0⟩ ∧
      four (sub s L) ⟨L + m, nx⟩ ⟨P + m, nx⟩ ⟨L + m, nx⟩ ⟨P + m, nx⟩ ∧ flushed (sub s L) ⟨L + m, 0⟩ ∧
      up (mul s s) 0 s ufnx ∧ flushed (mul s s) ⟨0, 0⟩ ∧ exceeds (mul L L) inf L ∧ kept (mul L L) ∧ same (mul L s) ⟨Ls, 0⟩ ∧ flushed (mul L s) ⟨0, 0⟩ ∧
      up (fma s s s) s 2 ufnx ∧ flushed (fma s s s) ⟨0, 0⟩ ∧ exceeds (fma L L (L + m)) inf L ∧ kept (fma L L (L + m)) ∧
      same (div s s) ⟨one, 0⟩ ∧ flushed (div s s) ⟨qN, 1⟩ ∧ same (div L L) ⟨one, 0⟩ ∧ kept (div L L) ∧ up (div s L) 0 s ufnx ∧ flushed (div s L) ⟨0, 0⟩ ∧
      exceeds (div L s) inf L ∧ flushed (div L s) ⟨inf, 2⟩ ∧
      up (sqrt s) Rs Rs' rootNX ∧ flushed (sqrt s) ⟨0, 0⟩ ∧ up (sqrt L) RL RL' nx ∧ kept (sqrt L) ∧
      same (least s L) ⟨s, 0⟩ ∧ flushed (least s L) ⟨0, 0⟩ ∧ same (most s L) ⟨L, 0⟩ ∧ kept (most s L) ∧ same (least L (L + m)) ⟨L + m, 0⟩ ∧ kept (least L (L + m)) ∧
      same (compare .eq s s) ⟨1, 0⟩ ∧ kept (compare .eq s s) ∧ same (compare .eq s 0) ⟨0, 0⟩ ∧ flushed (compare .eq s 0) ⟨1, 0⟩ ∧
      same (compare .lt s L) ⟨1, 0⟩ ∧ kept (compare .lt s L) ∧ same (compare .le L s) ⟨0, 0⟩ ∧ kept (compare .le L s) ∧
      fNeg f s = s + m ∧ fAbs f (L + m) = L ∧
      same (toInt L) ⟨2 ^ (wd - 1) - 1, 1⟩ ∧ kept (toInt L) ∧ up (toInt s) 0 1 nx ∧ flushed (toInt s) ⟨0, 0⟩ ∧
      four (toInt (s + m)) ⟨0, nx⟩ ⟨0, nx⟩ ⟨2 ^ wd - 1, nx⟩ ⟨0, nx⟩ ∧ flushed (toInt (s + m)) ⟨0, 0⟩ ∧
      same (toNat L) (if wd = 16 then ⟨0xFFE0, 0⟩ else ⟨0xFFFFFFFF, 1⟩) ∧ kept (toNat L) ∧
      down (fromInt fmtH true 16 0x7FFF) 0x7800 0x77FF nx nx ∧ down (fromInt fmtS true 32 0x7FFFFFFF) 0x4F000000 0x4EFFFFFF nx nx ∧
      down (fromInt fmtH false 16 0xFFFF) 0x7C00 0x7BFF ofnx nx ∧ down (fromInt fmtS false 32 0xFFFFFFFF) 0x4F800000 0x4F7FFFFF nx nx ∧
      narrow fmtS fmtH 0x7F7FFFFF 0x7C00 0x7BFF ∧ widen fmtH fmtS 0x7BFF 0x33800000 0x477FE000 ∧
      narrow fmtD fmtS 0x7FEFFFFFFFFFFFFF 0x7F800000 0x7F7FFFFF ∧ widen fmtS fmtD 0x7F7FFFFF 0x36A0000000000000 0x47EFFFFFE0000000

/- Opcodes, machine checks and register accesses. -/

/-- R95, R114 to R116 and R262: an array instruction waits at its boundary while tiles of the region are lowered; without a dispatch entry it
traps ILL_OPCODE; then the checks follow in their order (shown on CLR).  A customer opcode runs its routine: one that reads field a and writes
field d through BOOL copies the base plane.
The quadrant set and the cost of a customer routine are log entry 33. -/
def Obligations.ArrayDispatch : Prop :=
  ∀ (n : Dealer) (op : AOp) (s : State), s.issues n →
    let entry (aop : Nat) : Nat := s.wordData (ctlBase n + 0x80000 + 8 * aop)
    let sound (aop : Nat) : Prop := s.wordSyn (ctlBase n + 0x80000 + 8 * aop) = 0
    let traps (i : Instr) (code : Nat) (info : Word) : Prop := ∃ t, exec i s = .next t ∧ TrapTaken n code info 0 op.ext.isSome (s.bank n).fpc s t
    let h (x : Nat) : Nat := if op.half then x + 0x20 else x
    let d := s.rdPD n op.pdd
    let clr := Instr.arrayClr n op
    let waiting : State := s.setDl n { s.dl n with ramping := true, lowering := false, arrayHeld := setNatBit (s.dl n).arrayHeld (s.lvl n).val true }
    let last := BitVec.ofNat 32 (pdBase d + pdWidth d - 1)
    (∀ p ∈ [(Instr.arrayMov n op, 0x000), (.arrayZext n op, 0x001), (.arraySext n op, 0x002), (.arrayNot n op, 0x003), (.arrayBool n op, 0x004),
        (.arraySel n op, 0x005), (.arrayClr n op, 0x008), (.arraySeti n op, 0x009), (.arraySetw n op, 0x00A), (.arrayXmove n op, 0x040),
        (.arrayShuf n op, 0x041), (.arrayMpush n op, 0x080), (.arrayMpushn n op, 0x081), (.arrayMelse n op, 0x082), (.arrayMpop n op, 0x083),
        (.arrayAny n op, 0x088), (.arrayCnt n op, 0x089), (.arrayFlgrd n op, 0x08C), (.arrayFlgclr n op, 0x08D), (.arrayFlgany n op, 0x08E),
        (.arrayAdd n op, 0x0C0), (.arrayAddc n op, 0x0C1), (.arraySub n op, 0x0C2), (.arraySubb n op, 0x0C3), (.arrayAddi n op, 0x0C4),
        (.arrayNeg n op, 0x0C5), (.arrayAddsu n op, 0x0C8), (.arrayAddss n op, 0x0C9), (.arraySubsu n op, 0x0CA), (.arraySubss n op, 0x0CB),
        (.arrayCmpeq n op, 0x0D0), (.arrayCmpne n op, 0x0D1), (.arrayCmpltu n op, 0x0D2), (.arrayCmplts n op, 0x0D3), (.arrayCmpleu n op, 0x0D4),
        (.arrayCmples n op, 0x0D5), (.arrayShl n op, 0x0D8), (.arrayShru n op, 0x0D9), (.arrayShrs n op, 0x0DA), (.arrayMulwu n op, 0x0E0),
        (.arrayMulws n op, 0x0E1), (.arrayDivu n op, 0x0E8), (.arrayDivs n op, 0x0E9), (.arrayRemu n op, 0x0EA), (.arrayRems n op, 0x0EB),
        (.arrayFadd n op, h 0x140), (.arrayFsub n op, h 0x141), (.arrayFmul n op, h 0x142), (.arrayFma n op, h 0x143), (.arrayFdiv n op, h 0x144),
        (.arrayFsqrt n op, h 0x145), (.arrayFmin n op, h 0x146), (.arrayFmax n op, h 0x147), (.arrayFcmpeq n op, h 0x148), (.arrayFcmplt n op, h 0x149),
        (.arrayFcmple n op, h 0x14A), (.arrayFneg n op, h 0x14B), (.arrayFabs n op, h 0x14C), (.arrayFcvtI n op, h 0x14D), (.arrayFcvtIu n op, h 0x14E),
        (.arrayFcvtF n op, h 0x14F), (.arrayFcvtFu n op, h 0x150), (.arrayFcvtX n op, h 0x151), (.customerOpcode n 0 op, 0x380),
        (.customerOpcode n 127 op, 0x3FF)],
      (s.mustHold n = true → exec p.1 s = .next waiting) ∧
      (s.mustHold n = false → sound p.2 → natBit (entry p.2) 15 = false → traps p.1 1 (op.word p.2))) ∧
    (s.mustHold n = false → sound 0x008 → natBit (entry 0x008) 15 = true →
      (op.ext ≠ none ∨ op.pda ≠ 0 ∨ op.pdb ≠ 0 ∨ op.imm ≠ 0 ∨ pdReserved d = true → traps clr 2 (op.word 0x008)) ∧
      (op.ext = none → op.pda = 0 → op.pdb = 0 → op.imm = 0 → pdReserved d = false →
        (1920 < pdBase d + pdWidth d → traps clr 4 last) ∧ (pdBase d + pdWidth d ≤ 1920 → ¬s.Within n (pdQset d) → traps clr 5 (op.word 0x008)))) ∧
    (∀ a : Fin 128,
      let x := entry (0x380 + a.val)
      let r := x % 2 ^ 14
      let src := s.rdPD n op.pda
      let routine := 6 + 2 ^ 37 + 0xC * 2 ^ 39 + 3 * 2 ^ 64 + 2 * 2 ^ 80
      s.ArrayRuns n (0x380 + a.val) op [d, src] (pdQset d) → x / 2 ^ 16 % 2 ^ 7 = 3 → op.ext = none → op.pdb = 0 →
      pdWidth d ≤ x / 2 ^ 24 % 64 + 1 → pdWidth src ≤ x / 2 ^ 24 % 64 + 1 → s.microword n r = routine → s.microPar n r = microParity routine 9 →
      ∃ t, exec (.customerOpcode n a op) s = .next t ∧ s.OnlyPlanes n (s.pastArray n op) t ∧
        s.PlanesAre (pdQset d) (fun p i j => if p = pdBase d then s.planeBit (pdBase src) i j else s.planeBit p i j) t)

/-- R150 to R152, R169, R170, R172 and R174: a machine check enters L7, recorded in MCCAUSE, MCADDR and MCCOUNT; the root then reloads the
word and the instruction issues again, or makes a deal restart, or halts the Dealer.  A reload with POISON, or a second machine check during the
reload, makes a deal restart.  A write of the control store by the loader, while the Dealer runs no deal, commits a microword with computed parity at its third word.
The word a reload brings is the command's operand, and must be the verified image's: log entries 34 and 163. -/
def Obligations.MachineChecks : Prop :=
  ∀ (n : Dealer) (m : MCheck) (s : State), (s.dl n).halted = false →
    let l7 := bitOf (LVLSTAT.ACTIVE n) 7
    let recorded (action : Nat) (t : State) : Prop := t.fget (MCCAUSE.CAUSE n) = m.cause % 16 ∧ t.fget (MCCAUSE.AOP n) = m.aop % 2 ^ 10 ∧
      t.fget (MCCAUSE.LEVEL n) = (s.lvl n).val ∧ t.fget (MCCAUSE.ACTION n) = action ∧ t.fget (MCADDR.ADDR n) = m.addr % 2 ^ 14 ∧
      t.fget (MCADDR.LINE n) = m.line % 2 ^ 16 ∧ t.fget (MCADDR.ROOT n) = (if m.root then 1 else 0) ∧
      t.fget (MCCOUNT.COUNT n) = satAdd (MCCOUNT.COUNT n).wid (s.fget (MCCOUNT.COUNT n)) 1
    let others (t : State) : Prop := (∀ k, k ≠ n → t.dl k = s.dl k) ∧ ∀ a, t.byte a = s.byte a
    let entry := Instr.machineCheckEntry n m
    let restarts (t : State) : Prop := s.Restarted n t
    let goesOn (t : State) : Prop := t.fget l7 = 0 ∧ t.lvl n = s.lvl n ∧ (t.dl n).pendMC = none ∧ (t.dl n).again = some m ∧ (t.dl n).banks = (s.dl n).banks
    ((s.dl n).pendMC = some m → (s.dl n).reload = false →
      (1 ≤ m.cause → m.cause ≤ 4 → m.aop < 0x380 → (s.dl n).again = none → ∃ t, exec entry s = .next t ∧ recorded 0 t ∧ t.fget l7 = 1 ∧
        t.fget (LVLSTAT.CUR n) = 7 ∧ (t.dl n).pendMC = some m ∧ (t.dl n).reload = true ∧ (t.dl n).banks = (s.dl n).banks ∧ others t) ∧
      (m.cause = 5 → m.aop < 0x380 → (s.dl n).again = none → s.fget l7 = 0 → ∃ t, exec entry s = .next t ∧ recorded 0 t ∧ goesOn t ∧ others t) ∧
      (m.cause ∈ [6, 7, 8, 10] ∨ (1 ≤ m.cause ∧ m.cause ≤ 5 ∧ (s.dl n).again ≠ none) →
        ∃ t, exec entry s = .next t ∧ recorded 1 t ∧ restarts t ∧ (t.dl n).pendMC = none) ∧
      (m.cause = 9 → ∃ t, exec entry s = .next t ∧ recorded 2 t ∧ (t.dl n).halted = true ∧ others t)) ∧
    ((s.dl n).pendMC = some m → (s.dl n).reload = true → s.fget (LVLSTAT.CUR n) = 7 → s.fget (MCCAUSE.LEVEL n) < 8 →
      (∀ x : MCheck, 1 ≤ x.cause → x.cause ≤ 8 → ∃ t, exec (.machineCheckEntry n x) s = .next t ∧ restarts t ∧ (t.dl n).pendMC = none) ∧
      (s.copyHolds = true → (∀ w, ∃ t, exec (.microcodeReloadDone n true w) s = .next t ∧ restarts t) ∧
        (∀ w, w.toNat ≠ s.imageWord m → exec (.microcodeReloadDone n false w) s = .next s) ∧
        (m.cause = 3 → m.aop < 1024 → ∀ w, w.toNat = s.imageWord m → ∃ t, exec (.microcodeReloadDone n false w) s = .next t ∧ (t.dl n).pendMC = none ∧ (t.dl n).again = some m ∧
          t.wordData (ctlBase n + 0x80000 + 8 * m.aop) = w.toNat % 2 ^ 64 ∧ t.wordSyn (ctlBase n + 0x80000 + 8 * m.aop) = 0) ∧
        (m.cause ≠ 3 → m.addr < 2 ^ 14 → ∀ w, w.toNat = s.imageWord m → ∃ t, exec (.microcodeReloadDone n false w) s = .next t ∧ (t.dl n).pendMC = none ∧
          (t.dl n).again = some m ∧ t.microword n m.addr = w.toNat ∧ t.microPar n m.addr = microParity w.toNat 9)) ∧
      (s.copyHolds = false → ∀ block : List (BitVec 144), block.length = 64 →
        (∃ t, exec (.flashBlockReloadDone n false block) s = .next t ∧ restarts t) ∧
        (m.cause ≠ 3 → m.addr < 2 ^ 14 → block = s.loadedBlock false (m.addr / 64) → ∃ t, exec (.flashBlockReloadDone n true block) s = .next t ∧
          (t.dl n).pendMC = none ∧ (t.dl n).again = some m ∧ t.microword n m.addr = (block.getD (m.addr % 64) 0).toNat ∧
          t.microPar n m.addr = microParity (t.microword n m.addr) 9))) ∧
    (∀ (off : Nat) (v : DWord),
      let write := Instr.controlStoreWrite n off v
      (s.storeWriter .loader n = true → off < 0x2000 → 0x80000 + 8 * off < 0x82000 → Answers (.controlStoreWrite n (0x80000 + 8 * off) v) .loader 0 0 s (fun t =>
        t.wordData (ctlBase n + 0x80000 + 8 * off) = v.toNat ∧ t.wordSyn (ctlBase n + 0x80000 + 8 * off) = 0 ∧ t.regs = s.regs ∧ t.dealers = s.dealers)) ∧
      (s.storeWriter .loader n = true → off < 0x80000 → off % 32 = 16 → Answers write .loader 0 0 s (fun t =>
        t.microword n (off / 32) / 2 ^ 128 = v.toNat % 2 ^ 16 ∧ t.microPar n (off / 32) = microParity (t.microword n (off / 32)) 9)) ∧
      (off < 0x100000 → s.storeWriter .loader n = false ∨ 0x82000 ≤ off ∨ off % 8 ≠ 0 ∨ (off < 0x80000 ∧ off % 32 = 24) →
        Answers write .loader 1 0 s (fun t => t = s)))

/-- R7, R9 to R11, R33, R35, R54 and R384: a write of a register, of every block, whose fields have the access codes of their table: refused as
a whole with EV270 where a field that the write can change would take a reserved value, a res0 bit 1, or a locked RWL field another value; else each
field takes the write by its code.  The registers that do more are left to their own statements, but for who may write SFL, SAH, ARRAY_EDGE and
the SEAT blocks.  A write of no register is REFUSED without an event; one that meets an absorber, a port that is down or a port without a free
tag on its way to the register hub is answered there or waits; a host's write of a BAR0 that is not open is an Unsupported Request. -/
def Obligations.RegisterWrites : Prop :=
  ∀ (ag : Agent) (off : Nat) (v : Word) (s : State),
    let write := Instr.registerWrite ag off v
    let field (f : FieldSpec) : Nat := (v.toNat / 2 ^ f.lo) % 2 ^ f.wid
    let locked := s.locked off
    let reserved (f : FieldSpec) : Prop := f.ok ≠ [] ∧ ∀ p ∈ f.ok, field f < p.1 ∨ p.2 < field f
    let refused (g : RegGroup) : Prop :=
      (∃ i, i < 32 ∧ v.getLsbD i = true ∧ ∀ f ∈ g.fields, i < f.lo ∨ f.lo + f.wid ≤ i) ∨
      (∃ f ∈ g.fields, f.acc ∈ [Acc.rw, .w1c, .wo] ∧ reserved f) ∨
      (∃ f ∈ g.fields, f.acc = .rwl ∧ if locked then field f ≠ s.fget ⟨off, f.lo, f.wid⟩ else reserved f) ∨
      (locked = false ∧ s.crossReserved off v.toNat = true)
    let special : Prop :=
      off ∈ [SYS_LCREQ.reg, CLK_TRIM.reg, TRL_SWAP.reg, TRL_DMAP_SH.reg, TELL_HCMT.reg, ESP_TEST.reg, ARRAY_HSEL.reg, ARRAY_HDATA.reg] ∨
      (∃ d, d < 7 ∧ off = CLK_SEL.reg d) ∨ (∃ g, g < 25 ∧ off = CLK_GATE.reg g) ∨ (CLK_PLL.reg 0 ≤ off ∧ off < CLK_PLL.reg 6) ∨
      (∃ n : Dealer, off = SFL.reg n ∨ ∃ i, i < 8 ∧ off = SAH.reg n i) ∨ (∃ b, b < 33 ∧ off = BANK_OWNER.reg b) ∨
      (TRL_RTE.reg 0 0 ≤ off ∧ off < TRL_RTE.reg 24 0) ∨ (∃ p, p < 6 ∧ off = DSP_COMMIT.reg p) ∨ (TELL_HBOX.reg 0 ≤ off ∧ off < TELL_HBOX.reg 64) ∨
      (∃ k, k < 4 ∧ SEAT_CFG.reg k ≤ off ∧ off < SEAT_CFG.reg k + 0x10000) ∨ (∃ n, n < 4 ∧ off = ARRAY_EDGE.reg n) ∨ CTU_ADDR_LO.reg 0 ≤ off
    let shut (k : Fin 4) : Prop := s.pcieSeat k = true ∧ s.bar0Open k = false
    let rejects : Prop := Answers write ag 1 0 s (fun t => t = s)
    (∀ k, ag = .seat k → shut k → exec write s = .next (s.emit (.tlp k 1 []))) ∧
    ((∀ k, ag = .seat k → ¬shut k) →
      (s.pathTurns ag hubAddr = some .waits → exec write s = .next s) ∧
      (s.pathTurns ag hubAddr = some .down → Answers write ag 3 0 s (fun t => t = s)) ∧
      (∀ q, s.pathTurns ag hubAddr = some (.absorbed q) → Answers write ag 4 0 s (fun t => t = s.absorb q)) ∧
      (s.pathTurns ag hubAddr = none →
        (∀ g, regGroupAt off = some g → off % 4 = 0 → s.reachesRegs ag off = true → ¬special →
          (¬refused g → Answers write ag 0 0 s (fun t => s.Only [off] t ∧ ∀ f ∈ g.fields, t.fget ⟨off, f.lo, f.wid⟩ =
            match f.acc with
            | .rw => field f
            | .rwl => field f
            | .w1c => s.fget ⟨off, f.lo, f.wid⟩ &&& (2 ^ f.wid - 1 - field f)
            | _ => s.fget ⟨off, f.lo, f.wid⟩)) ∧
          (refused g → Answers write ag 1 0 s (fun t => t = s.event 270))) ∧
        (regGroupAt off = none ∨ off % 4 ≠ 0 ∨ s.reachesRegs ag off = false → rejects) ∧
        (∀ n m : Dealer, ag = .dealer m →
          (m ≠ n ∨ s.priv m = false → (off = SFL.reg n ∨ ∃ i, i < 8 ∧ off = SAH.reg n i) → rejects) ∧ (m ≠ n → off = ARRAY_EDGE.reg n → rejects)) ∧
        (∀ k : Fin 4, SEAT_CFG.reg k ≤ off → off < SEAT_CFG.reg k + 0x10000 → ag ≠ .seat k → rejects)))

/-- R59, R69, R72 and R80: a write of ARRAY_HSEL discards staged words; words of a line are staged by ARRAY_HDATA, WORD moving on, and word 11
commits the line when it is a permutation, or discards it with BADLINE and EV270.  GO starts a transfer, whose end writes its status and
raises the tile's event.  The agent's way to the register hub is open.
The statuses answered here are log entries 36 and 37. -/
def Obligations.HandsAndCornerTurns : Prop :=
  ∀ (ag : Agent) (v : Word) (t : Fin 64) (s : State),
    let go := Instr.ctuGo ag t v
    let tile := s.fget ARRAY_HSEL.TILE
    let hand := s.fget ARRAY_HSEL.HAND
    let line := s.fget ARRAY_HSEL.LINE
    let word := s.fget ARRAY_HSEL.WORD
    let staged (k : Nat) : Nat := if k = 11 then v.toNat else match s.hstage.find? (fun p => p.1 == k) with
      | some p => p.2.toNat
      | none => ((s.handLine tile hand line).extractLsb' (32 * k) 32).toNat
    let formed : HandLine := BitVec.ofNat 384 (staged 0 + 2 ^ 32 * staged 1 + 2 ^ 64 * staged 2 + 2 ^ 96 * staged 3 + 2 ^ 128 * staged 4 + 2 ^ 160 * staged 5 +
      2 ^ 192 * staged 6 + 2 ^ 224 * staged 7 + 2 ^ 256 * staged 8 + 2 ^ 288 * staged 9 + 2 ^ 320 * staged 10 + 2 ^ 352 * staged 11)
    let permutes : Prop := ∀ x, x < 64 → ∃ c, c < 64 ∧ (formed.extractLsb' (6 * c) 6).toNat = x
    (s.pathTurns ag hubAddr = none →
    ((∃ n : Dealer, ag = .dealer n) ∨ ag = .loader ∨ ag = .gardener →
      (v.toNat / 2 ^ 16 ≤ 11 → Answers (.arrayHselWrite ag v) ag 0 0 s (fun u => u.hstage = [] ∧ u.fget ARRAY_HSTAT.STAGED = 0 ∧
        u.reg ARRAY_HSEL.reg = v ∧ s.Only [ARRAY_HSEL.reg, ARRAY_HSTAT.reg] u)) ∧
      (11 < v.toNat / 2 ^ 16 → Answers (.arrayHselWrite ag v) ag 1 0 s (fun u => u = s.event 270))) ∧
    (s.drivesTile ag tile = false → Answers (.arrayHdataWrite ag v) ag 1 0 s (fun u => u = s)) ∧
    (s.drivesTile ag tile = true → word < 11 → Answers (.arrayHdataWrite ag v) ag 0 0 s (fun u => u.hands = s.hands ∧ u.fget ARRAY_HSTAT.STAGED = 1 ∧
      u.fget ARRAY_HSEL.WORD = word + 1 ∧ (u.hstage.find? (fun p => p.1 == word)).map Prod.snd = some v ∧ s.Only [ARRAY_HSEL.reg, ARRAY_HSTAT.reg] u)) ∧
    (s.drivesTile ag tile = true → word = 11 →
      (permutes → Answers (.arrayHdataWrite ag v) ag 0 0 s (fun u => u.handLine tile hand line = formed ∧ u.hstage = [] ∧ u.fget ARRAY_HSTAT.STAGED = 0 ∧
        u.fget ARRAY_HSEL.WORD = 0 ∧ s.Only [ARRAY_HSEL.reg, ARRAY_HSTAT.reg] u)) ∧
      (¬permutes → Answers (.arrayHdataWrite ag v) ag 1 0 s (fun u => u.hands = s.hands ∧ u.hstage = [] ∧ ∃ x : State, u = x.event 270 ∧ x.fget ARRAY_HSTAT.BADLINE = 1 ∧
        x.fget ARRAY_HSTAT.STAGED = 0))) ∧
    (s.reachesRegs ag ARRAY_HDATA.reg = false → Answers (.arrayHdataRead ag) ag 1 0 s (fun u => u = s)) ∧
    (word ≤ 11 → s.reachesRegs ag ARRAY_HDATA.reg = true → Answers (.arrayHdataRead ag) ag 0 ((s.handLine tile hand line).extractLsb' (32 * word) 32).toNat s (fun u =>
      u.fget ARRAY_HSEL.WORD = (if word = 11 then 0 else word + 1) ∧ s.Only [ARRAY_HSEL.reg] u)) ∧
    ((s.pruned t.val = true ∨ s.drivesTile ag t.val = false → Answers go ag 1 0 s (fun u => u = s)) ∧
      (s.pruned t.val = false → s.drivesTile ag t.val = true → s.fget (CTU_STAT.BUSY t.val) = 0 → v ∈ [1, 3, 5, 7] →
        s.fget (CTU_ROWS.COUNT t.val) ≠ 0 → s.fget (CTU_PLANES.NPL t.val) ≠ 0 →
        (64 < s.fget (CTU_ROWS.ROW0 t.val) + s.fget (CTU_ROWS.COUNT t.val) → Answers go ag 1 0 s (fun u => u = s)) ∧
        (s.fget (CTU_ROWS.ROW0 t.val) + s.fget (CTU_ROWS.COUNT t.val) ≤ 64 → s.fget (CTU_PLANES.PBASE t.val) + s.fget (CTU_PLANES.NPL t.val) ≤ 1920 →
          (4 ≤ v.toNat → s.fget (CTU_PLANES.NPL t.val) ≤ 2 ^ s.fget (CTU_PLANES.EW t.val)) →
          ∃ u x, exec go s = .next u ∧ u.ctu t.val = some x ∧ u.fget (CTU_STAT.BUSY t.val) = 1 ∧ u.fget (CTU_STAT.DONE t.val) = 0)))) ∧
    (∀ r, s.ctu t.val = some r → r.todo = [] → r.flight = [] → ∃ u, exec (.ctuTransferDone t) s = .next (u.event t.val) ∧ u.ctu t.val = none ∧
      u.fget (CTU_STAT.BUSY t.val) = 0 ∧ u.fget (CTU_STAT.DONE t.val) = 1 ∧ u.fget (CTU_STAT.STATUS t.val) = r.status % 2 ^ (CTU_STAT.STATUS t.val).wid ∧
      u.fget (CTU_STAT.POISON t.val) = (if r.poison then 1 else 0) ∧ s.Only [CTU_STAT.reg t.val] u)

/- Stores, DRAM and background work. -/

/-- R35, R324 to R329 and R347: an access of at most 8 bytes to sound words of a store its agent owns, or of DRAM, reads or writes them; one to a
store of another owner, and a Dealer's own access at port A, answers NOT_OWNER and touches nothing; a seat reaches DRAM through its segments alone; a port A write that meets a port B write in one word is COLLIDED, counted, and
only port B's lands; while the nursery serves the bank it is counted there, with EV128. -/
def Obligations.StoreAccesses : Prop :=
  ∀ (ag : Agent) (n : Dealer) (seg : Fin 8) (a k : Nat) (v : DWord) (s : State), 0 < k → k ≤ 8 → regionOf (a + k - 1) = regionOf a →
    let clean : Prop := ∀ i, i < k → s.wordSyn (a + i) = 0
    let value := natOfBytes (s.bytes a k)
    let read : PortAcc := ⟨a, k, none⟩
    let write : PortAcc := ⟨a, k, some v⟩
    let lands (t : State) : Prop := (∀ i, i < k → t.byte (a + i) = BitVec.ofNat 8 (v.toNat / 256 ^ i)) ∧ (∀ x, (x < a ∨ a + k ≤ x) → t.byte x = s.byte x) ∧
      (∀ x, t.wordSyn x = s.wordSyn x) ∧ t.dealers = s.dealers
    (∀ b, regionOf a = .store b → (b < 32 → s.fget (BANK_STAT.WEED b) = 0) →
      ((∀ m, ag ≠ .dealer m) → s.storeStatus b ag = 0 → clean →
        Answers (.storePortAAccess ag read none) ag 0 value s (fun t => t = s) ∧
        Answers (.storePortAAccess ag write none) ag 0 0 s (fun t => lands t ∧ t.regs = s.regs)) ∧
      (s.ownerAdmits (s.storeOwner b) ag = false → b < 33 → Answers (.storePortAAccess ag read none) ag 2 0 s (fun t => t = s) ∧
        Answers (.storePortAAccess ag write none) ag 2 0 s (fun t => t = s)) ∧
      (s.storeStatus b (.dealer n) = 0 → clean →
        Answers (.storePortBAccess n seg read) (.dealer n) 0 value s (fun t => t = s) ∧
        Answers (.storePortBAccess n seg write) (.dealer n) 0 0 s (fun t => lands t ∧ t.regs = s.regs)) ∧
      (s.ownerAdmits (s.storeOwner b) (.dealer n) = false → b < 33 → Answers (.storePortBAccess n seg write) (.dealer n) 2 0 s (fun t =>
        t.st n = s.st n ||| 0x10 ∧ t.fget (ACCSTAT.STATUS n) = 2 ∧ t.fget (ACCADDR_LO.ADDR_LO n) = a % 2 ^ 32 ∧ ∀ x, t.byte x = s.byte x)) ∧
      (s.storeStatus b (.dealer n) = 0 → Answers (.storePortAAccess (.dealer n) read none) (.dealer n) 2 0 s (fun t => t = s)) ∧
      (b < 33 → (∀ m, ag ≠ .dealer m) → s.storeStatus b ag = 0 → s.storeStatus b (.dealer n) = 0 → clean → ∀ w : DWord,
        Answers (.storePortAAccess ag ⟨a, k, some w⟩ (some (n, seg, write))) ag 10 0 s (fun t => lands t ∧
          (t.fget (BANK_COLL.COUNT b) = satAdd (BANK_COLL.COUNT b).wid (s.fget (BANK_COLL.COUNT b)) 1) ∧
          (s.fget (BANK_COLL.MASK b) = 0 → s.fget (EVT_ROUTE.KIND (96 + b)) = 1 → t.fget (bitFld (EVT_PEND.reg 0) (96 + b)) = 1)))) ∧
    (∀ b, regionOf a = .store b → b < 32 → s.fget (BANK_STAT.WEED b) ∈ [2, 3, 4] → (∀ m, ag ≠ .dealer m) → s.storeStatus b ag = 0 →
      s.storeStatus b (.dealer n) = 0 → ∀ w : DWord, Answers (.storePortAAccess ag ⟨a, k, some w⟩ (some (n, seg, write))) ag 10 0 s (fun t =>
        t.fget (BANK_COLL.COUNT 32) = satAdd (BANK_COLL.COUNT 32).wid (s.fget (BANK_COLL.COUNT 32)) 1 ∧
        t.fget (BANK_COLL.COUNT b) = s.fget (BANK_COLL.COUNT b) ∧
        (s.fget (BANK_COLL.MASK 32) = 0 → s.fget (EVT_ROUTE.KIND 128) = 1 → t.fget (bitFld (EVT_PEND.reg 0) 128) = 1))) ∧
    (regionOf a = .dram → ∀ q : Fin 4,
      (s.fget DRAM_STAT.TRAIN = 2 → s.fget DRAM_STAT.SREF = 0 → s.inImageCopy a = false → s.inImageCopy (a + k - 1) = false →
        (∀ z : Fin 4, ag = .seat z → ∀ x ∈ [a, a + k - 1], s.seatGranted z x false = true ∧ s.seatGranted z x true = true) → (ag = .debug → s.fget SYS_LCS.DBG = 1) → clean →
        Answers (.dramRequest ag q read) ag 0 value s (fun t => t = s) ∧ Answers (.dramRequest ag q write) ag 0 0 s (fun t => lands t ∧ t.regs = s.regs)) ∧
      (s.fget DRAM_STAT.TRAIN = 2 → s.fget DRAM_STAT.SREF = 0 → ∀ z : Fin 4, s.seatGranted z a false = false →
        Answers (.dramRequest (.seat z) q read) (.seat z) 1 0 s (fun t => t = s)) ∧
      (s.fget DRAM_STAT.TRAIN ≠ 2 → Answers (.dramRequest ag q read) ag 3 0 s (fun t => t = s)))

/-- R328 and R330 to R332: the owner of a bank, or the Gardener, hands it over to an owner that its grant allows; with CLR every word is zeroed
and CLEARING reads 1 until the clear ends.  Another agent's write answers NOT_OWNER; one without grant, or of a bank that holds a Dealer's
context, is REFUSED.  The agent's way to the register hub is open.
The order of the refusals is log entry 40, the zeroing in the command of the handover log entry 41, and that a SPOOL register of 0 declares no
pool log entry 20: these are the model's choices. -/
def Obligations.BankHandovers : Prop :=
  ∀ (ag : Agent) (b : Fin 32) (o : BitVec 4) (s : State),
    let bank : Fin 33 := ⟨b.val, by omega⟩
    let plain := Instr.bankHandoverWrite ag bank o
    let clear := Instr.bankHandoverClear ag bank o
    let old := s.fget (BANK_OWNER.OWNER b)
    let owns : Prop := ag = .gardener ∨ (∃ n : Dealer, ag = .dealer n ∧ old = 5 + n.val) ∨ ∃ k : Fin 4, ag = .seat k ∧ old = 1 + k.val
    let context : Prop := ∃ n, n < 4 ∧ (s.fget (LBASE.BANK n) = b.val ∨ (s.fget (SPOOL.BANK n) = b.val ∧ s.reg (SPOOL.reg n) ≠ 0))
    let granted : Prop := natBit (s.fget (BANK_GRANT.GRANT b)) o.toNat = true
    let outside (x : Nat) : Prop := x < storeBase b ∨ storeBase b + 0x40000 ≤ x
    (s.pathTurns ag hubAddr = none →
    (o.toNat ≤ 9 → owns → granted → ¬context → s.fget (BANK_STAT.WEED b) = 0 →
      Answers plain ag 0 0 s (fun t => t.fget (BANK_OWNER.OWNER b) = o.toNat ∧ s.Only [BANK_OWNER.reg b] t) ∧
      Answers clear ag 0 0 s (fun t => t.fget (BANK_OWNER.OWNER b) = o.toNat ∧ t.fget (BANK_STAT.CLEARING b) = 1 ∧
        (∀ x, ¬outside x → t.byte x = 0 ∧ t.wordSyn x = 0) ∧ (∀ x, outside x → t.byte x = s.byte x ∧ t.wordSyn x = s.wordSyn x) ∧
        (∀ r, r ≠ BANK_OWNER.reg b → r ≠ BANK_STAT.reg b → t.reg r = s.reg r))) ∧
    (o.toNat ≤ 9 → ¬owns → ∀ c ∈ [plain, clear], Answers c ag 2 0 s (fun t => t = s)) ∧
    (o.toNat ≤ 9 → owns → ¬granted ∨ context → ∀ c ∈ [plain, clear], Answers c ag 1 0 s (fun t => t = s)) ∧
    (9 < o.toNat → ∀ c ∈ [plain, clear], Answers c ag 1 0 s (fun t => t = s.event 270))) ∧
    (∃ t, exec (.bankClearDone b) s = .next t ∧ t.fget (BANK_STAT.CLEARING b) = 0 ∧ s.Only [BANK_STAT.reg b] t)

/-- R334 to R338: in its window, and only there, a bank is weeded: COPY writes each word to the nursery, which folds the bank's own address, REMAP lets the nursery serve the bank, TEST leaves the
test pattern and reports a fault with EV283, BACK copies each word back, and UNMAP ends the bank's turn; EV282 ends a pass over all banks.
The pattern that TEST leaves is log entry 42. -/
def Obligations.Weeding : Prop :=
  ∀ (b : Fin 32) (faulty : Bool) (s : State),
    let bank : Fin 33 := ⟨b.val, by omega⟩
    let weed (t : State) : Nat := t.fget (BANK_STAT.WEED b)
    let i := s.weedAt
    let cell := storeBase b + 8 * i
    let spare := storeBase 32 + 8 * i
    let step := Instr.weedingStep bank faulty
    let copied (u : State) (src dst : Nat) (t : State) : Prop := t.weedAt = i + 1 ∧ t.wordData dst = u.wordData src ∧ t.wordSyn dst = foldSyn cell dst ∧
      (∀ x, x / 8 ≠ dst / 8 → t.byte x = s.byte x) ∧ t.dealers = s.dealers
    (s.weedWindow b = false → ∀ c ∈ [step, .weedRemap b, .weedUnmap b], exec c s = .next s) ∧
    (s.weedWindow b = true → weed s = 1 → i < 32768 → s.wordSyn cell = 0 → ∃ t, exec step s = .next t ∧ copied s cell spare t ∧ weed t = 1) ∧
    (s.weedWindow b = true → weed s = 1 → i = 32768 → s.gard.graft = none → ∃ t, exec (.weedRemap b) s = .next t ∧ weed t = 2 ∧ t.fget (BANK_STAT.SV 32) = 1 ∧
      t.fget (BANK_STAT.SERVES 32) = b.val ∧ t.weedAt = 0 ∧ t.serving b = 32 ∧ t.mem = s.mem) ∧
    (s.weedWindow b = true → weed s = 2 → i < 32768 → s.gard.graft = none → ∃ t, exec step s = .next t ∧ t.weedAt = i + 1 ∧ weed t = 2 ∧
      t.wordData cell = 0xAAAAAAAAAAAAAAAA ∧ (∀ x, x / 8 ≠ cell / 8 → t.byte x = s.byte x) ∧
      t.rpt = s.rpt ++ (if faulty then [{ cls := 1, kind := 1, loc := cell }] else []) ∧
      (faulty = true → s.fget (EVT_ROUTE.KIND 283) = 1 → t.fget (bitFld (EVT_PEND.reg 0) 283) = 1)) ∧
    (s.weedWindow b = true → weed s = 3 → i < 32768 → s.wordSyn spare = foldSyn cell spare → ∃ t, exec step s = .next t ∧ copied s spare cell t ∧ weed t = 3) ∧
    (s.weedWindow b = true → weed s = 3 → i = 32768 → ∃ u : State, exec (.weedUnmap b) s = .next (if (List.range 32).all (fun k => k == b.val || natBit s.weedDone k || s.fget (BANK_STAT.WEED k) == 5) &&
        natBit s.weedDone 32 then u.event 282 else u) ∧ u.fget (BANK_STAT.WEED b) = 0 ∧ u.fget (BANK_STAT.SV 32) = 0 ∧ u.weedAt = 0 ∧ u.mem = s.mem)

/-- R340 to R342: a tamper input held for 1 µs, or the glitch detector, wipes the cold frame with EV130 and its cause in COLD_STAT; a trigger
during a wipe merges; an input shorter than 0.25 µs does nothing.  A wipe that passes its read-back ends with EV129, a second failure sets
FAILED.
Inputs between the bounds are log entry 45, and the wipe in one command log entry 47: the model's choices. -/
def Obligations.ColdFrame : Prop :=
  ∀ (i : Fin 2) (ns : Nat) (s : State), s.inReset ≠ 1 →
    let inside (x : Nat) : Prop := 0x4001000000 ≤ x ∧ x < 0x4001040000
    let wiped (cause : Nat) (t : State) : Prop := t.fget COLD_STAT.WIPING = 1 ∧ t.fget COLD_STAT.CAUSE = cause ∧
      t.fget COLD_STAT.WIPES = satAdd COLD_STAT.WIPES.wid (s.fget COLD_STAT.WIPES) 1 ∧
      (∀ x, inside x → t.byte x = 0 ∧ t.wordSyn x = 0) ∧ (∀ x, ¬inside x → t.byte x = s.byte x ∧ t.wordSyn x = s.wordSyn x) ∧
      (s.fget (EVT_ROUTE.KIND 130) = 1 → t.fget (bitFld (EVT_PEND.reg 0) 130) = 1)
    (s.fget COLD_STAT.WIPING = 0 →
      (1000 ≤ ns → ∃ t, exec (.tamperInput i ns [] [] []) s = .next t ∧ wiped (1 + i.val) t) ∧
      (∃ t, exec (.glitchDetect [] [] []) s = .next t ∧ wiped 3 t)) ∧
    (s.fget COLD_STAT.WIPING = 1 → ∃ t, exec (.glitchDetect [] [] []) s = .next t ∧ t.mem = s.mem ∧ t.fget COLD_STAT.CAUSE = s.fget COLD_STAT.CAUSE ∧
      t.fget COLD_STAT.MERGED = satAdd COLD_STAT.MERGED.wid (s.fget COLD_STAT.MERGED) 1) ∧
    (∀ h p r, ns < 250 → exec (.tamperInput i ns h p r) s = .next s) ∧
    (s.fget COLD_STAT.WIPING = 1 →
      (∃ u : State, exec (.coldWipeDone true) s = .next (u.event 129) ∧ u.fget COLD_STAT.WIPING = 0 ∧ s.Only [COLD_STAT.reg] u) ∧
      (s.coldRetry = false → ∃ t, exec (.coldWipeDone false) s = .next t ∧ t.coldRetry = true ∧ s.Only [] t) ∧
      (s.coldRetry = true → ∃ t, exec (.coldWipeDone false) s = .next t ∧ t.fget COLD_STAT.WIPING = 0 ∧ t.fget COLD_STAT.FAILED = 1 ∧
        t.rpt = s.rpt ++ [{ cls := 4, kind := 4, loc := 0x4001000000 }] ∧ s.Only [COLD_STAT.reg] t))

/-- R265 to R267, R346, R349, R351 and R415: training ends with EV135 or FAILED; a scrub of DRAM works burst by burst in the device fallow and
corrects what the word code corrects; a row word located by test is rewritten with 0; a column copy moves on by 64 row words; work that does
not yield in time raises EV167.
The unit of work of a command is log entry 50, the located row word log entry 51, and that a refresh with no reserved row leaves the state as it
is log entry 49: these are the model's choices. -/
def Obligations.BackgroundWork : Prop :=
  ∀ (t : Fin 64) (bad : List (Fin 66)) (suit : Fin 4) (s : State),
    let burst := 128 * s.scrubAt
    (s.fget DRAM_STAT.TRAIN = 1 → (∃ u : State, exec (.dramTrainingDone true) s = .next ((u.event 135).milestone 4) ∧ u.fget DRAM_STAT.TRAIN = 2 ∧ s.Only [DRAM_STAT.reg] u) ∧
      ∃ u, exec (.dramTrainingDone false) s = .next u ∧ u.fget DRAM_STAT.TRAIN = 3 ∧ s.Only [DRAM_STAT.reg] u) ∧
    (s.fallow = true → s.gardState ≠ gardHALTED → s.fget DRAM_STAT.TRAIN = 2 → s.fget DRAM_STAT.SREF = 0 → s.scrubAt + 1 < 2 ^ 30 → (∀ x, burst ≤ x → x < burst + 128 → s.wordSyn x = 0) →
      ∀ c ∈ [Instr.dramScrubStep, .backgroundStep .dramScrub false],
        ∃ u, exec c s = .next u ∧ u.scrubAt = s.scrubAt + 1 ∧ u.fget DRAM_SCRUB.PROG = (s.scrubAt + 1) / 16384 % 2 ^ DRAM_SCRUB.PROG.wid ∧ s.Only [DRAM_SCRUB.reg] u) ∧
    (s.fallow = false → exec .dramScrubStep s = .next s ∧ exec (.backgroundStep .dramScrub true) s = .next s) ∧
    (exec (.backgroundStep .telemetry false) s = .next s) ∧
    (s.fget DRAM_STAT.RSV = 0 → exec (.dramRefresh suit) s = .next s) ∧
    (s.pruned t = false → s.tileQuiet t = true → s.gardState ≠ gardHALTED →
      (∀ word, s.gard.tests.find? (fun a => tileOfAddr a == t.val) = some word →
        ∃ u, exec (.planeScrubStep t []) s = .next u ∧ u.wordData word = 0 ∧ u.wordSyn word = 0 ∧ word ∉ u.gard.tests ∧
          (∀ x, x / 8 ≠ word / 8 → u.byte x = s.byte x)) ∧
      (s.gard.tests.find? (fun a => tileOfAddr a == t.val) = none →
        let i := Sparse.get 0 s.gard.scrubPos t.val
        let a := rowWordAddr (i / 64) (64 * (t.val / 8) + i % 64) (t.val % 8)
        i + 1 < columnWords → s.wordSyn a = 0 → ∃ u, exec (.planeScrubStep t bad) s = .next u ∧ Sparse.get 0 u.gard.scrubPos t.val = i + 1 ∧ s.Only [] u)) ∧
    (∀ c, s.gard.copies.find? (fun x => x.tile == t.val) = some c → c.prog < columnWords → s.tileQuiet t = true → s.gardState ≠ gardHALTED →
      ∀ ended, ∃ u, exec (.graftCopyStep t ended) s = .next u ∧ { c with prog := if ended then 0 else min columnWords (c.prog + 64) } ∈ u.gard.copies ∧ s.Only [] u) ∧
    (∀ e : Fin 320, exec (.backgroundYieldOverdue e) s = .next ((s.event 167).report { cls := 10, kind := 10, loc := e.val }))

/- Cameras, displays and tell-tales. -/

/-- R269 to R275, R278 and R279: a frame start opens a frame in the lowest slot that is neither latched nor the newest; a long packet of the frame's
size joins the lines on their way to DRAM, one with a bad CRC marks the frame; a frame end publishes a complete frame with EV180 + c and discards
a bad one with EV188 + c; a line fills its slot's row with zeros to the end of the pitch; the sync pulse is asserted and deasserted.
Bad frames and the buffer are log entries 67 and 68, and the place of Y, U and V in the command's pixel log entry 148: the model's choices. -/
def Obligations.Cameras : Prop :=
  ∀ (c : Fin 8) (i : Fin 2) (vc : Fin 16) (dt : BitVec 6) (px : List (BitVec 24)) (f : OpenFrame) (s : State),
    let r := s.ctx c i
    let packet (crcOk : Bool) := Instr.csi2LongPacket c vc dt px crcOk false
    let height := s.fget (CAM_CTX_SIZE.HEIGHT c i)
    let element (v : BitVec 24) (x : Nat) : BitVec 16 :=
      let raw := v.extractLsb' 0 16
      let luma := v.extractLsb' 0 8
      let chroma := if x % 2 = 0 then v.extractLsb' 8 8 else v.extractLsb' 16 8
      if dt = 0x1E then chroma ++ luma else if dt = 0x2B then raw &&& 0x3FF else if dt = 0x2C then raw &&& 0xFFF else if dt = 0x2D then raw &&& 0x3FFF else raw
    let pixels := px.zipIdx.map (fun p => element p.1 p.2)
    let line : CamLine := { cam := c, ctx := i, slot := f.slot, row := f.lines, px := pixels }
    (s.camOn c = true →
      (s.ctxsOf c vc = [] → ∀ b num, ∀ x ∈ [packet true, packet false, .csi2FrameStart c vc num b, .csi2FrameEnd c vc b], ∃ t, exec x s = .next t ∧
        t.fget (CAM_STAT.DROPPED c) = satAdd (CAM_STAT.DROPPED c).wid (s.fget (CAM_STAT.DROPPED c)) 1 ∧ s.Only [CAM_STAT.reg c] t ∧ t.ctxs = s.ctxs) ∧
      (s.ctxsOf c vc = [i.val] →
        (r.opn = none → ∀ (num : BitVec 16) (bad : Bool), ∃ t g, exec (.csi2FrameStart c vc num bad) s = .next t ∧ (t.ctx c i).opn = some g ∧ g.slot < 4 ∧
          (s.fget (CAM_CTX_LATCH.VALID c i) = 1 → g.slot ≠ s.fget (CAM_CTX_LATCH.SLOT c i)) ∧ (∀ p, r.newest = some p → g.slot ≠ p.1) ∧
          (∀ k, k < g.slot → (s.fget (CAM_CTX_LATCH.VALID c i) = 1 ∧ s.fget (CAM_CTX_LATCH.SLOT c i) = k) ∨ ∃ m, r.newest = some (k, m)) ∧
          g.fnum = num.toNat ∧ g.lines = 0 ∧ (g.bad = 0 ↔ bad = false) ∧ (t.ctx c i).newest = r.newest ∧ s.Only [] t) ∧
        (r.opn = some f → s.fget (CAM_CTX_FMT.DT c i) = dt.toNat → px.length = s.fget (CAM_CTX_SIZE.WIDTH c i) → f.lines < height → f.bad = 0 →
          s.camHeld c i + 2 * px.length ≤ 65536 →
          (∃ t, exec (packet true) s = .next t ∧ (t.ctx c i).opn = some { f with lines := f.lines + 1 } ∧ s.Only [] t ∧
            t.camPend = s.camPend ++ [line]) ∧
          ∃ t, exec (packet false) s = .next t ∧ (t.ctx c i).opn = some { f with lines := f.lines + 1, bad := 2 } ∧ t.camPend = s.camPend ∧ s.Only [] t) ∧
        (r.opn = some f → f.bad = 0 → f.lines = height → f.pulse = none ∨ f.pulse = some (s.fget TICK_COUNT.COUNT) →
          ∃ t, exec (.csi2FrameEnd c vc false) s = .next t ∧ t.ctx c i = { opn := none, newest := some (f.slot, f.fnum), fresh := true } ∧
            s.Signals (180 + c) t ∧ ∀ a, t.byte a = s.byte a) ∧
        (r.opn = some f → f.bad ≠ 0 ∨ f.lines ≠ height →
          ∃ t, exec (.csi2FrameEnd c vc false) s = .next t ∧ t.ctx c i = { r with opn := none } ∧ s.Signals (188 + c) t ∧ ∀ a, t.byte a = s.byte a))) ∧
    (s.tagless (.camera c) = true → exec (.cameraLineWritten c i) s = .next s) ∧
    (∀ (l : CamLine) (rest : List CamLine), s.camPend = l :: rest → l.cam = c → l.ctx = i → s.fget DRAM_STAT.TRAIN = 2 → s.fget DRAM_STAT.SREF = 0 →
      let width := s.fget (CAM_CTX_SIZE.WIDTH c i)
      let pitch := (2 * width + 127) / 128 * 128
      let a := 4096 * s.fget (CAM_CTX_RING.BASE c i) + l.slot * ((pitch * height + 4095) / 4096 * 4096) + l.row * pitch
      s.tagless (.camera c) = false →
      (∀ x, a ≤ x → x < a + pitch → regionOf x = .dram ∧ s.inImageCopy x = false ∧ s.pathTurns (.camera c) x = none) →
      ∃ t, exec (.cameraLineWritten c i) s = .next t ∧ t.camPend = rest ∧
        (∀ j, j < pitch / 2 → natOfBytes (t.bytes (a + 2 * j) 2) = (l.px.getD j 0).toNat) ∧ (∀ x, a ≤ x → x < a + pitch → t.wordSyn x = 0) ∧
        (∀ x, (x < a ∨ a + pitch ≤ x) → t.byte x = s.byte x) ∧ t.regs = s.regs) ∧
    (s.fget (CAM_SYNC.EN c) = 1 → ∃ t, exec (.fsyncPulseStart c) s = .next t ∧ natBit t.fsync c = true ∧
      (∀ k, k ≠ c.val → natBit t.fsync k = natBit s.fsync k) ∧ s.Only [] t) ∧
    (∃ t, exec (.fsyncPulseEnd c) s = .next t ∧ natBit t.fsync c = false ∧ (∀ k, k ≠ c.val → natBit t.fsync k = natBit s.fsync k) ∧ s.Only [] t) ∧
    (s.camOn c = true → ∃ t, exec (.cameraLanesStopState c) s = .next t ∧ t.fget (CAM_STAT.LINK c) = 1 ∧ s.Only [CAM_STAT.reg c] t)

/-- R284, R287, R291, R293, R307 and R476: a Dealer commits layers that it owns; a frame start latches each band's front buffer and raises
EV170 + p; a line is read from the buffer of its band through LUT and dither; in SAFE HOLD pipe 0 sends the fault frame; a lost link raises
EV177 with a report.  A frame-locked pipe, and DSP0 as the tick source, begins one frame of each tick.  A panel reading that has not come when the
next frame's last line is sent, or when the link is lost, is missing (R315).  The agent's way to the register hub is open.
A line as one command is log entry 75, the opaque coder log entry 76, and that a frame start which is not due is no event log entry 152: these
are the model's choices. -/
def Obligations.Displays : Prop :=
  ∀ (ag : Agent) (p : Fin 6) (v : Word) (s : State),
    let commit := Instr.dspCommitWrite ag p v
    let owned (n : Dealer) : Prop := ∀ l, l < 16 → v.getLsbD l = true → s.fget (DSP_LAYER.OWNER p l) = n.val ∧
      if s.full then s.fget (DSP_LAYER.EN p l) = 1 else l = 0
    let r := s.pipe p
    let width := s.fget (DSP_HTIM.ACTIVE p)
    let missing : Bool := s.readsBack p && r.sink && r.last.isSome
    let fault : Report := { cls := 9, kind := 9, loc := p }
    let due : Prop := s.readsBack p = true ∧ r.sink = true ∧ r.whole = true ∧ r.last.isSome = true ∧ r.line + 1 = s.fget (DSP_VTIM.ACTIVE p)
    (s.pathTurns ag hubAddr = none → ∀ n : Dealer, ag = .dealer n → v.toNat < 2 ^ 16 →
      (owned n → Answers commit ag 0 0 s (fun t => t.fget (DSP_CMTD.LAYERS p) = s.fget (DSP_CMTD.LAYERS p) ||| v.toNat ∧ s.Only [DSP_CMTD.reg p] t)) ∧
      (¬owned n → Answers commit ag 1 0 s (fun t => t = s))) ∧
    (s.pathTurns ag hubAddr = none → (∀ n, ag ≠ .dealer n) → Answers commit ag 1 0 s (fun t => t = s)) ∧
    (s.safeHold = false → s.pipeUsed p = true → s.frameDue p = false → exec (.pipeFrameStart p) s = .next s) ∧
    (s.safeHold = false → s.pipeUsed p = true → s.frameDue p = true → ∃ t, exec (.pipeFrameStart p) s = .next t ∧ (t.pipe p).scan = r.front ∧ (t.pipe p).live = true ∧
      (t.pipe p).line = 0 ∧ (t.pipe p).sent = true ∧ (t.pipe p).whole = true ∧ t.fget (DSP_STAT.LOCKED p) = 1 ∧ s.Signals (170 + p) t ∧ (∀ a, t.byte a = s.byte a) ∧ t.dealers = s.dealers) ∧
    (s.safeHold = true → s.fget SYS_STRAP.BOOTCFG < 15 →
      (∃ t, exec (.pipeFrameStart 0) s = .next t ∧ (t.pipe 0).live = true ∧ (t.pipe 0).line = 0 ∧ s.Signals 170 t) ∧
      ((s.pipe 0).live = true → (s.pipe 0).line < 480 → ∀ missing, ∃ t px, exec (.pipeLine 0 missing) s = .next (t.emit (.pixels 0 (s.pipe 0).line px)) ∧
        px.length = (romSize (s.fget SYS_STRAP.BOOTCFG)).1 ∧ (∀ x ∈ px, x ∈ [0, 1020 * (2 ^ 20 + 2 ^ 10 + 1), 768 * 2 ^ 20]) ∧
        (t.pipe 0).line = (s.pipe 0).line + 1 ∧ s.Only [] t)) ∧
    (s.safeHold = false → s.pipeUsed p = true → r.live = true → r.line < s.fget (DSP_VTIM.ACTIVE p) → r.boxes = [] → ¬due →
      let pps := (List.range 32).map (fun i => s.reg (DSP_PPS.reg p i))
      (s.layersOf p (r.line / 64) = [] → s.fget (DSP_CFG.DSC p) = 0 → ∃ t, exec (.pipeLine p 0) s = .next (t.emit (.pixels p r.line (List.replicate width 0))) ∧
        (t.pipe p).line = r.line + 1 ∧ s.Only [] t) ∧
      (s.layersOf p (r.line / 64) = [] → s.fget (DSP_CFG.DSC p) = 1 →
        ∃ t, exec (.pipeLine p 0) s = .next (t.emit (.coded p r.line (Config.dscBytes pps r.enc (List.replicate width 0)))) ∧
          (t.pipe p).line = r.line + 1 ∧ (t.pipe p).enc = Config.dscNext pps r.enc (List.replicate width 0) ∧ s.Only [] t) ∧
      (let code := Sparse.get 4 r.scan (r.line / 64)
       let a := 4096 * s.fget (DSP_FB.BASE p code) + r.line * (256 * s.fget (DSP_FBP.PITCH p))
       s.layersOf p (r.line / 64) ≠ [] → code < 4 → regionOf a = .dram → regionOf (a + 4 * width + 8) = .dram → s.dramStatus (.pipe p) a false = 0 →
        s.fget (DSP_CFG.DSC p) = 0 → (∀ x, a ≤ x → x < a + 4 * width + 8 → s.wordSyn x = 0 ∧ s.pathTurns (.pipe p) x = none) →
        ∃ t px, exec (.pipeLine p 0) s = .next (t.emit (.pixels p r.line px)) ∧ px.length = width ∧
          (∀ x, x < width → px[x]? = some (s.lutPixel p x r.line ((s.byte (a + 4 * x)).toNat, (s.byte (a + 4 * x + 1)).toNat, (s.byte (a + 4 * x + 2)).toNat))) ∧
          (t.pipe p).line = r.line + 1 ∧ s.Only [] t)) ∧
    (s.safeHold = false → s.pipeUsed p = true → r.live = true → r.line < s.fget (DSP_VTIM.ACTIVE p) → r.boxes = [] → due →
      s.layersOf p (r.line / 64) = [] → ∃ t, exec (.pipeLine p 0) s = .next (t.emit (.pixels p r.line (List.replicate width 0))) ∧
        t.fget (TELL_RB.MISSES p) = satAdd (TELL_RB.MISSES p).wid (s.fget (TELL_RB.MISSES p)) 1 ∧ t.rpt = s.rpt ++ [fault] ∧
        (t.pipe p).line = r.line + 1 ∧ (t.pipe p).last.isSome = true ∧ s.Only [TELL_RB.reg p] t) ∧
    (s.fget (DSP_STAT.LINKUP p) = 1 → ∃ t, exec (.displayLinkLost p) s = .next t ∧ t.fget (DSP_STAT.LINKUP p) = 0 ∧ t.fget (DSP_STAT.LINKLOST p) = 1 ∧
      s.Signals 177 t ∧ t.rpt = s.rpt ++ (if missing then [fault] else []) ++ [fault] ∧
      (missing = true → t.fget (TELL_RB.MISSES p) = satAdd (TELL_RB.MISSES p).wid (s.fget (TELL_RB.MISSES p)) 1) ∧
      (t.pipe p).sink = false ∧ (t.pipe p).last = none) ∧
    (s.safeHold = true → ∀ sup,
      (p.val ≠ 0 ∨ s.fget SYS_STRAP.BOOTCFG = 15 → exec (.displayLinkUp p sup) s = .next s) ∧
      (p.val = 0 → s.fget SYS_STRAP.BOOTCFG < 15 → ∃ t, exec (.displayLinkUp p sup) s = .next t ∧ t.fget (DSP_STAT.LINKUP p) = 1 ∧ t.outs = s.outs ∧
        s.Only [DSP_STAT.reg p, TELL_RB.reg p] t)) ∧
    (s.safeHold = false → s.pipeUsed p = true → ∀ sup, ∃ t, exec (.displayLinkUp p sup) s = .next t ∧ t.fget (DSP_STAT.LINKUP p) = 1 ∧
      (p.val < 4 → t.fget (TELL_RB.SUP p) = if sup then 1 else 0) ∧ (t.pipe p).sink = s.readsBack p ∧ (t.pipe p).whole = false ∧ (t.pipe p).last = none ∧
      t.outs = s.outs ++ (if s.fget (DSP_CFG.DSC p) = 1 then [.pps p ((List.range 32).map (fun i => s.reg (DSP_PPS.reg p i)))] else []) ∧ s.Only [DSP_STAT.reg p, TELL_RB.reg p] t)

/-- R300 to R303 and R311 to R315: a tell-tale request with valid CRC, counter and state sets the tell-tale's state; one with a bad CRC or
counter is recorded in the completion's result set, the latter entering the safe state; an expired timeout enters the safe state with EV210; a
verdict that fails raises EV196 + p and prepares a notice; GO commits a Dealer's staged hand-offs; a panel mismatch raises EV178.  A request is
applied at once where no command waits ahead of it and a completion slot is free.  The agent's way to the register hub is open.
These are the model's readings: the request taken at once is log entry 151; the timeout as 1,000,000 cycles of the model's count a ms, with no
event before it, log entry 150; and a reading with another frame's count as a miss log entry 149. -/
def Obligations.Telltales : Prop :=
  ∀ (seat : Fin 4) (seq : BitVec 16) (e : Nat) (w : Word) (i : Fin 256) (other : Agent) (s : State),
    let st := w.toNat / 2 ^ 8 % 16
    let cnt := w.toNat / 2 ^ 12 % 16
    let entries : Vector Word 12 := (Vector.replicate 12 (0 : Word)).setIfInBounds e w
    let u := (s.sendCommand seat (tellSetBytes seq entries)).fset (SEAT_CMDIDX.CI seat) (s.fget (SEAT_CMDIDX.CI seat) + 1)
    let completes (status result : Nat) (P : State → Prop) : Prop :=
      ∃ t, exec (.telltaleSet seat ⟨seq, entries⟩) s = .next (t.complete seat seq.toNat 2 status result) ∧ P t
    let safe (code : Nat) (u t : State) : Prop := t.fget (TELL_ST.SAFE i) = 1 ∧ t.fget (TELL_ST.CNTV i) = 0 ∧
      t.fget (TELL_SST.STATE i) = s.fget (TELL_DEF_W2.SAFE i) ∧ u.Signals 210 t ∧
      { kind := 2, pipe := s.fget (TELL_DEF_W0.PIPE i), id := i.val, flags := 0, code := code, data := 0 } ∈ t.notices
    (e < 12 → w.toNat % 2 ^ 8 = i.val → w.getLsbD 24 = true → s.portTakes seat = true → s.waiting seat = 0 → s.fget GARD_STAT.STATE ≠ 1 →
      ringCount (s.fget (SEAT_CMPIDX.PI seat)) (s.fget (SEAT_CMPIDX.CI seat)) < 64 →
      (w.toNat / 2 ^ 25 ≠ 0 → completes 1 (3 * 2 ^ 56) (fun t => t = u)) ∧
      (w.toNat / 2 ^ 25 = 0 → w.toNat / 2 ^ 16 % 256 ≠ entryCrc seat w.toNat →
        completes 0 (2 ^ (32 + e)) (fun t => t = u.event (206 + seat))) ∧
      (w.toNat / 2 ^ 25 = 0 → w.toNat / 2 ^ 16 % 256 = entryCrc seat w.toNat → s.fget (TELL_DEF_W0.EN i) = 1 → s.fget (TELL_DEF_W0.SRC i) = seat.val →
        ((s.fget (TELL_ST.CNTV i) = 1 → cnt = (s.fget (TELL_ST.CNT i) + 1) % 16) → st ≤ s.fget (TELL_DEF_W2.NST i) →
          s.fget (TELL_ST.SAFE i) = 0 ∨ s.fget (TELL_ST.CNTV i) = 1 →
          completes 0 (2 ^ e) (fun t => t.fget (TELL_SST.STATE i) = st % 2 ^ (TELL_SST.STATE i).wid ∧ t.fget (TELL_ST.SAFE i) = 0 ∧
            t.fget (TELL_ST.CNT i) = cnt ∧ t.fget (TELL_ST.CNTV i) = 1 ∧ (t.tell i).running = true ∧ (t.tell i).start = s.now ∧ u.Only [TELL_ST.reg i, TELL_SST.reg i] t)) ∧
        (s.fget (TELL_ST.SAFE i) = 0 → (s.fget (TELL_ST.CNTV i) = 1 ∧ cnt ≠ (s.fget (TELL_ST.CNT i) + 1) % 16) ∨ s.fget (TELL_DEF_W2.NST i) < st →
          completes 0 (2 ^ (16 + e)) (fun t => safe 2 s t ∧ s.Signals (206 + seat) t)))) ∧
    (s.fget (TELL_DEF_W0.EN i) = 1 → s.fget (TELL_DEF_W0.SRC i) < 4 → (s.tell i).running = true → s.fget (TELL_ST.SAFE i) = 0 →
      let late := (s.tell i).expired = true ∨ (s.tell i).start + 1000000 * s.fget (TELL_DEF_W0.TIMEOUT i) ≤ s.now
      (¬late → exec (.telltaleTimeout i) s = .next s) ∧ (late → ∃ t, exec (.telltaleTimeout i) s = .next t ∧ safe 1 s t ∧ s.Signals (202 + s.fget (TELL_DEF_W0.SRC i)) t)) ∧
    (∀ n : Dealer,
      (s.pathTurns (.dealer n) hubAddr = none → Answers (.tellHcmtWrite (.dealer n) 1) (.dealer n) 0 0 s (fun t => t.regs = s.regs ∧ t.mem = s.mem ∧ ∀ b, b < 64 →
        t.dbox b = if s.fget (TELL_DBOX_W0.EN b) = 1 ∧ s.fget (TELL_DBOX_W0.OWNER b) = n.val then
          { s.dbox b with cmt := some (decide (s.fget (TELL_HBOX.ACT b) = 1), s.fget (TELL_HBOX.SEL b)) } else s.dbox b)) ∧
      (s.pathTurns other hubAddr = none → (∀ m, other ≠ .dealer m) → Answers (.tellHcmtWrite other 1) other 1 0 s (fun t => t = s))) ∧
    (∀ (p : Fin 6) (q : BoxRec), (s.pipe p).boxes = [q] → q.key = i.val → q.ended = false → q.y + q.h ≤ (s.pipe p).line →
      let crc := q.crc ^^^ 0xFFFFFFFF
      (q.ue = false → crc = q.gold → q.notSent = false → ∃ t, exec (.tallyVerdict p false i) s = .next t ∧ t.fget (TELL_ST.VERD i) = 1 ∧
        (t.pipe p).boxes = [{ q with ended := true }] ∧ s.Only [TELL_ST.reg i] t) ∧
      (q.ue = true ∨ crc ≠ q.gold → ∃ t, exec (.tallyVerdict p false i) s = .next t ∧ t.fget (TELL_ST.VERD i) = 2 ∧ t.fget (TELL_ST.FBL i) = 1 ∧
        s.Signals (196 + p) t ∧ (s.fget (TELL_ST.FBL i) = 0 → s.Signals 211 t) ∧
        t.fget (TELL_TAL.FAILS p) = satAdd (TELL_TAL.FAILS p).wid (s.fget (TELL_TAL.FAILS p)) 1 ∧ t.fget (TELL_TAL.LASTID p) = i.val ∧
        { kind := 1, pipe := p, id := i.val, flags := 0, code := 2, data := crc } ∈ t.notices)) ∧
    (∀ (x : Notice) (rest : List Notice), s.notices = x :: rest → s.fget (SEAT_CFG.EN seat) = 1 → s.fget (SEAT_CFG.SAFE seat) = 1 →
      ringCount (s.fget (SEAT_NTCIDX.PI seat)) (s.fget (SEAT_NTCIDX.CI seat)) < 64 →
      ∃ t, exec .safetyNoticePost s = .next t ∧ t.notices = rest ∧ t.fget (SEAT_NTCIDX.PI seat) = (s.fget (SEAT_NTCIDX.PI seat) + 1) % 256 ∧ t.mem = s.mem) ∧
    (∀ p : Fin 4, (s.pipe p).last = none → ∀ x, exec (.panelReadback p x) s = .next s) ∧
    (∀ (p : Fin 4) (own : SinkCrc), s.readsBack p = true → (s.pipe p).sink = true → (s.pipe p).last = some own →
      (∃ t, exec (.panelReadback p (some own)) s = .next t ∧ (t.pipe p).last = none ∧ s.Only [] t) ∧
      (∀ x : SinkCrc, x ≠ own → x.count = own.count → ∃ t, exec (.panelReadback p (some x)) s = .next t ∧ s.Signals 178 t ∧
        t.fget (TELL_RB.FAILS p) = satAdd (TELL_RB.FAILS p).wid (s.fget (TELL_RB.FAILS p)) 1 ∧ t.rpt = s.rpt ++ [{ cls := 9, kind := 9, loc := p }]) ∧
      ∀ x : Option SinkCrc, (∀ y, x = some y → y.count ≠ own.count) → ∃ t, exec (.panelReadback p x) s = .next t ∧
        t.fget (TELL_RB.MISSES p) = satAdd (TELL_RB.MISSES p).wid (s.fget (TELL_RB.MISSES p)) 1 ∧
        t.rpt = s.rpt ++ [{ cls := 9, kind := 9, loc := p }] ∧ s.Only [TELL_RB.reg p] t)

/- The Trellis. -/

/-- R358 to R362, R366 to R368, R371 to R375, R377 and R378: a request that arrives in its turn, or that its agent issues now under a free tag,
and whose way to the router of its DEST meets nothing, is served there on sound DRAM and answered under its tag; a malformed one is REFUSED; the
absorber of its target's port, or of the port that faces a closed router on its way, answers POISON; a header that a link makes uncorrectable ends
its packet, a correctable one goes on; an event packet reaches its seat; an answer frees its tag; a timed-out tag stays held until its release; the
Gardener's table swap takes every staged entry; a router isolates and loses what is inside it; a crossing that drops its token has its recorded
requests absorbed and its tags waiting.
The model's choices: link errors as operands (log entry 62), the answer for a free tag (58), the recorded requests (136), no event where a packet
is out of its turn, has no way, or names a tag that is not free (137), the drain and the loss at the table swap and the isolation (63). -/
def Obligations.Trellis : Prop :=
  ∀ (ag : Agent) (p : Packet) (n : Dealer) (tag : Fin 2048) (seg : Fin 8) (s : State),
    let read := Instr.trellisRd ag p []
    let write := Instr.trellisWr ag p []
    let rest := s.net.erase p
    let a := p.addr
    let home := routerOf p.dest
    let way := s.way (s.sentBefore p) home meshHops (routerOf p.src)
    let clear := p.dest % 8 < 6 ∧ way = none
    let intact := ∀ b ∈ p.poison, b = false
    let sends (cmd : Nat) (units : Bool) : Prop := s.requested ag p cmd units = some p ∧ ∀ x, (s.agentPort ag).bind s.portTurns ≠ some (.absorbed x)
    let issues (cmd : Nat) (units : Bool) : Prop := sends cmd units ∧ clear
    let held (t : State) : Prop := (t.tag p.tag).isSome = true
    let units := (List.range p.count).map (fun i => s.doubleAt (a + 8 * i))
    let d := p.data.getD 0 0
    let lands (t : State) : Prop := (∀ i, i < 8 → t.byte (a + i) = if p.bef.testBit i then BitVec.ofNat 8 (d.toNat / 256 ^ i) else s.byte (a + i)) ∧
      (∀ x, (x < a ∨ a + 8 ≤ x) → t.byte x = s.byte x) ∧ ∀ x, t.wordSyn x = s.wordSyn x
    (s.tags.length < 2047 → (∀ q, s.targetPort p = some q → s.PortOpen q.1 q.2) →
      (malformed p = false → regionOf a = .dram → s.targetPort p = some (home, 0) → (∀ x wr, a ≤ x → x < a + 8 * max 1 p.count → regionOf x = .dram ∧ s.dramStatus ag x wr = 0 ∧ s.wordSyn x = 0) →
        (p.cmd = 0 → issues 0 false → ∃ t, exec read s = .next t ∧ t.net = rest ++ [answerOf p 5 0 units (List.replicate p.count false)] ∧ held t ∧
          t.mem = s.mem ∧ t.syn = s.syn) ∧
        (p.count = 1 → p.data = [d] → p.poison = [] →
          (p.cmd = 1 → issues 1 true → ∃ t, exec write s = .next t ∧ t.net = rest ++ [answerOf p 6 0 [] []] ∧ held t ∧ lands t) ∧
          (p.cmd = 2 → issues 2 true → ∃ t, exec (.trellisWrp ag p []) s = .next t ∧ t.net = rest ∧ t.tags = s.tags ∧ lands t) ∧
          (p.cmd = 3 → issues 3 true → p.bef = 0xFF → ∃ t, exec (.trellisFadd ag p []) s = .next t ∧
            t.net = rest ++ [answerOf p 5 0 [s.doubleAt a] [false]] ∧ held t ∧
            t.doubleAt a = s.doubleAt a + d ∧ ∀ x, (x < a ∨ a + 8 ≤ x) → t.byte x = s.byte x) ∧
          (p.cmd = 3 → issues 3 true → p.bef = 0xF0 → ∃ t, exec (.trellisFadd ag p []) s = .next t ∧
            t.net = rest ++ [answerOf p 5 0 [BitVec.ofNat 64 ((s.wordAt (a + 4)).toNat * 2 ^ 32)] [false]] ∧
            t.wordAt (a + 4) = s.wordAt (a + 4) + BitVec.ofNat 32 (d.toNat / 2 ^ 32) ∧ ∀ x, (x < a + 4 ∨ a + 8 ≤ x) → t.byte x = s.byte x))) ∧
      (malformed p = true → (p.cmd = 0 → issues 0 false → ∃ t, exec read s = .next t ∧ t.net = rest ++ [answerOf p 5 1 [] []] ∧ t.mem = s.mem) ∧
        (p.cmd = 1 → issues 1 true → intact → ∃ t, exec write s = .next t ∧ t.net = rest ++ [answerOf p 6 1 [] []] ∧ t.mem = s.mem))) ∧
    (p.cmd = 0 → s.tags.length < 2047 →
      let poisoned (x : Nat) (t : State) : Prop := t.mem = s.mem ∧ s.Signals (136 + x) t ∧
        answerOf p 5 5 (List.replicate p.count (BitVec.allOnes 64)) (List.replicate p.count true) ∈ t.net ∧
        t.fget (TRL_ABS.COUNT x) = satAdd (TRL_ABS.COUNT x).wid (s.fget (TRL_ABS.COUNT x)) 1
      (∀ q, issues 0 false → s.targetPort p = some q → s.fget (TRL_RTR.STATE q.1) = 0 → natBit (s.fget (TRL_RTR.ABSP q.1)) (4 + q.2) = true →
        q.1 < 24 → ∃ t, exec read s = .next t ∧ poisoned q.1 t) ∧
      (∀ x : Fin 24, sends 0 false → p.dest % 8 < 6 → way = some (.absorbed x) → ∃ t, exec read s = .next t ∧ poisoned x t) ∧
      (∀ (q : Fin 24) (port : Fin 8) (flips : List (Fin 80)), issues 0 false → q.val = routerOf p.src → 4 ≤ port.val →
        (unitReceived (headWord p) false flips).2 = .ue →
        ∃ t, exec (.trellisRd ag p [⟨q, port, 0, flips, 0⟩]) s = .next t ∧ held t ∧ t.mem = s.mem ∧ s.Signals 163 t ∧
        t.fget (TRL_LINK.UE q) = satAdd (TRL_LINK.UE q).wid (s.fget (TRL_LINK.UE q)) 1 ∧
        t.rpt = s.rpt ++ [{ cls := 8, kind := 7, loc := 8 * q.val + port.val, ue := true }]) ∧
      (∀ (q : Fin 24) (port : Fin 8) (f : Fin 80), issues 0 false → q.val = routerOf p.src → 4 ≤ port.val → malformed p = true →
        (∀ q, s.targetPort p = some q → s.PortOpen q.1 q.2) →
        ∃ t, exec (.trellisRd ag p [⟨q, port, 0, [f], 0⟩]) s = .next t ∧ t.net = rest ++ [answerOf p 5 1 [] []] ∧ t.mem = s.mem ∧
          t.fget (TRL_LINK.CE q) = satAdd (TRL_LINK.CE q).wid (s.fget (TRL_LINK.CE q)) 1 ∧
          t.rpt = s.rpt ++ [{ cls := 7, kind := 7, loc := 8 * q.val + port.val }])) ∧
    (s.requested ag p 0 false = none → exec read s = .next s) ∧
    (∀ k : Fin 4, p.cmd = 4 → p.data = [] → p.poison = [] → p.count = 0 → p.tag = 0 → p.status = 0 → p.res = 0 → p.evnum < 320 → s.inTurn p = true →
      clear → home = (s.seatPort k).1 →
      s.fget (EVT_ROUTE.KIND p.evnum) = 2 → s.fget (EVT_ROUTE.SEAT p.evnum) = k.val → s.PortOpen (s.seatPort k).1 (s.seatPort k).2 →
      s.pcieSeat k = true → s.fget (SEAT_CFG.NTCP k) = 0 → s.fget (SEAT_STAT.PORTUP k) = 1 → (s.pcieFn k).msixOn = true →
      let v := s.fget ⟨SEAT_EVVEC.reg k (p.evnum / 4), 8 * (p.evnum % 4), 6⟩
      (s.vectorMasked k v = false → (s.pcieFn k).busOn = true → ∃ t, exec (.trellisEvt p []) s = .next t ∧ t.outs = s.outs ++ [.msix k v] ∧ t.net = rest ∧ t.regs = s.regs) ∧
      (s.vectorMasked k v = true → ∃ t, exec (.trellisEvt p []) s = .next t ∧ t.outs = s.outs ∧ t.net = rest ∧
        t.fget ⟨SEAT_PBA.reg k (v / 32), v % 32, 1⟩ = 1)) ∧
    (∀ port rec, s.tagPort p.tag = some port → s.PortOpen port.1 port.2 → s.tag p.tag = some rec → rec.ag = .dealer n → rec.orphan = false →
      rec.timedOut = false → s.inTurn p = true → clear → home = port.1 → intact →
      (asRow p 5 true = p → p.status = 0 → ∃ t, exec (.trellisRdresp p [] seg) s = .next t ∧ t.tag p.tag = none ∧ t.net = rest ∧
        t.outs = s.outs ++ [.status (.dealer n) 0 d.toNat] ∧ s.regs = t.regs) ∧
      (asRow p 6 false = p → p.status = 4 → ∃ t, exec (.trellisWrack p [] seg) s = .next t ∧ t.tag p.tag = none ∧ t.st n = s.st n ||| 0x10 ∧
        t.fget (ACCSTAT.STATUS n) = 4 ∧ t.fget (ACCADDR_LO.ADDR_LO n) = rec.addr % 2 ^ 32 ∧ ∀ x, t.byte x = s.byte x)) ∧
    (∀ rec, s.tag tag = some rec → rec.orphan = false →
      (rec.timedOut = false → rec.ag = .dealer n → ∃ t, exec (.tagTimeout tag seg) s = .next t ∧ t.tag tag = some { rec with timedOut := true } ∧
        t.st n = s.st n ||| 0x10 ∧ t.fget (ACCSTAT.STATUS n) = 9 ∧ t.fget TRL_LATE.TIMEOUTS = satAdd TRL_LATE.TIMEOUTS.wid (s.fget TRL_LATE.TIMEOUTS) 1) ∧
      (rec.timedOut = true → rec.ag = .dealer n → ∃ t, exec (.tagRelease tag) s = .next t ∧ t.tag tag = none ∧
        (∀ k, k ≠ tag.val → t.tag k = s.tag k) ∧ s.Only [] t)) ∧
    (s.pathTurns .gardener hubAddr = none → s.fget TRL_STAT.SWAP = 1 → Answers (.trlSwapCommit .gardener 1) .gardener 0 0 s (fun t => t.fget TRL_STAT.SWAP = 2 ∧ s.Only [TRL_STAT.reg] t)) ∧
    (s.pathTurns .gardener hubAddr = none → s.fget TRL_STAT.SWAP = 2 → ∀ v, Answers (.trlSwapCommit .gardener v) .gardener 6 0 s (fun t => t = s)) ∧
    (s.pathTurns ag hubAddr = none → ag ≠ .gardener → ∀ v, Answers (.trlSwapCommit ag v) ag 1 0 s (fun t => t = s)) ∧
    (s.fget TRL_STAT.SWAP = 2 →
      let swapped (t : State) : Prop := t.fget TRL_STAT.SWAP = 0 ∧ t.fget TRL_DMAP.MAP = s.fget TRL_DMAP_SH.MAP ∧ s.Signals 160 t ∧
        ∀ i k, i < 24 → k < 24 → t.fget (TRL_RTE.ACTIVE i (nodeOf k)) = s.fget (TRL_RTE.SHADOW i (nodeOf k))
      (s.closing = none → ∃ t, exec .tableSwapDone s = .next t ∧ swapped t) ∧
      (∀ i : Fin 24, s.closing = some i.val → ∃ t, exec .tableSwapDone s = .next t ∧ swapped t ∧ t.fget (TRL_RTR.STATE i) = 2)) ∧
    (∀ q : Fin 24, s.fget (TRL_RTR.STATE q) = 2 → ∃ t, exec (.routerIsolate q) s = .next t ∧ t.fget (TRL_RTR.STATE q) = 3 ∧
      (∀ b k, b < 24 → k < 4 → neighbour b k = some q.val → natBit (t.fget (TRL_RTR.ABSP b)) k = true) ∧
      (∀ x, x ∈ t.net ↔ x ∈ s.net ∧ routerOf x.src ≠ q.val) ∧ t.mem = s.mem ∧ t.dealers = s.dealers) ∧
    (∀ (q : Fin 24) (k : Fin 4) (cut : List Packet),
      (s.portDown q k = false → ∃ t, exec (.linkTokenDrop q ⟨k, cut⟩) s = .next t ∧ t.portDown q k = true ∧
        natBit (t.fget (TRL_RTR.TOKEN q)) (4 + k) = false ∧ s.Signals 161 t ∧ t.mem = s.mem ∧ t.dealers = s.dealers ∧
        (∀ x rec, s.tagPort x = some (q.val, k.val) → s.tag x = some rec → t.tag x = some { rec with orphan := true }) ∧
        (∀ x, (4 * q.val + k.val, x) ∈ s.recorded → x.cmd = 0 →
          answerOf x 5 5 (List.replicate x.count (BitVec.allOnes 64)) (List.replicate x.count true) ∈ t.net)) ∧
      ∃ t, exec (.linkTokenResume q k) s = .next t ∧ t.portDown q k = false ∧ natBit (t.fget (TRL_RTR.TOKEN q)) (4 + k) = true ∧
        t.dealers = s.dealers ∧ t.mem = s.mem ∧
        ((∀ i, i < 4 → s.pcieSeat i = true → s.seatPort i = (q.val, k.val) → s.fget (SEAT_STAT.PORTUP i) = 0) → s.Only [TRL_RTR.reg q] t))

/- Seats and host ports. -/

/-- R383 to R391, R406, R408, R475 and R485: the endpoint's answers to configuration requests, which set its power state, MSI-X, Command register and
base addresses, and its silence in Detect; aperture reads and writes through the segment that holds them; the doorbell and the consumer indices, refused outside their range, and
Unsupported Request where BAR0 does not answer; the frames of the SPI and CAN-FD ports.
The state of a function and its masks are log entry 142, the registers of the PCI Express standard log entry 178, the level of PXn_PERST_N log entry
179; whole frames and the ports that CAN errors take down are log entries 86 and 87: these are the model's choices. -/
def Obligations.HostPorts : Prop :=
  ∀ (k : Fin 4) (c : Fin 4) (px : Fin 3) (sp : Fin 2) (v : BitVec 8) (bytes : List Byte) (o : Nat) (s : State),
    let idx (f : Nat → Fld) : Nat := s.fget (f k)
    let used (pi ci : Nat) : Nat := (pi + 256 - ci) % 256
    let commands := used (idx SEAT_CMDIDX.PI) (idx SEAT_CMDIDX.CI)
    let completions := used (idx SEAT_CMPIDX.PI) (idx SEAT_CMPIDX.CI)
    let notices := used (idx SEAT_NTCIDX.PI) (idx SEAT_NTCIDX.CI)
    let completion := s.getBytes (SEAT_CMPRING.reg k (idx SEAT_CMPIDX.CI % 64) 0) 4
    let notice := s.getBytes (SEAT_NTCRING.reg k (idx SEAT_NTCIDX.CI % 64) 0) 4
    let entered (t : State) : Prop := t.getBytes (SEAT_CMDRING.reg k (idx SEAT_CMDIDX.PI % 64) 0) 16 = bytes ∧
      t.fget (SEAT_CMDIDX.PI k) = (idx SEAT_CMDIDX.PI + 1) % 256 ∧ s.Signals (228 + k) t
    let dropped (t : State) : Prop := t.fget (SEAT_STAT.DROPS k) = satAdd (SEAT_STAT.DROPS k).wid (s.fget (SEAT_STAT.DROPS k)) 1 ∧ s.Only [SEAT_STAT.reg k] t
    let taken (ci : Nat → Fld) (out : Out) (t : State) : Prop := t.fget (ci k) = (idx ci + 1) % 256 ∧ s.Only [(ci k).off] t ∧ t.outs = s.outs ++ [out]
    let empty := Out.spi sp (List.replicate 16 0xFF)
    let start (g : Nat) : Nat := 65536 * s.fget (SEAT_SEG_W3.APOFF k g)
    let covers (g n : Nat) : Prop := s.fget (SEAT_SEG_W1.PRESENT k g) = 1 ∧ start g ≤ o ∧ o + n - 1 ≤ start g + s.fget (SEAT_SEG_W2.LIMIT k g)
    let address (g : Nat) : Nat := s.fget (SEAT_SEG_W0.BASE_LO k g) + 2 ^ 32 * s.fget (SEAT_SEG_W1.BASE_HI k g) + (o - start g)
    let sound (g n : Nat) (wr : Bool) : Prop := ∀ x, address g ≤ x → x < address g + n → regionOf x = .dram ∧ s.dramStatus (.seat k) x wr = 0 ∧
      s.pathTurns (.seat k) x = none ∧ s.wordSyn x = 0
    let aperr (t : State) : Prop := t.fget (SEAT_STAT.APERR k) = satAdd (SEAT_STAT.APERR k).wid (s.fget (SEAT_STAT.APERR k)) 1 ∧ s.Only [SEAT_STAT.reg k] t
    (∃ t, exec (.pciePerstRelease px) s = .next t ∧ natBit t.pxActive px = true ∧ s.Only [] t) ∧
    (∀ req, s.pxUp px = false → exec (.pcieConfigRequest ⟨px, req⟩) s = .next s) ∧
    (∀ req, s.pxUp px = true → (s.fget LOAD_STAT.STATE = 0 → exec (.pcieConfigRequest ⟨px, req⟩) s = .next (s.emit (.pcieCfg px 0 0))) ∧
      (s.fget LOAD_STAT.STATE = 4 → exec (.pcieConfigRequest ⟨px, req⟩) s = .next (s.emit (.pcieCfg px 2 0)))) ∧
    (s.pxUp px = true → s.fget LOAD_STAT.STATE ≠ 0 → s.fget LOAD_STAT.STATE ≠ 4 → (∀ j : Fin 4, (s.fget (SEAT_CFG.EN j) = 1 ∧ s.fget (SEAT_CFG.CMDP j) = px.val) ↔ j = k) →
      let reads (x : CfgItem) (v : Word) : Prop := exec (.pcieConfigRequest ⟨px, .read x⟩) s = .next (s.emit (.pcieCfg px 1 v))
      let writes (x : CfgAsk) (f : PcieFn) : Prop := ∃ t : State, exec (.pcieConfigRequest ⟨px, x⟩) s = .next (t.emit (.pcieCfg px 1 0)) ∧ t.pcieFn k = f ∧
        t.regs = s.regs ∧ t.mem = s.mem
      let fn := s.pcieFn k
      let ap := 2 ^ s.fget (SEAT_AP.APSZ k)
      (∀ i, reads (.identity i) (s.plan.pcieIds.getD (3 * px.val + i.val) 0)) ∧ reads .other 0 ∧
      reads .command (BitVec.ofNat 32 ((if fn.memOn then 2 else 0) + (if fn.busOn then 4 else 0))) ∧
      reads (.bar 0) (BitVec.ofNat 32 fn.bar0) ∧ reads (.bar 2) (BitVec.ofNat 32 (fn.bar2 % 2 ^ 32 + 12)) ∧
      reads (.bar 3) (BitVec.ofNat 32 (fn.bar2 / 2 ^ 32)) ∧ (∀ i ∈ [1, 4, 5], reads (.bar i) 0) ∧
      reads .powerId 1 ∧ reads .powerState (if fn.d3hot then 11 else 8) ∧ reads .msixId 0x11 ∧ reads .msixTable 0x4000 ∧ reads .msixPba 0x5000 ∧
      reads .msixControl (BitVec.ofNat 32 (63 + (if fn.masked then 2 ^ 14 else 0) + (if fn.msixOn then 2 ^ 15 else 0))) ∧
      reads .expressId 0x10 ∧ reads .deviceCaps 1 ∧ reads .linkCaps 0x44 ∧ reads .aerId 1 ∧
      (∀ v, writes (.bar 0 v) { fn with bar0 := v.toNat / 2 ^ 16 * 2 ^ 16 }) ∧
      (∀ v, writes (.bar 2 v) { fn with bar2 := (v.toNat + 2 ^ 32 * (fn.bar2 / 2 ^ 32)) / ap * ap }) ∧
      (∀ v, writes (.bar 3 v) { fn with bar2 := (fn.bar2 % 2 ^ 32 + 2 ^ 32 * v.toNat) / ap * ap }) ∧
      exec (.pcieConfigRequest ⟨px, .other⟩) s = .next (s.emit (.pcieCfg px 1 0)) ∧
      (∀ mem bus, ∃ t : State, exec (.pcieConfigRequest ⟨px, .command mem bus⟩) s = .next (t.emit (.pcieCfg px 1 0)) ∧ (t.pcieFn k).memOn = mem ∧
        (t.pcieFn k).busOn = bus ∧ t.mem = s.mem) ∧
      ((s.pcieFn k).d3hot = false → ∃ t : State, exec (.pcieConfigRequest ⟨px, (.power true)⟩) s = .next (t.emit (.pcieCfg px 1 0)) ∧ (t.pcieFn k).d3hot = true ∧
        t.fget (SEAT_STAT.PORTUP k) = 0 ∧ (s.fget (SEAT_STAT.PORTUP k) = 1 → s.Signals (236 + k) t) ∧ t.mem = s.mem) ∧
      ((s.pcieFn k).d3hot = true → ∃ t : State, exec (.pcieConfigRequest ⟨px, (.power false)⟩) s = .next (t.emit (.pcieCfg px 1 0)) ∧ (t.pcieFn k).d3hot = false ∧
        t.fget (SEAT_STAT.PORTUP k) = 1 ∧ t.mem = s.mem) ∧
      (∀ enable mask, ∃ t : State, exec (.pcieConfigRequest ⟨px, (.msix enable mask)⟩) s = .next (t.emit (.pcieCfg px 1 0)) ∧ (t.pcieFn k).msixOn = enable ∧
        (t.pcieFn k).masked = mask ∧ t.mem = s.mem)) ∧
    (s.pcieSeat k = true → s.bar0Open k = false → ∀ x ∈ [Instr.doorbell k v, .completionCiWrite k v], exec x s = .next (s.emit (.tlp k 1 []))) ∧
    (s.bar0Open k = true → s.pathTurns (.seat k) hubAddr = none →
      (used v.toNat (idx SEAT_CMDIDX.CI) ≤ 64 → Answers (.doorbell k v) (.seat k) 0 0 s (fun t => t.fget (SEAT_CMDIDX.PI k) = v.toNat ∧
        (v.toNat ≠ idx SEAT_CMDIDX.PI → s.Signals (228 + k) t ∧ (t.seat k).wdog = false) ∧ t.mem = s.mem)) ∧
      (64 < used v.toNat (idx SEAT_CMDIDX.CI) → Answers (.doorbell k v) (.seat k) 1 0 s (fun t => t = s.event 270)) ∧
      (used v.toNat (idx SEAT_CMPIDX.CI) ≤ completions →
        Answers (.completionCiWrite k v) (.seat k) 0 0 s (fun t => t.fget (SEAT_CMPIDX.CI k) = v.toNat ∧ s.Only [SEAT_CMPIDX.reg k] t)) ∧
      (completions < used v.toNat (idx SEAT_CMPIDX.CI) → Answers (.completionCiWrite k v) (.seat k) 1 0 s (fun t => t = s.event 270))) ∧
    (s.pcieSeat k = false → s.pathTurns (.seat k) hubAddr = none → Answers (.doorbell k v) (.seat k) 1 0 s (fun t => t = s) ∧ Answers (.completionCiWrite k v) (.seat k) 1 0 s (fun t => t = s)) ∧
    (s.safeHold = false → (∀ j : Fin 4, (s.fget (SEAT_CFG.EN j) = 1 ∧ s.fget (SEAT_CFG.CMDP j) = 3 + sp.val) ↔ j = k) →
      (bytes.length = 64 → (commands < 64 → ∃ t, exec (.writeCmd sp bytes) s = .next t ∧ entered t) ∧
        (64 ≤ commands → ∃ t, exec (.writeCmd sp bytes) s = .next t ∧ dropped t)) ∧
      (completions ≠ 0 → ∃ t, exec (.readCmp sp) s = .next t ∧ taken SEAT_CMPIDX.CI (.spi sp completion) t) ∧
      (completions = 0 → exec (.readCmp sp) s = .next (s.emit empty)) ∧
      (notices ≠ 0 → s.fget (SEAT_CFG.NTCP k) = 0 → ∃ t, exec (.readNtc sp) s = .next t ∧ taken SEAT_NTCIDX.CI (.spi sp notice) t) ∧
      (notices = 0 ∨ s.fget (SEAT_CFG.NTCP k) ≠ 0 → exec (.readNtc sp) s = .next (s.emit empty)) ∧
      exec (.readState sp) s = .next (s.emit (.spi sp ([idx SEAT_CMDIDX.PI, idx SEAT_CMDIDX.CI, idx SEAT_CMPIDX.PI, idx SEAT_CMPIDX.CI, idx SEAT_NTCIDX.PI,
        idx SEAT_NTCIDX.CI, s.fget (SEAT_STAT.DROPS k), s.fget (SEAT_STAT.CRCERR k)].map (BitVec.ofNat 8)))) ∧
      exec (.spiFrameError sp) s = .next (s.event (247 + sp))) ∧
    (s.safeHold = false → (∀ j : Fin 4, (s.fget (SEAT_CFG.EN j) = 1 ∧ s.fget (SEAT_CFG.CMDP j) = 5 + c.val) ↔ j = k) → s.canState c ≠ 2 → ∀ (ide : Bool) (id : BitVec 29),
      s.fget (SEAT_CMDID.IDE k) = (if ide then 1 else 0) → s.fget (SEAT_CMDID.ID k) = id.toNat →
      (bytes.length = 64 → commands < 64 → ∃ t, exec (.canCommandFrame c ide id bytes) s = .next t ∧ entered t) ∧
      (bytes.length ≠ 64 ∨ 64 ≤ commands → ∃ t, exec (.canCommandFrame c ide id bytes) s = .next t ∧ dropped t)) ∧
    (s.safeHold = false → s.canState c = 0 → (∀ j : Fin 4, (s.fget (SEAT_CFG.EN j) = 1 ∧ s.noticeCan j = some c.val) ↔ j = k) → notices ≠ 0 →
      ∃ t, exec (.canTransmitDone c) s = .next t ∧ taken SEAT_NTCIDX.CI (.can c (idx SEAT_NTCID.IDE == 1) (idx SEAT_NTCID.ID) notice) t) ∧
    (s.safeHold = false → s.canState c = 0 → (∀ j : Fin 4, s.noticeCan j = some c.val → s.fget (SEAT_NTCIDX.PI j) = s.fget (SEAT_NTCIDX.CI j)) →
      (∀ j : Fin 4, (s.fget (SEAT_CFG.EN j) = 1 ∧ s.fget (SEAT_CFG.CMDP j) = 5 + c.val) ↔ j = k) → completions ≠ 0 →
      ∃ t, exec (.canTransmitDone c) s = .next t ∧ taken SEAT_CMPIDX.CI (.can c (idx SEAT_CMPID.IDE == 1) (idx SEAT_CMPID.ID) completion) t) ∧
    (∀ st : Fin 3, s.safeHold = false → s.fget (SEAT_CFG.EN k) = 1 → (s.fget (SEAT_CFG.CMDP k) = 5 + c ∨ s.fget (SEAT_CFG.NTCP k) = 1 + c) → ∃ t, exec (.canErrorState c st) s = .next t ∧ t.canState c = st.val ∧ (∀ d : Fin 4, d ≠ c → t.canState d = s.canState d) ∧
      (st ≠ 0 → st.val ≠ s.canState c → s.Signals (249 + c) t) ∧ t.mem = s.mem ∧
      (st = 2 → s.canState c ≠ 2 →
        (s.fget (SEAT_CFG.CMDP k) = 5 + c → s.fget (SEAT_STAT.PORTUP k) = 1 → t.fget (SEAT_STAT.PORTUP k) = 0 ∧ s.Signals (236 + k) t) ∧
        (s.fget (SEAT_CFG.CMDP k) ≠ 5 + c → t.fget (SEAT_STAT.PORTUP k) = s.fget (SEAT_STAT.PORTUP k) ∧ s.Signals (236 + k) t))) ∧
    (∀ n, s.pcieSeat k = true → s.tagless (.seat k) = false → s.bar0Open k = false ∨ 4096 < n ∨ s.fget DRAM_STAT.TRAIN ≠ 2 →
      exec (.apertureRead k o n) s = .next (s.emit (.tlp k 1 []))) ∧
    (∀ n, s.bar0Open k = true → s.tagless (.seat k) = false → s.fget DRAM_STAT.TRAIN = 2 → 0 < n → n ≤ 4096 →
      ((∀ g, g < 16 → ¬covers g n) → ∃ t, exec (.apertureRead k o n) s = .next (t.emit (.tlp k 1 [])) ∧ aperr t) ∧
      (∀ g, g < 16 → covers g n → (∀ h, h < g → ¬covers h n) →
        (s.fget (SEAT_SEG_W1.RDA k g) = 1 → sound g n false → exec (.apertureRead k o n) s = .next (s.emit (.tlp k 0 (s.bytes (address g) n)))) ∧
        (s.fget (SEAT_SEG_W1.RDA k g) = 0 → ∃ t, exec (.apertureRead k o n) s = .next (t.emit (.tlp k 1 [])) ∧ aperr t))) ∧
    (s.pcieSeat k = true → 256 < bytes.length → exec (.apertureWrite k o bytes) s = .next s) ∧
    (s.pcieSeat k = true → s.bar0Open k = false → s.tagless (.seat k) = false → bytes ≠ [] → bytes.length ≤ 256 →
      exec (.apertureWrite k o bytes) s = .next (s.emit (.tlp k 1 []))) ∧
    (s.bar0Open k = true → s.tagless (.seat k) = false → bytes ≠ [] → bytes.length ≤ 256 →
      ((∀ g, g < 16 → ¬covers g bytes.length) → ∃ t, exec (.apertureWrite k o bytes) s = .next t ∧ aperr t) ∧
      (∀ g, g < 16 → covers g bytes.length → (∀ h, h < g → ¬covers h bytes.length) →
        (s.fget (SEAT_SEG_W1.WRA k g) = 1 → sound g bytes.length true → ∃ t, exec (.apertureWrite k o bytes) s = .next t ∧
          (∀ i, i < bytes.length → t.byte (address g + i) = bytes.getD i 0) ∧ (∀ x, (x < address g ∨ address g + bytes.length ≤ x) → t.byte x = s.byte x) ∧
          t.regs = s.regs) ∧
        (s.fget (SEAT_SEG_W1.WRA k g) = 0 → ∃ t, exec (.apertureWrite k o bytes) s = .next t ∧ aperr t)))

/-- R392 to R395, R397 to R401, R403, R406, R407, R475 and R483: the next command is taken, checked in the order of R393, handled and completed in the completion
ring: a post of a layer, a status page, a read of registers, a handover of a bank, the three jobs that queue, and the three commands that steer a
job; a step of a fill writes the pattern; a port that goes down raises EV236 + s, and one that returns delivers what waits; the watchdog raises EV253 + s
once.
The move of a step's data is log entry 82, and the order of a post's checks log entry 78. -/
def Obligations.SeatCommands : Prop :=
  ∀ (k : Fin 4) (j : Fin 16) (s : State),
    let ci := s.fget (SEAT_CMDIDX.CI k)
    let pi := s.fget (SEAT_CMPIDX.PI k)
    let u := s.fset (SEAT_CMDIDX.CI k) (ci + 1)
    let b := s.getBytes (SEAT_CMDRING.reg k (ci % 64) 0) 16
    let field (at_ n : Nat) : Nat := natOfBytes ((b.drop at_).take n)
    let seq := field 0 2
    let zeros (n : Nat) : Prop := ∀ x ∈ b.drop n, x = 0
    let take := Instr.commandTake k
    let posts (status result : Nat) (t : State) : Prop := t.fget (SEAT_CMDIDX.CI k) = (ci + 1) % 256 ∧ t.fget (SEAT_CMPIDX.PI k) = (pi + 1) % 256 ∧
      t.getBytes (SEAT_CMPRING.reg k (pi % 64) 0) 4 = completionBytes seq (field 2 1) status result ∧ t.dealers = s.dealers
    let completes (status result : Nat) (t : State) : Prop := posts status result t ∧ t.mem = s.mem
    let ends (status result : Nat) : Prop := ∃ t, exec take s = .next t ∧ completes status result t
    let refused (reason : Nat) : Prop := ends 1 (reason * 2 ^ 56)
    let off := field 16 4
    let holds (seg n : Nat) (right : Prop) : Prop := s.fget (SEAT_SEG_W1.PRESENT k seg) = 1 ∧ right ∧ off + n - 1 ≤ s.fget (SEAT_SEG_W2.LIMIT k seg)
    let segment (seg n : Nat) (right : Prop) : Prop := (s.fget (SEAT_SEG_W1.PRESENT k seg) = 0 → refused 5) ∧
      (s.fget (SEAT_SEG_W1.PRESENT k seg) = 1 → ¬right → refused 6) ∧
      (s.fget (SEAT_SEG_W1.PRESENT k seg) = 1 → right → s.fget (SEAT_SEG_W2.LIMIT k seg) < off + n - 1 → refused 7) ∧
      (holds seg n right → s.fget DRAM_STAT.TRAIN ≠ 2 → ends 3 0)
    let queues (kind seg len src pat : Nat) : Prop :=
      let right := s.fget (SEAT_SEG_W1.WRA k seg) = 1
      (len = 0 → ends 0 (2 ^ 16 * seq)) ∧ (len ≠ 0 → segment seg len right) ∧
      (len ≠ 0 → holds seg len right → s.fget DRAM_STAT.TRAIN = 2 →
        ((∀ i, i < 16 → s.fget (SEAT_JOB_W0.STATE k i) ∈ [1, 2, 3]) → ends 6 0) ∧
        (s.fget (SEAT_JOB_W0.STATE k j) ∈ [0, 4, 5] → (∀ i, i < j.val → s.fget (SEAT_JOB_W0.STATE k i) ∈ [1, 2, 3]) →
          ∃ t, exec take s = .next t ∧ completes 0 (j.val + 16 + 2 ^ 16 * seq) t ∧ s.Signals (232 + k) t ∧ t.fget (SEAT_JOB_W0.JSER k j) = seq ∧
            t.fget (SEAT_JOB_W1.PROG k j) = 0 ∧
            t.job k j = some { kind := kind, seg := seg, off := off, len := len, src := src, pat := pat, order := (s.seat k).order } ∧
            (if kind = 0 ∧ s.fget LOAD_STAT.STATE = 3 then t.fget (SEAT_JOB_W0.STATE k j) = 4 ∧ t.fget (SEAT_JOB_W0.STATUS k j) = 3
             else t.fget (SEAT_JOB_W0.STATE k j) = 1)))
    (s.safeHold = false → s.fget (SEAT_CFG.EN k) = 1 → ringCount (s.fget (SEAT_CMDIDX.PI k)) ci ≠ 0 → ringCount pi (s.fget (SEAT_CMPIDX.CI k)) < 64 →
      s.fget GARD_STAT.STATE ≠ 1 →
      (3 ≤ s.fget (SEAT_CFG.CMDP k) → field 12 4 ≠ crc32 (b.take 12 ++ [0, 0, 0, 0] ++ b.drop 16) → ∃ t, exec take s = .next t ∧ completes 1 (2 ^ 56) t ∧
        s.Signals (240 + k) t ∧ t.fget (SEAT_STAT.CRCERR k) = satAdd (SEAT_STAT.CRCERR k).wid (s.fget (SEAT_STAT.CRCERR k)) 1) ∧
      (s.fget (SEAT_CFG.CMDP k) < 3 ∨ field 12 4 = crc32 (b.take 12 ++ [0, 0, 0, 0] ++ b.drop 16) →
        (field 2 1 ∉ [1, 2, 3, 4, 5, 0x10, 0x11, 0x12, 0x18, 0x19, 0x1A] → refused 2) ∧
        (field 2 1 ∈ [1, 2, 3, 4, 5, 0x10, 0x11, 0x12, 0x18, 0x19, 0x1A] → field 3 1 ≠ 0 → refused 3) ∧
        (field 2 1 = 1 → field 3 1 = 0 →
          let layer := field 4 4
          let seg := field 20 1
          let w := field 24 2
          let h := field 26 2
          let pitch := field 28 4
          let bpp := if field 21 1 = 1 then 4 else if field 21 1 = 2 then 2 else 1
          let n := pitch * (h - 1) + w * bpp
          let right := s.fget (SEAT_SEG_W1.RDA k seg) = 1
          let sane : Prop := layer < 16 ∧ field 8 4 = 0 ∧ off % 8 = 0 ∧ seg < 16 ∧ field 21 1 ∈ [1, 2, 3] ∧ field 22 1 < 6 ∧ w ≤ 4096 ∧ h ≤ 4096 ∧
            pitch % 64 = 0 ∧ w * bpp ≤ pitch ∧ zeros 36
          (¬sane → refused 3) ∧ (sane → s.fget (SEAT_LAYER.EN k layer) = 0 → refused 4) ∧
          (sane → s.fget (SEAT_LAYER.EN k layer) = 1 → w = 0 ∨ h = 0 → ends 0 0) ∧
          (sane → s.fget (SEAT_LAYER.EN k layer) = 1 → w ≠ 0 → h ≠ 0 → segment seg n right ∧
            (holds seg n right → s.fget DRAM_STAT.TRAIN = 2 → ∃ t, exec take s = .next t ∧
              completes 0 ((s.fget TICK_COUNT.COUNT + 1) % 2 ^ 32) t ∧
              (t.seat k).posts.find? (fun p => p.1 == layer) =
                some (layer, (List.range 12).map (fun i => BitVec.ofNat 32 (field (16 + 4 * i) 4)))))) ∧
        (field 2 1 = 3 → field 3 1 = 0 →
          let page := field 4 4
          let pair (lo hi : Nat) : Nat := (u.regRead lo).toNat + 2 ^ 32 * (u.regRead hi).toNat
          let shows (lo hi : Nat) : Prop := field 8 4 = 0 → zeros 16 → ends 0 (pair lo hi)
          (page = 0 → shows (SEAT_STAT.reg k) SYS_ID.reg) ∧ (page = 1 → shows TICK_COUNT.reg TICK_STAT.reg) ∧
          (∀ i, i < 14 → page = 2 + i → shows (GARD_LEDGER.reg (2 * i)) (GARD_LEDGER.reg (2 * i + 1))) ∧
          (∀ i, i < 16 → page = 0x20 + i → shows (SEAT_JOB_W0.reg k i) (SEAT_JOB_W1.reg k i)) ∧
          (∀ i, i < 5 → page = 0x30 + i → shows (SEAT_EVP.reg k (2 * i)) (SEAT_EVP.reg k (2 * i + 1)) ∧
            (field 8 4 = 1 → zeros 16 → ∃ t, exec take s = .next t ∧ completes 0 (pair (SEAT_EVP.reg k (2 * i)) (SEAT_EVP.reg k (2 * i + 1))) t ∧
              t.reg (SEAT_EVP.reg k (2 * i)) = 0 ∧ t.reg (SEAT_EVP.reg k (2 * i + 1)) = 0)) ∧
          (∀ i, i < 256 → page = 0x100 + i → (s.fget (TELL_DEF_W0.SRC i) = k.val → shows (TELL_ST.reg i) (TELL_SST.reg i)) ∧
            (s.fget (TELL_DEF_W0.SRC i) ≠ k.val → field 8 4 = 0 → zeros 16 → refused 4)) ∧
          (0x10 ≤ page ∧ page < 0x20 ∨ 0x35 ≤ page ∧ page < 0x100 ∨ 0x200 ≤ page → refused 3) ∧
          (1 < field 8 4 ∨ (field 8 4 = 1 ∧ ¬(0x30 ≤ page ∧ page < 0x35)) ∨ ¬zeros 16 → refused 3)) ∧
        (field 2 1 = 4 → field 3 1 = 0 →
          let at_ := field 4 4
          let n := field 8 4
          let sane : Prop := at_ ≤ 0x7FFFFF ∧ at_ % 4 = 0 ∧ n ≤ 2 ∧ zeros 16
          let mapped : Prop := regGroupAt at_ ≠ none ∧ (n = 2 → regGroupAt (at_ + 4) ≠ none)
          (¬sane → refused 3) ∧ (sane → s.fget (SEAT_CFG.DIAG k) = 0 → refused 4) ∧
          (sane → s.fget (SEAT_CFG.DIAG k) = 1 → (n = 0 → ends 0 0) ∧ (n ≠ 0 → ¬mapped → refused 9) ∧
            (n ≠ 0 → mapped → ends 0 ((u.regRead at_).toNat + if n = 2 then 2 ^ 32 * (u.regRead (at_ + 4)).toNat else 0)))) ∧
        (field 2 1 = 5 → field 3 1 = 0 →
          let bank := field 4 4 % 32
          let owner := field 8 4
          let sane : Prop := field 4 4 / 32 % 8 = 0 ∧ field 4 4 ≤ 511 ∧ owner ≤ 9 ∧ zeros 16
          let granted : Prop := natBit (s.fget (BANK_GRANT.GRANT bank)) owner = true ∧ s.holdsContext bank = false
          let mine : Prop := s.fget (BANK_OWNER.OWNER bank) = 1 + k.val
          (¬sane → refused 3) ∧ (sane → ¬mine → ends 2 (9 * 2 ^ 56)) ∧ (sane → mine → ¬granted → refused 9) ∧
          (sane → mine → granted → s.fget (BANK_STAT.WEED bank) = 0 → ∃ t, exec take s = .next t ∧ posts 0 0 t ∧ t.fget (BANK_OWNER.OWNER bank) = owner ∧
            (field 4 4 < 256 → t.mem = s.mem) ∧
            (256 ≤ field 4 4 → t.fget (BANK_STAT.CLEARING bank) = 1 ∧
              ∀ x, t.byte x = if storeBase bank ≤ x ∧ x < storeBase bank + 0x40000 then 0 else s.byte x))) ∧
        (field 2 1 = 0x10 → field 3 1 = 0 →
          let seg := field 8 4
          let sane : Prop := seg < 16 ∧ zeros 20
          (¬sane → refused 3) ∧ (sane → (∀ x, s.plan.assets[field 4 4]? = some x → natBit x.seats.toNat k = false) → refused 4) ∧
          (∀ x, sane → s.plan.assets[field 4 4]? = some x → natBit x.seats.toNat k = true → queues 0 seg x.size (field 4 4) 0)) ∧
        (field 2 1 = 0x11 → field 3 1 = 0 →
          let seg := field 4 4
          let src := field 8 4
          let sane : Prop := seg < 16 ∧ (src < 6 ∨ (16 ≤ src ∧ src < 32)) ∧ zeros 20
          (¬sane → refused 3) ∧
          (sane → src < 6 → (natBit (s.fget (SEAT_EXP.PIPES k)) src = false → refused 4) ∧
            (natBit (s.fget (SEAT_EXP.PIPES k)) src = true → queues 1 seg (256 * s.fget (DSP_FBP.PITCH src) * s.fget (DSP_VTIM.ACTIVE src)) src 0)) ∧
          (∀ x, sane → src = 16 + x → (natBit (s.fget (SEAT_EXP.CTXS k)) x = false → refused 4) ∧
            (natBit (s.fget (SEAT_EXP.CTXS k)) x = true →
              queues 1 seg (s.camPitch (x / 2) (x % 2) * s.fget (CAM_CTX_SIZE.HEIGHT (x / 2) (x % 2))) src 0))) ∧
        (field 2 1 = 0x12 → field 3 1 = 0 →
          let seg := field 4 4
          let len := field 20 4
          let sane : Prop := seg < 16 ∧ field 8 4 = 0 ∧ off % 8 = 0 ∧ len % 8 = 0 ∧ zeros 32
          (¬sane → refused 3) ∧ (sane → queues 2 seg len 0 (field 24 8))) ∧
        (field 2 1 ∈ [0x18, 0x19, 0x1A] → field 3 1 = 0 → field 4 4 % 16 = j.val →
          let now := s.fget (SEAT_JOB_W0.STATE k j)
          let cut := s.fget (SEAT_JOB_W0.PC k j)
          let sane : Prop := field 4 4 % 65536 < 32 ∧ field 8 4 = 0 ∧ zeros 16
          let named : Prop := now ≠ 0 ∧ s.fget (SEAT_JOB_W0.JSER k j) = field 4 4 / 65536
          let moves (st : Nat) : Prop := ∃ t, exec take s = .next t ∧ completes 0 0 t ∧ t.fget (SEAT_JOB_W0.STATE k j) = st ∧ s.Signals (232 + k) t
          let marks (f : Fld) (v : Nat) : Prop := ∃ t, exec take s = .next t ∧ completes 0 0 t ∧ t.fget f = v ∧ t.fget (SEAT_JOB_W0.STATE k j) = 2
          (¬sane → refused 3) ∧ (sane → ¬named → refused 8) ∧
          (sane → named → now ∈ [1, 2, 3, 4, 5] →
            (field 2 1 = 0x18 → (now = 1 → moves 3) ∧ (now = 2 → cut = 0 → marks (SEAT_JOB_W0.PS k j) 1) ∧ (now = 2 → cut = 1 → ends 8 0) ∧
              (now = 3 → ends 7 0) ∧ (now = 4 → refused 8) ∧ (now = 5 → ends 8 0)) ∧
            (field 2 1 = 0x19 → (now = 1 → ends 0 0) ∧ (now = 2 → cut = 0 → marks (SEAT_JOB_W0.PS k j) 0) ∧ (now = 2 → cut = 1 → refused 8) ∧
              (∀ r, now = 3 → s.job k j = some r → (r.kind ≠ 0 ∨ s.fget LOAD_STAT.STATE ≠ 3 → moves 1) ∧
                (r.kind = 0 → s.fget LOAD_STAT.STATE = 3 → moves 4)) ∧ (now ∈ [4, 5] → refused 8)) ∧
            (field 2 1 = 0x1A → (now ∈ [1, 3] → moves 5) ∧ (now = 2 → cut = 0 → marks (SEAT_JOB_W0.PC k j) 1) ∧ (now = 2 → cut = 1 → ends 8 0) ∧
              (now = 4 → refused 8) ∧ (now = 5 → ends 8 0)))))) ∧
    (∀ r prog n flash, s.safeHold = false → s.tagless (.seat k) = false →
      s.fget (SEAT_JOB_W0.STATE k j) = 2 → (∀ i, i < j.val → s.fget (SEAT_JOB_W0.STATE k i) ≠ 2) → s.job k j = some r → r.ended = false →
      r.kind = 2 → r.pat < 2 ^ 64 → prog = s.fget (SEAT_JOB_W1.PROG k j) → n = min ((s.fget (SEAT_CFG.STEP k) + 1) * 65536) (r.len - prog) → prog + n < 2 ^ 32 →
      let a := s.fget (SEAT_SEG_W0.BASE_LO k r.seg) + 2 ^ 32 * s.fget (SEAT_SEG_W1.BASE_HI k r.seg) + r.off + prog
      (∀ x, a ≤ x → x < a + n → regionOf x = .dram ∧ s.dramStatus (.seat k) x true = 0 ∧ s.pathTurns (.seat k) x = none ∧ s.wordSyn x = 0) →
      ∃ t, exec (.jobStepDone k [] flash) s = .next t ∧
        (∀ i, i < n → t.byte (a + i) = BitVec.ofNat 8 (r.pat / 256 ^ ((prog + i) % 8))) ∧ (∀ x, (x < a ∨ a + n ≤ x) → t.byte x = s.byte x) ∧
        t.fget (SEAT_JOB_W1.PROG k j) = prog + n ∧ t.job k j = some { r with fail := 0, ended := true } ∧
        (∀ y, y ≠ SEAT_JOB_W1.reg k j → t.reg y = s.reg y)) ∧
    (s.fget (SEAT_CFG.EN k) = 1 → s.fget (SEAT_STAT.PORTUP k) = 1 →
      let own := hostPort (s.fget (SEAT_CFG.CMDP k))
      (s.fget (SEAT_CFG.CMDP k) ∉ [3, 4] → ∃ t, exec (.hostPortDown k) s = .next t ∧ t.fget (SEAT_STAT.PORTUP k) = 0 ∧ s.Signals (236 + k) t ∧
        (s.fget (SEAT_CFG.CMDP k) < 3 → s.Signals (244 + s.fget (SEAT_CFG.CMDP k)) t ∧ t.portDown own.1 own.2 = true ∧
          (s.portDown own.1 own.2 = false → s.Signals 161 t)) ∧ t.mem = s.mem) ∧
      (s.fget (SEAT_CFG.CMDP k) ∈ [3, 4] → exec (.hostPortDown k) s = .next s)) ∧
    (s.safeHold = false → s.fget (SEAT_CFG.EN k) = 1 → s.fget (SEAT_STAT.PORTUP k) = 0 →
      (s.pcieSeat k = true → (s.pcieFn k).d3hot = false ∧ s.pxUp (s.fget (SEAT_CFG.CMDP k)) = true) →
      (5 ≤ s.fget (SEAT_CFG.CMDP k) → s.canState (s.fget (SEAT_CFG.CMDP k) - 5) ≠ 2) → ∃ t, exec (.hostPortUp k) s = .next t ∧ t.fget (SEAT_STAT.PORTUP k) = 1 ∧ t.mem = s.mem ∧
      (s.pcieSeat k = true → (s.pcieFn k).msixOn = true → (s.pcieFn k).busOn = true → s.vectorMasked k 0 = false →
        s.fget (SEAT_CMPIDX.PI k) ≠ s.fget (SEAT_CMPIDX.CI k) → Out.msix k 0 ∈ t.outs)) ∧
    (s.safeHold = true → exec take s = .next s ∧ exec (.hostPortUp k) s = .next s) ∧
    (s.safeHold = false → s.fget (SEAT_CFG.EN k) = 1 → s.fget (SEAT_CFG.WDOG k) ≠ 0 →
      ((s.seat k).wdog = false → ∃ t, exec (.seatWatchdogExpiry k) s = .next t ∧ s.Signals (253 + k) t ∧ (t.seat k).wdog = true ∧ t.mem = s.mem) ∧
      ((s.seat k).wdog = true → exec (.seatWatchdogExpiry k) s = .next s))

/- The Gardener. -/

/-- R410 to R418 and R425 to R428: a report joins its queue, or is dropped, or makes a warm restart when the UE queue is full; the oldest report is
judged: a strike below the class's count waits for its scrub, a lasting fault raises EV286 and is acted on; a scrub corrects its word, in the cell
that serves it, with EV276; the image copy is repaired; and the steps of a warm restart follow.
The Gardener's millisecond, what waits for a scrub, a UE located by test and the steps of a warm restart are log entries 89, 90, 91 and 96, and a
cause that arises during a warm restart log entry 161: these are the model's choices. -/
def Obligations.Gardener : Prop :=
  ∀ (rep : Report) (rest : List Report) (ms i : Nat) (n : Dealer) (s : State),
    let g := s.gard
    let arrives := Instr.gardenerReport none ms
    let judge := Instr.reportJudgement
    let loses : Prop := s.gardTimer = true ∧ s.fget GARD_STAT.STATE = 0 ∧ g.ueQueue = [] ∧ g.queue = [(rep, ms)] ∧ rep.ue = false ∧ rep.part = 0 ∧
      s.outOfService rep = false ∧ g.scrubs = [] ∧ g.held = [] ∧ rep.config = false ∧ s.safeHold = false
    let logged (action : Nat) (t : State) : Prop := t.fget GARD_LOG0.ACTION = action ∧ t.fget GARD_LOG0.CLASS = rep.cls % 16 ∧
      t.fget GARD_LOG1.LOC_LO = rep.loc % 2 ^ 32
    (s.rpt = rep :: rest →
      (rep.ue = false → g.queue.length < 512 → ∃ t, exec arrives s = .next t ∧ t.rpt = rest ∧ t.gard = { g with queue := g.queue ++ [(rep, ms)] } ∧ s.Only [] t) ∧
      (rep.ue = true → g.ueQueue.length < 64 → ∃ t, exec arrives s = .next t ∧ t.rpt = rest ∧ t.gard = { g with ueQueue := g.ueQueue ++ [(rep, ms)] } ∧ s.Only [] t) ∧
      (rep.ue = false → 512 ≤ g.queue.length → ∃ t, exec arrives s = .next t ∧ t.gard = g ∧ s.Only [GARD_DROP.reg] t ∧
        t.fget GARD_DROP.DROPS = satAdd GARD_DROP.DROPS.wid (s.fget GARD_DROP.DROPS) 1) ∧
      (rep.ue = true → 64 ≤ g.ueQueue.length → s.fget GARD_STAT.STATE ≤ 1 → s.safeHold = false → g.warms.length < 3 → ∃ t, exec arrives s = .next t ∧
        t.fget GARD_STAT.STATE = 1 ∧ t.fget GARD_STAT.CAUSE = 4 ∧ t.gard.warms = g.warms.filter (fun w => decide (s.now - w ≤ 600000000000)) ++ [s.now] ∧
        t.fget DRAM_STAT.SREF = 1 ∧ s.Signals 280 t ∧ t.mem = s.mem ∧ (∀ m, t.dl m = DealerCore.zero) ∧ t.overlayOff = true)) ∧
    (loses → rep.lasting = false → rep.cls = 1 → rep.kind = 1 → 0 < s.fget (GARD_CLASS.STRIKES 1) → g.trackers = [] →
      ∃ t, exec judge s = .next t ∧ t.gard = { g with queue := [], trackers := [⟨1, rep.loc / 8 * 8, [ms]⟩], scrubs := [rep] } ∧
        t.fget GARD_STAT.TRACK = 1 ∧ t.mem = s.mem ∧ t.dealers = s.dealers) ∧
    (loses → rep.cls = 1 → rep.kind = 1 → rep.lasting = true ∨ s.fget (GARD_CLASS.STRIKES 1) = 0 → ∀ b, b < 32 → regionOf rep.loc = .store b → g.graft = none →
      g.nurseryBad = false → s.fget GARD_SPARE.NURS = 0 → s.nurseryFree = true →
      ∃ t, exec judge s = .next t ∧ s.Signals 286 t ∧ logged 1 t ∧ t.gard.graft = some b ∧ t.fget (BANK_STAT.WEED b) = 1 ∧ t.weedAt = 0 ∧
        t.gard.queue = [] ∧ t.mem = s.mem) ∧
    (loses → rep.cls = 3 → rep.kind = 3 → rep.lasting = true → ∃ t, exec judge s = .next t ∧ s.Signals 286 t ∧ s.Signals 287 t ∧ logged 3 t ∧
      t.gard.scrubs = [rep] ∧ t.mem = s.mem) ∧
    (s.role n = 1 → ∃ t, exec (.standbySelfcheckFail n) s = .next t ∧ s.Signals (64 + 8 * n.val + 6) t ∧
      t.rpt = s.rpt ++ [{ cls := 6, kind := 6, loc := n.val, lasting := true }] ∧ t.dealers = s.dealers) ∧
    (g.scrubs[i]? = some rep → rep.kind = 1 → s.fget GARD_STAT.STATE ≠ 3 →
      let word := s.foldedAt (rep.loc / 8 * 8)
      let cell := s.phys word
      let kind := decodeSyn (s.wordSyn cell ^^^ foldSyn word cell).toNat
      let freed := { g with scrubs := g.scrubs.eraseIdx i, held := g.held.filter (fun p => !samePlace p rep) }
      (kind ≠ .ue → ∃ t, exec (.transientScrub i false) s = .next t ∧ t.wordSyn cell = foldSyn word cell ∧ s.Signals 276 t ∧
        (kind ≠ .clean → t.wordData cell = correct (s.wordData cell) kind) ∧ (∀ x, x / 8 ≠ cell / 8 → t.byte x = s.byte x ∧ t.wordSyn x = s.wordSyn x) ∧
        t.gard = freed) ∧
      ∃ t, exec (.transientScrub i true) s = .next t ∧ t.gard = freed ∧ s.Only [] t) ∧
    (∀ a l, g.repairs = a :: l → a % 8 = 0 → a < 2 ^ 37 → s.fget GARD_STAT.STATE ≠ 3 → s.fget DRAM_STAT.SREF = 0 → ∃ t, exec .imageCopyRepair s = .next t ∧
      t.gard.repairs = l ∧ t.wordData a = s.plan.copyWord a ∧ t.wordSyn a = 0 ∧ (∀ x, x / 8 ≠ a / 8 → t.byte x = s.byte x)) ∧
    (s.warm = 1 → (∃ t, exec (.warmDramBack true) s = .next t ∧ t.warm = 4 ∧ t.fget DRAM_STAT.SREF = 0 ∧ t.fget LOAD_STAT.STATE = 5 ∧
        s.Only [DRAM_STAT.reg, LOAD_STAT.reg] t) ∧
      (s.inReset = 0 → ∃ t, exec (.warmDramBack false) s = .next t ∧ t.inReset = 2 ∧ t.fget RST_CAUSE.CAUSE = 5)) ∧
    (s.warm = 4 → ∃ t, exec .warmTelltaleCheckDone s = .next t ∧ t.warm = 5 ∧ t.overlayOff = false ∧ s.Only [] t) ∧
    (s.warm = 5 → ∀ reread, (reread = false → s.failedCopies ≠ [] → exec (.warmImageVerified reread) s = .next s) ∧
      (reread = true ∨ s.failedCopies = [] → ∃ t, exec (.warmImageVerified reread) s = .next t ∧ t.warm = 7 ∧ t.fget LOAD_STAT.STATE = g.loadState % 8))

/- The Espalier. -/

/-- R434, R438 and R440 to R446: the staged release; the FCLK edges at which the fabric enters RUN and RECOVERY and at which an EO line rises;
TEST through debug access alone, where STOP stops the trees and STEP clocks them once; a pad that clocks a tree makes a D flip-flop take its
input and a T flip-flop toggle.  The release and the entries are FCLK edges, so FCLK runs (log entry 143); a flip-flop whose set or reset has
just gone inactive takes either value and is left out here (log entry 105); and the COMB macrocells have settled. -/
def Obligations.Espalier : Prop :=
  ∀ (ag : Agent) (m : Nat) (cell : Macrocell) (pin : Fin 96) (level : Bool) (s : State),
    let stage := s.fget ESP_STAT.STAGE
    let state := s.fget ESP_STAT.STATE
    let moves (st : Nat) (t : State) : Prop := t.fget ESP_STAT.STAGE = st ∧ t.fget ESP_STAT.STATE = state ∧ t.mem = s.mem
    let still : Prop := (∀ c ∈ s.bits.macros, c.2.kind = 0) ∧ s.eiPend = [] ∧ s.esp.ei = 0 ∧ (s.espEnv.pass s.bits s.esp.ff).out = s.espEnv.out
    let outside (t : State) : Prop := t.mem = s.mem ∧ t.syn = s.syn ∧ t.dealers = s.dealers
    let clocked (t : State) : Prop := natBit t.esp.ff m = if cell.kind = 1 then cell.xorOne else xor (natBit s.esp.ff m) cell.xorOne
    let single (g : Nat) : Prop := s.bits.macros = [(m, cell)] ∧ m < 1024 ∧ cell.sum = [] ∧ cell.xorTerm = none ∧ cell.kind ∈ [1, 2] ∧ cell.fg.map Fin.val = some g ∧
      cell.alt = none ∧ cell.set = .none ∧ cell.rst = .none ∧ 2 ≤ stage ∧ state ≠ 0 ∧ s.espFresh m = false
    (s.fclkOn = true →
      (state = 1 → stage = 0 → ∃ t, exec .espOutputsRelease s = .next t ∧ moves 1 t ∧ t.esp = s.esp) ∧
      (stage = 1 → ∃ t, exec .espWriteEnable s = .next t ∧ moves 2 t ∧ s.Only [ESP_STAT.reg] t) ∧
      (stage = 2 → state = 1 → ∃ t, exec .espResetRelease s = .next t ∧ t.fget ESP_STAT.STAGE = 3 ∧ t.mem = s.mem ∧ s.Signals 273 t ∧
        t.fget ESP_STAT.STATE = (if s.bits.startDone = none then 2 else 1)) ∧
      ((state = 1 ∧ stage = 3 ∧ s.bits.startDone = none) ∨ (state = 3 ∧ s.bits.recReq = none) →
        ∃ t, exec .espRunEntry s = .next t ∧ t.fget ESP_STAT.STATE = 2 ∧ outside t) ∧
      (still → state = 2 → s.bits.recReq = some m → s.macroOut m = true → ∃ t, exec .espRecoveryEntry s = .next t ∧ t.fget ESP_STAT.STATE = 3 ∧ outside t) ∧
      (still → state = 4 → ∀ line : Fin 28, natBit s.eoLevels line = true → natBit (s.fget ESP_EO_LO.EO) line = false →
        ∃ t, exec (.espEoRise line) s = .next t ∧ t.fget ESP_EO_LO.EO = s.eoLevels % 2 ^ 32 ∧ t.fget ESP_EO_HI.EO = s.eoLevels / 2 ^ 32 ∧
          s.Signals (292 + line) t ∧ outside t)) ∧
    (s.fclkOn = false → ∀ x ∈ [Instr.espOutputsRelease, .espWriteEnable, .espResetRelease], exec x s = .next s) ∧
    (s.fget SYS_LCS.DBG = 1 → s.pathTurns .debug hubAddr = none →
      (state ∈ [2, 3] → Answers (.espTestEnter .debug) .debug 0 0 s (fun t => t.fget ESP_STAT.STATE = 4 ∧ t.fget ESP_TEST.ENTER = 1 ∧ outside t)) ∧
      (state = 4 → Answers (.espTestExit .debug) .debug 0 0 s (fun t => t.fget ESP_STAT.STATE = 2 ∧ t.fget ESP_TEST.ENTER = 0 ∧ t.fget ESP_TEST.STOP = 0 ∧ outside t)) ∧
      (state = 4 → s.fget ESP_TEST.ENTER = 1 → Answers (.espTestStop .debug) .debug 0 0 s (fun t => t.fget ESP_TEST.STOP = 1 ∧ t.fget ESP_STAT.STATE = 4 ∧
        t.esp = s.esp ∧ s.Only [ESP_TEST.reg] t)) ∧
      (state = 4 → s.fget ESP_TEST.ENTER = 1 → s.fget ESP_TEST.STOP = 1 → (∃ g, single g) →
        Answers (.espTestStep .debug) .debug 0 0 s (fun t => clocked t ∧ t.fget ESP_STAT.STATE = 4 ∧ outside t))) ∧
    (s.pathTurns ag hubAddr = none → ag ≠ .debug ∨ s.fget SYS_LCS.DBG ≠ 1 → ∀ x ∈ [Instr.espTestEnter ag, .espTestExit ag, .espTestStop ag, .espTestStep ag], Answers x ag 1 0 s (fun t => t = s)) ∧
    (∃ t, exec (.gpioPadInputChange pin level) s = .next t ∧ natBit t.esp.pads pin = level ∧
      (∀ q, q ≠ pin.val → natBit t.esp.pads q = natBit s.esp.pads q) ∧ t.regs = s.regs ∧ outside t ∧
      (s.fget (PAD_MUX.FUNC pin) ≠ 1 → t.esp.ff = s.esp.ff) ∧
      (s.fget (PAD_MUX.FUNC pin) = 1 → pin.val < 4 → single pin → s.fget (ESP_FG.SRC pin) = 1 → natBit s.esp.pads pin = false →
        (state = 4 → s.fget ESP_TEST.STOP = 0) → level = true → clocked t))

/- Clocks, resets, supplies and the loader. -/

/-- R450 to R466: crystals and PLLs become ready; a domain switches only to a ready source, with EV262 otherwise, and a ramped switch halves its
divider step by step; a gate that would close under a use is refused with EV263; the trim code moves by at most one step; a failed clock starts
a cold reset with its source.
When a PLL loses READY, the crystal after CLKFAIL_NOFB, and the loader's switches that wait for their source are log entries 108, 145 and 167: these
are the model's choices. -/
def Obligations.Clocks : Prop :=
  ∀ (ag : Agent) (x : Fin 2) (p : Fin 6) (d : Fin 7) (gate : Fin 25) (c : Fin 4) (target : BitVec 10) (s : State),
    let ready := if x.val = 0 then CLK_STAT.XAR else CLK_STAT.XBR
    let failed := if x.val = 0 then CLK_STAT.XAFAIL else CLK_STAT.XBFAIL
    let sourced (src : Bool) : Prop := if src then s.fget (CLK_PLL.READY d) = 1 else s.fget CLK_STAT.FIRCR = 1
    let rights : Prop := ag = .loader ∨ (ag = .debug ∧ s.fget SYS_LCS.DBG = 1)
    let native (src : Bool) := Instr.clkNativeSwitch ag d src
    let ramped (src : Bool) := Instr.clkRampSwitch ag d src
    let code := s.fget CLK_TRIM.CODE
    let trims : Prop := s.trimReady = true ∧ (s.started = true → s.fallow = true)
    let cold (cause src : Nat) (t : State) : Prop := t.inReset = 2 ∧ t.fget RST_CAUSE.CAUSE = cause ∧ t.fget RST_CAUSE.SRC = src ∧
      t.fget RST_CAUSE.COLDS = satAdd 8 (s.fget RST_CAUSE.COLDS) 1 ∧ t.fget COLD_STAT.WIPING = 1
    (s.xtalOn x = true → (∃ t, exec (.xtalQualified x) s = .next t ∧ t.fget ready = 1 ∧ s.Signals 261 t ∧ (x.val = 0 → t.gardTimer = true)) ∧
      (s.fget ready = 0 →
        let dead : Prop := if x.val = 0 then (s.fget CLK_STAT.XBFAIL = 1 ∧ s.fget CLK_STAT.XBR = 0) ∨
            (s.fget LOAD_STAT.STATE ≠ 0 ∧ s.xbUsed s.plan.xb = false)
          else s.fget CLK_STAT.XAFAIL = 1 ∧ s.fget CLK_STAT.XAR = 0
        ∃ t, exec (.xtalQualTimeout x) s = .next t ∧ t.fget failed = 1 ∧ t.mem = s.mem ∧ (dead → t.fget LOAD_STAT.STATE = 4) ∧
          (¬dead → t.fget LOAD_STAT.STATE = s.fget LOAD_STAT.STATE ∧
            (x.val = 0 → s.plan.xb = true → s.fget LOAD_STAT.STATE ≠ 0 → t.onXB = true)))) ∧
    (s.inReset = 0 → s.refReady (s.pllRef p) = true → s.pllTimed p = true → ∃ t, exec (.pllLock p) s = .next t ∧ t.fget (CLK_PLL.READY p) = 1 ∧
      natBit (t.fget CLK_STAT.PLLR) p = true ∧ (p = 2 → s.fget DRAM_STAT.TRAIN = 0 → s.fget LOAD_STAT.STATE ≠ 4 → t.fget DRAM_STAT.TRAIN = 1) ∧
      (p = 3 → s.fget LOAD_STAT.STATE = 4 → t.fget (CLK_SEL.SRC 3) = 1) ∧
      (s.selPlan = [] ∨ s.fget LOAD_STAT.STATE = 4 → s.Only [CLK_PLL.reg p, CLK_STAT.reg, DRAM_STAT.reg, CLK_SEL.reg 3] t) ∧
      (∀ e v, s.started = false → s.fget LOAD_STAT.STATE ≠ 4 → s.selPlan = [(e, v)] → e < 6 → s.fget (CLK_SEL.BUSY e) = 0 →
        (if v % 2 = 1 then e = p.val ∨ s.fget (CLK_PLL.READY e) = 1 else s.fget CLK_STAT.FIRCR = 1) →
        t.selPlan = [] ∧ t.fget (CLK_SEL.SRC e) = v % 2 ∧ t.fget (CLK_SEL.BUSY e) = v / 2 % 2)) ∧
    (¬rights → s.pathTurns ag hubAddr = none → ∀ src, Answers (native src) ag 1 0 s (fun t => t = s) ∧ Answers (ramped src) ag 1 0 s (fun t => t = s)) ∧
    (rights → s.pathTurns ag hubAddr = none → s.locked (CLK_SEL.reg d) = false → ∀ src, (d = 6 → src = false) →
      (s.fget (CLK_SEL.BUSY d) = 0 → sourced src →
        Answers (native src) ag 0 0 s (fun t => t.fget (CLK_SEL.SRC d) = (if src then 1 else 0) ∧ t.fget (CLK_SEL.BUSY d) = 0 ∧ s.Only [CLK_SEL.reg d] t) ∧
        Answers (ramped src) ag 0 0 s (fun t => t.fget (CLK_SEL.SRC d) = (if src then 1 else 0) ∧ t.fget (CLK_SEL.BUSY d) = 1 ∧ t.fget (CLK_SEL.STEP d) = 3 ∧
          s.Only [CLK_SEL.reg d] t)) ∧
      (s.fget (CLK_SEL.BUSY d) = 1 ∨ ¬sourced src → Answers (native src) ag 1 0 s (fun t => t = s.event 262) ∧
        Answers (ramped src) ag 1 0 s (fun t => t = s.event 262))) ∧
    (s.fget (CLK_SEL.BUSY d) = 1 → ∃ t, exec (.rampStepExpiry d) s = .next t ∧ s.Only [CLK_SEL.reg d] t ∧
      if s.fget (CLK_SEL.STEP d) = 0 then t.fget (CLK_SEL.BUSY d) = 0 else t.fget (CLK_SEL.STEP d) + 1 = s.fget (CLK_SEL.STEP d)) ∧
    (rights ∨ ag = .gardener → s.pathTurns ag hubAddr = none → gateParent gate = none → gateChildren gate = [] →
      Answers (.clkGateWrite ag gate true) ag 0 0 s (fun t => t.fget (CLK_GATE.EN gate) = 1 ∧ s.Only [CLK_GATE.reg gate] t) ∧
      (s.gateNeeded gate = false → Answers (.clkGateWrite ag gate false) ag 0 0 s (fun t => t.fget (CLK_GATE.EN gate) = 0 ∧ s.Only [CLK_GATE.reg gate] t)) ∧
      (s.fget (CLK_GATE.EN gate) = 1 → s.gateNeeded gate = true → Answers (.clkGateWrite ag gate false) ag 1 0 s (fun t => t = s.event 263))) ∧
    (∀ parent, s.pathTurns ag hubAddr = none → gateParent gate = some parent → s.fget (CLK_GATE.EN gate) = 0 → s.fget (CLK_GATE.EN parent) = 0 →
      Answers (.clkGateWrite ag gate true) ag 1 0 s (fun t => t = s.event 263)) ∧
    (trims → ∀ ok, ∃ t, exec (.trimWindow target ok) s = .next t ∧
      t.fget CLK_TRIM.CODE = (if s.trimFirst then target.toNat else if code < target.toNat then code + 1 else if target.toNat < code then code - 1 else code) ∧
      t.trimFirst = false ∧ (ok = true → t.fget CLK_STAT.TRIMMED = 1 ∧ t.gardTimer = true) ∧ (t.fget CLK_TRIM.CODE ≠ code → s.Signals 260 t) ∧ t.mem = s.mem) ∧
    (s.fget CLK_TRIM.REF = 3 + c.val → s.portBound (5 + c.val) = true → ∃ t, exec (.canTrimFrame c) s = .next t ∧ t.canTrim = min 32 (s.canTrim + 1) ∧ (s.canTrim = 31 → t.trimFirst = true) ∧ s.Only [] t) ∧
    (s.inReset = 0 → s.fget CLK_STAT.FIRCR = 1 → (s.fget CLK_STAT.SIRCR = 1 → ∃ t, exec (.clockMonitorFail 0) s = .next t ∧ cold 4 0 t) ∧
      (s.fget (CLK_PLL.READY p) = 1 → ∃ t, exec (.clockMonitorFail ⟨4 + p.val, by omega⟩) s = .next t ∧ cold 2 (4 + p.val) t) ∧
      (s.fget CLK_STAT.XBR = 1 → (∀ q, q < 6 → s.pllRef q ≠ 2) → ∃ t, exec (.clockMonitorFail 3) s = .next t ∧ cold 2 3 t ∧ natBit t.xtalOff 1 = true) ∧
      (s.fget CLK_STAT.XAR = 1 → s.pllRef p = 1 → s.fget (CLK_PLL.FBREF p) ∈ [0, 1] →
        ∃ t, exec (.clockMonitorFail 2) s = .next t ∧ cold 3 2 t)) ∧
    (s.inReset ≠ 1 → s.fget CLK_STAT.FIRCR = 1 → s.fget CLK_STAT.SIRCR = 1 → exec .fircMonitorWarning s = .next (s.event 272) ∧
      ∃ t, exec .sircWindowTimeout s = .next t ∧ t.fget CLK_STAT.SIRCR = 0 ∧ s.Signals 272 t) ∧
    (s.inReset = 1 → ∀ src, exec (.clockMonitorFail src) s = .next s) ∧
    (∃ t, exec .sircQualified s = .next t ∧ t.fget CLK_STAT.SIRCR = 1 ∧ s.Only [CLK_STAT.reg] t)

/-- R340, R467 to R469, R471, R473 to R475, R482, R483, R488 to R491, R495, R501, R503 and R504: what resets and their release leave; supply, temperature
and power-over-coax warnings; the loader's verdict on a slot and its main read; life-cycle requests and the fuses they program.
What a cold reset keeps, the image as an operand, the main read, the bytes of memory after a reset (log entry 5), a cycle of the model as the unit of
the 10 s (110) and no fuse programming before the main read (122) are the model's choices: log entries 111, 113 and 121 beside those. -/
def Obligations.ResetsAndLoader : Prop :=
  ∀ (ag : Agent) (ns : Nat) (strap : BitVec 4) (rail : Fin 7) (out : Bool) (tj : BitVec 9) (k : Fin 14) (img : Image) (v : Word) (s : State),
    let cold (cause : Nat) (t : State) : Prop := t.inReset = 2 ∧ t.fget RST_CAUSE.CAUSE = cause ∧ t.fget COLD_STAT.WIPING = 1 ∧ t.fget LOAD_STAT.STATE = 0 ∧
      t.reg SYS_LCS.reg = (s.fset SYS_LCS.DBG 0).reg SYS_LCS.reg ∧ t.rstoutN = false ∧ (∀ n, t.dl n = DealerCore.zero) ∧ ∀ x, t.byte x = 0
    let also (cause : Nat) (t : State) : Prop := t.fget RST_CAUSE.ALSO = s.fget RST_CAUSE.ALSO ||| 2 ^ (cause - 1) ∧ s.Only [RST_CAUSE.reg] t
    let strikes := ((Sparse.get [] s.pocCuts k.val).filter (fun t => decide (s.now ≤ t + 10000000000))).length + 1
    let lcs := s.fget SYS_LCS.STATE
    (1000 ≤ ns → ∃ t, exec (.powerOnReset ns) s = .next t ∧ t.inReset = 1 ∧ t.pending = s.pending ∧ t.mem = [] ∧ t.dealers = State.reset.dealers ∧
      (∀ o, o ∉ [SYS_LCS.reg, SYS_UID_LO.reg, SYS_UID_HI.reg] → t.reg o = State.reset.reg o) ∧
      (∀ o ∈ [SYS_UID_LO.reg, SYS_UID_HI.reg], t.reg o = s.reg o) ∧ t.reg SYS_LCS.reg = (s.fset SYS_LCS.DBG 0).reg SYS_LCS.reg ∧
      t.pxActive = s.pxActive ∧ t.rstoutN = false) ∧
    (ns < 250 → exec (.powerOnReset ns) s = .next s ∧ exec (.resetNAssert ns) s = .next s) ∧
    (s.hot = false → exec .thermalShutdownExpiry s = .next s) ∧
    (∀ q ∈ [(Instr.resetNAssert (1000 + ns), 1), (.supplyResetExpiry, 6), (.thermalShutdownExpiry, 7)], (q.2 = 7 → s.hot = true) →
      (s.inReset = 0 → ∃ t, exec q.1 s = .next t ∧ cold q.2 t) ∧ (s.inReset ≠ 0 → ∃ t, exec q.1 s = .next t ∧ also q.2 t)) ∧
    (s.inReset ≠ 0 → ∃ t, exec (.resetRelease strap) s = .next t ∧ t.inReset = 0 ∧ t.rstoutN = true ∧ t.fget SYS_STRAP.BOOTCFG = strap.toNat ∧
      t.fget SYS_LCS.DBG = (if lcs = 2 then 0 else 1) ∧ (s.fget COLD_STAT.WIPES = 0 → s.fget COLD_STAT.WIPING = 0 → t.fget COLD_STAT.WIPING = 1) ∧
      s.Signals 269 t) ∧
    (natBit s.railOut rail ≠ out → ∃ t, exec (.supplyWarning rail out) s = .next t ∧ natBit t.railOut rail = out ∧
      s.Signals (if rail.val = 0 then 266 else 267) t ∧ t.mem = s.mem) ∧
    (let crossed (lim : Int) (f : Fld) (e : Nat) (t : State) : Prop := (lim < tj.toInt → t.fget f = 1 ∧ (s.fget f = 0 → s.Signals e t)) ∧
        (tj.toInt ≤ lim - 3 → t.fget f = 0) ∧ (lim - 3 < tj.toInt → tj.toInt ≤ lim → t.fget f = s.fget f)
     ∃ t, exec (.thermalThreshold tj) s = .next t ∧ t.fget PAD_THERM.TJ = tj.toNat ∧ crossed 130 PAD_THERM.WARN 264 t ∧ crossed 137 PAD_THERM.CRIT 265 t ∧
       (145 < tj.toInt → t.hot = true) ∧ (tj.toInt ≤ 142 → t.hot = false) ∧ (142 < tj.toInt → tj.toInt ≤ 145 → t.hot = s.hot)) ∧
    (∀ mv, s.fget (PAD_POC.EN k) = 1 → s.fget (PAD_POC.STATE k) = 1 → s.fget (PAD_POC.VTRIP k) < mv → ∃ t, exec (.pocOvercurrent k mv) s = .next t ∧
      t.fget (PAD_POC.CUTS k) = satAdd (PAD_POC.CUTS k).wid (s.fget (PAD_POC.CUTS k)) 1 ∧ t.fget (PAD_POC.STATE k) = (if 3 ≤ strikes then 3 else 2) ∧
      (3 ≤ strikes → s.Signals 271 t) ∧ (if k.val < 8 then t.fget (CAM_STAT.POC k) = 1 ∧ s.Signals (188 + k) t else
        t.fget (DSP_STAT.POC (k.val - 8)) = 1 ∧ s.Signals 179 t)) ∧
    (s.fget (PAD_POC.EN k) = 1 → s.fget (PAD_POC.STATE k) = 2 → ∃ t, exec (.pocRetryExpiry k) s = .next t ∧ t.fget (PAD_POC.STATE k) = 1 ∧ s.Only [PAD_POC.reg k] t) ∧
    (s.inReset = 0 → s.fget LOAD_STAT.STATE = 0 →
      (∀ code, (img.answers = false ∧ code = 0x80) ∨ (img.answers = true ∧ img.plan.magic ≠ 0x52464559 ∧ code = 0x81) →
        ∃ t, exec (.slotCheckDone img) s = .next t ∧ t.mem = s.mem ∧
          if s.fget LOAD_STAT.SLOT = 0 then t.fget LOAD_FAULT.ACODE = code ∧ t.fget LOAD_STAT.SLOT = 1 ∧ t.fget LOAD_STAT.STATE = 0
          else t.fget LOAD_FAULT.BCODE = code ∧ t.fget LOAD_STAT.STATE = 4) ∧
      (s.fget CLK_STAT.XAFAIL = 0 → ∃ t, exec (.slotCheckDone img) s = .next t ∧
        match s.slotFault img with
        | none => t.fget LOAD_STAT.STATE = 1 ∧ t.plan = img.plan ∧ t.locks = img.plan.locks
        | some (code, _) => t.mem = s.mem ∧
          if s.fget LOAD_STAT.SLOT = 0 then t.fget LOAD_FAULT.ACODE = code % 2 ^ 8 ∧ t.fget LOAD_STAT.SLOT = 1 ∧ t.fget LOAD_STAT.STATE = 0
          else t.fget LOAD_FAULT.BCODE = code % 2 ^ 8 ∧ t.fget LOAD_STAT.STATE = 4)) ∧
    (∀ first second other x, s.fget LOAD_STAT.STATE = 1 → s.fget DRAM_STAT.TRAIN = 2 → s.mainRead = false → (mainOrder s.plan)[s.sectsDone]? = some x →
      let read := Instr.mainSectionRead first second other
      let takes (l : List Byte) (mirror : Nat) : Prop := ∃ t, exec read s = .next t ∧ t.sectsDone = s.sectsDone + 1 ∧ t.dealers = s.dealers ∧
        t.fget LOAD_STAT.MIRROR = mirror ∧ (s.sectsDone + 1 = (mainOrder s.plan).length → t.mainRead = true) ∧
        (x.typ ≠ 0x10 → ∀ i, i < l.length → t.byte (s.plan.copyBase + x.off + i) = l.getD i 0)
      (x.verifies first = true → takes first (s.fget LOAD_STAT.MIRROR)) ∧
      (x.verifies first = false → x.verifies second = true → takes second (s.fget LOAD_STAT.MIRROR)) ∧
      (x.verifies first = false → x.verifies second = false → match s.otherGives x other with
        | some l => takes l 1
        | none => ∃ t, exec read s = .next t ∧ t.fget LOAD_STAT.STATE = 3 ∧
          t.fget LOAD_FAULT.MCODE = 0x8B ∧ t.mem = s.mem ∧ t.mainRead = false)) ∧
    (s.fget SYS_LCS.DBG = 1 → s.pathTurns .debug hubAddr = none → v.toNat / 2 ^ 24 = 0x4C → v.toNat / 4 % 2 ^ 22 = 0 →
      ((lcs = 0 ∧ v.toNat % 4 = 1) ∨ (lcs = 0 ∧ v.toNat % 4 = 2 ∧ s.fget SYS_LCS.KEYSET = 1 ∧ s.fget SYS_LCS.ES = 0) ∨ (lcs = 1 ∧ v.toNat % 4 = 3) →
        Answers (.sysLcreqWrite .debug v) .debug 0 0 s (fun t => t.lcReq = some (v.toNat % 4) ∧ s.Only [] t)) ∧
      (lcs ∈ [2, 3] ∨ v.toNat % 4 = 0 → Answers (.sysLcreqWrite .debug v) .debug 1 0 s (fun t => t = s.event 270))) ∧
    (ag ≠ .debug → s.pathTurns ag hubAddr = none → Answers (.sysLcreqWrite ag v) ag 1 0 s (fun t => t = s)) ∧
    (s.mainRead = true →
      (∀ st, s.lcReq = some st → s.inReset = 0 → s.keyFuse = none → s.svnFuse = none → st < 4 → ∃ t, exec .fuseProgrammingDone s = .next t ∧
        t.fget SYS_LCS.STATE = st ∧ t.inReset = 2 ∧ t.fget RST_CAUSE.CAUSE = 8 ∧ t.fget COLD_STAT.CAUSE = 4) ∧
      (∀ key svn, s.lcReq = none → s.keyFuse = some key → s.svnFuse = some svn → svn < 64 → ∃ t, exec .fuseProgrammingDone s = .next t ∧
        t.fget SYS_LCS.KEYSET = 1 ∧ t.keyHash = key ∧ t.fget SYS_LCS.MINSVN = max svn (s.fget SYS_LCS.MINSVN) ∧ s.Only [SYS_LCS.reg] t)) ∧
    (s.mainRead = false → exec .fuseProgrammingDone s = .next s)

/- The machine as a whole. -/

/-- The block takes its commands first in, first out: a step runs the command at the front of the queue on the state with the queue's rest.
(On an empty queue a cycle of the clock passes: the model's choice, log entry 7.) -/
def Obligations.StepRunsFront : Prop :=
  ∀ (c : Instr) (rest : List Instr) (s : State),
    (s.pending = c :: rest → step s = exec c { s with pending := rest }) ∧
    (s.pending = [] → ∃ t, step s = .next t ∧ t.now = s.now + 1 ∧ t.pending = [] ∧ t.mem = s.mem ∧ t.dealers = s.dealers)

/-- Every step, whatever its command, keeps the byte memories, the registers and the syndromes in canonical form (equal contents are equal
data), takes exactly the command at the front of the queue, and takes back nothing that was sent; the count of cycles never falls. -/
def Obligations.StepKeepsCanonical : Prop :=
  ∀ s t : State, step s = .next t →
    (s.Canonical → t.Canonical) ∧ t.pending = s.pending.tail ∧ s.outs <+: t.outs ∧ s.now ≤ t.now ∧ s.fresh ≤ t.fresh

/-- The reset state: the canonical form, mask stacks within their depth, hand lines that permute, an empty queue, RSTOUT_N low, and the values that the register tables give for reset: the identity, the fault
classes, the levels' kinds, the bank owners and masks, the DRAM map, and a start-up that has not begun. -/
def Obligations.ResetState : Prop :=
  let s := State.reset
  s.Canonical ∧ s.MasksFit ∧ s.HandsPermute ∧ s.pending = [] ∧ s.rstoutN = false ∧ s.fget SYS_ID.PART = 0x9262 ∧ s.fget LOAD_STAT.STATE = 0 ∧ s.fget LOAD_STAT.SLOT = 0 ∧ s.fget DRAM_STAT.TRAIN = 0 ∧
    s.fget GARD_STAT.STATE = 0 ∧ s.fget CLK_STAT.FIRCR = 1 ∧ s.fget TRL_DMAP.MAP = 0xFAC688 ∧ s.fget TRL_DMAP_SH.MAP = 0xFAC688 ∧
    (∀ c, c < 6 → s.fget (GARD_CLASS.STRIKES c) = 2 ∧ s.fget (GARD_CLASS.WINDOW c) = 999) ∧
    (∀ n, n < 4 → s.fget (LVLCFG.KIND n) = 0xC003 ∧ s.fget (LVLSTAT.ACTIVE n) = 0 ∧ s.fget (DEAL_STAT.PHASE n) = 0) ∧
    (∀ b, b < 33 → s.fget (BANK_OWNER.OWNER b) = (if b = 32 then 9 else 0) ∧ s.fget (BANK_STAT.WEED b) = 0) ∧
    (∀ e, e < 320 → s.fget (EVT_ROUTE.KIND e) = 0 ∧ s.fget (bitFld (EVT_PEND.reg 0) e) = 0) ∧
    ∀ k, k < 4 → s.fget (SEAT_AP.APSZ k) = 20 ∧ s.fget (SEAT_CFG.EN k) = 0
end

