-- ==== Sys2Proof/Laws/Sparse.lean ====
section
/-!
SUPPORT. Sparse maps: a read after a write, and that every operation keeps the canonical form.  The read laws hold of every list, canonical
or not.
-/
namespace Sys2Proof.Machine

variable {α : Type}

@[simp] theorem Sparse.get_insert_same (d v : α) (m : List (Nat × α)) (k : Nat) : Sparse.get d (Sparse.insert m k v) k = v := by
  induction m with
  | nil => simp [Sparse.insert, Sparse.get]
  | cons p m ih =>
    obtain ⟨a, b⟩ := p
    unfold Sparse.insert
    split
    · simp [Sparse.get]
    · split
      · simp [Sparse.get]
      · simp [Sparse.get, ih]; intro h; contradiction

theorem Sparse.get_insert_other (d v : α) (m : List (Nat × α)) {k j : Nat} (h : j ≠ k) :
    Sparse.get d (Sparse.insert m k v) j = Sparse.get d m j := by
  induction m with
  | nil => simp [Sparse.insert, Sparse.get, h]
  | cons p m ih =>
    obtain ⟨a, b⟩ := p
    unfold Sparse.insert
    split
    · simp [Sparse.get, h]
    · split
      · subst_vars; simp [Sparse.get, h]
      · simp [Sparse.get, ih]

@[simp] theorem Sparse.get_erase_same (d : α) (m : List (Nat × α)) (k : Nat) : Sparse.get d (Sparse.erase m k) k = d := by
  induction m with
  | nil => rfl
  | cons p m ih =>
    unfold Sparse.erase
    split
    · exact ih
    · simp [Sparse.get, ih, *]

theorem Sparse.get_erase_other (d : α) (m : List (Nat × α)) {k j : Nat} (h : j ≠ k) :
    Sparse.get d (Sparse.erase m k) j = Sparse.get d m j := by
  induction m with
  | nil => rfl
  | cons p m ih =>
    unfold Sparse.erase
    split
    · subst_vars; simp [Sparse.get, ih, h]
    · simp [Sparse.get, ih]

/-- A read after a write of the same key gives the value written. -/
@[simp] theorem Sparse.get_set_same [DecidableEq α] (d v : α) (m : List (Nat × α)) (k : Nat) : Sparse.get d (Sparse.set d m k v) k = v := by
  unfold Sparse.set
  split
  · subst_vars; simp
  · simp

/-- A write leaves every other key alone. -/
theorem Sparse.get_set_other [DecidableEq α] (d v : α) (m : List (Nat × α)) {k j : Nat} (h : j ≠ k) :
    Sparse.get d (Sparse.set d m k v) j = Sparse.get d m j := by
  unfold Sparse.set
  split
  · exact Sparse.get_erase_other d m h
  · exact Sparse.get_insert_other d v m h

/-- A read of any key after a write. -/
theorem Sparse.get_set [DecidableEq α] (d v : α) (m : List (Nat × α)) (k j : Nat) :
    Sparse.get d (Sparse.set d m k v) j = if j = k then v else Sparse.get d m j := by
  split
  · subst_vars; simp
  · exact Sparse.get_set_other d v m ‹_›

/-- The bound of a canonical list may be lowered. -/
theorem Sparse.wfFrom_weaken [DecidableEq α] (d : α) (b c : Option Nat) (m : List (Nat × α))
    (hbc : ∀ x, c = some x → ∃ y, b = some y ∧ x ≤ y) (h : Sparse.wfFrom d b m = true) : Sparse.wfFrom d c m = true := by
  cases m with
  | nil => rfl
  | cons p m =>
    cases c with
    | none => cases b <;> simp_all [Sparse.wfFrom]
    | some x =>
      obtain ⟨y, rfl, hxy⟩ := hbc x rfl
      simp [Sparse.wfFrom] at h ⊢
      exact ⟨⟨by omega, h.1.2⟩, h.2⟩

theorem Sparse.wfFrom_insert [DecidableEq α] (d v : α) (hv : v ≠ d) (m : List (Nat × α)) (k : Nat) (b : Option Nat)
    (hb : ∀ x, b = some x → x < k) (h : Sparse.wfFrom d b m = true) : Sparse.wfFrom d b (Sparse.insert m k v) = true := by
  induction m generalizing b with
  | nil => cases b <;> simp_all [Sparse.insert, Sparse.wfFrom]
  | cons p m ih =>
    obtain ⟨a, w⟩ := p
    unfold Sparse.insert
    split
    · rename_i hka
      cases b <;> simp_all [Sparse.wfFrom]
    · split
      · subst_vars
        cases b <;> simp_all [Sparse.wfFrom]
      · have := ih (some a) (by intro x hx; cases hx; omega) (by cases b <;> simp_all [Sparse.wfFrom])
        cases b <;> simp_all [Sparse.wfFrom]

theorem Sparse.wfFrom_filter [DecidableEq α] (d : α) (q : Nat × α → Bool) (m : List (Nat × α)) (b : Option Nat)
    (h : Sparse.wfFrom d b m = true) : Sparse.wfFrom d b (m.filter q) = true := by
  induction m generalizing b with
  | nil => rfl
  | cons p m ih =>
    obtain ⟨a, w⟩ := p
    have h2 : Sparse.wfFrom d (some a) m = true := by cases b <;> simp_all [Sparse.wfFrom]
    simp only [List.filter_cons]
    split
    · have := ih (some a) h2
      cases b <;> simp_all [Sparse.wfFrom]
    · refine Sparse.wfFrom_weaken d (some a) b _ ?_ (ih (some a) h2)
      intro x hx
      subst hx
      simp [Sparse.wfFrom] at h
      exact ⟨a, rfl, by omega⟩

theorem Sparse.erase_eq_filter (m : List (Nat × α)) (k : Nat) : Sparse.erase m k = m.filter (fun p => !decide (k = p.1)) := by
  induction m with
  | nil => rfl
  | cons p m ih =>
    unfold Sparse.erase
    split <;> simp_all [List.filter_cons]

/-- A write keeps the canonical form. -/
@[simp] theorem Sparse.wf_set [DecidableEq α] (d v : α) (m : List (Nat × α)) (k : Nat) (h : Sparse.wf d m = true) :
    Sparse.wf d (Sparse.set d m k v) = true := by
  unfold Sparse.set
  split
  · rw [Sparse.erase_eq_filter]; exact Sparse.wfFrom_filter d _ m none h
  · exact Sparse.wfFrom_insert d v ‹_› m k none (by simp) h

/-- Removing entries keeps the canonical form. -/
@[simp] theorem Sparse.wf_filter [DecidableEq α] (d : α) (q : Nat × α → Bool) (m : List (Nat × α)) (h : Sparse.wf d m = true) :
    Sparse.wf d (m.filter q) = true := Sparse.wfFrom_filter d q m none h

end Sys2Proof.Machine
end

