-- ==== Sys2Proof/Laws/Registers.lean ====
section
/-!
SUPPORT. Reads after writes: device registers and their fields, the Dealers and their banks, the general registers, the bytes of memory.
-/
namespace Sys2Proof.Machine

open Sys2Proof

/- Fields of a word. -/

theorem natBits_eq (x lo wid : Nat) : natBits x lo wid = x >>> lo % 2 ^ wid := by
  simp [natBits, Nat.shiftRight_eq_div_pow]

theorem natBits_testBit (x lo wid i : Nat) : (natBits x lo wid).testBit i = (decide (i < wid) && x.testBit (lo + i)) := by
  rw [natBits_eq, Nat.testBit_mod_two_pow, Nat.testBit_shiftRight]

theorem getField_lt (w : Word) (lo wid : Nat) : getField w lo wid < 2 ^ wid := Nat.mod_lt _ (Nat.two_pow_pos wid)

/-- A bit of a word after a field is replaced. -/
theorem putField_testBit (w : Word) (lo wid v i : Nat) (hi : i < 32) :
    (putField w lo wid v).toNat.testBit i =
      if lo ≤ i ∧ i < lo + wid then v.testBit (i - lo) else w.toNat.testBit i := by
  have e : ∀ x : BitVec 32, x.toNat.testBit i = x.getLsbD i := fun _ => rfl
  rw [e, e]
  unfold putField
  simp only [BitVec.getLsbD_or, BitVec.getLsbD_and, BitVec.getLsbD_not, BitVec.getLsbD_shiftLeft, BitVec.getLsbD_ofNat, hi,
    decide_true, Bool.true_and, Nat.testBit_two_pow_sub_one, Nat.testBit_mod_two_pow]
  by_cases h1 : i < lo
  · have h2 : ¬(lo ≤ i ∧ i < lo + wid) := by omega
    simp [h1, h2]
  · by_cases h3 : i < lo + wid
    · have h2 : lo ≤ i ∧ i < lo + wid := by omega
      have h4 : i - lo < wid := by omega
      have h5 : i - lo < 32 := by omega
      simp [h1, h2, h4, h5]
    · have h2 : ¬(lo ≤ i ∧ i < lo + wid) := by omega
      have h4 : ¬(i - lo < wid) := by omega
      simp [h1, h2, h4]

/-- A field read back after it is replaced. -/
theorem getField_putField_same (w : Word) (lo wid v : Nat) (h : lo + wid ≤ 32) :
    getField (putField w lo wid v) lo wid = v % 2 ^ wid := by
  apply Nat.eq_of_testBit_eq
  intro i
  rw [getField, natBits_testBit, Nat.testBit_mod_two_pow]
  by_cases hi : i < wid
  · rw [putField_testBit _ _ _ _ _ (by omega)]
    have : lo ≤ lo + i ∧ lo + i < lo + wid := by omega
    simp [hi]
  · simp [hi]

/-- A field beside the one replaced. -/
theorem getField_putField_other (w : Word) (lo wid v l k : Nat) (hk : l + k ≤ 32) (h : l + k ≤ lo ∨ lo + wid ≤ l) :
    getField (putField w lo wid v) l k = getField w l k := by
  apply Nat.eq_of_testBit_eq
  intro i
  rw [getField, getField, natBits_testBit, natBits_testBit]
  by_cases hi : i < k
  · rw [putField_testBit _ _ _ _ _ (by omega)]
    have : ¬(lo ≤ l + i ∧ l + i < lo + wid) := by omega
    simp [this]
  · simp [hi]

/- Device registers. -/

@[simp] theorem State.reg_setReg_same (s : State) (o : Nat) (v : Word) : (s.setReg o v).reg o = v := by
  simp [State.reg, State.setReg]

theorem State.reg_setReg_other (s : State) {o p : Nat} (v : Word) (h : p ≠ o) : (s.setReg o v).reg p = s.reg p :=
  Sparse.get_set_other 0 v s.regs h

theorem State.reg_setReg (s : State) (o p : Nat) (v : Word) : (s.setReg o v).reg p = if p = o then v else s.reg p := by
  split
  · subst_vars; simp
  · exact State.reg_setReg_other s v ‹_›

theorem State.reg_fset_other (s : State) (f : Fld) (v : Nat) {p : Nat} (h : p ≠ f.off) : (s.fset f v).reg p = s.reg p :=
  State.reg_setReg_other s _ h

/-- A field read back after it is set. -/
theorem State.fget_fset_same (s : State) (f : Fld) (v : Nat) (h : f.lo + f.wid ≤ 32) : (s.fset f v).fget f = v % 2 ^ f.wid := by
  simp only [State.fget, State.fset, State.reg_setReg_same]
  exact getField_putField_same _ _ _ _ h

/-- A field of another register, or of other bits of the same one, after a field is set. -/
theorem State.fget_fset_other (s : State) (f g : Fld) (v : Nat) (hg : g.lo + g.wid ≤ 32)
    (h : g.off ≠ f.off ∨ g.lo + g.wid ≤ f.lo ∨ f.lo + f.wid ≤ g.lo) : (s.fset f v).fget g = s.fget g := by
  by_cases e : g.off = f.off
  · simp only [State.fget, State.fset, e, State.reg_setReg_same]
    exact getField_putField_other _ _ _ _ _ _ hg (h.resolve_left (fun k => k e))
  · simp only [State.fget, State.fset, State.reg_setReg_other s _ e]

/-- Setting fields leaves every register that none of them is in. -/
theorem State.reg_fsets_other (s : State) (l : List (Fld × Nat)) {p : Nat} (h : ∀ x ∈ l, p ≠ x.1.off) : (s.fsets l).reg p = s.reg p := by
  unfold State.fsets
  induction l generalizing s with
  | nil => rfl
  | cons a l ih =>
    simp only [List.foldl_cons]
    rw [ih _ (fun x hx => h x (List.mem_cons_of_mem _ hx)), State.reg_fset_other s _ _ (h a List.mem_cons_self)]

/-- Setting fields writes nothing but the registers. -/
theorem State.fsets_eq (s : State) (l : List (Fld × Nat)) : s.fsets l = { s with regs := (s.fsets l).regs } := by
  unfold State.fsets
  induction l generalizing s with
  | nil => rfl
  | cons a l ih =>
    simp only [List.foldl_cons]
    rw [ih]
    rfl

@[simp] theorem State.fget_lt (s : State) (f : Fld) : s.fget f < 2 ^ f.wid := getField_lt _ _ _

/- Dealers and banks. -/

theorem Vector.get_set_same' {α : Type} {m : Nat} (v : Vector α m) (i : Fin m) (x : α) : (v.set i x).get i = x := by
  show (v.set i x)[i.val] = x
  simp

theorem Vector.get_set_other' {α : Type} {m : Nat} (v : Vector α m) {i j : Fin m} (x : α) (h : j ≠ i) : (v.set i x).get j = v.get j := by
  show (v.set i x)[j.val] = v[j.val]
  have : i.val ≠ j.val := fun e => h (Fin.ext e.symm)
  simp [Vector.getElem_set, this]

@[simp] theorem State.dl_setDl_same (s : State) (n : Dealer) (d : DealerCore) : (s.setDl n d).dl n = d := Vector.get_set_same' _ _ _

theorem State.dl_setDl_other (s : State) {n m : Dealer} (d : DealerCore) (h : m ≠ n) : (s.setDl n d).dl m = s.dl m :=
  Vector.get_set_other' _ _ h

@[simp] theorem State.lvl_setDl (s : State) (n m : Dealer) (d : DealerCore) : (s.setDl m d).lvl n = s.lvl n := rfl
@[simp] theorem State.lvl_setBankAt (s : State) (n m : Dealer) (k : Fin 8) (b : Bank) : (s.setBankAt m k b).lvl n = s.lvl n := rfl
@[simp] theorem State.lvl_setBank (s : State) (n m : Dealer) (b : Bank) : (s.setBank m b).lvl n = s.lvl n := rfl

@[simp] theorem State.bankAt_setBankAt_same (s : State) (n : Dealer) (k : Fin 8) (b : Bank) : (s.setBankAt n k b).bankAt n k = b := by
  simp only [State.bankAt, State.setBankAt, State.dl_setDl_same]
  exact Vector.get_set_same' _ _ _

theorem State.bankAt_setBankAt_level (s : State) (n : Dealer) {k j : Fin 8} (b : Bank) (h : j ≠ k) :
    (s.setBankAt n k b).bankAt n j = s.bankAt n j := by
  simp only [State.bankAt, State.setBankAt, State.dl_setDl_same]
  exact Vector.get_set_other' _ _ h

theorem State.bankAt_setBankAt_dealer (s : State) {n m : Dealer} (k j : Fin 8) (b : Bank) (h : m ≠ n) :
    (s.setBankAt n k b).bankAt m j = s.bankAt m j := by
  simp only [State.bankAt, State.setBankAt, State.dl_setDl_other _ _ h]

@[simp] theorem State.bank_setBank (s : State) (n : Dealer) (b : Bank) : (s.setBank n b).bank n = b := by
  simp [State.bank, State.setBank]

/-- An update of a Dealer that keeps its banks keeps every bank. -/
theorem State.bankAt_setDl (s : State) (n : Dealer) (d : DealerCore) (h : d.banks = (s.dl n).banks) (m : Dealer) (k : Fin 8) :
    (s.setDl n d).bankAt m k = s.bankAt m k := by
  by_cases e : m = n
  · subst e; simp [State.bankAt, h]
  · simp [State.bankAt, State.dl_setDl_other s d e]

@[simp] theorem State.bankAt_charge (s : State) (n : Dealer) (c : Nat) (m : Dealer) (k : Fin 8) : (s.charge n c).bankAt m k = s.bankAt m k := by
  unfold State.charge; apply State.bankAt_setDl; rfl

@[simp] theorem State.bankAt_spend (s : State) (n : Dealer) (c : Nat) (m : Dealer) (k : Fin 8) : (s.spend n c).bankAt m k = s.bankAt m k := by
  unfold State.spend; apply State.bankAt_setDl; rfl

@[simp] theorem State.bankAt_markDirty (s : State) (n : Dealer) (g : Nat) (m : Dealer) (k : Fin 8) : (s.markDirty n g).bankAt m k = s.bankAt m k := by
  unfold State.markDirty; apply State.bankAt_setDl; rfl

/-- What holds of every update of a Dealer: only the Dealers' part of the state changes. -/
theorem State.setDl_eq (s : State) (n : Dealer) (d : DealerCore) : s.setDl n d = { s with dealers := (s.setDl n d).dealers } := rfl

end Sys2Proof.Machine
end

