-- ==== Sys2Proof/Laws/Quiet.lean ====
section
/-!
SUPPORT. An access to memory, with every report and event it may cause, leaves the Dealer cores and the Dealers' registers alone.
-/
namespace Sys2Proof.Machine

open Sys2Proof

/-- The Dealer cores, the registers of the Dealers (offsets 0x100000 to 0x13FFFF) and the routes of the events are as before. -/
structure Quiet (z s : State) : Prop where
  cores : s.dealers = z.dealers
  regs : ∀ o, 0x100000 ≤ o → o < 0x140000 → s.reg o = z.reg o
  routes : ∀ o, 0x30000 ≤ o → o < 0x30800 → s.reg o = z.reg o

@[simp] theorem Quiet.refl (s : State) : Quiet s s := ⟨rfl, fun _ _ _ => rfl, fun _ _ _ => rfl⟩

theorem Quiet.trans {a b c : State} (h : Quiet a b) (k : Quiet b c) : Quiet a c :=
  ⟨k.1.trans h.1, fun o h1 h2 => (k.2 o h1 h2).trans (h.2 o h1 h2), fun o h1 h2 => (k.3 o h1 h2).trans (h.3 o h1 h2)⟩

theorem quiet_of {z s t : State} (h : Quiet z s) (h1 : t.dealers = s.dealers) (h2 : t.regs = s.regs) : Quiet z t :=
  ⟨h1.trans h.1, fun o a b => by rw [State.reg, h2]; exact h.2 o a b, fun o a b => by rw [State.reg, h2]; exact h.3 o a b⟩

theorem quiet_setReg {z s : State} (o : Nat) (v : Word) (h : Quiet z s) (ho : (o < 0x30000 ∨ 0x30800 ≤ o) ∧ (o < 0x100000 ∨ 0x140000 ≤ o)) : Quiet z (s.setReg o v) :=
  ⟨h.1, fun p a b => by rw [State.reg_setReg_other s v (by omega)]; exact h.2 p a b,
    fun p a b => by rw [State.reg_setReg_other s v (by omega)]; exact h.3 p a b⟩

theorem quiet_fset {z s : State} (f : Fld) (v : Nat) (h : Quiet z s) (ho : (f.off < 0x30000 ∨ 0x30800 ≤ f.off) ∧ (f.off < 0x100000 ∨ 0x140000 ≤ f.off)) : Quiet z (s.fset f v) :=
  quiet_setReg _ _ h ho

theorem quiet_seatEvent {z s : State} (k e : Nat) (h : Quiet z s) : Quiet z (s.seatEvent k e) := by
  have h1 : 0x140000 ≤ (bitFld (SEAT_EVP.reg k 0) e).off := by
    show 0x140000 ≤ 0x580300 + 0x10000 * k + 0x4 * 0 + 4 * (e / 32); omega
  unfold State.seatEvent
  dsimp only
  split
  · exact quiet_fset _ _ h (by decide)
  · split
    · exact quiet_fset _ _ h (by omega)
    · exact quiet_of (quiet_fset _ _ h (by omega)) rfl rfl

theorem quiet_event {z s : State} (e : Nat) (he : e < 0x100000) (h : Quiet z s) : Quiet z (s.event e) := by
  have h1 : 0x30800 ≤ (bitFld (EVT_PEND.reg 0) e).off ∧ (bitFld (EVT_PEND.reg 0) e).off < 0x100000 := by
    constructor
    · show 0x30800 ≤ 0x30800 + 0x4 * 0 + 4 * (e / 32); omega
    · show 0x30800 + 0x4 * 0 + 4 * (e / 32) < 0x100000; omega
  unfold State.event
  dsimp only
  split
  · split
    · exact quiet_fset _ _ h (by decide)
    · exact quiet_fset _ _ h (by omega)
  · exact quiet_seatEvent _ _ h
  · exact quiet_of h rfl rfl
  · split
    · exact quiet_fset _ _ h (by decide)
    · exact quiet_of h rfl rfl
  · exact quiet_fset _ _ h (by decide)

theorem quiet_report {z s : State} (r : Report) (h : Quiet z s) : Quiet z (s.report r) := quiet_of h rfl rfl

theorem quiet_errLog {z s : State} (off k p q syn a : Nat) (ho : 0x140000 ≤ off) (h : Quiet z s) :
    Quiet z (s.errLog off k p q syn a) := by
  have h3 := quiet_setReg (off + 8) (BitVec.ofNat 32 (a / 2 ^ 32))
    (quiet_setReg (off + 4) (BitVec.ofNat 32 a) (quiet_setReg off (BitVec.ofNat 32 (k * 2 ^ 30 + q * 2 ^ 23 + p * 2 ^ 16 + syn)) h (by omega))
      (by omega)) (by omega)
  unfold State.errLog
  dsimp only
  split
  · exact quiet_fset _ _ h3 (by dsimp only; omega)
  · exact quiet_fset _ _ h3 (by dsimp only; omega)

theorem quiet_dramReports {z s : State} (a : Nat) (k : Kind) (h : Quiet z s) : Quiet z (s.dramReports a k) := by
  unfold State.dramReports
  dsimp only
  split
  · exact h
  · exact quiet_report _ h
  · split
    · exact quiet_report _ h
    · exact quiet_report _ (quiet_report _ h)
  · exact quiet_report _ h

theorem quiet_planeReport {z s : State} (a p : Nat) (h : Quiet z s) : Quiet z (s.planeReport a p) := quiet_report _ h

theorem quiet_reportCell {z s : State} (c a syn : Nat) (k : Kind) (h : Quiet z s) : Quiet z (s.reportCell c a syn k) := by
  have hl : ∀ {t : State} (off k p q syn a : Nat), 0x140000 ≤ off → Quiet z t → Quiet z (t.errLog off k p q syn a) :=
    fun off k p q syn a ho ht => quiet_errLog off k p q syn a ho ht
  unfold State.reportCell
  extract_lets a8 code log c8 rep
  have hrep : ∀ {t : State} (c : Nat), Quiet z t → Quiet z (rep t c) := by
    intro t c ht
    show Quiet z (if k = .ue then _ else _)
    split <;> exact quiet_report _ ht
  have hlog : ∀ {t : State} (off : Nat), 0x140000 ≤ off → Quiet z t → Quiet z (log t off) :=
    fun off ho ht => hl off _ _ _ _ _ ho ht
  clear_value rep log
  split
  · exact h
  · split
    · refine quiet_event _ (by omega) (quiet_dramReports _ _ (hlog _ ?_ h))
      show 0x140000 ≤ 0x380100 + 0x10 * (a / 128 % 4); omega
    · split
      · rename_i b _ _
        exact hrep _ (hlog _ (by show 0x140000 ≤ 0x200040 + 0x1000 * b; omega) h)
      · rename_i b _ _
        exact hrep _ (hlog _ (by show 0x140000 ≤ 0x280040 + 0x10 * (b - 33); omega) h)
    · split
      · exact quiet_planeReport _ _ h
      · exact quiet_planeReport _ _ (quiet_planeReport _ _ h)
      · exact quiet_report _ h
    · exact quiet_report _ h
    · exact quiet_report _ h
    · exact h

theorem quiet_reportWord {z s : State} (a : Nat) (k : Kind) (h : Quiet z s) : Quiet z (s.reportWord a k) := quiet_reportCell _ _ _ _ h

theorem quiet_setBytes {z s : State} (a : Nat) (bs : List Byte) (h : Quiet z s) : Quiet z (s.setBytes a bs) := by
  induction bs generalizing s a with
  | nil => exact h
  | cons b bs ih => exact ih _ (quiet_of h rfl rfl)

theorem quiet_putWord {z s : State} (a d : Nat) (h : Quiet z s) : Quiet z (s.putWord a d) := quiet_of (quiet_setBytes _ _ h) rfl rfl
theorem quiet_putPoison {z s : State} (a d : Nat) (h : Quiet z s) : Quiet z (s.putPoison a d) := quiet_of (quiet_setBytes _ _ h) rfl rfl

theorem quiet_putFolded {z s : State} (c a d : Nat) (p : Bool) (h : Quiet z s) : Quiet z (s.putFolded c a d p) :=
  quiet_of (quiet_setBytes _ _ h) rfl rfl

theorem quiet_storeWord {z s : State} (a d : Nat) (p : Bool) (h : Quiet z s) : Quiet z (s.storeWord a d p) := by
  unfold State.storeWord
  dsimp only
  split
  · split
    · exact quiet_putFolded _ _ _ _ (quiet_putFolded _ _ _ _ h)
    · exact quiet_putFolded _ _ _ _ h
  · exact quiet_putFolded _ _ _ _ h

theorem quiet_readCell {z s : State} (c a : Nat) (h : Quiet z s) : Quiet z (s.readCell c a).2.2 := quiet_reportCell _ _ _ _ h
theorem quiet_readWord {z s : State} (a : Nat) (h : Quiet z s) : Quiet z (s.readWord a).2.2 := quiet_reportWord _ _ h

theorem quiet_getPlane {z s : State} (a : Nat) (h : Quiet z s) : Quiet z (s.getPlane a).2.2 := by
  unfold State.getPlane
  split
  · exact quiet_readWord _ h
  · split
    · exact quiet_reportCell a a poisonSyn.toNat .ue h
    · exact h

theorem quiet_putPlane {z s : State} (a v : Nat) (p : Bool) (h : Quiet z s) : Quiet z (s.putPlane a v p) := by
  unfold State.putPlane
  dsimp only
  split
  · split
    · exact quiet_putPoison _ _ h
    · exact quiet_putWord _ _ h
  · split
    · exact h
    · exact quiet_of h rfl rfl

theorem quiet_readSpan {z s : State} (a n : Nat) (h : Quiet z s) : Quiet z (s.readSpan a n).2.2 := by
  unfold State.readSpan
  dsimp only
  split
  · exact quiet_readCell _ _ h
  · exact quiet_readCell _ _ (quiet_readCell _ _ h)

theorem quiet_writePart {z s : State} (a n v : Nat) (h : Quiet z s) : Quiet z (s.writePart a n v).2 := by
  unfold State.writePart
  dsimp only
  split
  · exact quiet_storeWord _ _ _ h
  · split
    · exact quiet_readCell _ _ h
    · exact quiet_storeWord _ _ _ (quiet_readCell _ _ h)

theorem quiet_writeSpan {z s : State} (a n v : Nat) (h : Quiet z s) : Quiet z (s.writeSpan a n v).2 := by
  unfold State.writeSpan
  dsimp only
  split
  · exact quiet_writePart _ _ _ h
  · split
    · exact quiet_readCell _ _ (quiet_readCell _ _ h)
    · exact quiet_storeWord _ _ _ (quiet_storeWord _ _ _ (quiet_readCell _ _ (quiet_readCell _ _ h)))

theorem quiet_absorb {z s : State} (r : Nat) (hr : r < 1000) (h : Quiet z s) : Quiet z (s.absorb r) :=
  quiet_event _ (by omega) (quiet_fset _ _ h (by show (0x300200 + 0x4 * r < 0x30000 ∨ 0x30800 ≤ 0x300200 + 0x4 * r) ∧ (0x300200 + 0x4 * r < 0x100000 ∨ 0x140000 ≤ 0x300200 + 0x4 * r); omega))

theorem quiet_ctlWrite {z s : State} (n : Dealer) (off d : Nat) (h : Quiet z s) : Quiet z (s.ctlWrite n off d) := by
  unfold State.ctlWrite
  split
  · exact quiet_putWord _ _ h
  · split
    · exact quiet_of h rfl rfl
    · extract_lets a lo hi w s1
      have hs : Quiet z s1 := quiet_putWord _ _ (quiet_putWord _ _ (quiet_putWord _ _ h))
      clear_value s1 w lo hi
      exact ⟨hs.1, hs.2, hs.3⟩

theorem storeRouter_lt (b : Nat) : storeRouter b < 1000 := by
  unfold storeRouter
  split
  · omega
  · split
    · omega
    · split <;> omega

theorem tileRouter_lt (a : Nat) : tileRouter (tileOfAddr a) < 1000 := by
  have h1 : rowOfAddr a < 512 := by unfold rowOfAddr; omega
  have h2 : tileColOfAddr a < 8 := by unfold tileColOfAddr; omega
  have h3 : tileOfAddr a < 64 := by unfold tileOfAddr; omega
  unfold tileRouter
  omega

/-- A read of memory. -/
theorem quiet_memRead {z s : State} (ag : Agent) (a n : Nat) (h : Quiet z s) : Quiet z (s.memRead ag a n).2.2 := by
  have hf : ∀ r : Nat × Bool × State, Quiet z r.2.2 → Quiet z (if r.2.1 then (stPOISON, r.1, r.2.2) else (stOK, r.1, r.2.2)).2.2 := by
    intro r hr; split <;> exact hr
  unfold State.memRead
  dsimp only
  repeat' split
  all_goals first
    | exact h
    | exact hf _ (quiet_readSpan _ _ h)
    | exact hf _ (quiet_getPlane _ h)
    | exact hf _ (quiet_readWord _ h)
    | exact quiet_absorb _ (storeRouter_lt _) h
    | exact quiet_absorb _ (tileRouter_lt _) h
    | exact quiet_readSpan _ _ h
    | exact quiet_getPlane _ h
    | exact quiet_readWord _ h

/-- A write of memory. -/
theorem quiet_memWrite {z s : State} (ag : Agent) (a n v : Nat) (h : Quiet z s) : Quiet z (s.memWrite ag a n v).2 := by
  unfold State.memWrite
  dsimp only
  repeat' split
  all_goals first
    | exact h
    | exact quiet_writeSpan _ _ _ h
    | exact quiet_absorb _ (storeRouter_lt _) h
    | exact quiet_absorb _ (tileRouter_lt _) h
    | exact quiet_putPlane _ _ _ h
    | exact quiet_ctlWrite _ _ _ h
    | exact quiet_of h rfl rfl

theorem quiet_ctxWrite {z s : State} (n : Dealer) (l : List (Nat × Nat × Nat)) (h : Quiet z s) : Quiet z (s.ctxWrite n l).2 := by
  induction l generalizing s with
  | nil => exact h
  | cons p l ih =>
    obtain ⟨a, k, v⟩ := p
    unfold State.ctxWrite
    dsimp only
    split
    · exact ih (quiet_memWrite _ _ _ _ h)
    · exact quiet_memWrite _ _ _ _ h

theorem quiet_ctxRead {z s : State} (n : Dealer) (l : List (Nat × Nat)) (h : Quiet z s) : Quiet z (s.ctxRead n l).2 := by
  induction l generalizing s with
  | nil => exact h
  | cons p l ih =>
    obtain ⟨a, k⟩ := p
    unfold State.ctxRead
    dsimp only
    split
    · exact ih (quiet_memRead _ _ _ h)
    · exact quiet_memRead _ _ _ h

theorem Quiet.fget {z s : State} (h : Quiet z s) (f : Fld) (h1 : 0x100000 ≤ f.off) (h2 : f.off < 0x140000) : s.fget f = z.fget f := by
  unfold State.fget; rw [h.2 _ h1 h2]

theorem Quiet.lvl {z s : State} (h : Quiet z s) (n : Dealer) : s.lvl n = z.lvl n := by
  unfold State.lvl
  have : n.val < 4 := n.isLt
  rw [h.fget _ (by show 0x100000 ≤ 0x100110 + 0x10000 * n.val; omega) (by show 0x100110 + 0x10000 * n.val < 0x140000; omega)]

theorem Quiet.bankAt {z s : State} (h : Quiet z s) (n : Dealer) (k : Fin 8) : s.bankAt n k = z.bankAt n k := by
  unfold State.bankAt State.dl; rw [h.1]

theorem Quiet.bank {z s : State} (h : Quiet z s) (n : Dealer) : s.bank n = z.bank n := by
  unfold State.bank; rw [h.lvl, h.bankAt]

/-- LAZY_FILL keeps every bank and the current level. -/
theorem lazyFill_bank (s : State) (n : Dealer) (g : Nat) :
    (s.lazyFill n g).2.lvl n = s.lvl n ∧ ∀ m k, (s.lazyFill n g).2.bankAt m k = s.bankAt m k := by
  unfold State.lazyFill
  extract_lets k b l r d
  split
  · exact ⟨rfl, fun _ _ => rfl⟩
  · have hq : Quiet s r.2 := quiet_ctxWrite n l (Quiet.refl s)
    split
    · refine ⟨?_, fun m k => ?_⟩
      · show State.lvl _ n = _; exact hq.lvl n
      · rw [State.bankAt_spend, State.bankAt_setDl]
        · exact hq.bankAt m k
        · rfl
    · refine ⟨hq.lvl n, fun m k => ?_⟩
      unfold State.ctxErr State.raiseMC
      rw [State.bankAt_setDl]
      · exact hq.bankAt m k
      · rfl

theorem lazyFill_bank_cur (s : State) (n : Dealer) (g : Nat) : (s.lazyFill n g).2.bank n = s.bank n := by
  unfold State.bank; rw [(lazyFill_bank s n g).1, (lazyFill_bank s n g).2]

end Sys2Proof.Machine
end

