-- ==== Sys2Proof/Laws/Scalar.lean ====
section
/-!
SUPPORT. How a scalar instruction runs, once: what a write of a W register, an update of ST and the end of an instruction change, and that
they leave the rest alone.
-/
namespace Sys2Proof.Machine

open Sys2Proof

/-- A Dealer that executes runs the effect when no check traps. -/
theorem runScalar_next {n : Dealer} {op : SOp} {s : State} {chk : Option Trap} (eff : State → State) (h : s.executes n) (hc : chk = none) :
    runScalar n op s chk eff = .next (eff s) := by
  simp [runScalar, h.1, h.2.1, h.2.2, hc]

/-- A Dealer that executes takes the first trap. -/
theorem runScalar_trap {n : Dealer} {op : SOp} {s : State} {chk : Option Trap} {t : Trap} (eff : State → State) (h : s.executes n)
    (hc : chk = some t) : runScalar n op s chk eff = .next (s.trap n t op.hasExt false) := by
  simp [runScalar, h.1, h.2.1, h.2.2, hc]

theorem fld_lt (op : SOp) (lo wid : Nat) : op.fld lo wid < 2 ^ wid := Nat.mod_lt _ (Nat.two_pow_pos wid)

theorem sopD_lt (op : SOp) : op.d < 32 := fld_lt op 18 5
theorem sopA_lt (op : SOp) : op.a < 32 := fld_lt op 13 5
theorem sopB_lt (op : SOp) : op.b < 32 := fld_lt op 8 5

/-- A slice of bits that are all 0 is 0. -/
theorem natBits_zero_of (x lo wid l k : Nat) (h : natBits x lo wid = 0) (h1 : lo ≤ l) (h2 : l + k ≤ lo + wid) : natBits x l k = 0 := by
  apply Nat.eq_of_testBit_eq
  intro i
  have hz : (natBits x lo wid).testBit (l - lo + i) = false := by rw [h]; simp
  rw [natBits_testBit] at hz ⊢
  have e : lo + (l - lo + i) = l + i := by omega
  rw [e] at hz
  by_cases hi : i < k
  · have : l - lo + i < wid := by omega
    simp_all
  · simp [hi]

/-- The fields a REG word of the integer group does not use. -/
theorem regReserved_of_wordReg {op : SOp} (h : wordReg op) : regReserved op true false false = false := by
  have z : ∀ l k, l + k ≤ 8 → op.fld l k = 0 := fun l k hk => natBits_zero_of _ 0 8 l k h.2 (Nat.zero_le _) (by omega)
  simp [regReserved, SOp.hasExt, h.1, z 0 1 (by omega), SOp.c, z 1 5 (by omega), SOp.fmt, z 6 2 (by omega)]

theorem endTrap_of_ready {s : State} {n : Dealer} {op : SOp} (h : s.Ready n op) : (s.endTrap n op).1 = false := by
  have := h.next
  simp [State.endTrap]; omega

/- Writes of W registers. -/

theorem Fin.ofNat_ne {m a b : Nat} [NeZero m] (ha : a < m) (hb : b < m) (h : a ≠ b) : Fin.ofNat m a ≠ Fin.ofNat m b := by
  intro e
  have := congrArg Fin.val e
  simp [Nat.mod_eq_of_lt ha, Nat.mod_eq_of_lt hb] at this
  exact h this

@[simp] theorem State.lvl_wrW (s : State) (n m : Dealer) (r : Nat) (v : Word) : (s.wrW n r v).lvl m = s.lvl m := by
  unfold State.wrW; dsimp only; repeat' split
  all_goals rfl

/-- The bank of the current level after a write of Wr. -/
theorem State.bank_wrW (s : State) (n : Dealer) (r : Nat) (v : Word) :
    (s.wrW n r v).bank n = if r = 0 then s.bank n else { s.bank n with w := (s.bank n).w.set (Fin.ofNat 32 r) v } := by
  have key : ∀ b, (s.setBank n b).bankAt n (s.lvl n) = b := fun b => State.bankAt_setBankAt_same _ _ _ _
  show (s.wrW n r v).bankAt n ((s.wrW n r v).lvl n) = _
  rw [State.lvl_wrW]
  unfold State.wrW
  dsimp only
  split
  · rfl
  · split
    · exact key _
    · split
      · rw [State.bankAt_markDirty]; exact key _
      · rw [State.bankAt_markDirty]; exact key _

/-- A write of a W register keeps every other bank. -/
theorem State.bankAt_wrW (s : State) (n : Dealer) (r : Nat) (v : Word) (m : Dealer) (k : Fin 8) (h : m ≠ n ∨ k ≠ s.lvl n) :
    (s.wrW n r v).bankAt m k = s.bankAt m k := by
  have key : ∀ b, (s.setBank n b).bankAt m k = s.bankAt m k := by
    intro b
    by_cases e : m = n
    · subst e; exact State.bankAt_setBankAt_level _ _ _ (h.resolve_left (fun q => q rfl))
    · exact State.bankAt_setBankAt_dealer _ _ _ _ e
  unfold State.wrW
  dsimp only
  repeat' split
  all_goals first
    | rfl
    | exact key _
    | (rw [State.bankAt_markDirty]; exact key _)

/-- The core of a Dealer in what no register write touches. -/
theorem State.wrW_dl (s : State) (n : Dealer) (r : Nat) (v : Word) (m : Dealer) (h : m ≠ n) : (s.wrW n r v).dl m = s.dl m := by
  unfold State.wrW State.markDirty State.setBank State.setBankAt
  dsimp only
  repeat' split
  all_goals simp [State.dl_setDl_other, h]

theorem State.wrW_msp (s : State) (n : Dealer) (r : Nat) (v : Word) : ((s.wrW n r v).dl n).msp = (s.dl n).msp := by
  unfold State.wrW State.markDirty State.setBank State.setBankAt
  dsimp only
  repeat' split
  all_goals simp

/-- A write of a W register touches the Dealers only. -/
theorem State.wrW_eq (s : State) (n : Dealer) (r : Nat) (v : Word) : s.wrW n r v = { s with dealers := (s.wrW n r v).dealers } := by
  unfold State.wrW
  dsimp only
  repeat' split
  all_goals rfl

theorem State.rdW_wrW_same (s : State) (n : Dealer) (r : Nat) (v : Word) : (s.wrW n r v).rdW n r = if r = 0 then 0 else v := by
  unfold State.rdW
  split
  · rfl
  · rw [State.bank_wrW, if_neg ‹_›]; exact Vector.get_set_same' _ _ _

theorem State.rdW_wrW_other (s : State) (n : Dealer) {r q : Nat} (v : Word) (hr : r < 32) (hq : q < 32) (h : q ≠ r) :
    (s.wrW n r v).rdW n q = s.rdW n q := by
  unfold State.rdW
  split
  · rfl
  · rw [State.bank_wrW]
    split
    · rfl
    · simp only
      rw [Vector.get_set_other' _ _ (Fin.ofNat_ne hq hr h)]

/- The state after the end of an instruction. -/

/-- The bank after the end of an instruction: only the PC. -/
theorem State.bank_advance (s : State) (n : Dealer) (op : SOp) (c : Nat) :
    (s.advance n op c).bank n = { s.bank n with pc := BitVec.ofNat 32 (s.nextPc n op) } := by
  unfold State.advance State.setPc State.bank
  show ((s.setBank n _).charge n _).bankAt n (s.lvl n) = _
  rw [State.bankAt_charge]
  exact State.bankAt_setBankAt_same _ _ _ _

theorem State.bankAt_advance (s : State) (n : Dealer) (op : SOp) (c : Nat) (m : Dealer) (k : Fin 8) (h : m ≠ n ∨ k ≠ s.lvl n) :
    (s.advance n op c).bankAt m k = s.bankAt m k := by
  unfold State.advance State.setPc
  rw [State.bankAt_charge]
  by_cases e : m = n
  · subst e; exact State.bankAt_setBankAt_level _ _ _ (h.resolve_left (fun q => q rfl))
  · exact State.bankAt_setBankAt_dealer _ _ _ _ e

@[simp] theorem State.lvl_advance (s : State) (n m : Dealer) (op : SOp) (c : Nat) : (s.advance n op c).lvl m = s.lvl m := rfl

theorem State.advance_dl (s : State) (n : Dealer) (op : SOp) (c : Nat) (m : Dealer) (h : m ≠ n) : (s.advance n op c).dl m = s.dl m := by
  simp [State.advance, State.charge, State.setPc, State.setBank, State.setBankAt, State.dl_setDl_other, h]

theorem State.advance_msp (s : State) (n : Dealer) (op : SOp) (c : Nat) : ((s.advance n op c).dl n).msp = (s.dl n).msp := by
  simp [State.advance, State.charge, State.setPc, State.setBank, State.setBankAt]

theorem State.advance_eq (s : State) (n : Dealer) (op : SOp) (c : Nat) :
    s.advance n op c = { s with dealers := (s.advance n op c).dealers } := rfl

/-- A PC below the end of the deal store is held whole. -/
theorem State.pc_advance (s : State) (n : Dealer) (op : SOp) (c : Nat) (h : s.nextPc n op ≤ 0x3FFFC) :
    (s.advance n op c).pc n = s.nextPc n op := by
  simp only [State.pc, State.bank_advance, BitVec.toNat_ofNat]
  exact Nat.mod_eq_of_lt (by omega)

/- Frames of what happens to the bank. -/

/-- A change of the current level's bank that keeps the registers not listed is a frame. -/
theorem State.frame_of_bank {s t : State} {n : Dealer} {ws fs pds sgs : List Nat} (hl : t.lvl n = s.lvl n)
    (hb : ∀ m k, m ≠ n ∨ k ≠ s.lvl n → t.bankAt m k = s.bankAt m k) (hd : ∀ m, m ≠ n → t.dl m = s.dl m)
    (hm : (t.dl n).msp = (s.dl n).msp) (he : t = { s with dealers := t.dealers })
    (hw : ∀ r, r < 32 → r ∉ ws → t.rdW n r = s.rdW n r) (hf : ∀ r, r < 16 → r ∉ fs → t.rdF n r = s.rdF n r)
    (hp : ∀ r, r < 16 → r ∉ pds → t.rdPD n r = s.rdPD n r) (hs : ∀ r, r < 8 → r ∉ sgs → t.rdSG n r = s.rdSG n r)
    (h1 : (t.bank n).xpc = (s.bank n).xpc) (h2 : (t.bank n).xcause = (s.bank n).xcause) (h3 : (t.bank n).xinfo = (s.bank n).xinfo)
    (h4 : (t.bank n).xvec = (s.bank n).xvec) : s.Frame n ws fs pds sgs t where
  w := hw
  f := hf
  pd := hp
  sg := hs
  xpc := h1
  xcause := h2
  xinfo := h3
  xvec := h4
  levels := fun k hk => hb n k (Or.inr hk)
  msp := hm
  dealers := hd
  bytes := fun a => by rw [he]; rfl
  syndromes := fun a => by rw [he]; rfl
  registers := fun o => by rw [he]; rfl

/-- What a write of Wd and the end of the instruction leave alone. -/
theorem State.frame_wrW_advance (s : State) (n : Dealer) (op : SOp) (v : Word) (st : Word) (c : Nat) :
    s.Frame n [op.d] [] [] [] (((s.wrW n op.d v).setSt n st).advance n op c) := by
  have hb : ∀ u : State, (u.setSt n st).bank n = { u.bank n with st := st } := fun u => State.bank_setBank _ _ _
  refine State.frame_of_bank (by simp [State.setSt]) ?_ ?_ ?_ ?_ ?_ ?_ ?_ ?_ ?_ ?_ ?_ ?_
  · intro m k hk
    rw [State.bankAt_advance _ _ _ _ _ _ (by simpa [State.setSt] using hk)]
    rw [← State.bankAt_wrW s n op.d v m k hk]
    unfold State.setSt State.setBank
    by_cases e : m = n
    · subst e
      exact State.bankAt_setBankAt_level _ _ _ (by simpa using hk.resolve_left (fun q => q rfl))
    · exact State.bankAt_setBankAt_dealer _ _ _ _ e
  · intro m hm
    rw [State.advance_dl _ _ _ _ _ hm]
    unfold State.setSt State.setBank State.setBankAt
    rw [State.dl_setDl_other _ _ hm, State.wrW_dl _ _ _ _ _ hm]
  · rw [State.advance_msp]
    unfold State.setSt State.setBank State.setBankAt
    simp [State.wrW_msp]
  · rw [State.advance_eq, State.wrW_eq]; rfl
  · intro r hr hne
    have hne : r ≠ op.d := by simpa using hne
    rw [← State.rdW_wrW_other s n v (sopD_lt op) hr hne]
    simp only [State.rdW, State.bank_advance, hb]
  · intro r _ _
    simp only [State.rdF, State.bank_advance, hb, State.bank_wrW]; split <;> rfl
  · intro r _ _
    simp only [State.rdPD, State.bank_advance, hb, State.bank_wrW]; split <;> rfl
  · intro r _ _
    simp only [State.rdSG, State.bank_advance, hb, State.bank_wrW]; split <;> rfl
  all_goals simp only [State.bank_advance, hb, State.bank_wrW]; split <;> rfl

/-- The shape of every integer instruction with a W destination: it completes as `WritesW` says. -/
theorem writesW_of_next {i : Instr} {n : Dealer} {op : SOp} {s : State} {v st : Word} {c : Nat} {P : Word → Prop}
    (he : exec i s = .next (((s.wrW n op.d v).setSt n st).advance n op c)) (hn : s.nextPc n op ≤ 0x3FFFC) (hp : P st) :
    WritesW i n op v P s := by
  have hb : ∀ u : State, (u.setSt n st).bank n = { u.bank n with st := st } := fun u => State.bank_setBank _ _ _
  have hpc : ((s.wrW n op.d v).setSt n st).nextPc n op = s.nextPc n op := by
    simp only [State.nextPc, State.pc, hb, State.bank_wrW]; split <;> rfl
  refine ⟨_, he, ?_, ?_, ?_, ?_, State.frame_wrW_advance s n op v st c⟩
  · rw [← State.rdW_wrW_same s n op.d v]
    simp only [State.rdW, State.bank_advance, hb]
  · simpa only [State.st, State.bank_advance, hb] using hp
  · simp only [State.bank_advance, hb, State.bank_wrW]; split <;> rfl
  · rw [State.pc_advance _ _ _ _ (by rw [hpc]; exact hn), hpc]

/- Formats REG and IMM, and the flags. -/

theorem runReg_some {n opc op s cost f r st} (h : State.Ready s n op) (hw : wordReg op)
   (hf : f (s.rdW n op.a).toNat (s.rdW n op.b).toNat (s.st n) = some (r, st)) :
   runReg n opc op s cost f = .next (((s.wrW n op.d (BitVec.ofNat 32 r)).setSt n st).advance n op cost) := by
  unfold runReg
  rw [runScalar_next _ h.runs]
  · rw [hf]
  · simp [firstTrap, regReserved_of_wordReg hw, endTrap_of_ready h]

theorem runImm_some {n opc op s sg bad f r st} (h : State.Ready s n op) (hw : wordImm op) (hb : bad = false)
   (hf : f (s.rdW n op.a).toNat (op.imm sg) (s.st n) = some (r, st)) :
   runImm n opc op s sg bad f = .next (((s.wrW n op.d (BitVec.ofNat 32 r)).setSt n st).advance n op 1) := by
  unfold runImm
  rw [runScalar_next _ h.runs]
  · rw [hf]
  · have : (op.hasExt && op.imm13 != 0) = false := by
      rcases hw with e | e <;> simp [SOp.hasExt, e]
    simp [firstTrap, this, hb, endTrap_of_ready h]

theorem flags_testBit (st : Word) (f : CFlags) (i : Nat) (hi : i < 32) :
   (stWithFlags st f).toNat.testBit i = if i < 4 then (b2n f.c + 2 * b2n f.z + 4 * b2n f.n + 8 * b2n f.v).testBit i else st.toNat.testBit i := by
  unfold stWithFlags; rw [putField_testBit _ _ _ _ _ hi]; simp

theorem natBit_testBit (x i : Nat) : natBit x i = x.testBit i := by
  simp [natBit, Nat.testBit_eq_decide_div_mod_eq]; rfl

theorem flagsAre_stWithFlags (st : Word) (f : CFlags) : FlagsAre f.c f.z f.n f.v st (stWithFlags st f) := by
  constructor
  · rw [stC, natBit_testBit, flags_testBit _ _ _ (by omega)]
    rw [if_pos (by omega)]; obtain ⟨c,z,n,v⟩ := f; revert c z n v; decide
  · rw [stZ, natBit_testBit, flags_testBit _ _ _ (by omega)]
    rw [if_pos (by omega)]; obtain ⟨c,z,n,v⟩ := f; revert c z n v; decide
  · rw [stN, natBit_testBit, flags_testBit _ _ _ (by omega)]
    rw [if_pos (by omega)]; obtain ⟨c,z,n,v⟩ := f; revert c z n v; decide
  · rw [stV, natBit_testBit, flags_testBit _ _ _ (by omega)]
    rw [if_pos (by omega)]; obtain ⟨c,z,n,v⟩ := f; revert c z n v; decide
  · intro i h1 h2
    show (stWithFlags st f).toNat.testBit i = _
    rw [flags_testBit _ _ _ h2, if_neg (by omega)]; rfl

theorem imm_lt (op : SOp) (sg : Bool) : op.imm sg < 2^32 := by
  unfold SOp.imm; split
  · exact BitVec.isLt _
  · split
    · exact BitVec.isLt _
    · have := fld_lt op 0 13; unfold SOp.imm13; omega

theorem toSigned_toNat (x : Word) : toSigned 32 x.toNat = x.toInt := by
  have := x.isLt
  unfold toSigned BitVec.toInt; split <;> split <;> omega

theorem addFlags_val (a b : Word) (c : Nat) : BitVec.ofNat 32 (addFlags 32 a.toNat b.toNat c).1 = a + b + BitVec.ofNat 32 c := by
  apply BitVec.eq_of_toNat_eq; simp [addFlags, BitVec.toNat_add]
theorem msb_natBit (x : Word) : natBit x.toNat 31 = x.msb := by rw [natBit_testBit, BitVec.msb_eq_getLsbD_last]; rfl
theorem ofNat_eq_zero (r : Nat) (hr : r < 2^32) : (r == 0) = (BitVec.ofNat 32 r == 0) := by
  rw [Bool.eq_iff_iff]; simp [← BitVec.toNat_inj]; omega
theorem addFlags_flags (a b : Word) (c : Nat) :
   let r := a + b + BitVec.ofNat 32 c
   (addFlags 32 a.toNat b.toNat c).2 = ⟨decide (2 ^ 32 ≤ a.toNat + b.toNat + c), r == 0, r.msb, decide (a.toInt + b.toInt + c ≠ r.toInt)⟩ := by
  intro r
  have e : (addFlags 32 a.toNat b.toNat c).1 = r.toNat := by
    have := congrArg BitVec.toNat (addFlags_val a b c)
    simp only [BitVec.toNat_ofNat] at this
    rw [← this]; simp [addFlags]
  unfold addFlags at e ⊢
  simp only at e ⊢
  rw [e, toSigned_toNat, toSigned_toNat, toSigned_toNat, msb_natBit, ofNat_eq_zero _ r.isLt]
  simp

theorem subFlags_val (a b : Word) (c : Nat) (hc : c ≤ 1) : BitVec.ofNat 32 (subFlags 32 a.toNat b.toNat c).1 = a - b - BitVec.ofNat 32 c := by
  apply BitVec.eq_of_toNat_eq
  have := a.isLt; have := b.isLt
  simp [subFlags, BitVec.toNat_sub]; omega
theorem subFlags_flags (a b : Word) (c : Nat) (hc : c ≤ 1) :
   let r := a - b - BitVec.ofNat 32 c
   (subFlags 32 a.toNat b.toNat c).2 = ⟨decide (a.toNat < b.toNat + c), r == 0, r.msb, decide (a.toInt - b.toInt - c ≠ r.toInt)⟩ := by
  intro r
  have e : (subFlags 32 a.toNat b.toNat c).1 = r.toNat := by
    have := congrArg BitVec.toNat (subFlags_val a b c hc)
    simp only [BitVec.toNat_ofNat] at this
    rw [← this]; simp [subFlags]
  unfold subFlags at e ⊢
  simp only at e ⊢
  rw [e, toSigned_toNat, toSigned_toNat, toSigned_toNat, msb_natBit, ofNat_eq_zero _ r.isLt]
  simp

theorem zn_testBit (st : Word) (r : Nat) (i : Nat) (hi : i < 32) :
   (stWithZN st r).toNat.testBit i = if 1 ≤ i ∧ i < 3 then (b2n (r == 0) + 2 * b2n (natBit r 31)).testBit (i-1) else st.toNat.testBit i := by
  unfold stWithZN; rw [putField_testBit _ _ _ _ _ hi]
theorem flagsAre_stWithZN (st : Word) (r : Word) : FlagsAre (stC st) (r == 0) r.msb (stV st) st (stWithZN st r.toNat) := by
  have e := ofNat_eq_zero r.toNat r.isLt
  simp only [BitVec.ofNat_toNat, BitVec.setWidth_eq] at e
  have m := msb_natBit r
  constructor
  · rw [stC, stC, natBit_testBit, natBit_testBit, zn_testBit _ _ _ (by omega), if_neg (by omega)]
  · rw [stZ, natBit_testBit, zn_testBit _ _ _ (by omega), if_pos (by omega), e, m]
    generalize (r == 0) = x; generalize r.msb = y; revert x y; decide
  · rw [stN, natBit_testBit, zn_testBit _ _ _ (by omega), if_pos (by omega), e, m]
    generalize (r == 0) = x; generalize r.msb = y; revert x y; decide
  · rw [stV, stV, natBit_testBit, natBit_testBit, zn_testBit _ _ _ (by omega), if_neg (by omega)]
  · intro i h1 h2
    show (stWithZN st r.toNat).toNat.testBit i = _
    rw [zn_testBit _ _ _ h2, if_neg (by omega)]; rfl

theorem reg_writes {i : Instr} {n opc op s cost f st} {v : Word} {P : Word → Prop} (m : Host.Outcome State Fault Refusal) (he : exec i s = m) (hm : m = runReg n opc op s cost f) (h : State.Ready s n op) (hw : wordReg op)
   (hf : f (s.rdW n op.a).toNat (s.rdW n op.b).toNat (s.st n) = some (v.toNat, st)) (hp : P st) : WritesW i n op v P s := by
  refine writesW_of_next (c := cost) ?_ h.next hp
  rw [he, hm, runReg_some h hw hf]; simp
theorem imm_writes {i : Instr} {n opc op s sg bad f st} {v : Word} {P : Word → Prop} (m : Host.Outcome State Fault Refusal) (he : exec i s = m) (hm : m = runImm n opc op s sg bad f) (h : State.Ready s n op) (hw : wordImm op)
   (hb : bad = false)
   (hf : f (s.rdW n op.a).toNat (op.imm sg) (s.st n) = some (v.toNat, st)) (hp : P st) : WritesW i n op v P s := by
  refine writesW_of_next (c := 1) ?_ h.next hp
  rw [he, hm, runImm_some h hw hb hf]; simp

theorem andn_val (a b : Word) : a.toNat &&& (ones 32 - b.toNat) = (a &&& ~~~b).toNat := by
  simp [BitVec.toNat_and, BitVec.toNat_not, ones]

theorem shl_val (a : Word) (k : Nat) : shlW a.toNat k = (a <<< k).toNat := by
  unfold shlW; rw [BitVec.toNat_shiftLeft, Nat.shiftLeft_eq]
  split
  · rename_i h
    obtain ⟨j, rfl⟩ := Nat.exists_eq_add_of_le h
    rw [Nat.pow_add, ← Nat.mul_assoc, Nat.mul_right_comm]; simp
  · rfl

theorem shru_val (a : Word) (k : Nat) : shruW a.toNat k = (a >>> k).toNat := by
  unfold shruW; rw [BitVec.toNat_ushiftRight, Nat.shiftRight_eq_div_pow]
  split
  · rename_i h
    have := a.isLt
    have : 2 ^ 32 ≤ 2 ^ k := Nat.pow_le_pow_right (by omega) h
    rw [Nat.div_eq_of_lt (by omega)]
  · rfl

theorem ofSigned_eq (i : Int) : ofSigned 32 i = (BitVec.ofInt 32 i).toNat := by
  simp [ofSigned, BitVec.toNat_ofInt]

theorem shrs_val (a : Word) (k : Nat) : shrsW a.toNat k = (a.sshiftRight k).toNat := by
  unfold shrsW; rw [toSigned_toNat, ofSigned_eq]
  congr 1
  unfold BitVec.sshiftRight
  congr 1
  rw [Int.shiftRight_eq_div_pow]
  by_cases h : k ≤ 32
  · rw [Nat.min_eq_left h]; norm_cast
  · rw [Nat.min_eq_right (by omega)]
    have h1 := a.isLt
    have h2 : 2 ^ 32 ≤ 2 ^ k := Nat.pow_le_pow_right (by omega) (by omega)
    have h3 : a.toInt < 2^31 := by have := BitVec.toInt_lt (x := a); simpa using this
    have h4 : -2^31 ≤ a.toInt := by have := BitVec.le_toInt (x := a); simpa using this
    have h5 : ((2:Int) ^ 32) ≤ 2 ^ k := by exact_mod_cast h2
    by_cases hn : a.toInt < 0
    · have e1 : a.toInt / (2^32 : Int) = -1 := by omega
      have e2 : a.toInt / ((2 ^ k : Nat) : Int) = -1 := by
        have e : ((2 ^ k : Nat) : Int) = 2 ^ k := by norm_cast
        rw [Int.ediv_eq_iff_of_pos (by omega)]; omega
      exact e1.trans e2.symm
    · have e : ((2 ^ k : Nat) : Int) = 2 ^ k := by norm_cast
      exact (Int.ediv_eq_zero_of_lt (by omega) (by omega)).trans (Int.ediv_eq_zero_of_lt (by omega) (by omega)).symm

theorem writesW_kept {i : Instr} {n op} {s : State} {c} (he : exec i s = .next (s.advance n op c)) (hn : s.nextPc n op ≤ 0x3FFFC) :
    WritesW i n op (s.rdW n op.d) (fun st => st = s.st n) s := by
  refine ⟨_, he, ?_, ?_, ?_, State.pc_advance _ _ _ _ hn, ?_⟩
  · simp only [State.rdW, State.bank_advance]; split <;> rfl
  · simp only [State.st, State.bank_advance]
  · simp only [State.bank_advance]
  · refine State.frame_of_bank rfl (fun m k => State.bankAt_advance _ _ _ _ _ _) (fun m => State.advance_dl _ _ _ _ _) (State.advance_msp _ _ _ _) rfl ?_ ?_ ?_ ?_ ?_ ?_ ?_ ?_
    all_goals intros; simp only [State.rdW, State.rdF, State.rdPD, State.rdSG, State.bank_advance]

theorem runReg_none {n opc op s cost f} (h : State.Ready s n op) (hw : wordReg op)
   (hf : f (s.rdW n op.a).toNat (s.rdW n op.b).toNat (s.st n) = none) :
   runReg n opc op s cost f = .next (s.advance n op cost) := by
  unfold runReg
  rw [runScalar_next _ h.runs]
  · rw [hf]
  · simp [firstTrap, regReserved_of_wordReg hw, endTrap_of_ready h]

theorem runImm_none {n opc op s sg bad f} (h : State.Ready s n op) (hw : wordImm op) (hb : bad = false)
   (hf : f (s.rdW n op.a).toNat (op.imm sg) (s.st n) = none) :
   runImm n opc op s sg bad f = .next (s.advance n op 1) := by
  unfold runImm
  rw [runScalar_next _ h.runs]
  · rw [hf]
  · have : (op.hasExt && op.imm13 != 0) = false := by
      rcases hw with e | e <;> simp [SOp.hasExt, e]
    simp [firstTrap, this, hb, endTrap_of_ready h]

/-- No flag written: ST stays. -/

theorem writesW_plain {i : Instr} {n op} {s : State} {c} {v : Word} (he : exec i s = .next ((s.wrW n op.d v).advance n op c)) (hn : s.nextPc n op ≤ 0x3FFFC) :
    WritesW i n op v (fun st => st = s.st n) s := by
  have e : (s.wrW n op.d v).setSt n (s.st n) = s.wrW n op.d v → exec i s = .next (((s.wrW n op.d v).setSt n (s.st n)).advance n op c) := by
    intro e; rw [e]; exact he
  have hb : (s.wrW n op.d v).st n = s.st n := by
    simp only [State.st, State.bank_wrW]; split <;> rfl
  refine writesW_of_next (e ?_) hn rfl
  rw [← hb]
  unfold State.setSt State.setBank State.setBankAt State.setDl
  simp only [State.st]
  have : ({ (s.wrW n op.d v).bank n with st := ((s.wrW n op.d v).bank n).st } : Bank) = (s.wrW n op.d v).bank n := rfl
  rw [this]
  have h1 : ((s.wrW n op.d v).dl n).banks.set ((s.wrW n op.d v).lvl n) ((s.wrW n op.d v).bank n) = ((s.wrW n op.d v).dl n).banks := by
    unfold State.bank State.bankAt
    exact Vector.set_getElem_self _
  rw [h1]
  have h2 : ∀ u : State, ∀ m : Dealer, { u with dealers := u.dealers.set m (u.dl m) } = u := by
    intro u m
    have : u.dealers.set m (u.dl m) = u.dealers := Vector.set_getElem_self _
    rw [this]
  exact h2 _ _

theorem toSigned_eq (w v : Nat) (h : v < 2 ^ w) : toSigned w v = (BitVec.ofNat w v).toInt := by
  unfold toSigned BitVec.toInt
  rw [BitVec.toNat_ofNat, Nat.mod_eq_of_lt h]
  cases w with
  | zero => simp at h; subst h; rfl
  | succ w =>
    have : 2 ^ (w + 1) = 2 * 2 ^ w := by omega
    simp only [Nat.add_sub_cancel]
    split <;> split <;> (try omega) <;> push_cast <;> omega

theorem divu_val (a b : Word) : BitVec.ofNat 32 (a.toNat / b.toNat) = a / b := by
  apply BitVec.eq_of_toNat_eq
  rw [BitVec.toNat_udiv, BitVec.toNat_ofNat, Nat.mod_eq_of_lt]
  exact Nat.lt_of_le_of_lt (Nat.div_le_self _ _) a.isLt

theorem remu_val (a b : Word) : BitVec.ofNat 32 (a.toNat % b.toNat) = a % b := by
  apply BitVec.eq_of_toNat_eq
  rw [BitVec.toNat_umod, BitVec.toNat_ofNat, Nat.mod_eq_of_lt]
  exact Nat.lt_of_le_of_lt (Nat.mod_le _ _) a.isLt

theorem runDiv_next {n opc op s f} (h : State.Ready s n op) (hw : wordReg op) (hb : s.rdW n op.b ≠ 0) :
   runDiv n opc op s f = .next ((s.wrW n op.d (BitVec.ofNat 32 (f (s.rdW n op.a).toNat (s.rdW n op.b).toNat))).advance n op 34) := by
  unfold runDiv
  rw [runScalar_next _ h.runs]
  · rw [if_neg hb]
  · simp [firstTrap, regReserved_of_wordReg hw, endTrap_of_ready h]

theorem rdW_zero (s : State) (n : Dealer) : s.rdW n 0 = 0 := rfl

theorem wrW_wrW_frame (s : State) (n : Dealer) (op : SOp) (d e : Nat) (hd : d < 32) (he : e < 32) (v w : Word) (c : Nat) :
    s.Frame n [d, e] [] [] [] (((s.wrW n d v).wrW n e w).advance n op c) := by
  refine State.frame_of_bank (by simp) ?_ ?_ ?_ ?_ ?_ ?_ ?_ ?_ ?_ ?_ ?_ ?_
  · intro m k hk
    rw [State.bankAt_advance _ _ _ _ _ _ (by simpa using hk), State.bankAt_wrW _ _ _ _ _ _ (by simpa using hk), State.bankAt_wrW _ _ _ _ _ _ hk]
  · intro m hm
    rw [State.advance_dl _ _ _ _ _ hm, State.wrW_dl _ _ _ _ _ hm, State.wrW_dl _ _ _ _ _ hm]
  · rw [State.advance_msp, State.wrW_msp, State.wrW_msp]
  · rw [State.advance_eq, State.wrW_eq, State.wrW_eq s]
  · intro r hr hne
    have h1 : r ≠ d := fun q => hne (by simp [q])
    have h2 : r ≠ e := fun q => hne (by simp [q])
    have e : (((s.wrW n d v).wrW n e w).advance n op c).rdW n r = ((s.wrW n d v).wrW n e w).rdW n r := by
      simp only [State.rdW, State.bank_advance]
    rw [e, State.rdW_wrW_other _ n w he hr h2, State.rdW_wrW_other s n v hd hr h1]
  · intro r _ _
    simp only [State.rdF, State.bank_advance, State.bank_wrW]; split <;> split <;> rfl
  · intro r _ _
    simp only [State.rdPD, State.bank_advance, State.bank_wrW]; split <;> split <;> rfl
  · intro r _ _
    simp only [State.rdSG, State.bank_advance, State.bank_wrW]; split <;> split <;> rfl
  all_goals simp only [State.bank_advance, State.bank_wrW]; split <;> split <;> rfl

/-- A write of a pair and the end of the instruction. -/

theorem wrPair_done {n op} {s : State} {c : Nat} (v : BitVec 64) (hd : op.d % 2 = 0) (hn : s.nextPc n op ≤ 0x3FFFC) :
    let t := (s.wrPair n op.d v.toNat).advance n op c
    (op.d ≠ 0 → t.rdW n op.d = v.extractLsb' 0 32) ∧ t.rdW n (op.d + 1) = v.extractLsb' 32 32 ∧
          t.rdW n 0 = 0 ∧ t.st n = s.st n ∧ (t.bank n).fpc = (s.bank n).fpc ∧ t.pc n = s.nextPc n op ∧
          s.Frame n [op.d, op.d + 1] [] [] [] t := by
  have hlt := sopD_lt op
  intro t
  have ev : BitVec.ofNat 32 v.toNat = v.extractLsb' 0 32 := by apply BitVec.eq_of_toNat_eq; simp
  have ev2 : BitVec.ofNat 32 (v.toNat / 2 ^ 32) = v.extractLsb' 32 32 := by
    apply BitVec.eq_of_toNat_eq; simp [Nat.shiftRight_eq_div_pow]
  have et : t = ((s.wrW n op.d (v.extractLsb' 0 32)).wrW n (op.d + 1) (v.extractLsb' 32 32)).advance n op c := by
    simp only [t, State.wrPair, ev, ev2]
  have rd : ∀ r, t.rdW n r = ((s.wrW n op.d (v.extractLsb' 0 32)).wrW n (op.d + 1) (v.extractLsb' 32 32)).rdW n r := by
    intro r; rw [et]; simp only [State.rdW, State.bank_advance]
  refine ⟨fun h0 => ?_, ?_, rfl, ?_, ?_, ?_, ?_⟩
  · rw [rd, State.rdW_wrW_other _ _ _ (by omega) (by omega) (by omega), State.rdW_wrW_same, if_neg h0]
  · rw [rd, State.rdW_wrW_same, if_neg (by omega)]
  · rw [et]; simp only [State.st, State.bank_advance, State.bank_wrW]; split <;> split <;> rfl
  · rw [et]; simp only [State.bank_advance, State.bank_wrW]; split <;> split <;> rfl
  · have hpc : ((s.wrW n op.d (v.extractLsb' 0 32)).wrW n (op.d + 1) (v.extractLsb' 32 32)).nextPc n op = s.nextPc n op := by
      simp only [State.nextPc, State.pc, State.bank_wrW]; split <;> split <;> rfl
    rw [et, State.pc_advance _ _ _ _ (by rw [hpc]; exact hn), hpc]
  · rw [et]; exact wrW_wrW_frame _ _ _ _ _ (by omega) (by omega) _ _ _

theorem runMulPair_next {n opc op s f} (h : State.Ready s n op) (hw : wordReg op) (hb : op.d % 2 = 0) :
   runMulPair n opc op s f = .next ((s.wrPair n op.d (f (s.rdW n op.a).toNat (s.rdW n op.b).toNat)).advance n op 4) := by
  unfold runMulPair
  rw [runScalar_next _ h.runs]
  simp [firstTrap, regReserved_of_wordReg hw, endTrap_of_ready h, hb]

theorem mulu_val (a b : Word) : a.toNat * b.toNat = (a.zeroExtend 64 * b.zeroExtend 64).toNat := by
  have h1 := a.isLt; have h2 := b.isLt
  have : a.toNat * b.toNat < 2^64 := by
    calc a.toNat * b.toNat < 2^32 * 2^32 := Nat.mul_lt_mul'' h1 h2
      _ = 2^64 := by decide
  simp [BitVec.toNat_mul, Nat.mod_eq_of_lt this] <;> exact (Nat.mod_eq_of_lt this).symm

theorem muls_val (a b : Word) : ofSigned 64 (toSigned 32 a.toNat * toSigned 32 b.toNat) = (a.signExtend 64 * b.signExtend 64).toNat := by
  rw [toSigned_toNat, toSigned_toNat]
  have : a.signExtend 64 * b.signExtend 64 = BitVec.ofInt 64 (a.toInt * b.toInt) := by
    rw [BitVec.ofInt_mul]; rfl
  rw [this]; simp [ofSigned, BitVec.toNat_ofInt]

end Sys2Proof.Machine
end

