-- ==== Sys2Proof/Laws/Fills.lean ====
section
/-!
SUPPORT. Instructions that write F, PD and SG registers: the write with the end of the instruction, and LAZY_FILL before it.
-/
namespace Sys2Proof.Machine

open Sys2Proof

/-- A bank update and the end of the instruction, where the update may also mark a group dirty. -/

theorem ends_of_bank {n : Dealer} {op : SOp} {s u : State} {b : Bank} {c : Nat} {ws fs pds sgs : List Nat}
    (hu : u = s.setBank n b ∨ ∃ g, u = (s.setBank n b).markDirty n g)
    (hn : s.nextPc n op ≤ 0x3FFFC)
    (h0 : b.st = (s.bank n).st ∧ b.fpc = (s.bank n).fpc ∧ b.pc = (s.bank n).pc ∧ b.xpc = (s.bank n).xpc ∧ b.xcause = (s.bank n).xcause ∧
      b.xinfo = (s.bank n).xinfo ∧ b.xvec = (s.bank n).xvec)
    (hw : ∀ r, r < 32 → r ∉ ws → b.w.get (Fin.ofNat 32 r) = (s.bank n).w.get (Fin.ofNat 32 r))
    (hf : ∀ r, r < 16 → r ∉ fs → b.f.get (Fin.ofNat 16 r) = (s.bank n).f.get (Fin.ofNat 16 r))
    (hp : ∀ r, r < 16 → r ∉ pds → b.pd.get (Fin.ofNat 16 r) = (s.bank n).pd.get (Fin.ofNat 16 r))
    (hs : ∀ r, r < 8 → r ∉ sgs → b.sg.get (Fin.ofNat 8 r) = (s.bank n).sg.get (Fin.ofNat 8 r)) :
    ((u.advance n op c).bank n = { b with pc := BitVec.ofNat 32 (s.nextPc n op) }) ∧ s.Ends n op ws fs pds sgs (u.advance n op c) := by
  have hl : u.lvl n = s.lvl n := by rcases hu with rfl | ⟨g, rfl⟩ <;> rfl
  have hb : u.bank n = b := by
    show u.bankAt n (u.lvl n) = b
    rw [hl]
    rcases hu with rfl | ⟨g, rfl⟩
    · exact State.bankAt_setBankAt_same _ _ _ _
    · rw [State.bankAt_markDirty]; exact State.bankAt_setBankAt_same _ _ _ _
  have hpc : u.nextPc n op = s.nextPc n op := by simp only [State.nextPc, State.pc, hb, h0.2.2.1]
  have hB : (u.advance n op c).bank n = { b with pc := BitVec.ofNat 32 (s.nextPc n op) } := by rw [State.bank_advance, hb, hpc]
  refine ⟨hB, ?_, ?_, ?_, ?_⟩
  · simp only [State.st, hB, h0.1]
  · simp only [hB, h0.2.1]
  · rw [State.pc_advance _ _ _ _ (by rw [hpc]; exact hn), hpc]
  · refine State.frame_of_bank (by simp [hl]) ?_ ?_ ?_ ?_ ?_ ?_ ?_ ?_ ?_ ?_ ?_ ?_
    · intro m k hk
      rw [State.bankAt_advance _ _ _ _ _ _ (by rwa [hl])]
      have key : (s.setBank n b).bankAt m k = s.bankAt m k := by
        by_cases e : m = n
        · subst e; exact State.bankAt_setBankAt_level _ _ _ (hk.resolve_left (fun q => q rfl))
        · exact State.bankAt_setBankAt_dealer _ _ _ _ e
      rcases hu with rfl | ⟨g, rfl⟩
      · exact key
      · rw [State.bankAt_markDirty]; exact key
    · intro m hm
      rw [State.advance_dl _ _ _ _ _ hm]
      rcases hu with rfl | ⟨g, rfl⟩ <;> simp [State.markDirty, State.setBank, State.setBankAt, State.dl_setDl_other, hm]
    · rw [State.advance_msp]
      rcases hu with rfl | ⟨g, rfl⟩ <;> simp [State.markDirty, State.setBank, State.setBankAt]
    · rw [State.advance_eq]
      rcases hu with rfl | ⟨g, rfl⟩ <;> rfl
    · intro r hr hne; simp only [State.rdW, hB, hw r hr hne]
    · intro r hr hne; simp only [State.rdF, hB, hf r hr hne]
    · intro r hr hne; simp only [State.rdPD, hB, hp r hr hne]
    · intro r hr hne; simp only [State.rdSG, hB, hs r hr hne]
    all_goals simp only [hB, h0]

theorem wrF_ends {n : Dealer} {op : SOp} {s : State} {v : DWord} {c d : Nat} (hn : s.nextPc n op ≤ 0x3FFFC) (hd : d ≤ 15) :
    ((s.wrF n d v).advance n op c).rdF n d = v ∧ s.Ends n op [] [d] [] [] ((s.wrF n d v).advance n op c) := by
  have := ends_of_bank (c := c) (ws := []) (fs := [d]) (pds := []) (sgs := []) (u := s.wrF n d v) (Or.inr ⟨_, rfl⟩) hn ⟨rfl, rfl, rfl, rfl, rfl, rfl, rfl⟩ (fun _ _ _ => rfl)
    (fun r hr hne => Vector.get_set_other' _ _ (Fin.ofNat_ne (by omega) (by omega) (by simpa using hne))) (fun _ _ _ => rfl) (fun _ _ _ => rfl)
  refine ⟨?_, this.2⟩
  simp only [State.rdF, this.1]
  exact Vector.get_set_same' _ _ _

theorem wrPD_ends {n : Dealer} {op : SOp} {s : State} {v : Word} {c d : Nat} (hn : s.nextPc n op ≤ 0x3FFFC) (hd : d ≤ 15) :
    ((s.wrPD n d v).advance n op c).rdPD n d = v ∧ s.Ends n op [] [] [d] [] ((s.wrPD n d v).advance n op c) := by
  have := ends_of_bank (c := c) (ws := []) (fs := []) (pds := [d]) (sgs := []) (u := s.wrPD n d v) (Or.inr ⟨_, rfl⟩) hn ⟨rfl, rfl, rfl, rfl, rfl, rfl, rfl⟩ (fun _ _ _ => rfl) (fun _ _ _ => rfl)
    (fun r hr hne => Vector.get_set_other' _ _ (Fin.ofNat_ne (by omega) (by omega) (by simpa using hne))) (fun _ _ _ => rfl)
  refine ⟨?_, this.2⟩
  simp only [State.rdPD, this.1]
  exact Vector.get_set_same' _ _ _

theorem wrSG_ends {n : Dealer} {op : SOp} {s : State} {v : Desc} {c d : Nat} (hn : s.nextPc n op ≤ 0x3FFFC) (hd : d ≤ 7) :
    ((s.wrSG n d v).advance n op c).rdSG n d = v ∧ s.Ends n op [] [] [] [d] ((s.wrSG n d v).advance n op c) := by
  have := ends_of_bank (c := c) (ws := []) (fs := []) (pds := []) (sgs := [d]) (u := s.wrSG n d v) (Or.inl rfl) hn ⟨rfl, rfl, rfl, rfl, rfl, rfl, rfl⟩ (fun _ _ _ => rfl) (fun _ _ _ => rfl) (fun _ _ _ => rfl)
    (fun r hr hne => Vector.get_set_other' _ _ (Fin.ofNat_ne (by omega) (by omega) (by simpa using hne)))
  refine ⟨?_, this.2⟩
  simp only [State.rdSG, this.1]
  exact Vector.get_set_same' _ _ _

theorem fillsThen_of {i : Instr} {n : Dealer} {g : Nat} {s : State} {P : State → State → Prop} (eff : State → State)
    (he : exec i s = .next (s.withFill n g eff)) (hp : ∀ u : State, u.bank n = s.bank n → P u (eff u)) : FillsThen i n g s P := by
  refine ⟨fun h => ⟨eff (s.lazyFill n g).2, ?_, hp _ (lazyFill_bank_cur s n g)⟩, fun h => ?_⟩
  · rw [he]; simp [State.withFill, h]
  · rw [he]; simp [State.withFill, h]

theorem nextPc_bank {u s : State} {n : Dealer} {op : SOp} (h : u.bank n = s.bank n) : u.nextPc n op = s.nextPc n op := by
  simp only [State.nextPc, State.pc, h]

theorem append_toNat {v w : Nat} (x : BitVec v) (y : BitVec w) : (x ++ y).toNat = y.toNat + 2 ^ w * x.toNat := by
  rw [BitVec.toNat_append, Nat.shiftLeft_eq, Nat.mul_comm, ← Nat.two_pow_add_eq_or_of_lt y.isLt]; omega

theorem append_words (x y : Word) : (x ++ y).toNat = y.toNat + 2 ^ 32 * x.toNat := by
  rw [BitVec.toNat_append, Nat.shiftLeft_eq, Nat.mul_comm, ← Nat.two_pow_add_eq_or_of_lt y.isLt]; omega

theorem onlyBank_of {n : Dealer} {op : SOp} {s u : State} {b : Bank} {c : Nat} (hu : u = s.setBank n b) (hp : b.pc = (s.bank n).pc) :
    s.OnlyBank n { b with pc := BitVec.ofNat 32 (s.nextPc n op) } (u.advance n op c) := by
  subst hu
  have hpc : (s.setBank n b).nextPc n op = s.nextPc n op := by simp only [State.nextPc, State.pc, State.bank_setBank, hp]
  constructor
  · rw [State.bank_advance, State.bank_setBank, hpc]
  · intro k hk
    rw [State.bankAt_advance _ _ _ _ _ _ (Or.inr (by simpa using hk))]
    exact State.bankAt_setBankAt_level _ _ _ hk
  · rw [State.advance_msp]; simp [State.setBank, State.setBankAt]
  · intro m hm
    rw [State.advance_dl _ _ _ _ _ hm]; simp [State.setBank, State.setBankAt, State.dl_setDl_other, hm]
  · intro a; rfl
  · intro a; rfl
  · intro o; rfl

/-- An instruction that writes no register. -/

theorem onlyBank_advance (n : Dealer) (op : SOp) (s : State) (c : Nat) :
    s.OnlyBank n { s.bank n with pc := BitVec.ofNat 32 (s.nextPc n op) } (s.advance n op c) :=
  ⟨State.bank_advance _ _ _ _, fun _ hk => State.bankAt_advance _ _ _ _ _ _ (Or.inr hk), State.advance_msp _ _ _ _,
    fun _ hm => State.advance_dl _ _ _ _ _ hm, fun _ => rfl, fun _ => rfl, fun _ => rfl⟩

theorem putField_low (w : Word) (k v : Nat) (hk : k ≤ 32) : putField w 0 k v = BitVec.ofNat 32 (v % 2 ^ k + w.toNat / 2 ^ k * 2 ^ k) := by
  apply BitVec.eq_of_getLsbD_eq
  intro i hi
  show (putField w 0 k v).toNat.testBit i = _
  rw [putField_testBit _ _ _ _ _ hi]
  simp only [BitVec.getLsbD_ofNat, hi, decide_true, Bool.true_and]
  have hh := Nat.two_pow_add_eq_or_of_lt (Nat.mod_lt v (Nat.two_pow_pos k)) (w.toNat / 2 ^ k)
  rw [Nat.mul_comm (w.toNat / 2 ^ k), Nat.add_comm (v % 2 ^ k), hh, Nat.testBit_or, Nat.testBit_mod_two_pow,
    Nat.testBit_two_pow_mul, Nat.testBit_div_two_pow]
  by_cases h : i < k
  · simp [h] <;> omega
  · have e : i - k + k = i := by omega
    simp [h, e]; omega

theorem extract_zero (v : Word) (lo k : Nat) : v.extractLsb' lo k = 0 ↔ natBits v.toNat lo k = 0 := by
  rw [← BitVec.toNat_inj]; simp [natBits_eq]

theorem quiet_fget {z s : State} (h : Quiet z s) (f : Fld) (h1 : 0x100000 ≤ f.off ∧ f.off < 0x140000) : s.fget f = z.fget f := h.fget f h1.1 h1.2

theorem State.mem_setReg (s : State) (o : Nat) (v : Word) : (s.setReg o v).mem = s.mem := rfl

/-- What events and register updates outside memory leave: the bytes and their syndromes. -/
structure SameMem (z s : State) : Prop where
  mem : s.mem = z.mem
  syn : s.syn = z.syn

@[simp] theorem SameMem.refl (s : State) : SameMem s s := ⟨rfl, rfl⟩

theorem sameMem_of {z s t : State} (h : SameMem z s) (h1 : t.mem = s.mem) (h2 : t.syn = s.syn) : SameMem z t := ⟨h1.trans h.1, h2.trans h.2⟩

theorem sameMem_event {z s : State} (e : Nat) (h : SameMem z s) : SameMem z (s.event e) := by
  unfold State.event State.seatEvent
  dsimp only
  repeat' split
  all_goals exact sameMem_of h rfl rfl

theorem fget_of_regs {s t : State} (h : s.regs = t.regs) (g : Fld) : s.fget g = t.fget g := by
  unfold State.fget State.reg; rw [h]

theorem satAdd_lt (w a b : Nat) : satAdd w a b < 2 ^ w := by
  have := Nat.two_pow_pos w
  unfold satAdd ones; omega

theorem ledger_fget (s : State) (w lo wid k : Nat) (g : Fld) : (s.ledger w lo wid k).fget g = (s.bump ⟨GARD_LEDGER.reg w, lo, wid⟩ k).fget g :=
  fget_of_regs rfl g

theorem fold_fset_other (s : State) (l : List Nat) (F : Nat → Fld) (g : Fld) (hg : g.lo + g.wid ≤ 32) (h : ∀ k ∈ l, g.off ≠ (F k).off) :
    (l.foldl (fun t k => t.fset (F k) 0) s).fget g = s.fget g := by
  induction l generalizing s with
  | nil => rfl
  | cons a l ih =>
    simp only [List.foldl_cons]
    rw [ih _ (fun k hk => h k (List.mem_cons_of_mem _ hk)), State.fget_fset_other _ _ _ _ hg (Or.inl (h a List.mem_cons_self))]

theorem fold_fset_zero (s : State) (l : List Nat) (F : Nat → Fld) (k : Nat) (hk : k ∈ l) (hF : ∀ j, (F j).lo + (F j).wid ≤ 32)
    (h : ∀ j, j ≠ k → (F k).off ≠ (F j).off) : (l.foldl (fun t k => t.fset (F k) 0) s).fget (F k) = 0 := by
  induction l generalizing s with
  | nil => simp at hk
  | cons a l ih =>
    simp only [List.foldl_cons]
    by_cases hm : k ∈ l
    · exact ih _ hm
    · have : k = a := by simpa [hm] using hk
      subst this
      rw [fold_fset_other _ _ _ _ (hF _) (fun j hj => h j (fun e => hm (e ▸ hj))), State.fget_fset_same _ _ _ (hF _)]
      simp

theorem fold_fset_eq (s : State) (l : List Nat) (F : Nat → Fld) :
    (l.foldl (fun t k => t.fset (F k) 0) s) = { s with regs := (l.foldl (fun t k => t.fset (F k) 0) s).regs } := by
  induction l generalizing s with
  | nil => rfl
  | cons a l ih => simp only [List.foldl_cons]; rw [ih]; rfl

theorem fget_setDl (s : State) (n : Dealer) (d : DealerCore) (g : Fld) : (s.setDl n d).fget g = s.fget g := fget_of_regs rfl g

/-- The last part of a deal restart, after the registers are cleared. -/

theorem restart_tail (s : State) (n : Dealer) (d : DealerCore) :
    let t := (((s.setDl n d).bump (DEAL_OVR.RESTARTS n) 1).ledger 2 16 16 1).dealerEvent n 3
    (∀ g : Fld, g.lo + g.wid ≤ 32 → 0x100000 ≤ g.off → g.off < 0x140000 → g.off ≠ (DEAL_OVR.RESTARTS n).off → t.fget g = s.fget g) ∧
    t.fget (DEAL_OVR.RESTARTS n) = satAdd (DEAL_OVR.RESTARTS n).wid (s.fget (DEAL_OVR.RESTARTS n)) 1 ∧
    (∀ m, t.dl m = (s.setDl n d).dl m) ∧ SameMem s t := by
  have hn : n.val < 4 := n.isLt
  intro t
  have hq : ∀ u : State, Quiet u (u.dealerEvent n 3) := fun u => quiet_event _ (by omega) (Quiet.refl _)
  have o1 : (DEAL_OVR.RESTARTS n).off = 0x100214 + 0x10000 * n.val := rfl
  have o2 : (Fld.mk (GARD_LEDGER.reg 2) 16 16).off = 0x20408 := rfl
  refine ⟨?_, ?_, ?_, ?_⟩
  · intro g hg h1 h2 h3
    rw [quiet_fget (hq _) g ⟨h1, h2⟩, ledger_fget]
    unfold State.bump
    rw [State.fget_fset_other _ _ _ _ hg (Or.inl (by rw [o2]; omega)), State.fget_fset_other _ _ _ _ hg (Or.inl h3), fget_setDl]
  · rw [quiet_fget (hq _) _ ⟨by rw [o1]; omega, by rw [o1]; omega⟩, ledger_fget]
    unfold State.bump
    rw [State.fget_fset_other _ _ _ _ (Nat.le_of_ble_eq_true rfl) (Or.inl (by rw [o1, o2]; omega)),
      State.fget_fset_same _ _ _ (Nat.le_of_ble_eq_true rfl), fget_setDl]
    exact Nat.mod_eq_of_lt (satAdd_lt _ _ _)
  · intro m; unfold State.dl; rw [(hq _).1]; rfl
  · exact sameMem_event _ ⟨rfl, rfl⟩

theorem fsets4_fget_other (s : State) (a b c d : Fld) (v w x y : Nat) (g : Fld) (hg : g.lo + g.wid ≤ 32)
    (ha : g.off ≠ a.off ∨ g.lo + g.wid ≤ a.lo ∨ a.lo + a.wid ≤ g.lo) (hb : g.off ≠ b.off ∨ g.lo + g.wid ≤ b.lo ∨ b.lo + b.wid ≤ g.lo)
    (hc : g.off ≠ c.off ∨ g.lo + g.wid ≤ c.lo ∨ c.lo + c.wid ≤ g.lo) (hd : g.off ≠ d.off ∨ g.lo + g.wid ≤ d.lo ∨ d.lo + d.wid ≤ g.lo) :
    (s.fsets [(a, v), (b, w), (c, x), (d, y)]).fget g = s.fget g := by
  show ((((s.fset a v).fset b w).fset c x).fset d y).fget g = _
  rw [State.fget_fset_other _ _ _ _ hg hd, State.fget_fset_other _ _ _ _ hg hc, State.fget_fset_other _ _ _ _ hg hb, State.fget_fset_other _ _ _ _ hg ha]

theorem fsets4_fget (s : State) (a b c d : Fld) (v w x y : Nat) (ha : a.lo + a.wid ≤ 32) (hb : b.lo + b.wid ≤ 32) (hc : c.lo + c.wid ≤ 32)
    (hd : d.lo + d.wid ≤ 32)
    (ab : a.off ≠ b.off ∨ a.lo + a.wid ≤ b.lo ∨ b.lo + b.wid ≤ a.lo) (ac : a.off ≠ c.off ∨ a.lo + a.wid ≤ c.lo ∨ c.lo + c.wid ≤ a.lo)
    (ad : a.off ≠ d.off ∨ a.lo + a.wid ≤ d.lo ∨ d.lo + d.wid ≤ a.lo) (bc : b.off ≠ c.off ∨ b.lo + b.wid ≤ c.lo ∨ c.lo + c.wid ≤ b.lo)
    (bd : b.off ≠ d.off ∨ b.lo + b.wid ≤ d.lo ∨ d.lo + d.wid ≤ b.lo) (cd : c.off ≠ d.off ∨ c.lo + c.wid ≤ d.lo ∨ d.lo + d.wid ≤ c.lo) :
    let t := s.fsets [(a, v), (b, w), (c, x), (d, y)]
    t.fget a = v % 2 ^ a.wid ∧ t.fget b = w % 2 ^ b.wid ∧ t.fget c = x % 2 ^ c.wid ∧ t.fget d = y % 2 ^ d.wid := by
  show State.fget ((((s.fset a v).fset b w).fset c x).fset d y) a = _ ∧ State.fget ((((s.fset a v).fset b w).fset c x).fset d y) b = _ ∧
    State.fget ((((s.fset a v).fset b w).fset c x).fset d y) c = _ ∧ State.fget ((((s.fset a v).fset b w).fset c x).fset d y) d = _
  refine ⟨?_, ?_, ?_, ?_⟩
  · rw [State.fget_fset_other _ _ _ _ ha ad, State.fget_fset_other _ _ _ _ ha ac, State.fget_fset_other _ _ _ _ ha ab, State.fget_fset_same _ _ _ ha]
  · rw [State.fget_fset_other _ _ _ _ hb bd, State.fget_fset_other _ _ _ _ hb bc, State.fget_fset_same _ _ _ hb]
  · rw [State.fget_fset_other _ _ _ _ hc cd, State.fget_fset_same _ _ _ hc]
  · rw [State.fget_fset_same _ _ _ hd]

theorem dealRestart_restarted (s : State) (n : Dealer) : s.Restarted n (s.dealRestart n) := by
  have hn : n.val < 4 := n.isLt
  have oA : (LVLSTAT.ACTIVE n).off = 0x100110 + 0x10000 * n.val := rfl
  have oE : (LVLSTAT.EMBUSY n).off = 0x100110 + 0x10000 * n.val := rfl
  have oC : (LVLSTAT.CUR n).off = 0x100110 + 0x10000 * n.val := rfl
  have oU : (DEAL_USED.CYCLES n).off = 0x10020c + 0x10000 * n.val := rfl
  have oR : (DEAL_OVR.RESTARTS n).off = 0x100214 + 0x10000 * n.val := rfl
  have oP : (DEAL_STAT.PHASE n).off = 0x100200 + 0x10000 * n.val := rfl
  have oT : ∀ k, (TASKSTAT.RESV n k).off = 0x100160 + 0x10000 * n.val + 0x4 * k := fun _ => rfl
  unfold State.dealRestart
  extract_lets s0 s1 s2 d s3 s4
  have h0 : s0.mem = s.mem ∧ s0.syn = s.syn ∧ s0.dealers = s.dealers := by
    show State.mem (if _ then _ else _) = _ ∧ State.syn (if _ then _ else _) = _ ∧ State.dealers (if _ then _ else _) = _
    split <;> exact ⟨rfl, rfl, rfl⟩
  have g0 : s0.fget (DEAL_OVR.RESTARTS n) = s.fget (DEAL_OVR.RESTARTS n) := by
    show State.fget (if _ then _ else _) _ = _
    split
    · exact State.fget_fset_other _ _ _ _ (Nat.le_of_ble_eq_true rfl) (Or.inl (by rw [oR]; show _ ≠ (DEAL_STAT.PHASE n).off; rw [oP]; omega))
    · rfl
  clear_value s0
  have g1 := fsets4_fget s0 (LVLSTAT.ACTIVE n) (LVLSTAT.EMBUSY n) (LVLSTAT.CUR n) (DEAL_USED.CYCLES n) 0 0 0 (ones 25)
    (Nat.le_of_ble_eq_true rfl) (Nat.le_of_ble_eq_true rfl) (Nat.le_of_ble_eq_true rfl) (Nat.le_of_ble_eq_true rfl)
    (Or.inr (Or.inl (Nat.le_of_ble_eq_true rfl))) (Or.inr (Or.inl (Nat.le_of_ble_eq_true rfl))) (Or.inl (by rw [oA, oU]; omega))
    (Or.inr (Or.inl (Nat.le_of_ble_eq_true rfl))) (Or.inl (by rw [oE, oU]; omega)) (Or.inl (by rw [oC, oU]; omega))
  have gR : s1.fget (DEAL_OVR.RESTARTS n) = s.fget (DEAL_OVR.RESTARTS n) := (fsets4_fget_other s0 _ _ _ _ _ _ _ _ _ (Nat.le_of_ble_eq_true rfl)
    (Or.inl (by rw [oA, oR]; omega)) (Or.inl (by rw [oE, oR]; omega)) (Or.inl (by rw [oC, oR]; omega)) (Or.inl (by rw [oU, oR]; omega))).trans g0
  have e1 : s1 = { s0 with regs := s1.regs } := State.fsets_eq _ _
  have hs1 : s1 = s0.fsets [(LVLSTAT.ACTIVE n, 0), (LVLSTAT.EMBUSY n, 0), (LVLSTAT.CUR n, 0), (DEAL_USED.CYCLES n, ones 25)] := rfl
  simp only [← hs1] at g1
  clear_value s1
  have f2 : ∀ g : Fld, g.lo + g.wid ≤ 32 → (∀ k, k < 8 → g.off ≠ (TASKSTAT.RESV n k).off) → s2.fget g = s1.fget g := by
    intro g hg ho
    refine fold_fset_other s1 (rangeFrom 0 8) (fun k => TASKSTAT.RESV n k) g hg (fun k hk => ho k ?_)
    revert hk; simp [rangeFrom]; omega
  have z2 : ∀ k, k < 8 → s2.fget (TASKSTAT.RESV n k) = 0 := by
    intro k hk
    refine fold_fset_zero s1 (rangeFrom 0 8) (fun k => TASKSTAT.RESV n k) k ?_ (fun j => Nat.le_of_ble_eq_true rfl) ?_
    · revert hk; simp [rangeFrom]; omega
    · intro j hj; show (TASKSTAT.RESV n k).off ≠ (TASKSTAT.RESV n j).off; rw [oT, oT]; omega
  have ef2 : s2 = { s1 with regs := s2.regs } := fold_fset_eq s1 _ _
  have m2 : SameMem s s2 := ⟨by rw [ef2, e1]; exact h0.1, by rw [ef2, e1]; exact h0.2.1⟩
  have d2 : ∀ m, s2.dl m = s.dl m := by intro m; rw [ef2, e1]; exact congrArg (fun v => Vector.get v m) h0.2.2
  have hd : d = s2.dl n := rfl
  clear_value s2
  obtain ⟨r1, r2, r3, r4⟩ := restart_tail s2 n { d with tickEnd := 2, recover := true, cutDue := false, arrayHeld := 0, live := false, restarted := true, startDue := false, pendMC := none, again := none, reload := false, wake := [], filled := Vector.replicate 8 0, dirty := Vector.replicate 8 0 }
  clear_value d
  have g1' : ∀ a : Fld, a.lo + a.wid ≤ 32 → a.off < 0x100160 + 0x10000 * n.val ∨ a.off = 0x10020c + 0x10000 * n.val ∨ a.off = 0x100214 + 0x10000 * n.val → s2.fget a = s1.fget a := by
    intro a ha ho; refine f2 a ha (fun k hk => ?_); rw [oT]; omega
  constructor
  · exact (r1 _ (Nat.le_of_ble_eq_true rfl) (by rw [oA]; omega) (by rw [oA]; omega) (by rw [oA, oR]; omega)).trans
      ((g1' _ (Nat.le_of_ble_eq_true rfl) (by rw [oA]; omega)).trans g1.1)
  · exact (r1 _ (Nat.le_of_ble_eq_true rfl) (by rw [oE]; omega) (by rw [oE]; omega) (by rw [oE, oR]; omega)).trans
      ((g1' _ (Nat.le_of_ble_eq_true rfl) (by rw [oE]; omega)).trans g1.2.1)
  · exact (r1 _ (Nat.le_of_ble_eq_true rfl) (by rw [oC]; omega) (by rw [oC]; omega) (by rw [oC, oR]; omega)).trans
      ((g1' _ (Nat.le_of_ble_eq_true rfl) (by rw [oC]; omega)).trans g1.2.2.1)
  · intro k hk
    exact (r1 _ (Nat.le_of_ble_eq_true rfl) (by rw [oT]; omega) (by rw [oT]; omega) (by rw [oT, oR]; omega)).trans (z2 k hk)
  · exact (r1 _ (Nat.le_of_ble_eq_true rfl) (by rw [oU]; omega) (by rw [oU]; omega) (by rw [oU, oR]; omega)).trans
      ((g1' _ (Nat.le_of_ble_eq_true rfl) (by rw [oU]; omega)).trans g1.2.2.2)
  · rw [← gR, ← g1' _ (Nat.le_of_ble_eq_true rfl) (by rw [oR]; omega)]
    exact r2
  · exact ⟨(congrArg DealerCore.tickEnd (r3 n)).trans (by rw [State.dl_setDl_same]), (congrArg DealerCore.recover (r3 n)).trans (by rw [State.dl_setDl_same])⟩
  · intro m hm; exact (r3 m).trans ((State.dl_setDl_other _ _ hm).trans (d2 m))
  · intro a; unfold State.byte; exact congrArg (fun x => Sparse.get memDefault x a) (r4.1.trans m2.1)
  · intro a; unfold State.wordSyn; exact congrArg (fun x => Sparse.get 0 x (a / 8)) (r4.2.trans m2.2)

theorem restarted_event {s t : State} {n : Dealer} (e : Nat) (he : e < 0x100000) (h : s.Restarted n t) : s.Restarted n (t.event e) := by
  have hn : n.val < 4 := n.isLt
  have q : Quiet t (t.event e) := quiet_event e he (Quiet.refl t)
  have m : SameMem t (t.event e) := sameMem_event e (SameMem.refl t)
  have f : ∀ k : Fld, 0x100000 ≤ k.off → k.off < 0x140000 → (t.event e).fget k = t.fget k := fun k a b => quiet_fget q k ⟨a, b⟩
  have d : ∀ j, (t.event e).dl j = t.dl j := fun j => by unfold State.dl; rw [q.1]
  constructor
  · rw [f _ (by show 0x100000 ≤ 0x100110 + 0x10000 * n.val; omega) (by show 0x100110 + 0x10000 * n.val < _; omega), h.active]
  · rw [f _ (by show 0x100000 ≤ 0x100110 + 0x10000 * n.val; omega) (by show 0x100110 + 0x10000 * n.val < _; omega), h.embusy]
  · rw [f _ (by show 0x100000 ≤ 0x100110 + 0x10000 * n.val; omega) (by show 0x100110 + 0x10000 * n.val < _; omega), h.level]
  · intro k hk
    rw [f _ (by show 0x100000 ≤ 0x100160 + 0x10000 * n.val + 0x4 * k; omega) (by show 0x100160 + 0x10000 * n.val + 0x4 * k < _; omega), h.resident k hk]
  · rw [f _ (by show 0x100000 ≤ 0x10020c + 0x10000 * n.val; omega) (by show 0x10020c + 0x10000 * n.val < _; omega), h.used]
  · rw [f _ (by show 0x100000 ≤ 0x100214 + 0x10000 * n.val; omega) (by show 0x100214 + 0x10000 * n.val < _; omega), h.restarts]
  · rw [d]; exact h.recovery
  · intro j hj; rw [d, h.dealers j hj]
  · intro a; rw [← h.bytes a]; unfold State.byte; rw [m.1]
  · intro a; rw [← h.syndromes a]; unfold State.wordSyn; rw [m.2]

theorem onlyBank_charge {n : Dealer} {s u : State} {b : Bank} {c : Nat} (hu : u = s.setBank n b) : s.OnlyBank n b (u.charge n c) := by
  subst hu
  constructor
  · show State.bankAt _ _ _ = _
    rw [State.bankAt_charge]; exact State.bank_setBank _ _ _
  · intro k hk; rw [State.bankAt_charge]; exact State.bankAt_setBankAt_level _ _ _ hk
  · simp [State.charge, State.setBank, State.setBankAt]
  · intro m hm; simp [State.charge, State.setBank, State.setBankAt, State.dl_setDl_other, hm]
  · intro a; rfl
  · intro a; rfl
  · intro o; rfl

theorem setTRP (w : Word) : putField w 15 1 1 = w ||| 0x8000 := by
  unfold putField; simp; apply BitVec.eq_of_getLsbD_eq; intro i hi
  simp only [BitVec.getLsbD_or, BitVec.getLsbD_and]
  by_cases h : i = 15
  · subst h; simp
  · have : (4294934527#32).getLsbD i = true := by
      revert h; revert i; decide
    simp [this]

/-- A trap is taken as R199 and R200 say. -/

theorem trap_taken (s : State) (n : Dealer) (t : Trap) (ext : Bool) (hc : t.code ≠ trapSaveExhausted) :
    TrapTaken n t.code t.info t.seg ext (t.fpc.getD (s.bank n).fpc) s (s.trap n t ext false) := by
  unfold TrapTaken State.trap
  have hc' : (t.code != trapSaveExhausted) = true := by simpa using hc
  rw [hc', Bool.and_true]
  by_cases h : stTRP (s.st n) = true
  · rw [if_pos h, if_pos h]
    exact restarted_event _ (by omega) (dealRestart_restarted s n)
  · rw [if_neg h, if_neg h]
    unfold State.enterTrap
    refine onlyBank_charge (c := 4) ?_
    rw [setTRP]
    have : t.code + 256 * t.seg + 2048 * b2n false + 4096 * b2n ext = t.code + 2 ^ 8 * t.seg + 2 ^ 12 * (if ext then 1 else 0) := by
      simp [b2n]
    rw [← this]

theorem raiseS_eq (w : Word) (fl : Nat) : fpcRaiseS w fl = w ||| BitVec.ofNat 32 (fl % 32 * 2 ^ 13) := by
  unfold fpcRaiseS
  apply BitVec.eq_of_getLsbD_eq
  intro i hi
  show (putField w 13 5 _).toNat.testBit i = _
  rw [putField_testBit _ _ _ _ _ hi]
  have e : ∀ x : BitVec 32, x.toNat.testBit i = x.getLsbD i := fun _ => rfl
  simp only [BitVec.getLsbD_or, BitVec.getLsbD_ofNat, hi, decide_true, Bool.true_and, Nat.testBit_mul_two_pow]
  have h32 : (fl % 32).testBit (i - 13) = (decide (i - 13 < 5) && fl.testBit (i - 13)) := Nat.testBit_mod_two_pow fl 5 (i - 13)
  rw [h32]
  by_cases h1 : 13 ≤ i
  · by_cases h2 : i < 18
    · have h3 : i - 13 < 5 := by omega
      rw [if_pos ⟨h1, by omega⟩, Nat.testBit_or, fpcSSF, getField, natBits_testBit]
      have h4 : 13 + (i - 13) = i := by omega
      simp [h1, h3, h4, e]
    · have h3 : ¬(i - 13 < 5) := by omega
      rw [if_neg (by omega)]
      simp [h3, e]
  · rw [if_neg (by omega)]
    simp [h1, e]

@[simp] theorem bank_spend (s : State) (n m : Dealer) (c : Nat) : (s.spend n c).bank m = s.bank m := by
  unfold State.bank
  rw [State.bankAt_spend]; rfl

/-- A trap that comes after the instruction's own count: the cycles of the Dealer are no part of what a trap is said to leave. -/
theorem trapTaken_spend {s t : State} {n : Dealer} {c code seg : Nat} {info fpc : Word} {ext : Bool}
    (h : TrapTaken n code info seg ext fpc (s.spend n c) t) : TrapTaken n code info seg ext fpc s t := by
  have hst : (s.spend n c).st n = s.st n := by unfold State.st; rw [bank_spend]
  have hd : ∀ m, m ≠ n → (s.spend n c).dl m = s.dl m := fun m hm => State.dl_setDl_other _ _ hm
  unfold TrapTaken at h ⊢
  rw [hst] at h
  split
  · rename_i ht
    rw [if_pos ht] at h
    exact ⟨h.active, h.embusy, h.level, h.resident, h.used, h.restarts, h.recovery, fun m hm => (h.dealers m hm).trans (hd m hm), h.bytes, h.syndromes⟩
  · rename_i ht
    rw [if_neg ht, bank_spend] at h
    refine ⟨h.bank, fun k hk => (h.levels k hk).trans (State.bankAt_spend ..), h.msp.trans ?_, fun m hm => (h.dealers m hm).trans (hd m hm), h.bytes, h.syndromes, h.registers⟩
    unfold State.spend
    rw [State.dl_setDl_same]

/-- The trap of a late check is taken as R199 and R200 say, after the instruction's own count (R126). -/
theorem lateTrap_taken (s : State) (n : Dealer) (op : SOp) (c : Nat) (t : Trap) (hc : t.code ≠ trapSaveExhausted) :
    TrapTaken n t.code t.info t.seg op.hasExt (t.fpc.getD (s.bank n).fpc) s (s.lateTrap n op c t) := by
  have := trap_taken (s.spend n (c + op.extN)) n t op.hasExt hc
  rw [bank_spend] at this
  exact trapTaken_spend this

/-- The end of a floating-point instruction whose result goes to the current bank. -/

theorem float_ends {n : Dealer} {op : SOp} {s : State} {r : FRes} {c : Nat} {b : Bank} (write : State → State) (he : op.ext = none)
    (hw : (write s).bank n = b ∧ (∀ m k, m ≠ n ∨ k ≠ s.lvl n → (write s).bankAt m k = s.bankAt m k) ∧ (write s).lvl n = s.lvl n ∧
      (∀ m, m ≠ n → (write s).dl m = s.dl m) ∧ ((write s).dl n).msp = (s.dl n).msp ∧ write s = { s with dealers := (write s).dealers })
    (hb : b.fpc = (s.bank n).fpc ∧ b.pc = (s.bank n).pc) : FloatEnds n op r.fl b s (s.fpEnd n op c r write) := by
  obtain ⟨h1, h2, h3, h4, h5, h6⟩ := hw
  unfold FloatEnds State.fpEnd
  dsimp only
  by_cases hf : r.fl &&& fpcTE (s.bank n).fpc = 0
  · rw [if_pos hf, if_neg (by simpa using hf)]
    have hu : ((write s).setFpc n (fpcRaiseS ((write s).bank n).fpc r.fl)) = (write s).setBank n { b with fpc := (s.bank n).fpc ||| BitVec.ofNat 32 (r.fl % 32 * 2 ^ 13) } := by
      unfold State.setFpc; rw [raiseS_eq, h1, hb.1]
    have hn : (write s).nextPc n op = s.nextPc n op := by simp only [State.nextPc, State.pc, h1, hb.2]
    have := onlyBank_of (op := op) (c := c) hu (by rw [h1])
    rw [hn] at this
    constructor
    · exact this.1
    · intro k hk; rw [this.2 k (by rw [h3]; exact hk)]; exact h2 n k (Or.inr hk)
    · rw [this.3, h5]
    · intro m hm; rw [this.4 m hm, h4 m hm]
    · intro a; rw [this.5 a, h6]; rfl
    · intro a; rw [this.6 a, h6]; rfl
    · intro o; rw [this.7 o, h6]; rfl
  · rw [if_neg hf, if_pos hf]
    have := lateTrap_taken s n op c { code := trapFP, info := 0, fpc := some (fpcTrapped (s.bank n).fpc r.fl false) } (by simp [trapFP, trapSaveExhausted])
    have hx : op.hasExt = false := by simp [SOp.hasExt, he]
    rw [hx] at this
    exact this

theorem top_bit_xor (x i : Nat) (h : x < 2 ^ (i + 1)) : (if x.testBit i then x - 2 ^ i else x + 2 ^ i) = x ^^^ 2 ^ i := by
  have hx : x = x % 2 ^ i + 2 ^ i * (x / 2 ^ i) := (Nat.mod_add_div x (2 ^ i)).symm
  have hl : x % 2 ^ i < 2 ^ i := Nat.mod_lt _ (Nat.two_pow_pos i)
  have hd : x / 2 ^ i < 2 := by
    rw [Nat.div_lt_iff_lt_mul (Nat.two_pow_pos i)]; rw [Nat.pow_succ] at h; omega
  have ht : x.testBit i = decide (x / 2 ^ i = 1) := by
    rw [Nat.testBit_eq_decide_div_mod_eq, Nat.mod_eq_of_lt hd]
  have o : ∀ y, y < 2 ^ i → 2 ^ i + y = 2 ^ i ||| y := by
    intro y hy
    have := Nat.two_pow_add_eq_or_of_lt hy 1
    simpa using this
  apply Nat.eq_of_testBit_eq
  intro j
  rw [Nat.testBit_xor, Nat.testBit_two_pow]
  by_cases h1 : x / 2 ^ i = 1
  · have e : x = 2 ^ i + x % 2 ^ i := by rw [h1] at hx; omega
    have e2 : x - 2 ^ i = x % 2 ^ i := by omega
    rw [ht, if_pos (by simp [h1]), e2]
    conv => rhs; rw [e, o _ hl, Nat.testBit_or, Nat.testBit_two_pow]
    by_cases hj : i = j
    · subst hj; simp
    · simp [hj]
  · have h0 : x / 2 ^ i = 0 := by revert hd h1; generalize x / 2 ^ i = q; omega
    have e : x = x % 2 ^ i := by rw [h0, Nat.mul_zero, Nat.add_zero] at hx; exact hx
    rw [ht, if_neg (by simp [h1]), Nat.add_comm]
    have hl' : x < 2 ^ i := by omega
    rw [o _ hl', Nat.testBit_or, Nat.testBit_two_pow]
    by_cases hj : i = j
    · subst hj; simp [Nat.testBit_lt_two_pow hl']
    · simp [hj]

theorem fNeg_eq (f : FFmt) (x : Nat) : fNeg f x = x % 2 ^ f.width ^^^ 2 ^ (f.width - 1) := by
  have hw : f.width = f.eb + f.mb + 1 := by unfold FFmt.width; omega
  have hb : natBits x 0 f.width = x % 2 ^ f.width := by simp [natBits]
  unfold fNeg setNatBit
  rw [hb, hw]
  have ht : natBit (x % 2 ^ (f.eb + f.mb + 1)) (f.eb + f.mb) = (x % 2 ^ (f.eb + f.mb + 1)).testBit (f.eb + f.mb) := natBit_testBit _ _
  have hn : natBit x (f.eb + f.mb) = (x % 2 ^ (f.eb + f.mb + 1)).testBit (f.eb + f.mb) := by
    rw [natBit_testBit, Nat.testBit_mod_two_pow]; simp
  rw [ht, hn, show f.eb + f.mb + 1 - 1 = f.eb + f.mb from rfl, ← top_bit_xor _ _ (Nat.mod_lt _ (Nat.two_pow_pos _))]
  cases (x % 2 ^ (f.eb + f.mb + 1)).testBit (f.eb + f.mb) <;> simp

theorem fAbs_eq (f : FFmt) (x : Nat) : fAbs f x = x % 2 ^ f.width % 2 ^ (f.width - 1) := by
  have hw : f.width = f.eb + f.mb + 1 := by unfold FFmt.width; omega
  rw [hw]
  have : natBits x 0 (f.eb + f.mb) = x % 2 ^ (f.eb + f.mb) := by simp [natBits]
  rw [show f.eb + f.mb + 1 - 1 = f.eb + f.mb from rfl, Nat.pow_succ, Nat.mod_mul_right_mod]
  exact this

theorem rdFv_eq (s : State) (n : Dealer) (r : Nat) (f : FFmt) : s.rdFv n r f = (s.rdF n r).toNat % 2 ^ f.width := by
  simp [State.rdFv, natBits]

/-- A write of an F register as `float_ends` wants it. -/

theorem wrF_float (s : State) (n : Dealer) (r : Nat) (v : DWord) :
    (s.wrF n r v).bank n = { s.bank n with f := (s.bank n).f.set (Fin.ofNat 16 r) v } ∧
    (∀ m k, m ≠ n ∨ k ≠ s.lvl n → (s.wrF n r v).bankAt m k = s.bankAt m k) ∧ (s.wrF n r v).lvl n = s.lvl n ∧
    (∀ m, m ≠ n → (s.wrF n r v).dl m = s.dl m) ∧ ((s.wrF n r v).dl n).msp = (s.dl n).msp ∧
    s.wrF n r v = { s with dealers := (s.wrF n r v).dealers } := by
  refine ⟨?_, ?_, rfl, ?_, ?_, rfl⟩
  · show State.bankAt _ _ _ = _
    unfold State.wrF; dsimp only
    rw [State.bankAt_markDirty]; exact State.bank_setBank _ _ _
  · intro m k hk
    unfold State.wrF; dsimp only
    rw [State.bankAt_markDirty]
    by_cases e : m = n
    · subst e; exact State.bankAt_setBankAt_level _ _ _ (hk.resolve_left (fun q => q rfl))
    · exact State.bankAt_setBankAt_dealer _ _ _ _ e
  · intro m hm
    simp [State.wrF, State.markDirty, State.setBank, State.setBankAt, State.dl_setDl_other, hm]
  · simp [State.wrF, State.markDirty, State.setBank, State.setBankAt]

/-- A write of a W register as `float_ends` wants it. -/

theorem wrW_float (s : State) (n : Dealer) (r : Nat) (v : Word) :
    (s.wrW n r v).bank n = { s.bank n with w := if r = 0 then (s.bank n).w else (s.bank n).w.set (Fin.ofNat 32 r) v } ∧
    (∀ m k, m ≠ n ∨ k ≠ s.lvl n → (s.wrW n r v).bankAt m k = s.bankAt m k) ∧ (s.wrW n r v).lvl n = s.lvl n ∧
    (∀ m, m ≠ n → (s.wrW n r v).dl m = s.dl m) ∧ ((s.wrW n r v).dl n).msp = (s.dl n).msp ∧
    s.wrW n r v = { s with dealers := (s.wrW n r v).dealers } := by
  refine ⟨?_, fun m k h => State.bankAt_wrW _ _ _ _ _ _ h, State.lvl_wrW _ _ _ _ _, fun m h => State.wrW_dl _ _ _ _ _ h, State.wrW_msp _ _ _ _, State.wrW_eq _ _ _ _⟩
  rw [State.bank_wrW]
  split <;> rfl

/-- The common fields of a floating-point instruction. -/

theorem runFP_F {n : Dealer} {opc : Nat} {op : SOp} {s : State} {useB useC bad : Bool} {cost : Nat} {i : Instr}
    (res0 res : State → FRes) (h : s.Ready n op) (he : op.ext = none)
    (hx : exec i s = runFP n opc op s useB useC bad true cost res0 (wrFbits n op))
    (hr : (regReserved op useB useC true || bad) = false) (hres : ∀ u, res0 u = res u) :
    FillsThen i n 0 s (fun u t =>
      FloatEnds n op (res u).fl { u.bank n with f := (u.bank n).f.set (Fin.ofNat 16 op.d) (BitVec.ofNat 64 (res u).bits) } u t) := by
  refine fillsThen_of (fun t => t.fpEnd n op cost (res0 t) (fun u => wrFbits n op u (res0 t).bits)) ?_ ?_
  · rw [hx, runFP, runScalar_next _ h.runs]
    · rfl
    · simp [firstTrap, hr, endTrap_of_ready h]
  · intro u hu
    have := float_ends (n := n) (op := op) (s := u) (r := res0 u) (c := cost) (fun w => wrFbits n op w (res0 u).bits) he (wrF_float u n op.d _) ⟨rfl, rfl⟩
    rw [← hres u]
    exact this

theorem runFP_W {n : Dealer} {opc : Nat} {op : SOp} {s : State} {useB useC bad : Bool} {cost : Nat} {i : Instr}
    (res0 : State → FRes) (r : FRes) (h : s.Ready n op) (he : op.ext = none)
    (hx : exec i s = runFP n opc op s useB useC bad false cost res0 (fun t v => t.wrW n op.d (BitVec.ofNat 32 v)))
    (hr : (regReserved op useB useC true || bad) = false) (hres : res0 s = r) :
    ∃ t, exec i s = .next t ∧ FloatEnds n op r.fl { s.bank n with
        w := if op.d = 0 then (s.bank n).w else (s.bank n).w.set (Fin.ofNat 32 op.d) (BitVec.ofNat 32 r.bits) } s t := by
  refine ⟨s.fpEnd n op cost (res0 s) (fun u => u.wrW n op.d (BitVec.ofNat 32 (res0 s).bits)), ?_, ?_⟩
  · rw [hx, runFP, runScalar_next _ h.runs]
    · rfl
    · simp [firstTrap, hr, endTrap_of_ready h]
  · have := float_ends (n := n) (op := op) (s := s) (r := res0 s) (c := cost) (fun w => w.wrW n op.d (BitVec.ofNat 32 (res0 s).bits)) he (wrW_float s n op.d _) ⟨rfl, rfl⟩
    rw [← hres]
    exact this

end Sys2Proof.Machine
end

