-- ==== Sys2Proof/Laws/Memory.lean ====
section
/-!
SUPPORT. The byte memory: a read of bytes after a write of a word, of part of a word, and of bytes that span two words.
-/
namespace Sys2Proof.Machine

open Sys2Proof

theorem State.byte_setByte (s : State) (a x : Nat) (b : Byte) : (s.setByte a b).byte x = if x = a then b else s.byte x := by
  unfold State.byte State.setByte; exact Sparse.get_set _ _ _ _ _

/-- Bytes stored from an address up. -/
theorem State.byte_setBytes (s : State) (a : Nat) (bs : List Byte) (x : Nat) :
    (s.setBytes a bs).byte x = if h : a ≤ x ∧ x < a + bs.length then bs[x - a] else s.byte x := by
  induction bs generalizing s a with
  | nil => simp [State.setBytes] <;> omega
  | cons b bs ih =>
    rw [State.setBytes, ih]
    by_cases h : a + 1 ≤ x ∧ x < a + 1 + bs.length
    · have h2 : a ≤ x ∧ x < a + (b :: bs).length := by simp; omega
      rw [dif_pos h, dif_pos h2]
      have : x - a = x - (a + 1) + 1 := by omega
      simp [this]
    · rw [dif_neg h, State.byte_setByte]
      by_cases h3 : x = a
      · subst h3; simp
      · have h4 : ¬(a ≤ x ∧ x < a + (b :: bs).length) := by simp; omega
        rw [if_neg h3, dif_neg h4]

theorem bytesOfNat_length (n v : Nat) : (bytesOfNat n v).length = n := by
  induction n generalizing v with
  | zero => rfl
  | succ n ih => simp [bytesOfNat, ih]

theorem bytesOfNat_get (n v i : Nat) (h : i < (bytesOfNat n v).length) : (bytesOfNat n v)[i] = BitVec.ofNat 8 (v / 256 ^ i) := by
  induction n generalizing v i with
  | zero => simp [bytesOfNat] at h
  | succ n ih =>
    cases i with
    | zero => simp [bytesOfNat]
    | succ i =>
      simp only [bytesOfNat, List.getElem_cons_succ]
      rw [ih, Nat.div_div_eq_div_mul, Nat.pow_succ, Nat.mul_comm]

/-- Byte i of a number, bit by bit. -/
theorem byte_testBit (v i j : Nat) (hj : j < 8) : (BitVec.ofNat 8 (v / 256 ^ i)).getLsbD j = v.testBit (8 * i + j) := by
  have : 256 ^ i = 2 ^ (8 * i) := by rw [Nat.pow_mul]
  rw [this, BitVec.getLsbD_ofNat, Nat.testBit_div_two_pow]
  simp [hj, Nat.add_comm]

theorem State.wordSyn_setSyn (s : State) (k : Nat) (v : BitVec 16) (x : Nat) :
    (s.setSyn k v).wordSyn x = if x / 8 = k then v else s.wordSyn x := by
  unfold State.wordSyn State.setSyn; exact Sparse.get_set _ _ _ _ _

/-- A word stored with valid check bits: its bytes. -/
theorem State.byte_putWord (s : State) (a d x : Nat) :
    (s.putWord a d).byte x = if x / 8 = a / 8 then BitVec.ofNat 8 (d / 256 ^ (x % 8)) else s.byte x := by
  show (s.setBytes (a / 8 * 8) (bytesOfNat 8 d)).byte x = _
  rw [State.byte_setBytes]
  by_cases h : x / 8 = a / 8
  · have h1 : a / 8 * 8 ≤ x ∧ x < a / 8 * 8 + (bytesOfNat 8 d).length := by rw [bytesOfNat_length]; omega
    rw [dif_pos h1, if_pos h, bytesOfNat_get]
    have : x - a / 8 * 8 = x % 8 := by omega
    rw [this]
  · have h1 : ¬(a / 8 * 8 ≤ x ∧ x < a / 8 * 8 + (bytesOfNat 8 d).length) := by rw [bytesOfNat_length]; omega
    rw [dif_neg h1, if_neg h]

theorem State.syn_setBytes (s : State) (a : Nat) (bs : List Byte) : (s.setBytes a bs).syn = s.syn := by
  induction bs generalizing s a with
  | nil => rfl
  | cons b bs ih => rw [State.setBytes, ih]; rfl

theorem State.wordSyn_putWord (s : State) (a d x : Nat) : (s.putWord a d).wordSyn x = if x / 8 = a / 8 then 0 else s.wordSyn x := by
  unfold State.putWord
  rw [State.wordSyn_setSyn]
  split
  · rfl
  · unfold State.wordSyn; rw [State.syn_setBytes]

/-- Bits of bytes read from an address up. -/
theorem State.bytes_testBit (s : State) (a m i : Nat) :
    (natOfBytes (s.bytes a m)).testBit i = (decide (i / 8 < m) && (s.byte (a + i / 8)).getLsbD (i % 8)) := by
  induction m generalizing a i with
  | zero => simp [State.bytes, natOfBytes]
  | succ m ih =>
    rw [State.bytes, natOfBytes]
    have e : (s.byte a).toNat + 256 * natOfBytes (s.bytes (a + 1) m) = 2 ^ 8 * natOfBytes (s.bytes (a + 1) m) ||| (s.byte a).toNat := by
      rw [← Nat.two_pow_add_eq_or_of_lt (s.byte a).isLt]; omega
    rw [e, Nat.testBit_or, Nat.testBit_two_pow_mul]
    by_cases h : i < 8
    · have h0 : i / 8 = 0 := by omega
      have h1 : i % 8 = i := by omega
      have h2 : ¬(8 ≤ i) := by omega
      simp [h0, h1, h2]; rfl
    · have h1 : (i - 8) / 8 = i / 8 - 1 := by omega
      have h2 : (i - 8) % 8 = i % 8 := by omega
      have h3 : a + 1 + (i / 8 - 1) = a + i / 8 := by omega
      have h4 : (s.byte a).toNat.testBit i = false := Nat.testBit_lt_two_pow (Nat.lt_of_lt_of_le (s.byte a).isLt (Nat.pow_le_pow_right (by omega) (by omega)))
      have h5 : (i / 8 - 1 < m) ↔ (i / 8 < m + 1) := by omega
      rw [ih, h1, h2, h3, h4]
      have h8 : 8 ≤ i := by omega
      simp [h5, h8]

/-- A slice of the bytes of a range. -/
theorem State.bytes_slice (s : State) (a m o k : Nat) (h : o + k ≤ m) :
    natBits (natOfBytes (s.bytes a m)) (8 * o) (8 * k) = natOfBytes (s.bytes (a + o) k) := by
  apply Nat.eq_of_testBit_eq
  intro i
  rw [natBits_testBit, State.bytes_testBit, State.bytes_testBit]
  have e1 : (8 * o + i) / 8 = o + i / 8 := by omega
  have e2 : (8 * o + i) % 8 = i % 8 := by omega
  rw [e1, e2]
  by_cases hi : i < 8 * k
  · have h1 : i / 8 < k := by omega
    have h2 : o + i / 8 < m := by omega
    simp [hi, h1, h2, Nat.add_assoc]
  · have h1 : ¬(i / 8 < k) := by omega
    simp [hi, h1]

theorem State.bytes_append (s : State) (a m k : Nat) : s.bytes a (m + k) = s.bytes a m ++ s.bytes (a + m) k := by
  induction m generalizing a with
  | zero => simp [State.bytes]
  | succ m ih =>
    have e : m + 1 + k = (m + k) + 1 := by omega
    rw [e, State.bytes, State.bytes, ih, List.cons_append]
    have : a + 1 + m = a + (m + 1) := by omega
    rw [this]

theorem natOfBytes_append (x y : List Byte) : natOfBytes (x ++ y) = natOfBytes x + 2 ^ (8 * x.length) * natOfBytes y := by
  induction x with
  | nil => simp [natOfBytes]
  | cons b x ih =>
    simp only [List.cons_append, natOfBytes, ih, List.length_cons]
    have : 2 ^ (8 * (x.length + 1)) = 256 * 2 ^ (8 * x.length) := by rw [Nat.mul_add, Nat.pow_add]; omega
    rw [this, Nat.mul_add, Nat.mul_assoc]; omega

theorem State.bytes_length (s : State) (a m : Nat) : (s.bytes a m).length = m := by
  induction m generalizing a with
  | zero => rfl
  | succ m ih => simp [State.bytes, ih]

theorem natOfBytes_lt (l : List Byte) : natOfBytes l < 2 ^ (8 * l.length) := by
  induction l with
  | nil => simp [natOfBytes]
  | cons b l ih =>
    have := b.isLt
    simp only [natOfBytes, List.length_cons, Nat.mul_add, Nat.pow_add]
    omega

/-- The data of two words in a row. -/
theorem State.two_words (s : State) (a : Nat) (h : a % 8 = 0) : s.wordData a + 2 ^ 64 * s.wordData (a + 8) = natOfBytes (s.bytes a 16) := by
  have e := State.bytes_append s a 8 8
  rw [show (16 : Nat) = 8 + 8 from rfl, e, natOfBytes_append, State.bytes_length]
  unfold State.wordData
  have h1 : a / 8 * 8 = a := by omega
  have h2 : (a + 8) / 8 * 8 = a + 8 := by omega
  rw [h1, h2]

theorem decodeSyn_zero : decodeSyn 0 = .clean := rfl

/-- A word whose check bits are valid reads as it is, with no report. -/
theorem State.readWord_clean (s : State) (a : Nat) (h : s.wordSyn a = 0) : s.readWord a = (s.wordData a, false, s) := by
  unfold State.readWord
  rw [h]
  rfl

/-- A word folds the address of its own cell. -/
theorem foldSyn_self (a : Nat) : foldSyn a a = 0 := by unfold foldSyn; rw [Nat.xor_self]; rfl

theorem State.readCell_clean (s : State) (a : Nat) (h : s.wordSyn a = 0) : s.readCell a a = (s.wordData a, false, s) := by
  unfold State.readCell
  rw [h, foldSyn_self]
  rfl

theorem State.putFolded_self (s : State) (a d : Nat) : s.putFolded a a d false = s.putWord a d := by
  unfold State.putFolded State.putWord
  rw [foldSyn_self]
  rfl

/-- Bytes of words whose check bits are valid, at addresses that their own cells serve. -/
theorem State.readSpan_clean (s : State) (a k : Nat) (hk : k ≤ 8) (hp : s.phys a = a)
    (h0 : s.wordSyn a = 0) (h1 : a % 8 + k ≤ 8 ∨ s.phys (a / 8 * 8 + 8) = a / 8 * 8 + 8 ∧ s.wordSyn (a / 8 * 8 + 8) = 0) : s.readSpan a k = (natOfBytes (s.bytes a k), false, s) := by
  unfold State.readSpan
  rw [hp, State.readCell_clean _ _ h0]
  dsimp only
  split
  · rename_i h
    unfold State.wordData
    rw [State.bytes_slice _ _ _ _ _ h]
    have : a / 8 * 8 + a % 8 = a := by omega
    rw [this]
  · rename_i h
    have h2 := h1.resolve_left h
    rw [h2.1, State.readCell_clean _ _ h2.2]
    have e : s.wordData a = s.wordData (a / 8 * 8) := by
      unfold State.wordData
      have : a / 8 * 8 / 8 * 8 = a / 8 * 8 := by omega
      rw [this]
    dsimp only
    rw [e, State.two_words _ _ (by omega), State.bytes_slice _ _ _ _ _ (by omega)]
    have : a / 8 * 8 + a % 8 = a := by omega
    rw [this]; rfl

/-- A merge of bytes into a word, bit by bit. -/
theorem mergeBytes_testBit (w o k v i : Nat) :
    (mergeBytes w o k v).testBit i = if 8 * o ≤ i ∧ i < 8 * (o + k) then v.testBit (i - 8 * o) else w.testBit i := by
  unfold mergeBytes
  have hl : natBits w 0 (8 * o) < 2 ^ (8 * o) := Nat.mod_lt _ (Nat.two_pow_pos _)
  have hm : natBits v 0 (8 * k) < 2 ^ (8 * k) := Nat.mod_lt _ (Nat.two_pow_pos _)
  have e1 : natBits w 0 (8 * o) + natBits v 0 (8 * k) * 2 ^ (8 * o) = 2 ^ (8 * o) * natBits v 0 (8 * k) ||| natBits w 0 (8 * o) := by
    rw [← Nat.two_pow_add_eq_or_of_lt hl, Nat.mul_comm (2 ^ (8 * o)), Nat.add_comm]
  have hlt : 2 ^ (8 * o) * natBits v 0 (8 * k) ||| natBits w 0 (8 * o) < 2 ^ (8 * (o + k)) := by
    rw [← e1, Nat.mul_add, Nat.pow_add]
    calc natBits w 0 (8 * o) + natBits v 0 (8 * k) * 2 ^ (8 * o) < 2 ^ (8 * o) + natBits v 0 (8 * k) * 2 ^ (8 * o) := by omega
      _ = (natBits v 0 (8 * k) + 1) * 2 ^ (8 * o) := by rw [Nat.add_mul]; omega
      _ ≤ 2 ^ (8 * k) * 2 ^ (8 * o) := Nat.mul_le_mul_right _ hm
      _ = 2 ^ (8 * o) * 2 ^ (8 * k) := Nat.mul_comm _ _
  have e2 : 2 ^ (8 * o) * natBits v 0 (8 * k) ||| natBits w 0 (8 * o) + w / 2 ^ (8 * (o + k)) * 2 ^ (8 * (o + k)) = 0 ∨ True := Or.inr trivial
  rw [e1]
  have e3 := Nat.two_pow_add_eq_or_of_lt hlt (w / 2 ^ (8 * (o + k)))
  rw [Nat.mul_comm (w / 2 ^ (8 * (o + k))), Nat.add_comm, e3, Nat.testBit_or, Nat.testBit_or, Nat.testBit_two_pow_mul, Nat.testBit_two_pow_mul,
    Nat.testBit_div_two_pow, natBits_testBit, natBits_testBit]
  by_cases h1 : i < 8 * o
  · have h2 : ¬(8 * (o + k) ≤ i) := by omega
    have h3 : ¬(8 * o ≤ i) := by omega
    simp [h1, h2, h3]
  · by_cases h2 : i < 8 * (o + k)
    · have h3 : 8 * o ≤ i := by omega
      have h4 : ¬(8 * (o + k) ≤ i) := by omega
      have h5 : i - 8 * o < 8 * k := by omega
      simp [h1, h2, h3, h4, h5]
    · have h3 : 8 * (o + k) ≤ i := by omega
      have h4 : ¬(i - 8 * o < 8 * k) := by omega
      have h5 : i - 8 * (o + k) + 8 * (o + k) = i := by omega
      simp [h1, h2, h3, h4, h5]

/-- A byte of a word in memory, bit by bit. -/
theorem State.wordData_byte (s : State) (a x j : Nat) (h : x / 8 = a / 8) (hj : j < 8) :
    (s.wordData a).testBit (8 * (x % 8) + j) = (s.byte x).getLsbD j := by
  unfold State.wordData
  rw [State.bytes_testBit]
  have h1 : (8 * (x % 8) + j) / 8 = x % 8 := by omega
  have h2 : (8 * (x % 8) + j) % 8 = j := by omega
  have h3 : a / 8 * 8 + x % 8 = x := by omega
  rw [h1, h2, h3]
  simp; omega

/-- The bytes a store of the low k bytes of v at a leaves. -/
def stored (s : State) (a k v x : Nat) : Byte := if a ≤ x ∧ x < a + k then BitVec.ofNat 8 (v / 256 ^ (x - a)) else s.byte x

/-- Bytes stored inside one word. -/
theorem State.byte_putMerge (s : State) (a k v x : Nat) (h : a % 8 + k ≤ 8) :
    (s.putWord a (mergeBytes (s.wordData a) (a % 8) k v)).byte x = stored s a k v x := by
  rw [State.byte_putWord]
  unfold stored
  by_cases hx : x / 8 = a / 8
  · rw [if_pos hx]
    apply BitVec.eq_of_getLsbD_eq
    intro j hj
    rw [byte_testBit _ _ _ hj, mergeBytes_testBit]
    by_cases h1 : a ≤ x ∧ x < a + k
    · rw [if_pos h1, if_pos (by omega), byte_testBit _ _ _ hj]
      congr 1; omega
    · rw [if_neg h1, if_neg (by omega), State.wordData_byte _ _ _ _ hx hj]
  · rw [if_neg hx, if_neg (by omega)]

/-- The cells at an address serve it alone: no weeding or graft of its bank moves or mirrors its accesses. -/
def State.straight (s : State) (a : Nat) : Prop :=
  s.phys a = a ∧ ∀ b, regionOf a = .store b → s.mirror b = none

theorem State.storeWord_straight (s : State) (a d : Nat) (h : s.straight a) : s.storeWord a d false = s.putWord a d := by
  unfold State.storeWord
  simp only [h.1, State.putFolded_self]
  split
  · rw [h.2 _ ‹_›]
  · rfl

theorem State.straight_regs {s t : State} (h : t.regs = s.regs) (a : Nat) (hs : s.straight a) : t.straight a := by
  have f : ∀ g, t.fget g = s.fget g := fun g => by unfold State.fget State.reg; rw [h]
  refine ⟨?_, ?_⟩
  · have := hs.1
    unfold State.phys State.serving at this ⊢
    simp only [f]; exact this
  · intro b hb
    have := hs.2 b hb
    unfold State.mirror at this ⊢
    simp only [f]; exact this

theorem State.regs_setBytes (s : State) (a : Nat) (bs : List Byte) : s.setBytes a bs = { s with mem := (s.setBytes a bs).mem } := by
  induction bs generalizing s a with
  | nil => rfl
  | cons b bs ih => rw [State.setBytes, ih]; rfl

/-- A word stored changes memory and syndromes only. -/
theorem State.putWord_eq (s : State) (a d : Nat) : s.putWord a d = { s with mem := (s.putWord a d).mem, syn := (s.putWord a d).syn } := by
  unfold State.putWord State.setSyn
  rw [State.regs_setBytes]

/-- What a store of the low k bytes of v at a leaves: those bytes, every other byte and every syndrome as before, and the rest of the
state. -/
structure Stores (s t : State) (a k v : Nat) : Prop where
  bytes : ∀ x, t.byte x = stored s a k v x
  syns : ∀ x, t.wordSyn x = s.wordSyn x
  rest : t = { s with mem := t.mem, syn := t.syn }

theorem State.writePart_straight (s : State) (a k v : Nat) (hk : a % 8 + k ≤ 8) (h : s.straight a) (h0 : s.wordSyn a = 0) :
    (s.writePart a k v).1 = false ∧ Stores s (s.writePart a k v).2 a k v := by
  have syn : ∀ d x, (s.putWord a d).wordSyn x = s.wordSyn x := by
    intro d x; rw [State.wordSyn_putWord]; split
    · unfold State.wordSyn at h0 ⊢; rw [‹x / 8 = a / 8›, h0]
    · rfl
  unfold State.writePart
  split
  · rename_i h8
    subst h8
    refine ⟨rfl, ?_, fun x => ?_, ?_⟩
    · intro x
      have ha : a % 8 = 0 := by omega
      have he : a / 8 * 8 = a := by omega
      show (s.storeWord a v false).byte x = _
      rw [State.storeWord_straight _ _ _ h, State.byte_putWord]
      unfold stored
      by_cases hx : x / 8 = a / 8
      · rw [if_pos hx, if_pos (by omega)]
        have : x - a = x % 8 := by omega
        rw [this]
      · rw [if_neg hx, if_neg (by omega)]
    · show (s.storeWord a v false).wordSyn x = _
      rw [State.storeWord_straight _ _ _ h]; exact syn v x
    · show s.storeWord a v false = _
      rw [State.storeWord_straight _ _ _ h]; exact State.putWord_eq _ _ _
  · rw [h.1, State.readCell_clean _ _ h0]
    simp only [Bool.false_eq_true, if_false]
    rw [State.storeWord_straight _ _ _ h]
    exact ⟨trivial, fun x => State.byte_putMerge _ _ _ _ _ hk, fun x => syn _ x, State.putWord_eq _ _ _⟩

/-- A write of at most 8 bytes to words whose check bits are valid. -/
theorem State.writeSpan_straight (s : State) (a k v : Nat) (hk : k ≤ 8) (h : s.straight a)
    (h0 : s.wordSyn a = 0) (h1 : a % 8 + k ≤ 8 ∨ s.straight (a / 8 * 8 + 8) ∧ s.wordSyn (a / 8 * 8 + 8) = 0) :
    (s.writeSpan a k v).1 = false ∧ Stores s (s.writeSpan a k v).2 a k v := by
  unfold State.writeSpan
  by_cases hw : a % 8 + k ≤ 8
  · rw [if_pos hw]; exact State.writePart_straight s a k v hw h h0
  · rw [if_neg hw, h.1, State.readCell_clean _ _ h0]
    obtain ⟨hq, hs⟩ := h1.resolve_left hw
    simp only [hq.1]
    rw [State.readCell_clean _ _ hs]
    simp only [Bool.or_self, Bool.false_eq_true, if_false]
    have e1 : s.storeWord a (mergeBytes (s.wordData a) (a % 8) (8 - a % 8) v) false = s.putWord a (mergeBytes (s.wordData a) (a % 8) (8 - a % 8) v) :=
      State.storeWord_straight _ _ _ h
    rw [e1]
    generalize hu : s.putWord a (mergeBytes (s.wordData a) (a % 8) (8 - a % 8) v) = u
    have er : u = { s with mem := u.mem, syn := u.syn } := by rw [← hu]; exact State.putWord_eq _ _ _
    have hq' : u.straight (a / 8 * 8 + 8) := State.straight_regs (by rw [er]) _ hq
    rw [State.storeWord_straight _ _ _ hq']
    have ub : ∀ x, u.byte x = stored s a (8 - a % 8) v x := by
      intro x; rw [← hu]; exact State.byte_putMerge _ _ _ _ _ (by omega)
    have us : ∀ x, u.wordSyn x = s.wordSyn x := by
      intro x; rw [← hu, State.wordSyn_putWord]; split
      · unfold State.wordSyn at h0 ⊢; rw [‹x / 8 = a / 8›, h0]
      · rfl
    have wd : s.wordData (a / 8 * 8 + 8) = u.wordData (a / 8 * 8 + 8) := by
      apply Nat.eq_of_testBit_eq
      intro i
      unfold State.wordData
      rw [State.bytes_testBit, State.bytes_testBit, ub]
      unfold stored
      by_cases hi : i / 8 < 8
      · rw [if_neg (by omega)]
      · simp [hi]
    refine ⟨trivial, ?_, ?_, ?_⟩
    · intro x
      have := State.byte_putMerge u (a / 8 * 8 + 8) (k - (8 - a % 8)) (v / 2 ^ (8 * (8 - a % 8))) x (by omega)
      have e0 : (a / 8 * 8 + 8) % 8 = 0 := by omega
      rw [e0] at this
      rw [wd, this]
      unfold stored
      by_cases h2 : a / 8 * 8 + 8 ≤ x ∧ x < a / 8 * 8 + 8 + (k - (8 - a % 8))
      · rw [if_pos h2, if_pos (by omega)]
        have : (256 : Nat) = 2 ^ 8 := rfl
        rw [this, ← Nat.pow_mul, ← Nat.pow_mul, Nat.div_div_eq_div_mul, ← Nat.pow_add]
        congr 3; omega
      · rw [if_neg h2, ub]
        unfold stored
        by_cases h3 : a ≤ x ∧ x < a + (8 - a % 8)
        · rw [if_pos h3, if_pos (by omega)]
        · rw [if_neg h3, if_neg (by omega)]
    · intro x
      rw [State.wordSyn_putWord]; split
      · rw [← us] at hs
        unfold State.wordSyn at hs ⊢
        unfold State.wordSyn at us
        rename_i hx
        have := us x
        rw [hx] at this ⊢
        rw [← this, hs]
      · exact us x
    · generalize hz : u.putWord (a / 8 * 8 + 8) (mergeBytes (s.wordData (a / 8 * 8 + 8)) 0 (k - (8 - a % 8)) (v / 2 ^ (8 * (8 - a % 8)))) = z
      have ez : z = { u with mem := z.mem, syn := z.syn } := by rw [← hz]; exact State.putWord_eq _ _ _
      rw [ez, er]

end Sys2Proof.Machine
end

