-- ==== Sys2Proof/Laws/Accesses.lean ====
section
/-!
SUPPORT. Accesses to sound bytes complete: what a load reads, what a store changes, and the checks of a segment that admits an access.
-/
namespace Sys2Proof.Machine

open Sys2Proof

theorem region_store_inv {a b : Nat} (h : regionOf a = .store b) :
    (0x4000000000 ≤ a ∧ a < 0x4000800000 ∧ b = a % 0x800000 / 0x40000) ∨ (b = 32 ∧ 0x4000800000 ≤ a ∧ a < 0x4000840000) ∨
    (b = 33 ∧ 0x4001000000 ≤ a ∧ a < 0x4001020000) ∨ (b = 34 ∧ 0x4001020000 ≤ a ∧ a < 0x4001040000) := by
  unfold regionOf at h
  split at h
  · cases h
  · split at h
    · cases h; exact Or.inl ⟨by omega, by omega, rfl⟩
    · split at h
      · cases h; exact Or.inr (Or.inl ⟨rfl, by omega, by omega⟩)
      · split at h
        · cases h; exact Or.inr (Or.inr (Or.inl ⟨rfl, by omega, by omega⟩))
        · split at h
          · cases h; exact Or.inr (Or.inr (Or.inr ⟨rfl, by omega, by omega⟩))
          · repeat' (split at h)
            all_goals cases h

theorem region_dram_inv {a : Nat} (h : regionOf a = .dram) : a < 0x2000000000 := by
  unfold regionOf at h
  repeat' (split at h)
  · assumption
  all_goals cases h

theorem region_dram {a : Nat} (h : a < 0x2000000000) : regionOf a = .dram := by
  unfold regionOf; rw [if_pos h]

theorem region_bank {a : Nat} (h1 : 0x4000000000 ≤ a) (h2 : a < 0x4000800000) : regionOf a = .store (a % 0x800000 / 0x40000) := by
  unfold regionOf; rw [if_neg (by omega), if_pos ⟨h1, h2⟩]

theorem region_nursery {a : Nat} (h1 : 0x4000800000 ≤ a) (h2 : a < 0x4000840000) : regionOf a = .store 32 := by
  unfold regionOf; rw [if_neg (by omega), if_neg (by omega), if_pos ⟨h1, h2⟩]

theorem region_cold0 {a : Nat} (h1 : 0x4001000000 ≤ a) (h2 : a < 0x4001020000) : regionOf a = .store 33 := by
  unfold regionOf; rw [if_neg (by omega), if_neg (by omega), if_neg (by omega), if_pos ⟨h1, h2⟩]

theorem region_cold1 {a : Nat} (h1 : 0x4001020000 ≤ a) (h2 : a < 0x4001040000) : regionOf a = .store 34 := by
  unfold regionOf; rw [if_neg (by omega), if_neg (by omega), if_neg (by omega), if_neg (by omega), if_pos ⟨h1, h2⟩]

/-- The bytes of one word of DRAM or of a store are in one region. -/

theorem region_word {a b : Nat} (h : b / 8 = a / 8) (hr : regionOf a = .dram ∨ ∃ k, regionOf a = .store k) : regionOf b = regionOf a := by
  rcases hr with hr | ⟨k, hr⟩
  · have := region_dram_inv hr
    rw [hr, region_dram (by omega)]
  · rw [hr]
    rcases region_store_inv hr with ⟨h1, h2, h3⟩ | ⟨rfl, h1, h2⟩ | ⟨rfl, h1, h2⟩ | ⟨rfl, h1, h2⟩
    · rw [region_bank (by omega) (by omega), h3]
      congr 1; omega
    · exact region_nursery (by omega) (by omega)
    · exact region_cold0 (by omega) (by omega)
    · exact region_cold1 (by omega) (by omega)

theorem bankPruned_idle (s : State) (b : Nat) (h : b < 32 → s.fget (BANK_STAT.WEED b) = weedIDLE) : s.bankPruned b = false := by
  unfold State.bankPruned
  by_cases hb : b < 32
  · simp [h hb, weedIDLE, weedPRUNED]
  · simp [hb]

theorem storeBase_region {a b : Nat} (h : regionOf a = .store b) : storeBase b ≤ a := by
  rcases region_store_inv h with ⟨h1, h2, h3⟩ | ⟨rfl, h1, h2⟩ | ⟨rfl, h1, h2⟩ | ⟨rfl, h1, h2⟩
  · have hb : b < 32 := by omega
    unfold storeBase; rw [if_pos hb]; omega
  · show 0x4000800000 ≤ a; exact h1
  · show 0x4001000000 ≤ a; exact h1
  · show 0x4001020000 ≤ a; exact h1

theorem straight_of {s : State} {a : Nat} (h : regionOf a = .dram ∨ ∃ b, regionOf a = .store b ∧ (b < 32 → s.fget (BANK_STAT.WEED b) = weedIDLE)) :
    s.straight a := by
  rcases h with h | ⟨b, h, hw⟩
  · refine ⟨?_, ?_⟩
    · unfold State.phys; rw [h]
    · intro b hb; rw [h] at hb; cases hb
  · refine ⟨?_, ?_⟩
    · unfold State.phys; rw [h]
      have : s.serving b = b := by
        unfold State.serving
        dsimp only
        split
        · rename_i q; rw [hw q.1] at q; simp [weedIDLE, weedREMAPPED, weedBACK, weedGRAFTED] at q
        · rfl
      simp only [this, moveStore]
      have := storeBase_region h
      omega
    · intro c hc
      rw [h] at hc; cases hc
      unfold State.mirror
      by_cases hb : 32 ≤ b
      · simp [hb]
      · simp [hb, hw (by omega), weedIDLE, weedCOPY, weedBACK]

/-- What an access to sound bytes relies on. -/

theorem sound_straight {s : State} {n : Dealer} {a k : Nat} (h : s.Sound n a k) (hk : 0 < k ∧ k ≤ 8) :
    s.straight a ∧ s.wordSyn a = 0 ∧ (a % 8 + k ≤ 8 ∨ s.straight (a / 8 * 8 + 8) ∧ s.wordSyn (a / 8 * 8 + 8) = 0) := by
  have hr : regionOf a = .dram ∨ ∃ b, regionOf a = .store b ∧ (b < 32 → s.fget (BANK_STAT.WEED b) = weedIDLE) := by
    rcases h.admits with q | ⟨b, q, _, w⟩
    · exact Or.inl q.1
    · exact Or.inr ⟨b, q, w⟩
  refine ⟨straight_of hr, by simpa using h.valid 0 hk.1, ?_⟩
  by_cases hs : a % 8 + k ≤ 8
  · exact Or.inl hs
  · right
    have e1 : (a / 8 * 8 + 8) / 8 = (a + k - 1) / 8 := by omega
    have hr' : regionOf (a + k - 1) = .dram ∨ ∃ b, regionOf (a + k - 1) = .store b := by
      rw [h.whole]; rcases hr with q | ⟨b, q, _⟩
      · exact Or.inl q
      · exact Or.inr ⟨b, q⟩
    have e2 : regionOf (a / 8 * 8 + 8) = regionOf a := (region_word e1 hr').trans h.whole
    refine ⟨straight_of (by rw [e2]; exact hr), ?_⟩
    have := h.valid (a / 8 * 8 + 8 - a) (by omega)
    have e3 : a + (a / 8 * 8 + 8 - a) = a / 8 * 8 + 8 := by omega
    rwa [e3] at this

theorem dramStatus_dealer {s : State} {n : Dealer} {a : Nat} {w : Bool} (h : s.fget DRAM_STAT.TRAIN = 2 ∧ s.fget DRAM_STAT.SREF = 0 ∧ s.inImageCopy a = false) :
    s.dramStatus (.dealer n) a w = stOK := by
  unfold State.dramStatus
  rw [if_neg (by rw [h.1, h.2.1]; simp), h.2.2]; rfl

theorem dramSpan_dealer {s : State} {n : Dealer} {a k : Nat} {w : Bool}
    (h : s.fget DRAM_STAT.TRAIN = 2 ∧ s.fget DRAM_STAT.SREF = 0 ∧ s.inImageCopy a = false ∧ s.inImageCopy (a + k - 1) = false) :
    s.dramSpan (.dealer n) a k w = stOK := by
  unfold State.dramSpan
  rw [if_pos (dramStatus_dealer ⟨h.1, h.2.1, h.2.2.1⟩), dramStatus_dealer ⟨h.1, h.2.1, h.2.2.2⟩]

/-- What stands in an access's way is said by the registers and the held tags alone. -/
theorem pathTurns_regs {s t : State} (h : t.regs = s.regs) (hg : t.tags = s.tags) (ag : Agent) (a : Nat) : t.pathTurns ag a = s.pathTurns ag a := by
  have f : ∀ g, t.fget g = s.fget g := fun g => by unfold State.fget State.reg; rw [h]
  have hp : t.portTurns = s.portTurns := by
    funext q; simp only [State.portTurns, State.portDown, State.fbit, f]; rfl
  have ha : t.agentPort ag = s.agentPort ag := by
    cases ag <;> simp only [State.agentPort, f]
  have hs : t.servedAt a = s.servedAt a := by simp only [State.servedAt, f]
  have ho : t.offTrellis ag a = s.offTrellis ag a := by simp only [State.offTrellis, State.storeOwner, f]
  have hn : t.nextTag = s.nextTag := by
    funext r l; simp only [State.nextTag, State.tag, f, hg]
  have hl : t.tagless ag = s.tagless ag := by simp only [State.tagless, ha, hn, f]
  have hw : ∀ d j r, t.way false d j r = s.way false d j r := by
    intro d j
    induction j with
    | zero => intro r; rfl
    | succ j ih => intro r; simp only [State.way, State.routeEntry, f, ih, Bool.false_eq_true, if_false]
  have hy : ∀ q, t.wayTo ag q = s.wayTo ag q := by intro q; simp only [State.wayTo, ha, hw]
  have hm : t.ownTurns ag = s.ownTurns ag := by simp only [State.ownTurns, ha, hp]
  simp only [State.pathTurns, hp, hs, ho, hl, hy, hm]

/- An access that nothing turns away goes to its target, in one. -/

theorem splitTurned_clear {s : State} {ag : Agent} {a k : Nat} (hk : 0 < k) (h : ∀ i, i < k → s.pathTurns ag (a + i) = none) :
    s.splitTurned ag a k = false := by
  have h0 : s.pathTurns ag a = none := by simpa using h 0 hk
  unfold State.splitTurned
  by_cases hb : firstPacket a k < k
  · rw [h0, h _ hb]; simp
  · simp [hb]

theorem accessWaits_clear {s : State} {ag : Agent} {a k : Nat} (hk : 0 < k) (h : ∀ i, i < k → s.pathTurns ag (a + i) = none) :
    s.accessWaits ag a k = false := by
  have h0 : s.pathTurns ag a = none := by simpa using h 0 hk
  unfold State.accessWaits
  by_cases hb : firstPacket a k < k
  · rw [h0, h _ hb, Bool.or_eq_false_iff]; exact ⟨rfl, by rw [Bool.and_eq_false_iff]; exact Or.inr rfl⟩
  · simp only [hb, decide_false, Bool.false_and, Bool.or_false, h0]; rfl

theorem pathRead_clear {s : State} {ag : Agent} {a k : Nat} (hk : 0 < k) (h : ∀ i, i < k → s.pathTurns ag (a + i) = none) :
    s.pathRead ag a k = s.busRead ag a k := by
  unfold State.pathRead
  rw [splitTurned_clear hk h, if_neg (by simp)]
  unfold State.packetRead
  rw [show s.pathTurns ag a = none by simpa using h 0 hk]

theorem pathWrite_clear {s : State} {ag : Agent} {a k v : Nat} (hk : 0 < k) (h : ∀ i, i < k → s.pathTurns ag (a + i) = none) :
    s.pathWrite ag a k v = s.busWrite ag a k v := by
  unfold State.pathWrite
  rw [splitTurned_clear hk h, if_neg (by simp)]
  unfold State.packetWrite
  rw [show s.pathTurns ag a = none by simpa using h 0 hk]

theorem sound_memRead {s : State} {n : Dealer} {a k : Nat} (h : s.Sound n a k) (hk : 0 < k ∧ k ≤ 8) :
    s.memRead (.dealer n) a k = (stOK, natOfBytes (s.bytes a k), s) := by
  obtain ⟨h1, h2, h3⟩ := sound_straight h hk
  have hs := State.readSpan_clean s a k hk.2 h1.1 h2 (h3.imp id (fun q => ⟨q.1.1, q.2⟩))
  have hw := h.whole
  unfold State.memRead
  rcases h.admits with q | ⟨b, q, st, w⟩
  · rw [q.1] at hw
    simp only [q.1, hw, ne_eq, not_true_eq_false, if_false, dramSpan_dealer q.2, hs]
    rfl
  · rw [q] at hw
    simp only [q, hw, ne_eq, not_true_eq_false, if_false, bankPruned_idle s b w, st, hs]
    rfl

theorem sound_memWrite {s : State} {n : Dealer} {a k v : Nat} (h : s.Sound n a k) (hk : 0 < k ∧ k ≤ 8) :
    (s.memWrite (.dealer n) a k v).1 = stOK ∧ Stores s (s.memWrite (.dealer n) a k v).2 a k v := by
  obtain ⟨h1, h2, h3⟩ := sound_straight h hk
  have hs := State.writeSpan_straight s a k v hk.2 h1 h2 h3
  have hw := h.whole
  unfold State.memWrite
  rcases h.admits with q | ⟨b, q, st, w⟩
  · rw [q.1] at hw
    simp only [q.1, hw, ne_eq, not_true_eq_false, if_false, dramSpan_dealer q.2, hs.1]
    exact ⟨rfl, hs.2⟩
  · rw [q] at hw
    simp only [q, hw, ne_eq, not_true_eq_false, if_false, bankPruned_idle s b w, st, hs.1]
    exact ⟨rfl, hs.2⟩

theorem sound_notRegs {s : State} {n : Dealer} {a k : Nat} (h : s.Sound n a k) (o : Nat) : regionOf a ≠ .regs o := by
  rcases h.admits with q | ⟨b, q, _⟩
  · rw [q.1]; simp
  · rw [q]; simp

theorem sound_busRead {s : State} {n : Dealer} {a k : Nat} (h : s.Sound n a k) (hk : 0 < k ∧ k ≤ 8) :
    s.busRead (.dealer n) a k = (stOK, natOfBytes (s.bytes a k), s) := by
  unfold State.busRead
  split
  · exact absurd ‹_› (sound_notRegs h _)
  · exact sound_memRead h hk

theorem sound_busWrite {s : State} {n : Dealer} {a k v : Nat} (h : s.Sound n a k) (hk : 0 < k ∧ k ≤ 8) :
    (s.busWrite (.dealer n) a k v).1 = stOK ∧ Stores s (s.busWrite (.dealer n) a k v).2 a k v := by
  unfold State.busWrite
  split
  · exact absurd ‹_› (sound_notRegs h _)
  · exact sound_memWrite h hk

theorem sound_pathRead {s : State} {n : Dealer} {a k : Nat} (h : s.Sound n a k) (hk : 0 < k ∧ k ≤ 8) :
    s.pathRead (.dealer n) a k = (stOK, natOfBytes (s.bytes a k), s) := by
  rw [pathRead_clear hk.1 h.clear]
  exact sound_busRead h hk

theorem sound_pathWrite {s : State} {n : Dealer} {a k v : Nat} (h : s.Sound n a k) (hk : 0 < k ∧ k ≤ 8) :
    (s.pathWrite (.dealer n) a k v).1 = stOK ∧ Stores s (s.pathWrite (.dealer n) a k v).2 a k v := by
  rw [pathWrite_clear hk.1 h.clear]
  exact sound_busWrite h hk

theorem phys_deal (s : State) (a : Nat) (h : 0x4200400000 ≤ a) : s.phys a = a := by
  unfold State.phys
  split
  · rename_i b hb
    exfalso
    rcases region_store_inv hb with ⟨h1, h2, h3⟩ | ⟨rfl, h1, h2⟩ | ⟨rfl, h1, h2⟩ | ⟨rfl, h1, h2⟩ <;> omega
  · rfl

/-- A load through a segment that reaches sound bytes. -/

theorem segRead_loads {s : State} {n : Dealer} {x : Desc} {off : Int} {k : Nat} (h : s.Loads n x off k) (hk : 0 < k ∧ k ≤ 8) :
    s.segRead n x off.toNat k = (stOK, natOfBytes (s.bytes (descAddr n x off) k), s) := by
  unfold State.segRead descAddr
  unfold State.Loads descAddr at h
  rcases h with ⟨hx, hv⟩ | ⟨hx, hs⟩
  · simp only [hx, if_true] at hv ⊢
    have hb : 0x4200400000 ≤ dealBase n := by unfold dealBase; omega
    rw [State.readSpan_clean _ _ _ hk.2 (phys_deal s _ (by omega)) (by simpa using hv 0 hk.1)]
    · rfl
    · by_cases q : (dealBase n + (Desc.base x + off.toNat)) % 8 + k ≤ 8
      · exact Or.inl q
      · right
        refine ⟨phys_deal s _ (by omega), ?_⟩
        generalize dealBase n + (Desc.base x + off.toNat) = a at *
        have := hv (a / 8 * 8 + 8 - a) (by omega)
        have e3 : a + (a / 8 * 8 + 8 - a) = a / 8 * 8 + 8 := by omega
        rwa [e3] at this
  · have hne : Desc.space x ≠ spCODE := by rcases hx with e | e <;> rw [e] <;> decide
    simp only [if_neg hne, Nat.zero_add] at hs ⊢
    exact sound_pathRead hs hk

theorem segWaits_loads {s : State} {n : Dealer} {x : Desc} {off : Int} {k : Nat} (h : s.Loads n x off k) (hk : 0 < k) :
    s.segWaits n x off.toNat k = false := by
  unfold State.segWaits
  unfold State.Loads descAddr at h
  rcases h with ⟨hx, _⟩ | ⟨hx, hs⟩
  · rw [hx]; rfl
  · have hne : Desc.space x ≠ spCODE := by rcases hx with e | e <;> rw [e] <;> decide
    simp only [if_neg hne, Nat.zero_add] at hs
    rw [accessWaits_clear hk hs.clear, Bool.and_false]

theorem segChecks_none {x : Desc} {sg : Nat} {off : Int} {k : Nat} {rd wr : Bool} (h : Segment.Admits x off k rd wr) (c : Bool × Trap) (r : Bool × Trap)
    (hc : c.1 = false) (hr : r.1 = false) : firstTrap (c :: segChecks x sg off k rd wr false ++ [r]) = none := by
  obtain ⟨c1, c2⟩ := c
  obtain ⟨r1, r2⟩ := r
  simp only at hc hr
  subst hc hr
  have h1 : (rd && !Desc.rda x) = false := by
    cases rd
    · rfl
    · simp [h.reads rfl]
  have h2 : (wr && !Desc.wra x) = false := by
    cases wr
    · rfl
    · simp [h.writes rfl]
  have h3 : (decide (off < 0) || decide ((Desc.limit x : Int) < off + k - 1)) = false := by
    have := h.low; have := h.high
    simp; omega
  simp [segChecks, firstTrap, h.present, h1, h2, h3]

theorem memReserved_of_wordMem {op : SOp} (h : wordMem op) : memReserved op = false := by
  rcases h with e | e <;> simp [memReserved, SOp.hasExt, e]

/-- A load that completes, to a W or F register. -/

theorem runLoad_next {n : Dealer} {opc : Nat} {op : SOp} {s : State} {k : Nat} {bad : Bool} (write : State → Nat → State) (h : s.Ready n op) (hw : wordMem op)
    (hb : bad = false) (ha : Segment.Admits (s.rdSG n op.sg) (s.memOffset n op) k true false) (hl : s.Loads n (s.rdSG n op.sg) (s.memOffset n op) k)
    (hk : 0 < k ∧ k ≤ 8) :
    runLoad n opc op s k bad false write = .next ((write s (natOfBytes (s.bytes (descAddr n (s.rdSG n op.sg) (s.memOffset n op)) k))).advance n op
      (s.loadCost n (s.rdSG n op.sg) (s.memOffset n op).toNat k)) := by
  unfold runLoad
  dsimp only
  rw [runScalar_next _ h.runs]
  · simp only [Bool.false_eq_true, if_false, segWaits_loads hl hk.1, segRead_loads hl hk, if_true]
  · exact segChecks_none ha _ _ (by simp [memReserved_of_wordMem hw, hb]) (endTrap_of_ready h)

theorem runStore_next {n : Dealer} {opc : Nat} {op : SOp} {s : State} {k : Nat} {bad : Bool} {v : State → Nat} {i : Instr} (h : s.Ready n op) (hw : wordMem op)
    (he : exec i s = runStore n opc op s k bad v)
    (hb : bad = false) (ha : Segment.Admits (s.rdSG n op.sg) (s.memOffset n op) k false true)
    (hx : Desc.space (s.rdSG n op.sg) = spDRAM ∨ Desc.space (s.rdSG n op.sg) = spSCRATCH)
    (hl : s.Sound n (descAddr n (s.rdSG n op.sg) (s.memOffset n op)) k) (hk : 0 < k ∧ k ≤ 8) :
    ∃ t, exec i s = .next t ∧ s.StoresTo n op (descAddr n (s.rdSG n op.sg) (s.memOffset n op)) k (v s) t := by
  have hne : Desc.space (s.rdSG n op.sg) ≠ spCODE := by rcases hx with e | e <;> rw [e] <;> decide
  have ea : descAddr n (s.rdSG n op.sg) (s.memOffset n op) = Desc.base (s.rdSG n op.sg) + (s.memOffset n op).toNat := by
    unfold descAddr; rw [if_neg hne, Nat.zero_add]
  rw [ea] at hl ⊢
  have hs := sound_pathWrite (v := v s) hl hk
  unfold runStore at he
  dsimp only at he
  rw [runScalar_next _ h.runs (segChecks_none ha _ _ (by simp [memReserved_of_wordMem hw, hb]) (endTrap_of_ready h))] at he
  unfold State.segWrite State.segWaits at he
  rw [accessWaits_clear hk.1 hl.clear, Bool.and_false, if_neg (by simp), if_pos hs.1] at he
  refine ⟨_, he, ?_⟩
  generalize (s.pathWrite (.dealer n) (Desc.base (s.rdSG n op.sg) + (s.memOffset n op).toNat) k (v s)).2 = u at hs ⊢
  obtain ⟨h1, h2, h3⟩ := hs.2
  have eb : ∀ m j, u.bankAt m j = s.bankAt m j := by intro m j; rw [h3]; rfl
  have el : u.lvl n = s.lvl n := by rw [h3]; rfl
  have ebk : u.bank n = s.bank n := by unfold State.bank; rw [el, eb]
  constructor
  · intro i hi
    show u.byte _ = _
    rw [h1]; unfold stored; rw [if_pos (by omega)]
    congr 3; omega
  · intro x hx
    show u.byte x = _
    rw [h1]; unfold stored; rw [if_neg (by omega)]
  · exact h2
  · intro o; show u.reg o = _; rw [h3]; rfl
  · rw [State.bank_advance, ebk, nextPc_bank ebk]
  · intro j hj; rw [State.bankAt_advance _ _ _ _ _ _ (Or.inr (by rw [el]; exact hj)), eb]
  · rw [State.advance_msp]; rw [h3]; rfl
  · intro m hm; rw [State.advance_dl _ _ _ _ _ hm]; rw [h3]; rfl

theorem sound_of_stores {s t : State} {n : Dealer} {a k b j v : Nat} (h : Stores s t a k v) (hs : s.Sound n b j) : t.Sound n b j := by
  have hr : t.regs = s.regs := by rw [h.rest]
  have f : ∀ g, t.fget g = s.fget g := fun g => by unfold State.fget State.reg; rw [hr]
  have hg : t.tags = s.tags := by rw [h.rest]
  refine ⟨hs.whole, ?_, fun i hi => by rw [pathTurns_regs hr hg]; exact hs.clear i hi, fun i hi => by rw [h.syns]; exact hs.valid i hi⟩
  rcases hs.admits with q | ⟨c, q1, q2, q3⟩
  · left
    refine ⟨q.1, by rw [f]; exact q.2.1, by rw [f]; exact q.2.2.1, ?_⟩
    have := q.2.2.2
    unfold State.inImageCopy at this ⊢
    simp only [f]; exact this
  · right
    refine ⟨c, q1, ?_, by rw [f]; exact q3⟩
    rw [← q2]
    unfold State.storeStatus State.storeOwner State.ownerAdmits
    simp only [f]

/-- Context stores to sound bytes: every one lands. -/

theorem ctxWrite_sound {n : Dealer} {z : Nat} (hz : 0 < z ∧ z ≤ 8) (vs : List Nat) (s : State) (a : Nat)
    (h : ∀ i, i < vs.length → s.Sound n (a + z * i) z) :
    let r := s.ctxWrite n (stores a z vs)
    r.1 = true ∧ (∀ i j, (hi : i < vs.length) → j < z → r.2.byte (a + z * i + j) = BitVec.ofNat 8 (vs[i] / 256 ^ j)) ∧
      (∀ x, (x < a ∨ a + z * vs.length ≤ x) → r.2.byte x = s.byte x) ∧ (∀ x, r.2.wordSyn x = s.wordSyn x) ∧
      r.2 = { s with mem := r.2.mem, syn := r.2.syn } := by
  induction vs generalizing s a with
  | nil =>
    refine ⟨rfl, ?_, fun _ _ => rfl, fun _ => rfl, rfl⟩
    intro i j hi; simp at hi
  | cons v vs ih =>
    have e : stores a z (v :: vs) = (a, z, v) :: stores (a + z) z vs := rfl
    intro r
    have hw := sound_memWrite (v := v) (by simpa using h 0 (by simp)) hz
    have er : r = (s.memWrite (.dealer n) a z v).2.ctxWrite n (stores (a + z) z vs) := by
      show s.ctxWrite n (stores a z (v :: vs)) = _
      rw [e, State.ctxWrite]; rw [if_pos hw.1]
    generalize (s.memWrite (.dealer n) a z v).2 = u at hw er
    have i2 := ih u (a + z) (fun i hi => by
      have := sound_of_stores hw.2 (h (i + 1) (by simpa using hi))
      have e2 : a + z * (i + 1) = a + z + z * i := by rw [Nat.mul_add]; omega
      rwa [e2] at this)
    rw [← er] at i2
    obtain ⟨i1, i2, i3, i4, i5⟩ := i2
    refine ⟨i1, ?_, ?_, ?_, ?_⟩
    · intro i j hi hj
      cases i with
      | zero =>
        rw [i3 _ (by left; simp; omega), hw.2.bytes]
        unfold stored
        rw [if_pos (by simp; omega)]
        simp only [List.getElem_cons_zero]
        congr 3; simp
      | succ i =>
        have e2 : a + z * (i + 1) + j = a + z + z * i + j := by rw [Nat.mul_add]; omega
        rw [e2, i2 i j (by simpa using hi) hj]; rfl
    · intro x hx
      rw [List.length_cons, Nat.mul_add] at hx
      rw [i3 x (by omega), hw.2.bytes]
      unfold stored; rw [if_neg (by omega)]
    · intro x; rw [i4, hw.2.syns]
    · rw [i5]; conv => lhs; rw [hw.2.rest]

theorem natBit_add_pow (x i j : Nat) (q : Nat) (hq : x / 2 ^ i = q) (r : Nat) (h : r / 2 = q / 2) :
    natBit (x % 2 ^ i + 2 ^ i * r) j = if j = i then r % 2 == 1 else natBit x j := by
  have hl : x % 2 ^ i < 2 ^ i := Nat.mod_lt _ (Nat.two_pow_pos i)
  have hx : x = 2 ^ i * q + x % 2 ^ i := by rw [← hq]; exact (Nat.div_add_mod x (2 ^ i)).symm
  rw [natBit_testBit, natBit_testBit, Nat.add_comm, Nat.testBit_two_pow_mul_add _ hl]
  by_cases h1 : j = i
  · subst h1
    rw [if_neg (by omega), if_pos rfl]
    simp [Nat.testBit_eq_decide_div_mod_eq]
    by_cases h0 : r % 2 = 1 <;> simp [h0]
  · rw [if_neg h1]
    conv => rhs; rw [hx, Nat.testBit_two_pow_mul_add _ hl]
    by_cases h2 : j < i
    · rw [if_pos h2, if_pos h2]
    · rw [if_neg h2, if_neg h2]
      obtain ⟨m, hm⟩ : ∃ m, j - i = m + 1 := ⟨j - i - 1, by omega⟩
      rw [hm, Nat.testBit_succ, Nat.testBit_succ, h]

theorem setNatBit_natBit (x i j : Nat) (b : Bool) : natBit (setNatBit x i b) j = if j = i then b else natBit x j := by
  have hx : x = x % 2 ^ i + 2 ^ i * (x / 2 ^ i) := (Nat.mod_add_div x (2 ^ i)).symm
  have hb : natBit x i = (x / 2 ^ i % 2 == 1) := rfl
  have hp := Nat.two_pow_pos i
  unfold setNatBit
  by_cases h : natBit x i = true
  · rw [if_pos h]
    rw [hb] at h
    have h' : x / 2 ^ i % 2 = 1 := by simpa using h
    cases b
    · have e : x - 2 ^ i = x % 2 ^ i + 2 ^ i * (x / 2 ^ i - 1) := by
        have : 2 ^ i * (x / 2 ^ i) = 2 ^ i * (x / 2 ^ i - 1) + 2 ^ i := by
          obtain ⟨m, hm⟩ : ∃ m, x / 2 ^ i = m + 1 := ⟨x / 2 ^ i - 1, by revert h'; generalize x / 2 ^ i = q; omega⟩
          rw [hm]; simp [Nat.mul_add]
        omega
      simp only [Bool.false_eq_true, if_false]
      rw [e, natBit_add_pow x i j _ rfl _ (by revert h'; generalize x / 2 ^ i = q; omega)]
      have : ((x / 2 ^ i - 1) % 2 == 1) = false := by revert h'; generalize x / 2 ^ i = q; intro h'; simp; omega
      rw [this]
    · simp only [if_true]
      split
      · subst_vars; rw [hb]; exact h
      · rfl
  · rw [if_neg h]
    rw [hb] at h
    have h' : x / 2 ^ i % 2 = 0 := by revert h; generalize x / 2 ^ i = q; intro h; simp at h; omega
    cases b
    · simp only [Bool.false_eq_true, if_false]
      split
      · subst_vars; rw [hb, h']; rfl
      · rfl
    · have e : x + 2 ^ i = x % 2 ^ i + 2 ^ i * (x / 2 ^ i + 1) := by rw [Nat.mul_add]; omega
      simp only [if_true]
      rw [e, natBit_add_pow x i j _ rfl _ (by revert h'; generalize x / 2 ^ i = q; omega)]
      have : ((x / 2 ^ i + 1) % 2 == 1) = true := by revert h'; generalize x / 2 ^ i = q; intro h'; simp; omega
      rw [this]

theorem ofSigned_info (off : Int) : BitVec.ofNat 32 (ofSigned 32 off) = BitVec.ofInt 32 off := by
  rw [ofSigned_eq, BitVec.ofNat_toNat, BitVec.setWidth_eq]

theorem runLoad_eq (n : Dealer) (opc : Nat) (op : SOp) (s : State) (k : Nat) (bad toF : Bool) (write : State → Nat → State) :
    ∃ eff, runLoad n opc op s k bad toF write = runScalar n op s (firstTrap ((memReserved op || bad, illReserved (op.word 1 opc)) ::
      segChecks (s.rdSG n op.sg) op.sg (s.memOffset n op) k true false false ++ [s.endTrap n op])) eff := by
  unfold runLoad; exact ⟨_, rfl⟩

theorem runStore_eq (n : Dealer) (opc : Nat) (op : SOp) (s : State) (k : Nat) (bad : Bool) (v : State → Nat) :
    ∃ eff, runStore n opc op s k bad v = runScalar n op s (firstTrap ((memReserved op || bad, illReserved (op.word 1 opc)) ::
      segChecks (s.rdSG n op.sg) op.sg (s.memOffset n op) k false true false ++ [s.endTrap n op])) eff := by
  unfold runStore; exact ⟨_, rfl⟩

theorem aadd_eq (n : Dealer) (op : SOp) (s : State) :
    ∃ eff, execAadd n op s = runScalar n op s (firstTrap ((memReserved op, illReserved (op.word 1 0x30)) ::
      segChecks (s.rdSG n op.sg) op.sg (s.memOffset n op) 4 true true (decide (1 < Desc.space (s.rdSG n op.sg)) || decide (s.memOffset n op % 4 ≠ 0)) ++
      [s.endTrap n op])) eff := by
  unfold execAadd; exact ⟨_, rfl⟩

/-- The first trap of the checks of an access. -/

theorem segChecks_traps {x : Desc} {sg : Nat} {off : Int} {k : Nat} {rd wr also : Bool} (c : Bool × Trap) (l : List (Bool × Trap)) (hc : c.1 = false) :
    (Desc.present x = false → firstTrap (c :: segChecks x sg off k rd wr also ++ l) = some { code := 6, info := BitVec.ofInt 32 off, seg := sg }) ∧
    (Desc.present x = true → (rd = true ∧ Desc.rda x = false) ∨ (wr = true ∧ Desc.wra x = false) ∨ also = true →
      firstTrap (c :: segChecks x sg off k rd wr also ++ l) = some { code := 5, info := BitVec.ofInt 32 off, seg := sg }) ∧
    (Desc.present x = true → (rd = true → Desc.rda x = true) → (wr = true → Desc.wra x = true) → also = false →
      off < 0 ∨ (Desc.limit x : Int) < off + k - 1 →
      firstTrap (c :: segChecks x sg off k rd wr also ++ l) = some { code := 4, info := BitVec.ofInt 32 off, seg := sg }) := by
  obtain ⟨c1, c2⟩ := c
  simp only at hc
  subst hc
  refine ⟨fun h => ?_, fun h h2 => ?_, fun h h2 h3 h4 h5 => ?_⟩
  · simp [segChecks, firstTrap, h, ofSigned_info, trapSegAbsent]
  · have e : ((rd && !Desc.rda x) || (wr && !Desc.wra x) || also) = true := by
      rcases h2 with ⟨a, b⟩ | ⟨a, b⟩ | a
      · simp [a, b]
      · simp [a, b]
      · simp [a]
    simp [segChecks, firstTrap, h, e, ofSigned_info, trapSegRights]
  · have e : ((rd && !Desc.rda x) || (wr && !Desc.wra x) || also) = false := by
      cases rd <;> cases wr <;> simp_all
    have e2 : (decide (off < 0) || decide ((Desc.limit x : Int) < off + k - 1)) = true := by
      rcases h5 with q | q <;> simp [q]
    simp [segChecks, firstTrap, h, e, e2, ofSigned_info, trapSegLimit]

theorem mem_traps {n : Dealer} {op : SOp} {s : State} {i : Instr} {code : Nat} {info : Word} {sg : Nat} {chk : Option Trap} {eff : State → State}
    (h : s.executes n) (he : exec i s = runScalar n op s chk eff) (hc : chk = some { code := code, info := info, seg := sg }) (hn : code ≠ 10) :
    ∃ t, exec i s = .next t ∧ TrapTaken n code info sg op.ext.isSome (s.bank n).fpc s t := by
  refine ⟨_, he.trans (runScalar_trap _ h hc), ?_⟩
  exact trap_taken s n { code := code, info := info, seg := sg } op.hasExt hn

theorem mem_setReg (s : State) (o : Nat) (v : Word) : (s.setReg o v).mem = s.mem := rfl

theorem mem_fset (s : State) (f : Fld) (v : Nat) : (s.fset f v).mem = s.mem := rfl

theorem mem_bump (s : State) (f : Fld) (k : Nat) : (s.bump f k).mem = s.mem := rfl

theorem mem_report (s : State) (r : Report) : (s.report r).mem = s.mem := rfl

theorem mem_event (s : State) (e : Nat) : (s.event e).mem = s.mem := (sameMem_event e (SameMem.refl s)).1

theorem bytes_absorb (s : State) (r : Nat) : (s.absorb r).mem = s.mem := by
  unfold State.absorb; rw [mem_event, mem_bump]

theorem mem_errLog (s : State) (o k p q y a : Nat) : (s.errLog o k p q y a).mem = s.mem := by
  unfold State.errLog; dsimp only; split <;> rw [mem_bump, mem_setReg, mem_setReg, mem_setReg]

theorem mem_planeReport (s : State) (a p : Nat) : (s.planeReport a p).mem = s.mem := by
  unfold State.planeReport; rw [mem_report]

theorem mem_dramReports (s : State) (a : Nat) (k : Kind) : (s.dramReports a k).mem = s.mem := by
  unfold State.dramReports
  cases k <;> dsimp only
  · rw [mem_report]
  · split <;> simp only [mem_report]
  · rw [mem_report]

theorem mem_reportCell (s : State) (c a y : Nat) (k : Kind) : (s.reportCell c a y k).mem = s.mem := by
  unfold State.reportCell
  dsimp only
  repeat' split
  all_goals first
    | (rw [mem_event, mem_dramReports, mem_errLog])
    | (rw [mem_report, mem_errLog])
    | (rw [mem_report])
    | (rw [mem_planeReport, mem_planeReport])
    | (rw [mem_planeReport])
    | rfl

theorem mem_readCell (s : State) (c a : Nat) : (s.readCell c a).2.2.mem = s.mem := mem_reportCell _ _ _ _ _

theorem mem_readSpan (s : State) (a k : Nat) : (s.readSpan a k).2.2.mem = s.mem := by
  unfold State.readSpan
  dsimp only
  split
  · exact mem_readCell _ _ _
  · dsimp only; rw [mem_readCell, mem_readCell]

/-- A read changes no byte. -/

theorem mem_memRead (s : State) (ag : Agent) (a k : Nat) (h : regionOf a = .dram ∨ ∃ b, regionOf a = .store b) : (s.memRead ag a k).2.2.mem = s.mem := by
  unfold State.memRead
  rcases h with h | ⟨b, h⟩ <;> simp only [h]
  · split
    · rfl
    · split
      · split <;> exact mem_readSpan _ _ _
      · rfl
  · split
    · rfl
    · split
      · exact bytes_absorb _ _
      · split
        · split <;> exact mem_readSpan _ _ _
        · rfl

theorem mem_writeSpan_poison (s : State) (a k v : Nat) (h : (s.writeSpan a k v).1 = true) : (s.writeSpan a k v).2.mem = s.mem := by
  unfold State.writeSpan at h ⊢
  dsimp only at h ⊢
  split at h
  · rename_i hk
    rw [if_pos hk]
    unfold State.writePart at h ⊢
    dsimp only at h ⊢
    split at h
    · exact absurd h (by simp)
    · rename_i h8
      rw [if_neg h8]
      split at h
      · rename_i hu; rw [if_pos hu]; exact mem_readCell _ _ _
      · exact absurd h (by simp)
  · rename_i hk
    rw [if_neg hk]
    split at h
    · rename_i hu; rw [if_pos hu]; dsimp only; rw [mem_readCell, mem_readCell]
    · exact absurd h (by simp)

/-- A write that is not answered OK changes no byte (R326). -/

theorem mem_memWrite (s : State) (ag : Agent) (a k v : Nat) (h : regionOf a = .dram ∨ ∃ b, regionOf a = .store b)
    (hf : (s.memWrite ag a k v).1 ≠ stOK) : (s.memWrite ag a k v).2.mem = s.mem := by
  have fin : ∀ r : Bool × State, (if r.1 = true then (stPOISON, r.2) else (stOK, r.2)).1 ≠ stOK → r.1 = true := by
    intro r hr
    split at hr
    · assumption
    · simp at hr
  unfold State.memWrite at hf ⊢
  rcases h with h | ⟨b, h⟩ <;> simp only [h] at hf ⊢
  · split
    · rfl
    · rename_i hr
      rw [if_neg hr] at hf
      split
      · rename_i hz
        rw [hz] at hf
        have := fin _ hf
        rw [if_pos this]
        exact mem_writeSpan_poison _ _ _ _ this
      · rfl
  · split
    · rfl
    · rename_i hr
      rw [if_neg hr] at hf
      split
      · exact bytes_absorb _ _
      · rename_i hp
        rw [if_neg hp] at hf
        split
        · rename_i hz
          rw [hz] at hf
          have := fin _ hf
          rw [if_pos this]
          exact mem_writeSpan_poison _ _ _ _ this
        · rfl

theorem setAE (w : Word) : putField w 4 1 1 = w ||| 0x10 := by
  apply BitVec.eq_of_getLsbD_eq; intro i hi
  show (putField w 4 1 1).toNat.testBit i = _
  rw [putField_testBit _ _ _ _ _ hi]
  simp only [BitVec.getLsbD_or]
  by_cases h : i = 4
  · subst h; simp
  · rw [if_neg (by omega)]
    have : BitVec.getLsbD (16 : Word) i = false := by revert h; revert i; decide
    rw [this]; simp; rfl

/-- An event of a source below 320 routed to a level is pending after it is asserted. -/

theorem event_pending (s : State) (e : Nat) (he : e < 512) (h : s.fget (EVT_ROUTE.KIND e) = 1) : (s.event e).fget (bitFld (EVT_PEND.reg 0) e) = 1 := by
  have hl : (bitFld (EVT_PEND.reg 0) e).lo + (bitFld (EVT_PEND.reg 0) e).wid ≤ 32 := by show e % 32 + 1 ≤ 32; omega
  unfold State.event
  simp only [h]
  split
  · rename_i hp
    unfold State.bump
    have ho : (bitFld (EVT_PEND.reg 0) e).off ≠ EVT_MERGE.COUNT.off := by
      show 0x30800 + 0x4 * 0 + 4 * (e / 32) ≠ 0x30840; omega
    rw [State.fget_fset_other _ _ _ _ hl (Or.inl ho)]; exact hp
  · rw [State.fget_fset_same _ _ _ hl]; rfl

theorem fset_dealers (s : State) (f : Fld) (v : Nat) : (s.fset f v).dealers = s.dealers := rfl

theorem fsets_fget_other (s : State) (l : List (Fld × Nat)) (g : Fld) (hg : g.lo + g.wid ≤ 32)
    (h : ∀ p ∈ l, g.off ≠ p.1.off ∨ g.lo + g.wid ≤ p.1.lo ∨ p.1.lo + p.1.wid ≤ g.lo) : (s.fsets l).fget g = s.fget g := by
  unfold State.fsets
  induction l generalizing s with
  | nil => rfl
  | cons a l ih =>
    simp only [List.foldl_cons]
    rw [ih _ (fun p hp => h p (List.mem_cons_of_mem _ hp)), State.fget_fset_other _ _ _ _ hg (h a List.mem_cons_self)]

/-- A field that is set and then left alone by the rest of the list. -/

theorem fsets_fget (s : State) (l r : List (Fld × Nat)) (g : Fld) (v : Nat) (hg : g.lo + g.wid ≤ 32)
    (h : ∀ p ∈ r, g.off ≠ p.1.off ∨ g.lo + g.wid ≤ p.1.lo ∨ p.1.lo + p.1.wid ≤ g.lo) :
    (s.fsets (l ++ (g, v) :: r)).fget g = v % 2 ^ g.wid := by
  have e : s.fsets (l ++ (g, v) :: r) = ((s.fsets l).fset g v).fsets r := by
    unfold State.fsets; rw [List.foldl_append]; rfl
  rw [e, fsets_fget_other _ _ _ hg h, State.fget_fset_same _ _ _ hg]

theorem accessError_parts (s : State) (n : Dealer) (status a seg : Nat) (wr : Bool) :
    let t := s.accessError n status a seg wr
    t.bank n = { s.bank n with st := (s.bank n).st ||| 0x10 } ∧ t.lvl n = s.lvl n ∧ t.mem = s.mem ∧
    t.fget (ACCSTAT.STATUS n) = status % 2 ^ 8 ∧ t.fget (ACCSTAT.SEG n) = seg % 2 ^ 3 ∧ t.fget (ACCSTAT.WR n) = (if wr then 1 else 0) ∧
    t.fget (ACCSTAT.LEVEL n) = (s.lvl n).val ∧ t.fget (ACCADDR_LO.ADDR_LO n) = a % 2 ^ 32 ∧ t.fget (ACCADDR_HI.ADDR_HI n) = a / 2 ^ 32 % 2 ^ 16 ∧
    (s.fget (EVT_ROUTE.KIND (64 + 8 * n.val)) = 1 → t.fget (bitFld (EVT_PEND.reg 0) (64 + 8 * n.val)) = 1) ∧
    t.dealers = (s.setSt n (putField (s.st n) 4 1 1)).dealers := by
  have hn : n.val < 4 := n.isLt
  intro t
  have hL : (s.setSt n (putField (s.st n) 4 1 1)).lvl n = s.lvl n := rfl
  have oS : (ACCSTAT.STATUS n).off = 0x1000e4 + 0x10000 * n.val := rfl
  have oG : (ACCSTAT.SEG n).off = 0x1000e4 + 0x10000 * n.val := rfl
  have oW : (ACCSTAT.WR n).off = 0x1000e4 + 0x10000 * n.val := rfl
  have oV : (ACCSTAT.LEVEL n).off = 0x1000e4 + 0x10000 * n.val := rfl
  have oA : (ACCADDR_LO.ADDR_LO n).off = 0x1000e8 + 0x10000 * n.val := rfl
  have oB : (ACCADDR_HI.ADDR_HI n).off = 0x1000ec + 0x10000 * n.val := rfl
  have oR : (EVT_ROUTE.KIND (64 + 8 * n.val)).off = 0x30000 + 0x4 * (64 + 8 * n.val) := rfl
  let u := s.setSt n (putField (s.st n) 4 1 1)
  let l : List (Fld × Nat) := [(ACCSTAT.STATUS n, status), (ACCSTAT.SEG n, seg), (ACCSTAT.WR n, b2n wr), (ACCSTAT.LEVEL n, (s.lvl n).val),
    (ACCADDR_LO.ADDR_LO n, a), (ACCADDR_HI.ADDR_HI n, a / 2 ^ 32)]
  have ht : t = (u.fsets l).event (64 + 8 * n.val + 0) := rfl
  have hq : Quiet (u.fsets l) t := quiet_event _ (by omega) (Quiet.refl _)
  have hd : t.dealers = u.dealers := by rw [hq.1, State.fsets_eq]
  have hcur : t.fget (LVLSTAT.CUR n) = s.fget (LVLSTAT.CUR n) := by
    have oC : (LVLSTAT.CUR n).off = 0x100110 + 0x10000 * n.val := rfl
    rw [hq.fget _ (by rw [oC]; omega) (by rw [oC]; omega), fsets_fget_other _ _ _ (Nat.le_of_ble_eq_true rfl)]
    · exact fget_of_regs rfl _
    · intro p hp
      simp only [l, List.mem_cons, List.not_mem_nil, or_false] at hp
      left
      rcases hp with rfl | rfl | rfl | rfl | rfl | rfl <;> simp only [oC, oS, oG, oW, oV, oA, oB] <;> omega
  have hlvl : t.lvl n = s.lvl n := by unfold State.lvl; rw [hcur]
  have f : ∀ g : Fld, 0x100000 ≤ g.off → g.off < 0x140000 → t.fget g = (u.fsets l).fget g := fun g h1 h2 => hq.fget g h1 h2
  refine ⟨?_, hlvl, ?_, ?_, ?_, ?_, ?_, ?_, ?_, ?_, hd⟩
  · unfold State.bank
    rw [hlvl]
    have : t.bankAt n (s.lvl n) = u.bankAt n (s.lvl n) := by unfold State.bankAt State.dl; rw [hd]
    rw [this]
    show State.bankAt (s.setBankAt n (s.lvl n) _) n (s.lvl n) = _
    rw [State.bankAt_setBankAt_same]
    show ({ s.bank n with st := putField (s.st n) 4 1 1 } : Bank) = _
    rw [setAE]; rfl
  · rw [ht, mem_event, State.fsets_eq]; rfl
  · rw [f _ (by rw [oS]; omega) (by rw [oS]; omega)]
    refine fsets_fget u [] _ _ _ (Nat.le_of_ble_eq_true rfl) ?_
    intro p hp
    simp only [List.mem_cons, List.not_mem_nil, or_false] at hp
    rcases hp with rfl | rfl | rfl | rfl | rfl
    · exact Or.inr (Or.inl (Nat.le_of_ble_eq_true rfl))
    · exact Or.inr (Or.inl (Nat.le_of_ble_eq_true rfl))
    · exact Or.inr (Or.inl (Nat.le_of_ble_eq_true rfl))
    · left; simp only [oS, oA]; omega
    · left; simp only [oS, oB]; omega
  · rw [f _ (by rw [oG]; omega) (by rw [oG]; omega)]
    refine fsets_fget u [_] _ _ _ (Nat.le_of_ble_eq_true rfl) ?_
    intro p hp
    simp only [List.mem_cons, List.not_mem_nil, or_false] at hp
    rcases hp with rfl | rfl | rfl | rfl
    · exact Or.inr (Or.inl (Nat.le_of_ble_eq_true rfl))
    · exact Or.inr (Or.inl (Nat.le_of_ble_eq_true rfl))
    · left; simp only [oG, oA]; omega
    · left; simp only [oG, oB]; omega
  · rw [f _ (by rw [oW]; omega) (by rw [oW]; omega)]
    have : (if wr then 1 else 0) = b2n wr % 2 ^ (ACCSTAT.WR n).wid := by cases wr <;> rfl
    rw [this]
    refine fsets_fget u [_, _] _ _ _ (Nat.le_of_ble_eq_true rfl) ?_
    intro p hp
    simp only [List.mem_cons, List.not_mem_nil, or_false] at hp
    rcases hp with rfl | rfl | rfl
    · exact Or.inr (Or.inl (Nat.le_of_ble_eq_true rfl))
    · left; simp only [oW, oA]; omega
    · left; simp only [oW, oB]; omega
  · rw [f _ (by rw [oV]; omega) (by rw [oV]; omega)]
    have : (s.lvl n).val = (s.lvl n).val % 2 ^ (ACCSTAT.LEVEL n).wid := (Nat.mod_eq_of_lt (s.lvl n).isLt).symm
    rw [this]
    refine fsets_fget u [_, _, _] _ _ _ (Nat.le_of_ble_eq_true rfl) ?_
    intro p hp
    simp only [List.mem_cons, List.not_mem_nil, or_false] at hp
    rcases hp with rfl | rfl
    · left; simp only [oV, oA]; omega
    · left; simp only [oV, oB]; omega
  · rw [f _ (by rw [oA]; omega) (by rw [oA]; omega)]
    refine fsets_fget u [_, _, _, _] _ _ _ (Nat.le_of_ble_eq_true rfl) ?_
    intro p hp
    simp only [List.mem_cons, List.not_mem_nil, or_false] at hp
    rcases hp with rfl
    left; simp only [oA, oB]; omega
  · rw [f _ (by rw [oB]; omega) (by rw [oB]; omega)]
    refine fsets_fget u [_, _, _, _, _] _ _ _ (Nat.le_of_ble_eq_true rfl) ?_
    intro p hp; simp at hp
  · intro hk
    rw [ht]
    refine event_pending _ _ (by omega) ?_
    rw [Nat.add_zero, fsets_fget_other _ _ _ (Nat.le_of_ble_eq_true rfl)]
    · rw [← hk]; exact fget_of_regs rfl _
    · intro p hp
      simp only [l, List.mem_cons, List.not_mem_nil, or_false] at hp
      left
      rcases hp with rfl | rfl | rfl | rfl | rfl | rfl <;> simp only [oR, oS, oG, oW, oV, oA, oB] <;> omega

/-- The end of an access that failed: from the state `u` that the access left, the access error, at most the W registers `ws` and the F
registers `fs` of the bank, and the next word. -/
theorem accessFailed_of {n : Dealer} {op : SOp} {u : State} {status a seg c : Nat} {wr : Bool} {ws fs : List Nat} {b : Bank}
    (hb : b = { (u.accessError n status a seg wr).bank n with w := b.w, f := b.f })
    (hw : ∀ r, r < 32 → r ∉ ws → ((u.accessError n status a seg wr).setBank n b).rdW n r = u.rdW n r)
    (hf : ∀ r, r < 16 → r ∉ fs → ((u.accessError n status a seg wr).setBank n b).rdF n r = u.rdF n r) :
    u.AccessFailed n op status a seg wr ws fs (((u.accessError n status a seg wr).setBank n b).advance n op c) := by
  obtain ⟨p1, p2, p3, p4, p5, p6, p7, p8, p9, p10, p11⟩ := accessError_parts u n status a seg wr
  generalize hwd : u.accessError n status a seg wr = w at *
  let y := w.setBank n b
  have yb : y.bank n = b := State.bankAt_setBankAt_same _ _ _ _
  have wl : w.lvl n = u.lvl n := p2
  have hpc : y.nextPc n op = u.nextPc n op := by
    have : (y.bank n).pc = (u.bank n).pc := by rw [yb, hb, p1]
    simp only [State.nextPc, State.pc, this]
  have tb : (y.advance n op c).bank n = { b with pc := BitVec.ofNat 32 (u.nextPc n op) } := by rw [State.bank_advance, yb, hpc]
  have ft : ∀ g, (y.advance n op c).fget g = w.fget g := fun g => fget_of_regs rfl g
  have wd : ∀ m, w.dl m = (u.setSt n (putField (u.st n) 4 1 1)).dl m := fun m => by unfold State.dl; rw [p11]
  refine ⟨?_, ?_, ?_, ?_, ?_, ?_, ?_, ?_, ?_, ?_, ?_, ?_, ?_, ?_⟩
  · show (y.advance n op c).bank n = { u.bank n with
      w := ((y.advance n op c).bank n).w, f := ((y.advance n op c).bank n).f, st := u.st n ||| 0x10, pc := BitVec.ofNat 32 (u.nextPc n op) }
    rw [tb, hb, p1]; rfl
  · intro r h1 h2
    rw [← hw r h1 h2]
    show (y.advance n op c).rdW n r = y.rdW n r
    simp only [State.rdW, tb, yb]
  · intro r h1 h2
    rw [← hf r h1 h2]
    show (y.advance n op c).rdF n r = y.rdF n r
    simp only [State.rdF, tb, yb]
  · intro k hk
    show (y.advance n op c).bankAt n k = _
    rw [State.bankAt_advance _ _ _ _ _ _ (Or.inr (by show k ≠ w.lvl n; rw [wl]; exact hk))]
    show (w.setBankAt n (w.lvl n) b).bankAt n k = _
    rw [State.bankAt_setBankAt_level _ _ _ (by rw [wl]; exact hk)]
    unfold State.bankAt
    rw [wd]
    exact State.bankAt_setBankAt_level _ _ _ hk
  · show ((y.advance n op c).dl n).msp = _
    rw [State.advance_msp]
    show ((w.setBankAt n (w.lvl n) b).dl n).msp = _
    simp only [State.setBankAt, State.dl_setDl_same, wd, State.setSt, State.setBank]
  · intro m hm
    show (y.advance n op c).dl m = _
    rw [State.advance_dl _ _ _ _ _ hm]
    show (w.setDl n _).dl m = _
    rw [State.dl_setDl_other _ _ hm, wd]
    exact State.dl_setDl_other _ _ hm
  · exact (ft _).trans p4
  · exact (ft _).trans p5
  · exact (ft _).trans p6
  · exact (ft _).trans p7
  · exact (ft _).trans p8
  · exact (ft _).trans p9
  · intro h; exact (ft _).trans (p10 h)
  · intro x
    have : (y.advance n op c).mem = u.mem := p3
    show (y.advance n op c).byte x = _
    unfold State.byte; rw [this]

theorem quiet_route {s u : State} (h : Quiet s u) (n : Dealer) : u.fget (EVT_ROUTE.KIND (64 + 8 * n.val)) = s.fget (EVT_ROUTE.KIND (64 + 8 * n.val)) := by
  have hn : n.val < 4 := n.isLt
  have oR : (EVT_ROUTE.KIND (64 + 8 * n.val)).off = 0x30000 + 0x4 * (64 + 8 * n.val) := rfl
  unfold State.fget
  rw [h.3 _ (by rw [oR]; omega) (by rw [oR]; omega)]

theorem busRead_mem {s : State} {n : Dealer} {a k : Nat} (h : regionOf a = .dram ∨ ∃ b, regionOf a = .store b) :
    s.busRead (.dealer n) a k = s.memRead (.dealer n) a k := by
  unfold State.busRead
  split
  · rename_i o ho; rcases h with q | ⟨b, q⟩ <;> rw [ho] at q <;> cases q
  · rfl

theorem busWrite_mem {s : State} {n : Dealer} {a k v : Nat} (h : regionOf a = .dram ∨ ∃ b, regionOf a = .store b) :
    s.busWrite (.dealer n) a k v = s.memWrite (.dealer n) a k v := by
  unfold State.busWrite
  split
  · rename_i o ho; rcases h with q | ⟨b, q⟩ <;> rw [ho] at q <;> cases q
  · rfl

theorem pathRead_mem {s : State} {n : Dealer} {a k : Nat} (h : regionOf a = .dram ∨ ∃ b, regionOf a = .store b)
    (hk : 0 < k) (hc : ∀ i, i < k → s.pathTurns (.dealer n) (a + i) = none) : s.pathRead (.dealer n) a k = s.memRead (.dealer n) a k :=
  (pathRead_clear hk hc).trans (busRead_mem h)

theorem pathWrite_mem {s : State} {n : Dealer} {a k v : Nat} (h : regionOf a = .dram ∨ ∃ b, regionOf a = .store b)
    (hk : 0 < k) (hc : ∀ i, i < k → s.pathTurns (.dealer n) (a + i) = none) : s.pathWrite (.dealer n) a k v = s.memWrite (.dealer n) a k v :=
  (pathWrite_clear hk hc).trans (busWrite_mem h)

theorem setDl_setDl (s : State) (n : Dealer) (d e : DealerCore) : (s.setDl n d).setDl n e = s.setDl n e := by
  unfold State.setDl
  have : (s.dealers.set n d).set n e = s.dealers.set n e := Vector.set_set _ _
  simp [this]

theorem setBank_setBank (s : State) (n : Dealer) (a b : Bank) : (s.setBank n a).setBank n b = s.setBank n b := by
  unfold State.setBank
  rw [State.lvl_setBankAt]
  unfold State.setBankAt
  rw [State.dl_setDl_same, setDl_setDl]
  have : ((s.dl n).banks.set (s.lvl n) a).set (s.lvl n) b = (s.dl n).banks.set (s.lvl n) b := Vector.set_set _ _
  simp only [this]

theorem setPc_only {n : Dealer} {s : State} (b : Bank) (c v : Nat) :
    s.OnlyBank n { b with pc := BitVec.ofNat 32 v } (((s.setBank n b).setPc n v).charge n c) := by
  refine onlyBank_charge ?_
  unfold State.setPc
  rw [State.bank_setBank, setBank_setBank]

theorem setBank_self (s : State) (n : Dealer) : s.setBank n (s.bank n) = s := by
  unfold State.setBank State.setBankAt State.setDl State.bank State.bankAt
  have h1 : (s.dl n).banks.set (s.lvl n) ((s.dl n).banks.get (s.lvl n)) = (s.dl n).banks := Vector.set_getElem_self _
  rw [h1]
  have h2 : s.dealers.set n (s.dl n) = s.dealers := Vector.set_getElem_self _
  show { s with dealers := s.dealers.set n (s.dl n) } = s
  rw [h2]

theorem wrW_bank (s : State) (n : Dealer) (r : Nat) (v : Word) (c p : Nat) :
    s.OnlyBank n { s.bank n with w := if r = 0 then (s.bank n).w else (s.bank n).w.set (Fin.ofNat 32 r) v, pc := BitVec.ofNat 32 p }
      (((s.wrW n r v).setPc n p).charge n c) := by
  obtain ⟨h1, h2, h3, h4, h5, h6⟩ := wrW_float s n r v
  have hu : s.wrW n r v = (s.wrW n r v).setBank n ((s.wrW n r v).bank n) := (setBank_self _ _).symm
  have := setPc_only (n := n) (s := s.wrW n r v) ((s.wrW n r v).bank n) c p
  rw [← hu, h1] at this
  constructor
  · exact this.1
  · intro k hk; rw [this.2 k (by rw [h3]; exact hk)]; exact h2 n k (Or.inr hk)
  · rw [this.3, h5]
  · intro m hm; rw [this.4 m hm, h4 m hm]
  · intro a; rw [this.5 a, h6]; rfl
  · intro a; rw [this.6 a, h6]; rfl
  · intro o; rw [this.7 o, h6]; rfl

theorem goto_bank (s : State) (n : Dealer) (c p : Nat) :
    s.OnlyBank n { s.bank n with pc := BitVec.ofNat 32 p } ((s.setPc n p).charge n c) := by
  have := setPc_only (n := n) (s := s) (s.bank n) c p
  rwa [setBank_self] at this

theorem badTarget_iff (t : Int) : badTarget t = false ↔ (0 ≤ t ∧ t ≤ 0x3FFFC ∧ t % 4 = 0) := by
  unfold badTarget; simp; omega

theorem nextPc_noext {s : State} {n : Dealer} {op : SOp} (h : op.ext = none) : s.nextPc n op = s.pc n + 4 := by
  simp [State.nextPc, SOp.extN, SOp.hasExt, h, b2n]

theorem regReserved_iff (op : SOp) : regReserved op true false false = true ↔ ¬wordReg op := by
  have e : op.fld 0 8 = 0 ↔ op.fld 0 1 = 0 ∧ op.c = 0 ∧ op.fmt = 0 := by
    unfold SOp.c SOp.fmt SOp.fld natBits; omega
  unfold wordReg
  rw [e]
  cases ho : op.ext <;> simp [regReserved, SOp.hasExt, ho]
  constructor
  · rintro ((h | h) | h) a b
    · exact absurd a h
    · exact absurd b h
    · exact h
  · intro h
    by_cases a : op.fld 0 1 = 0
    · by_cases b : op.c = 0
      · exact Or.inr (h a b)
      · exact Or.inl (Or.inr b)
    · exact Or.inl (Or.inl a)

theorem runReg_eq (n : Dealer) (opc : Nat) (op : SOp) (s : State) (cost : Nat) (f : Nat → Nat → Word → Option (Nat × Word)) :
    ∃ eff l, runReg n opc op s cost f = runScalar n op s (firstTrap ((regReserved op true false false, illReserved (op.word 0 opc)) :: s.endTrap n op :: l)) eff := by
  unfold runReg; exact ⟨_, [], rfl⟩

theorem runDiv_eq (n : Dealer) (opc : Nat) (op : SOp) (s : State) (f : Nat → Nat → Nat) :
    ∃ eff, runDiv n opc op s f = runScalar n op s (firstTrap ((regReserved op true false false, illReserved (op.word 0 opc)) :: s.endTrap n op :: [])) eff := by
  unfold runDiv; exact ⟨_, rfl⟩

/-- A division by zero takes trap DIV_ZERO after its own count (R125, R126). -/
theorem runDiv_zero {n : Dealer} {opc : Nat} {op : SOp} {s : State} {f : Nat → Nat → Nat} (h : s.Ready n op) (hw : wordReg op) (hb : s.rdW n op.b = 0) :
    ∃ t, runDiv n opc op s f = .next t ∧ TrapTaken n 12 (s.rdW n op.a) 0 false (s.bank n).fpc s t := by
  unfold runDiv
  rw [runScalar_next _ h.runs]
  · refine ⟨_, rfl, ?_⟩
    rw [if_pos hb]
    have := lateTrap_taken s n op 34 { code := trapDivZero, info := s.rdW n op.a } (by simp [trapDivZero, trapSaveExhausted])
    have hx : op.hasExt = false := by simp [SOp.hasExt, hw.1]
    rwa [hx] at this
  · simp [firstTrap, regReserved_of_wordReg hw, endTrap_of_ready h]

theorem words_eq (n : Dealer) (op : SOp) (s : State) : ∀ p ∈ [(Instr.add n op, 0), (.addc n op, 1), (.sub n op, 2), (.subb n op, 3), (.and n op, 4), (.or n op, 5),
      (.xor n op, 6), (.andn n op, 7), (.shl n op, 8), (.shru n op, 9), (.shrs n op, 10), (.mul n op, 11), (.divu n op, 14), (.divs n op, 15),
      (.remu n op, 16), (.rems n op, 17), (.sltu n op, 19), (.slts n op, 20)],
    ∃ eff l, exec p.1 s = runScalar n op s (firstTrap ((regReserved op true false false, illReserved (op.word 0 p.2)) :: s.endTrap n op :: l)) eff := by
  have D : ∀ opc f, ∃ eff l, runDiv n opc op s f = runScalar n op s (firstTrap ((regReserved op true false false, illReserved (op.word 0 opc)) :: s.endTrap n op :: l)) eff := by
    intro opc f; obtain ⟨eff, e⟩ := runDiv_eq n opc op s f; exact ⟨eff, _, e⟩
  have hadd : ∃ eff l, execAdd n op s = runScalar n op s (firstTrap ((regReserved op true false false, illReserved (op.word 0 0)) :: s.endTrap n op :: l)) eff := by unfold execAdd; exact runReg_eq n 0 op s _ _
  have haddc : ∃ eff l, execAddc n op s = runScalar n op s (firstTrap ((regReserved op true false false, illReserved (op.word 0 1)) :: s.endTrap n op :: l)) eff := by unfold execAddc; exact runReg_eq n 1 op s _ _
  have hsub : ∃ eff l, execSub n op s = runScalar n op s (firstTrap ((regReserved op true false false, illReserved (op.word 0 2)) :: s.endTrap n op :: l)) eff := by unfold execSub; exact runReg_eq n 2 op s _ _
  have hsubb : ∃ eff l, execSubb n op s = runScalar n op s (firstTrap ((regReserved op true false false, illReserved (op.word 0 3)) :: s.endTrap n op :: l)) eff := by unfold execSubb; exact runReg_eq n 3 op s _ _
  have hand : ∃ eff l, execAnd n op s = runScalar n op s (firstTrap ((regReserved op true false false, illReserved (op.word 0 4)) :: s.endTrap n op :: l)) eff := by unfold execAnd; exact runReg_eq n 4 op s _ _
  have hor : ∃ eff l, execOr n op s = runScalar n op s (firstTrap ((regReserved op true false false, illReserved (op.word 0 5)) :: s.endTrap n op :: l)) eff := by unfold execOr; exact runReg_eq n 5 op s _ _
  have hxor : ∃ eff l, execXor n op s = runScalar n op s (firstTrap ((regReserved op true false false, illReserved (op.word 0 6)) :: s.endTrap n op :: l)) eff := by unfold execXor; exact runReg_eq n 6 op s _ _
  have handn : ∃ eff l, execAndn n op s = runScalar n op s (firstTrap ((regReserved op true false false, illReserved (op.word 0 7)) :: s.endTrap n op :: l)) eff := by unfold execAndn; exact runReg_eq n 7 op s _ _
  have hshl : ∃ eff l, execShl n op s = runScalar n op s (firstTrap ((regReserved op true false false, illReserved (op.word 0 8)) :: s.endTrap n op :: l)) eff := by unfold execShl; exact runReg_eq n 8 op s _ _
  have hshru : ∃ eff l, execShru n op s = runScalar n op s (firstTrap ((regReserved op true false false, illReserved (op.word 0 9)) :: s.endTrap n op :: l)) eff := by unfold execShru; exact runReg_eq n 9 op s _ _
  have hshrs : ∃ eff l, execShrs n op s = runScalar n op s (firstTrap ((regReserved op true false false, illReserved (op.word 0 10)) :: s.endTrap n op :: l)) eff := by unfold execShrs; exact runReg_eq n 10 op s _ _
  have hmul : ∃ eff l, execMul n op s = runScalar n op s (firstTrap ((regReserved op true false false, illReserved (op.word 0 11)) :: s.endTrap n op :: l)) eff := by unfold execMul; exact runReg_eq n 11 op s _ _
  have hdivu : ∃ eff l, execDivu n op s = runScalar n op s (firstTrap ((regReserved op true false false, illReserved (op.word 0 14)) :: s.endTrap n op :: l)) eff := by unfold execDivu; exact D 14 _
  have hdivs : ∃ eff l, execDivs n op s = runScalar n op s (firstTrap ((regReserved op true false false, illReserved (op.word 0 15)) :: s.endTrap n op :: l)) eff := by unfold execDivs; exact D 15 _
  have hremu : ∃ eff l, execRemu n op s = runScalar n op s (firstTrap ((regReserved op true false false, illReserved (op.word 0 16)) :: s.endTrap n op :: l)) eff := by unfold execRemu; exact D 16 _
  have hrems : ∃ eff l, execRems n op s = runScalar n op s (firstTrap ((regReserved op true false false, illReserved (op.word 0 17)) :: s.endTrap n op :: l)) eff := by unfold execRems; exact D 17 _
  have hsltu : ∃ eff l, execSltu n op s = runScalar n op s (firstTrap ((regReserved op true false false, illReserved (op.word 0 19)) :: s.endTrap n op :: l)) eff := by unfold execSltu; exact runReg_eq n 19 op s _ _
  have hslts : ∃ eff l, execSlts n op s = runScalar n op s (firstTrap ((regReserved op true false false, illReserved (op.word 0 20)) :: s.endTrap n op :: l)) eff := by unfold execSlts; exact runReg_eq n 20 op s _ _
  exact List.forall_mem_cons.2 ⟨hadd, List.forall_mem_cons.2 ⟨haddc, List.forall_mem_cons.2 ⟨hsub, List.forall_mem_cons.2 ⟨hsubb, List.forall_mem_cons.2 ⟨hand, List.forall_mem_cons.2 ⟨hor, List.forall_mem_cons.2 ⟨hxor, List.forall_mem_cons.2 ⟨handn, List.forall_mem_cons.2 ⟨hshl, List.forall_mem_cons.2 ⟨hshru, List.forall_mem_cons.2 ⟨hshrs, List.forall_mem_cons.2 ⟨hmul, List.forall_mem_cons.2 ⟨hdivu, List.forall_mem_cons.2 ⟨hdivs, List.forall_mem_cons.2 ⟨hremu, List.forall_mem_cons.2 ⟨hrems, List.forall_mem_cons.2 ⟨hsltu, List.forall_mem_cons.2 ⟨hslts, fun _ h => absurd h List.not_mem_nil⟩⟩⟩⟩⟩⟩⟩⟩⟩⟩⟩⟩⟩⟩⟩⟩⟩⟩

theorem elemLoad_ok {s : State} {n : Dealer} {sg r k : Nat} (h : s.Loads n (s.rdSG n sg) (s.rdW n r).toNat k) (hk : 0 < k ∧ k ≤ 8) :
    s.elemLoad n sg r k = (false, natOfBytes (s.bytes (descAddr n (s.rdSG n sg) (s.rdW n r).toNat) k), s) := by
  have := segRead_loads h hk
  rw [Int.toNat_natCast] at this
  unfold State.elemLoad
  simp only [this, if_true]

theorem elemStore_ok {s : State} {n : Dealer} {sg k v : Nat} (hx : Desc.space (s.rdSG n sg) = spDRAM ∨ Desc.space (s.rdSG n sg) = spSCRATCH)
    (h : s.Sound n (descAddr n (s.rdSG n sg) (s.rdW n 14).toNat) k) (hk : 0 < k ∧ k ≤ 8) :
    (s.elemStore n sg k v).1 = false ∧ Stores s (s.elemStore n sg k v).2 (descAddr n (s.rdSG n sg) (s.rdW n 14).toNat) k v := by
  have hne : Desc.space (s.rdSG n sg) ≠ spCODE := by rcases hx with e | e <;> rw [e] <;> decide
  have ea : descAddr n (s.rdSG n sg) (s.rdW n 14).toNat = Desc.base (s.rdSG n sg) + (s.rdW n 14).toNat := by
    unfold descAddr; rw [if_neg hne, Nat.zero_add, Int.toNat_natCast]
  rw [ea] at h ⊢
  have hs := sound_pathWrite (v := v) h hk
  unfold State.elemStore State.segWrite regOD
  simp only [hs.1, if_true]
  exact ⟨trivial, hs.2⟩

theorem elemChecks_none {s : State} {n : Dealer} {sg r k : Nat} {rd wr : Bool} (h : Segment.Admits (s.rdSG n sg) (s.rdW n r).toNat k rd wr) :
    ∀ c ∈ s.elemChecks n sg r k rd wr, c.1 = false := by
  unfold State.elemChecks segChecks
  have h1 : (rd && !Desc.rda (s.rdSG n sg)) = false := by
    cases rd
    · rfl
    · simp [h.reads rfl]
  have h2 : (wr && !Desc.wra (s.rdSG n sg)) = false := by
    cases wr
    · rfl
    · simp [h.writes rfl]
  have h3 : (decide (((s.rdW n r).toNat : Int) < 0) || decide ((Desc.limit (s.rdSG n sg) : Int) < (s.rdW n r).toNat + k - 1)) = false := by
    have := h.low; have := h.high
    simp; omega
  simp only [List.mem_cons, List.not_mem_nil, or_false]
  rintro c (rfl | rfl | rfl)
  · simp [h.present]
  · simp [h1, h2]
  · exact h3

theorem firstTrap_none {l : List (Bool × Trap)} (h : ∀ c ∈ l, c.1 = false) : firstTrap l = none := by
  induction l with
  | nil => rfl
  | cons c l ih =>
    obtain ⟨b, t⟩ := c
    have := h (b, t) (List.mem_cons_self ..)
    simp only at this
    subst this
    show firstTrap l = none
    exact ih (fun c hc => h c (List.mem_cons_of_mem _ hc))

theorem size_le (op : SOp) : 0 < op.sSize ∧ op.sSize ≤ 8 := by
  have : op.fld 21 2 < 4 := fld_lt op 21 2
  unfold SOp.sSize
  refine ⟨Nat.two_pow_pos _, ?_⟩
  have := Nat.pow_le_pow_right (n := 2) (by decide) (show op.fld 21 2 ≤ 3 by omega)
  exact this

theorem State.OnlyBank.lvl {n : Dealer} {b : Bank} {s t : State} (h : s.OnlyBank n b t) (m : Dealer) : t.lvl m = s.lvl m := by
  unfold State.lvl State.fget; rw [h.registers]

theorem State.OnlyBank.trans {n : Dealer} {b c : Bank} {s t u : State} (h : s.OnlyBank n b t) (k : t.OnlyBank n c u) : s.OnlyBank n c u :=
  ⟨k.bank, fun j hj => (k.levels j (by rw [h.lvl]; exact hj)).trans (h.levels j hj), k.msp.trans h.msp,
    fun m hm => (k.dealers m hm).trans (h.dealers m hm), fun a => (k.bytes a).trans (h.bytes a), fun a => (k.syndromes a).trans (h.syndromes a),
    fun o => (k.registers o).trans (h.registers o)⟩

theorem State.OnlyBank.setBank (n : Dealer) (b : Bank) (s : State) : s.OnlyBank n b (s.setBank n b) :=
  ⟨State.bank_setBank _ _ _, fun _ hk => State.bankAt_setBankAt_level _ _ _ hk, by simp [State.setBank, State.setBankAt],
    fun m hm => by simp [State.setBank, State.setBankAt, State.dl_setDl_other, hm], fun _ => rfl, fun _ => rfl, fun _ => rfl⟩

theorem State.OnlyBank.charge (n : Dealer) (s : State) (c : Nat) : s.OnlyBank n (s.bank n) (s.charge n c) := onlyBank_charge (setBank_self s n).symm

theorem State.OnlyBank.wrLow (n : Dealer) (s : State) (r : Nat) (v : Word) (hr : 0 < r ∧ r < 16) :
    s.OnlyBank n { s.bank n with w := (s.bank n).w.set (Fin.ofNat 32 r) v } (s.wrW n r v) := by
  unfold State.wrW
  rw [if_neg (by omega)]
  dsimp only
  rw [if_pos (by omega)]
  exact State.OnlyBank.setBank _ _ _

theorem State.OnlyBank.bank_only {n : Dealer} {b c : Bank} {s t : State} (h : s.OnlyBank n b t) (e : b = c) : s.OnlyBank n c t := e ▸ h

theorem stored_of {n : Dealer} {b : Bank} {s u t : State} {a k v : Nat} (h : Stores s u a k v) (g : u.OnlyBank n b t) : s.Stored n a k v b t := by
  obtain ⟨h1, h2, h3⟩ := h
  have eb : ∀ m j, u.bankAt m j = s.bankAt m j := by intro m j; rw [h3]; rfl
  have el : u.lvl n = s.lvl n := by rw [h3]; rfl
  constructor
  · intro i hi
    rw [g.bytes, h1]; unfold stored; rw [if_pos (by omega)]
    congr 3; omega
  · intro x hx
    rw [g.bytes, h1]; unfold stored; rw [if_neg (by omega)]
  · intro x; rw [g.syndromes, h2]
  · intro o; rw [g.registers, h3]; rfl
  · exact g.bank
  · intro j hj; rw [g.levels _ (by rw [el]; exact hj), eb]
  · rw [g.msp, h3]; rfl
  · intro m hm; rw [g.dealers _ hm, h3]; rfl

theorem stores_bank {s u : State} {a k v : Nat} (h : Stores s u a k v) (n : Dealer) : u.bank n = s.bank n := by
  rw [h.rest]; rfl

/-- OS and OD, or OD alone, move on. -/

theorem moved_both (n : Dealer) (op : SOp) (s : State) (k c : Nat) (d : Bool) (he : op.ext = none) :
    s.OnlyBank n { s.bank n with w := ((s.bank n).w.set 13 (if d then s.rdW n 13 - BitVec.ofNat 32 k else s.rdW n 13 + BitVec.ofNat 32 k)).set 14 (if d then s.rdW n 14 - BitVec.ofNat 32 k else s.rdW n 14 + BitVec.ofNat 32 k), pc := BitVec.ofNat 32 (s.pc n + 4) }
      ((((s.advanceReg n regOS d k).advanceReg n regOD d k).charge n c).advance n op 0) := by
  have h1 := State.OnlyBank.wrLow n s 13 (if d then s.rdW n 13 - BitVec.ofNat 32 k else s.rdW n 13 + BitVec.ofNat 32 k) (by decide)
  have e14 : ∀ v, (s.wrW n 13 v).rdW n 14 = s.rdW n 14 := fun v => State.rdW_wrW_other _ _ _ (by decide) (by decide) (by decide)
  unfold State.advanceReg regOS regOD
  rw [e14]
  have h2 := State.OnlyBank.wrLow n (s.wrW n 13 (if d then s.rdW n 13 - BitVec.ofNat 32 k else s.rdW n 13 + BitVec.ofNat 32 k)) 14
    (if d then s.rdW n 14 - BitVec.ofNat 32 k else s.rdW n 14 + BitVec.ofNat 32 k) (by decide)
  have h3 := h1.trans (h2.trans ((State.OnlyBank.charge n _ c).trans (onlyBank_advance n op _ 0)))
  refine h3.bank_only ?_
  rw [nextPc_noext he]
  unfold State.pc
  rw [(State.OnlyBank.charge n _ c).bank, h2.bank, h1.bank]
  rfl

theorem moved_one (n : Dealer) (op : SOp) (s : State) (k c : Nat) (d : Bool) (he : op.ext = none) :
    s.OnlyBank n { s.bank n with w := (s.bank n).w.set 14 (if d then s.rdW n 14 - BitVec.ofNat 32 k else s.rdW n 14 + BitVec.ofNat 32 k),
                                 pc := BitVec.ofNat 32 (s.pc n + 4) }
      (((s.advanceReg n regOD d k).charge n c).advance n op 0) := by
  unfold State.advanceReg regOD
  have h2 := State.OnlyBank.wrLow n s 14 (if d then s.rdW n 14 - BitVec.ofNat 32 k else s.rdW n 14 + BitVec.ofNat 32 k) (by decide)
  have h3 := h2.trans ((State.OnlyBank.charge n _ c).trans (onlyBank_advance n op _ 0))
  refine h3.bank_only ?_
  rw [nextPc_noext he]
  unfold State.pc
  rw [(State.OnlyBank.charge n _ c).bank, h2.bank]
  rfl

theorem runString_next {n : Dealer} {op : SOp} {s : State} {x : StrOp} {t : State} {e : Bool} (h : s.Ready n op) (he : op.ext = none) (hr : x.reserved op = false)
    (hi : x.iter n op s = .done t e) : runString x n op s = .next (t.advance n op 0) := by
  unfold runString
  dsimp only
  rw [runScalar_next _ h.runs]
  · simp only [hi]
  · exact firstTrap_none (by
      simp only [List.mem_cons, List.not_mem_nil, or_false]
      rintro c (rfl | rfl)
      · simp [SOp.hasExt, he, hr]
      · exact endTrap_of_ready h)

theorem bytes_lt (s : State) (a k : Nat) : natOfBytes (s.bytes a k) < 2 ^ (8 * k) := by
  have := natOfBytes_lt (s.bytes a k)
  rwa [State.bytes_length] at this

theorem subFlags_at (w : Nat) (x y : BitVec w) (hw : 0 < w) (st : Word) :
    FlagsAre (decide (x.toNat < y.toNat)) (x == y) (x - y).msb (decide (x.toInt - y.toInt ≠ (x - y).toInt)) st
      (stWithFlags st (subFlags w x.toNat y.toNat 0).2) := by
  have hf := flagsAre_stWithFlags st (subFlags w x.toNat y.toNat 0).2
  have hr : (x.toNat + 2 ^ (w + 1) - y.toNat - 0) % 2 ^ w = (x - y).toNat := by
    rw [BitVec.toNat_sub, Nat.pow_succ]
    have := x.isLt; have := y.isLt
    generalize x.toNat = a at *
    generalize y.toNat = b at *
    rw [show a + 2 ^ w * 2 - b - 0 = (2 ^ w - b + a) + 2 ^ w by omega, Nat.add_mod_right]
  have e : (subFlags w x.toNat y.toNat 0).2 = ⟨decide (x.toNat < y.toNat), x == y, (x - y).msb, decide (x.toInt - y.toInt ≠ (x - y).toInt)⟩ := by
    unfold subFlags
    dsimp only
    rw [hr, toSigned_eq w _ x.isLt, toSigned_eq w _ y.isLt, toSigned_eq w _ (x - y).isLt]
    simp only [BitVec.ofNat_toNat, BitVec.setWidth_eq, Nat.add_zero, Int.natCast_zero, Int.sub_zero]
    congr 1
    · rw [Bool.eq_iff_iff]
      simp only [beq_iff_eq]
      rw [← BitVec.toNat_inj]
      have : (x - y).toNat = 0 ↔ x = y := by
        constructor
        · intro h
          have h0 : x - y = 0 := BitVec.eq_of_toNat_eq (by simpa using h)
          have := BitVec.sub_add_cancel x y
          rw [h0, show (0 : BitVec w) = 0#w from rfl, BitVec.zero_add] at this
          exact this.symm
        · rintro rfl; simp
      rw [this, BitVec.toNat_inj]
    · rw [natBit_testBit, BitVec.msb_eq_getLsbD_last]; rfl
  rw [e] at hf ⊢
  exact hf

theorem compared_state (n : Dealer) (s : State) (f : CFlags) : (s.setSt n (stWithFlags (s.st n) f)).rdW n = s.rdW n := by
  funext r
  unfold State.rdW State.setSt
  rw [State.bank_setBank]

end Sys2Proof.Machine
end

