-- ==== Sys2Proof/Laws/Evolves.lean ====
section
/-!
SUPPORT. What every command respects (`State.Evolves`) composes: each operation of the model carries it from the state it is given to the state
it answers.  The lemmas have the form "what `z` evolves into `s` evolves into `f s`", so that simp follows a composition of operations by
itself; `Leads` says the same of an outcome.
-/
namespace Sys2Proof.Machine

open Sys2Proof

/-- `State.Evolves` on the fields that it looks at. -/
def Ev (z : State) (mem : List Host.Cell) (regs : List (Nat × Word)) (syn : List (Nat × BitVec 16))
    (dealers : Vector DealerCore 4) (hands : List (Nat × HandLine)) (pending : List Instr) (outs : List Out)
    (now fresh : Nat) : Prop :=
  (z.Canonical → Memory.wf mem = true ∧ Sparse.wf 0 regs = true ∧ Sparse.wf 0 syn = true) ∧
    (z.MasksFit → ∀ n : Dealer, (dealers.get n).msp ≤ 56) ∧
    (z.HandsPermute → ∀ k, isPermutation (Sparse.get identityLine hands k) = true) ∧ pending = z.pending ∧ z.outs <+: outs ∧
    z.now ≤ now ∧ z.fresh ≤ fresh

theorem evolves_iff (z s : State) : z.Evolves s ↔ Ev z s.mem s.regs s.syn s.dealers s.hands s.pending s.outs s.now s.fresh :=
  ⟨fun h => ⟨h.1, h.2, h.3, h.4, h.5, h.6, h.7⟩,
    fun h => ⟨h.1, h.2.1, h.2.2.1, h.2.2.2.1, h.2.2.2.2.1, h.2.2.2.2.2.1, h.2.2.2.2.2.2⟩⟩

/-- A record update that leaves eight of the nine fields alone and starts the Dealers afresh. -/
@[simp] theorem ev_dealers {z s : State} (h : z.Evolves s) :
    Ev z s.mem s.regs s.syn (Vector.replicate 4 DealerCore.zero) s.hands s.pending s.outs s.now s.fresh :=
  ⟨h.1, fun _ => by decide, h.3, h.4, h.5, h.6, h.7⟩

/-- A record update that leaves the nine fields alone. -/
@[simp] theorem ev_fields (z s : State) : Ev z s.mem s.regs s.syn s.dealers s.hands s.pending s.outs s.now s.fresh ↔ z.Evolves s := (evolves_iff z s).symm

@[simp] theorem evolves_mk (z : State)
    {regs' mem' tmem' tEpoch' tZero' tbad' syn' dealers' evAcc' net' netOld' recorded' rpt' mrow' hands' handSyn' hstage'
    ctus' tags' closing' raised' ctlStage' eiPend' locks' ledgerDirty' ntcLost' weedAt' weedDone' coldRetry' scrubAt'
    rsvRows' ctxs' camPend' camPulse' fsync' pipes' icons' iconSyn' tells' dboxes' notices' overlayOff' full' lacks' warm'
    resetAt' seats' pcie' canBad' pxActive' mainRead' sectsDone' esp' inReset' xtalOff' fbRef' trimFirst' canTrim' started'
    fallow' railOut' pocCuts' lcReq' keyHash' keyFuse' svnFuse' gardTimer' gard' ticking' switching' edgeHeld' rampAll' plan'
    outs' fresh' now' oldRoutes' xspi' selPlan' onXB' hot' edgeAt' pending'} :
    z.Evolves (State.mk
      regs' mem' tmem' tEpoch' tZero' tbad' syn' dealers' evAcc' net' netOld' recorded' rpt' mrow' hands' handSyn' hstage'
      ctus' tags' closing' raised' ctlStage' eiPend' locks' ledgerDirty' ntcLost' weedAt' weedDone' coldRetry' scrubAt'
      rsvRows' ctxs' camPend' camPulse' fsync' pipes' icons' iconSyn' tells' dboxes' notices' overlayOff' full' lacks' warm'
      resetAt' seats' pcie' canBad' pxActive' mainRead' sectsDone' esp' inReset' xtalOff' fbRef' trimFirst' canTrim' started'
      fallow' railOut' pocCuts' lcReq' keyHash' keyFuse' svnFuse' gardTimer' gard' ticking' switching' edgeHeld' rampAll'
      plan' outs' fresh' now' oldRoutes' xspi' selPlan' onXB' hot' edgeAt' pending') ↔
      Ev z mem' regs' syn' dealers' hands' pending' outs' now' fresh' :=
  evolves_iff z _

@[simp] theorem State.evolves_refl (s : State) : s.Evolves s := ⟨id, id, id, rfl, List.prefix_refl _, Nat.le_refl _, Nat.le_refl _⟩

theorem State.Evolves.trans {a b c : State} (h : a.Evolves b) (k : b.Evolves c) : a.Evolves c :=
  ⟨fun x => k.1 (h.1 x), fun x => k.2 (h.2 x), fun x => k.3 (h.3 x), k.4.trans h.4, h.5.trans k.5, Nat.le_trans h.6 k.6, Nat.le_trans h.7 k.7⟩

/-- An outcome whose next state, if it has one, `z` evolves into. -/
def Leads (z : State) : Host.Outcome State Fault Refusal → Prop
  | .next t => z.Evolves t
  | _ => True

@[simp] theorem leads_next (z t : State) : Leads z (.next t) ↔ z.Evolves t := Iff.rfl
@[simp] theorem leads_fault (z : State) (r : Fault) : Leads z (.fault r) ↔ True := Iff.rfl
@[simp] theorem leads_refused (z : State) (r : Refusal) : Leads z (.refused r) ↔ True := Iff.rfl

@[simp] theorem evolves_ite (z a b : State) (c : Prop) [Decidable c] : z.Evolves (if c then a else b) ↔ (c → z.Evolves a) ∧ (¬c → z.Evolves b) := by
  split <;> simp_all

@[simp] theorem leads_ite (z : State) (a b : Host.Outcome State Fault Refusal) (c : Prop) [Decidable c] :
    Leads z (if c then a else b) ↔ (c → Leads z a) ∧ (¬c → Leads z b) := by
  split <;> simp_all

theorem snd_ite {α β : Type} (a b : α × β) (c : Prop) [Decidable c] : (if c then a else b).2 = if c then a.2 else b.2 := by
  split <;> rfl

/-- A fold of an operation. -/
@[simp] theorem foldl_evolves {α : Type} {z s : State} (f : State → α → State) (l : List α) (h : z.Evolves s)
    (hf : ∀ t a, z.Evolves t → z.Evolves (f t a)) : z.Evolves (l.foldl f s) := by
  induction l generalizing s with
  | nil => exact h
  | cons a l ih => exact ih (hf s a h)

/-- A fold that carries a value beside the state. -/
@[simp] theorem foldl_snd_evolves {α β : Type} {z : State} {p : β × State} (f : β × State → α → β × State) (l : List α) (h : z.Evolves p.2)
    (hf : ∀ t a, z.Evolves t.2 → z.Evolves (f t a).2) : z.Evolves (l.foldl f p).2 := by
  induction l generalizing p with
  | nil => exact h
  | cons a l ih => exact ih (hf p a h)

/-- A fold that carries two values beside the state. -/
@[simp] theorem foldl_snd_snd_evolves {α β γ : Type} {z : State} {p : β × γ × State} (f : β × γ × State → α → β × γ × State) (l : List α)
    (h : z.Evolves p.2.2) (hf : ∀ t a, z.Evolves t.2.2 → z.Evolves (f t a).2.2) : z.Evolves (l.foldl f p).2.2 := by
  induction l generalizing p with
  | nil => exact h
  | cons a l ih => exact ih (hf p a h)

/- The operations that touch the nine fields. -/

@[simp] theorem State.setReg_evolves {z s : State} (off : Nat) (v : Word) (h : z.Evolves s) : z.Evolves (s.setReg off v) :=
  ⟨fun c => ⟨(h.1 c).1, Sparse.wf_set 0 v s.regs off (h.1 c).2.1, (h.1 c).2.2⟩, h.2, h.3, h.4, h.5, h.6, h.7⟩

@[simp] theorem State.emit_evolves {z s : State} (o : Out) (h : z.Evolves s) : z.Evolves (s.emit o) :=
  ⟨h.1, h.2, h.3, h.4, h.5.trans (List.prefix_append _ _), h.6, h.7⟩

@[simp] theorem State.draw_evolves {z s : State} (tag : Nat) (h : z.Evolves s) : z.Evolves (s.draw tag).2 :=
  ⟨h.1, h.2, h.3, h.4, h.5, h.6, Nat.le_succ_of_le h.7⟩

@[simp] theorem State.setByte_evolves {z s : State} (a : Nat) (b : Byte) (h : z.Evolves s) : z.Evolves (s.setByte a b) :=
  ⟨fun c => ⟨Sparse.wf_set memDefault b s.mem a (h.1 c).1, (h.1 c).2⟩, h.2, h.3, h.4, h.5, h.6, h.7⟩

@[simp] theorem State.setBytes_evolves {z s : State} (a : Nat) (bs : List Byte) (h : z.Evolves s) : z.Evolves (s.setBytes a bs) := by
  induction bs generalizing a s with
  | nil => exact h
  | cons b bs ih => exact ih (a + 1) (State.setByte_evolves a b h)

@[simp] theorem State.setSyn_evolves {z s : State} (k : Nat) (v : BitVec 16) (h : z.Evolves s) : z.Evolves (s.setSyn k v) :=
  ⟨fun c => ⟨(h.1 c).1, (h.1 c).2.1, Sparse.wf_set 0 v s.syn k (h.1 c).2.2⟩, h.2, h.3, h.4, h.5, h.6, h.7⟩

@[simp] theorem State.zeroRange_evolves {z s : State} (lo n : Nat) (h : z.Evolves s) : z.Evolves (s.zeroRange lo n) :=
  ⟨fun c => ⟨Sparse.wf_filter memDefault _ s.mem (h.1 c).1, (h.1 c).2.1, Sparse.wf_filter 0 _ s.syn (h.1 c).2.2⟩, h.2, h.3, h.4, h.5, h.6, h.7⟩

@[simp] theorem State.setDl_evolves {z s : State} (n : Dealer) (d : DealerCore) (hd : z.MasksFit → d.msp ≤ 56) (h : z.Evolves s) :
    z.Evolves (s.setDl n d) := by
  refine ⟨h.1, fun m k => ?_, h.3, h.4, h.5, h.6, h.7⟩
  show ((s.setDl n d).dl k).msp ≤ 56
  by_cases e : k = n
  · rw [e, State.dl_setDl_same]
    exact hd m
  · rw [State.dl_setDl_other s d e]
    exact h.2 m k

/-- A Dealer of a state that `z` evolves into. -/
@[simp] theorem State.Evolves.depth {z s : State} (n : Dealer) (h : z.Evolves s) : (z.MasksFit → (s.dl n).msp ≤ 56) ↔ True :=
  iff_true_intro (fun m => h.2 m n)

@[simp] theorem State.putLine_evolves {z s : State} (l : Nat) (v : HandLine) (hv : isPermutation v = true) (h : z.Evolves s) :
    z.Evolves (s.putLine l v) := by
  refine ⟨h.1, h.2, fun m k => ?_, h.4, h.5, h.6, h.7⟩
  have := h.3 m k
  simp only [State.putLine, Sparse.get_set]
  split
  · exact hv
  · exact this

theorem resetRegs_canonical : Sparse.wf 0 resetRegs = true := by decide +kernel

@[simp] theorem State.reset_canonical : State.reset.Canonical := ⟨rfl, resetRegs_canonical, rfl⟩

theorem identityLine_permutes : isPermutation identityLine = true := by decide +kernel

@[simp] theorem State.reset_masks : State.reset.MasksFit := by decide

@[simp] theorem State.reset_hands : State.reset.HandsPermute := fun _ => identityLine_permutes

@[simp] theorem State.powerOn_evolves {z s : State} (h : z.Evolves s) : z.Evolves s.powerOn := by
  unfold State.powerOn
  exact State.setReg_evolves _ _
    (foldl_evolves _ _ ⟨fun _ => State.reset_canonical, fun _ => State.reset_masks, fun _ => State.reset_hands, h.4, h.5, h.6, h.7⟩ (fun t a k => State.setReg_evolves _ _ k))

end Sys2Proof.Machine
end

