-- ==== Sys2Proof/Laws/OpsEv.lean ====
section
/-!
SUPPORT. What the operations of Machine/Ops.lean respect.
-/
namespace Sys2Proof.Machine

open Sys2Proof

@[simp] theorem State.fset_evolves {z s : State} (f : Fld) (v : Nat) (h : z.Evolves s) :
    z.Evolves (State.fset s f v) := by
  simp (maxDischargeDepth := 40) [State.fset, *]

@[simp] theorem State.fsets_evolves {z s : State} (l : List (Fld × Nat)) (h : z.Evolves s) :
    z.Evolves (State.fsets s l) := by
  simp +contextual (maxDischargeDepth := 40) [State.fsets, snd_ite, *]

@[simp] theorem State.bump_evolves {z s : State} (f : Fld) (k : Nat) (h : z.Evolves s) :
    z.Evolves (State.bump s f k) := by
  simp (maxDischargeDepth := 40) [State.bump, *]

@[simp] theorem State.setFbit_evolves {z s : State} (f : Fld) (i : Nat) (b : Bool) (h : z.Evolves s) :
    z.Evolves (State.setFbit s f i b) := by
  simp (maxDischargeDepth := 40) [State.setFbit, *]

@[simp] theorem State.setBankAt_evolves {z s : State} (n : Dealer) (k : Fin 8) (b : Bank) (h : z.Evolves s) :
    z.Evolves (State.setBankAt s n k b) := by
  simp (maxDischargeDepth := 40) [State.setBankAt, *]

@[simp] theorem State.setBank_evolves {z s : State} (n : Dealer) (b : Bank) (h : z.Evolves s) :
    z.Evolves (State.setBank s n b) := by
  simp (maxDischargeDepth := 40) [State.setBank, *]

@[simp] theorem State.markDirty_evolves {z s : State} (n : Dealer) (g : Nat) (h : z.Evolves s) :
    z.Evolves (State.markDirty s n g) := by
  simp (maxDischargeDepth := 40) [State.markDirty, *]

@[simp] theorem State.wrW_evolves {z s : State} (n : Dealer) (r : Nat) (v : Word) (h : z.Evolves s) :
    z.Evolves (State.wrW s n r v) := by
  simp (maxDischargeDepth := 40) [State.wrW, *]

@[simp] theorem State.wrF_evolves {z s : State} (n : Dealer) (r : Nat) (v : DWord) (h : z.Evolves s) :
    z.Evolves (State.wrF s n r v) := by
  simp (maxDischargeDepth := 40) [State.wrF, *]

@[simp] theorem State.wrPD_evolves {z s : State} (n : Dealer) (r : Nat) (v : Word) (h : z.Evolves s) :
    z.Evolves (State.wrPD s n r v) := by
  simp (maxDischargeDepth := 40) [State.wrPD, *]

@[simp] theorem State.wrSG_evolves {z s : State} (n : Dealer) (r : Nat) (v : Desc) (h : z.Evolves s) :
    z.Evolves (State.wrSG s n r v) := by
  simp (maxDischargeDepth := 40) [State.wrSG, *]

@[simp] theorem State.wrPair_evolves {z s : State} (n : Dealer) (d : Nat) (v : Nat) (h : z.Evolves s) :
    z.Evolves (State.wrPair s n d v) := by
  simp (maxDischargeDepth := 40) [State.wrPair, *]

@[simp] theorem State.setSt_evolves {z s : State} (n : Dealer) (v : Word) (h : z.Evolves s) :
    z.Evolves (State.setSt s n v) := by
  simp (maxDischargeDepth := 40) [State.setSt, *]

@[simp] theorem State.setFpc_evolves {z s : State} (n : Dealer) (v : Word) (h : z.Evolves s) :
    z.Evolves (State.setFpc s n v) := by
  simp (maxDischargeDepth := 40) [State.setFpc, *]

@[simp] theorem State.setPc_evolves {z s : State} (n : Dealer) (v : Nat) (h : z.Evolves s) :
    z.Evolves (State.setPc s n v) := by
  simp (maxDischargeDepth := 40) [State.setPc, *]

@[simp] theorem State.spend_evolves {z s : State} (n : Dealer) (k : Nat) (h : z.Evolves s) :
    z.Evolves (State.spend s n k) := by
  simp (maxDischargeDepth := 40) [State.spend, *]

@[simp] theorem State.charge_evolves {z s : State} (n : Dealer) (k : Nat) (h : z.Evolves s) :
    z.Evolves (State.charge s n k) := by
  simp (maxDischargeDepth := 40) [State.charge, *]

@[simp] theorem State.setRole_evolves {z s : State} (n : Dealer) (r : Nat) (h : z.Evolves s) :
    z.Evolves (State.setRole s n r) := by
  simp (maxDischargeDepth := 40) [State.setRole, *]

@[simp] theorem State.ledger_evolves {z s : State} (w : Nat) (lo : Nat) (wid : Nat) (k : Nat) (h : z.Evolves s) :
    z.Evolves (State.ledger s w lo wid k) := by
  simp (maxDischargeDepth := 40) [State.ledger, *]

@[simp] theorem State.seatEvent_evolves {z s : State} (k : Nat) (e : Nat) (h : z.Evolves s) :
    z.Evolves (State.seatEvent s k e) := by
  simp (maxDischargeDepth := 40) [State.seatEvent, *]

@[simp] theorem State.event_evolves {z s : State} (e : Nat) (h : z.Evolves s) :
    z.Evolves (State.event s e) := by
  unfold State.event
  repeat' (first
    | (simp +contextual (maxDischargeDepth := 40) [snd_ite, *]; done)
    | split
    | dsimp only
    | (rw [leads_next])
    | (intro _)
    | refine foldl_evolves _ _ ?_ ?_
    | refine foldl_snd_evolves _ _ ?_ ?_
    | apply State.fset_evolves
    | apply State.fsets_evolves)

@[simp] theorem State.dealerEvent_evolves {z s : State} (n : Dealer) (k : Nat) (h : z.Evolves s) :
    z.Evolves (State.dealerEvent s n k) := by
  simp (maxDischargeDepth := 40) [State.dealerEvent, *]

@[simp] theorem State.report_evolves {z s : State} (r : Report) (h : z.Evolves s) :
    z.Evolves (State.report s r) := by
  simp (maxDischargeDepth := 40) [State.report, *]

@[simp] theorem State.putBytes_evolves {z s : State} (off : Nat) (x2 : List Byte) (h : z.Evolves s) :
    z.Evolves (State.putBytes s off x2) := by
  revert h
  fun_induction State.putBytes s off x2 <;> intro h <;>
  repeat' (first
    | (simp +contextual +zetaDelta (maxDischargeDepth := 40) [snd_ite, *]; done)
    | split
    | dsimp only
    | (rw [leads_next])
    | (intro _)
    | refine foldl_evolves _ _ ?_ ?_
    | refine foldl_snd_evolves _ _ ?_ ?_
    | apply State.fset_evolves
    | apply State.fsets_evolves
    | apply State.event_evolves)

@[simp] theorem State.msix_evolves {z s : State} (k : Nat) (v : Nat) (h : z.Evolves s) :
    z.Evolves (State.msix s k v) := by
  simp (maxDischargeDepth := 40) [State.msix, *]

@[simp] theorem State.postNotice_evolves {z s : State} (k : Nat) (kind : Nat) (pipe : Nat) (id : Nat) (flags : Nat) (code : Nat) (data :
    Nat) (h : z.Evolves s) :
    z.Evolves (State.postNotice s k kind pipe id flags code data) := by
  simp +contextual (maxDischargeDepth := 40) [State.postNotice, snd_ite, *]

@[simp] theorem State.safetyNotice_evolves {z s : State} (kind : Nat) (pipe : Nat) (id : Nat) (flags : Nat) (code : Nat) (data : Nat) (h
    : z.Evolves s) :
    z.Evolves (State.safetyNotice s kind pipe id flags code data) := by
  simp +contextual (maxDischargeDepth := 40) [State.safetyNotice, snd_ite, *]

@[simp] theorem State.dealRestart_evolves {z s : State} (n : Dealer) (h : z.Evolves s) :
    z.Evolves (State.dealRestart s n) := by
  simp +contextual (maxDischargeDepth := 40) [State.dealRestart, snd_ite, *]

@[simp] theorem State.raiseMC_evolves {z s : State} (n : Dealer) (m : MCheck) (h : z.Evolves s) :
    z.Evolves (State.raiseMC s n m) := by
  simp (maxDischargeDepth := 40) [State.raiseMC, *]

@[simp] theorem State.enterTrap_evolves {z s : State} (n : Dealer) (t : Trap) (extw : Bool) (rept : Bool) (h : z.Evolves s) :
    z.Evolves (State.enterTrap s n t extw rept) := by
  simp (maxDischargeDepth := 40) [State.enterTrap, *]

@[simp] theorem State.trap_evolves {z s : State} (n : Dealer) (t : Trap) (extw : Bool) (rept : Bool) (h : z.Evolves s) :
    z.Evolves (State.trap s n t extw rept) := by
  simp (maxDischargeDepth := 40) [State.trap, *]

end Sys2Proof.Machine
end

