-- ==== Sys2Proof/Laws/WordCodeEv.lean ====
section
/-!
SUPPORT. What the operations of Machine/WordCode.lean respect.
-/
namespace Sys2Proof.Machine

open Sys2Proof

@[simp] theorem State.putWord_evolves {z s : State} (a : Nat) (d : Nat) (h : z.Evolves s) :
    z.Evolves (State.putWord s a d) := by
  simp (maxDischargeDepth := 40) [State.putWord, *]

@[simp] theorem State.putPoison_evolves {z s : State} (a : Nat) (d : Nat) (h : z.Evolves s) :
    z.Evolves (State.putPoison s a d) := by
  simp (maxDischargeDepth := 40) [State.putPoison, *]

@[simp] theorem State.putFolded_evolves {z s : State} (c : Nat) (a : Nat) (d : Nat) (poison : Bool) (h : z.Evolves s) :
    z.Evolves (State.putFolded s c a d poison) := by
  simp (maxDischargeDepth := 40) [State.putFolded, *]

@[simp] theorem State.errLog_evolves {z s : State} (off : Nat) (kind : Nat) (p0 : Nat) (p1 : Nat) (syn : Nat) (a : Nat) (h : z.Evolves s) :
    z.Evolves (State.errLog s off kind p0 p1 syn a) := by
  simp +contextual (maxDischargeDepth := 40) [State.errLog, snd_ite, *]

@[simp] theorem State.planeReport_evolves {z s : State} (a : Nat) (p : Nat) (h : z.Evolves s) :
    z.Evolves (State.planeReport s a p) := by
  simp (maxDischargeDepth := 40) [State.planeReport, *]

@[simp] theorem State.dramReports_evolves {z s : State} (a : Nat) (k : Kind) (h : z.Evolves s) :
    z.Evolves (State.dramReports s a k) := by
  unfold State.dramReports
  repeat' (first
    | (simp +contextual (maxDischargeDepth := 40) [snd_ite, *]; done)
    | split
    | dsimp only
    | (rw [leads_next])
    | (intro _)
    | refine foldl_evolves _ _ ?_ ?_
    | refine foldl_snd_evolves _ _ ?_ ?_
    | apply State.fset_evolves
    | apply State.fsets_evolves
    | apply State.event_evolves)

@[simp] theorem State.reportCell_evolves {z s : State} (c : Nat) (a : Nat) (syn : Nat) (k : Kind) (h : z.Evolves s) :
    z.Evolves (State.reportCell s c a syn k) := by
  unfold State.reportCell
  repeat' (first
    | (simp +contextual (maxDischargeDepth := 40) [snd_ite, *]; done)
    | split
    | dsimp only
    | (rw [leads_next])
    | (intro _)
    | refine foldl_evolves _ _ ?_ ?_
    | refine foldl_snd_evolves _ _ ?_ ?_
    | apply State.fset_evolves
    | apply State.fsets_evolves
    | apply State.event_evolves)

@[simp] theorem State.reportWord_evolves {z s : State} (a : Nat) (k : Kind) (h : z.Evolves s) :
    z.Evolves (State.reportWord s a k) := by
  unfold State.reportWord
  repeat' (first
    | (simp +contextual (maxDischargeDepth := 40) [snd_ite, *]; done)
    | split
    | dsimp only
    | (rw [leads_next])
    | (intro _)
    | refine foldl_evolves _ _ ?_ ?_
    | refine foldl_snd_evolves _ _ ?_ ?_
    | apply State.fset_evolves
    | apply State.fsets_evolves
    | apply State.event_evolves)

@[simp] theorem State.readCell_evolves {z s : State} (c : Nat) (a : Nat) (h : z.Evolves s) :
    z.Evolves (State.readCell s c a).2.2 := by
  simp (maxDischargeDepth := 40) [State.readCell, *]

@[simp] theorem State.readWord_evolves {z s : State} (a : Nat) (h : z.Evolves s) :
    z.Evolves (State.readWord s a).2.2 := by
  simp (maxDischargeDepth := 40) [State.readWord, *]

end Sys2Proof.Machine
end

