-- ==== Sys2Proof/Laws/MemEv.lean ====
section
/-!
SUPPORT. What the operations of Machine/Mem.lean respect.
-/
namespace Sys2Proof.Machine

open Sys2Proof

@[simp] theorem State.storeWord_evolves {z s : State} (a : Nat) (d : Nat) (poison : Bool) (h : z.Evolves s) :
    z.Evolves (State.storeWord s a d poison) := by
  unfold State.storeWord
  repeat' (first
    | (simp +contextual (maxDischargeDepth := 40) [snd_ite, *]; done)
    | split
    | dsimp only
    | (rw [leads_next])
    | (intro _)
    | refine foldl_evolves _ _ ?_ ?_
    | refine foldl_snd_evolves _ _ ?_ ?_
    | apply State.fset_evolves
    | apply State.fsets_evolves
    | apply State.event_evolves)

@[simp] theorem State.putPlane_evolves {z s : State} (a : Nat) (v : Nat) (poison : Bool) (h : z.Evolves s) :
    z.Evolves (State.putPlane s a v poison) := by
  simp (maxDischargeDepth := 40) [State.putPlane, *]

@[simp] theorem State.getPlane_evolves {z s : State} (a : Nat) (h : z.Evolves s) :
    z.Evolves (State.getPlane s a).2.2 := by
  simp +contextual (maxDischargeDepth := 40) [State.getPlane, snd_ite, *]

@[simp] theorem State.absorb_evolves {z s : State} (r : Nat) (h : z.Evolves s) :
    z.Evolves (State.absorb s r) := by
  simp (maxDischargeDepth := 40) [State.absorb, *]

@[simp] theorem State.ctlWrite_evolves {z s : State} (n : Dealer) (off : Nat) (d : Nat) (h : z.Evolves s) :
    z.Evolves (State.ctlWrite s n off d) := by
  simp +contextual (maxDischargeDepth := 40) [State.ctlWrite, snd_ite, *]

@[simp] theorem State.readSpan_evolves {z s : State} (a : Nat) (n : Nat) (h : z.Evolves s) :
    z.Evolves (State.readSpan s a n).2.2 := by
  simp +contextual (maxDischargeDepth := 40) [State.readSpan, snd_ite, *]

@[simp] theorem State.writePart_evolves {z s : State} (a : Nat) (n : Nat) (v : Nat) (h : z.Evolves s) :
    z.Evolves (State.writePart s a n v).2 := by
  simp +contextual (maxDischargeDepth := 40) [State.writePart, snd_ite, *]

@[simp] theorem State.writeSpan_evolves {z s : State} (a : Nat) (n : Nat) (v : Nat) (h : z.Evolves s) :
    z.Evolves (State.writeSpan s a n v).2 := by
  simp +contextual (maxDischargeDepth := 40) [State.writeSpan, snd_ite, *]

@[simp] theorem State.memRead_evolves {z s : State} (ag : Agent) (a : Nat) (n : Nat) (h : z.Evolves s) :
    z.Evolves (State.memRead s ag a n).2.2 := by
  unfold State.memRead
  repeat' (first
    | (simp +contextual (maxDischargeDepth := 40) [snd_ite, *]; done)
    | split
    | dsimp only
    | (rw [leads_next])
    | (intro _)
    | refine foldl_evolves _ _ ?_ ?_
    | refine foldl_snd_evolves _ _ ?_ ?_
    | apply State.fset_evolves
    | apply State.fsets_evolves
    | apply State.event_evolves)

@[simp] theorem State.memWrite_evolves {z s : State} (ag : Agent) (a : Nat) (n : Nat) (v : Nat) (h : z.Evolves s) :
    z.Evolves (State.memWrite s ag a n v).2 := by
  unfold State.memWrite
  repeat' (first
    | (simp +contextual (maxDischargeDepth := 40) [snd_ite, *]; done)
    | split
    | dsimp only
    | (rw [leads_next])
    | (intro _)
    | refine foldl_evolves _ _ ?_ ?_
    | refine foldl_snd_evolves _ _ ?_ ?_
    | apply State.fset_evolves
    | apply State.fsets_evolves
    | apply State.event_evolves)

end Sys2Proof.Machine
end

