-- ==== Sys2Proof/Laws/RegWriteEv.lean ====
section
/-!
SUPPORT. What the operations of Machine/RegWrite.lean respect.
-/
namespace Sys2Proof.Machine

open Sys2Proof

@[simp] theorem State.plainWrite_evolves {z s : State} (off : Nat) (v : Nat) (h : z.Evolves s) :
    z.Evolves (State.plainWrite s off v).2 := by
  unfold State.plainWrite
  repeat' (first
    | (simp +contextual (maxDischargeDepth := 40) [snd_ite, *]; done)
    | split
    | dsimp only
    | (rw [leads_next])
    | (intro _)
    | refine foldl_evolves _ _ ?_ ?_
    | refine foldl_snd_evolves _ _ ?_ ?_
    | apply State.fset_evolves
    | apply State.fsets_evolves
    | apply State.event_evolves)

@[simp] theorem answered_evolves {z : State} (ag : Agent) (r : Nat × State)  (hr : z.Evolves r.2) :
    Leads z (answered ag r) := by
  simp (maxDischargeDepth := 40) [answered, *]

end Sys2Proof.Machine
end

