-- ==== Sys2Proof/Laws/TagsEv.lean ====
section
/-!
SUPPORT. What the operations of Machine/Tags.lean respect.
-/
namespace Sys2Proof.Machine

open Sys2Proof

@[simp] theorem State.holdTag_evolves {z s : State} (t : Nat) (r : TagRec) (h : z.Evolves s) :
    z.Evolves (State.holdTag s t r) := by
  simp (maxDischargeDepth := 40) [State.holdTag, *]

@[simp] theorem State.freeTag_evolves {z s : State} (t : Nat) (h : z.Evolves s) :
    z.Evolves (State.freeTag s t) := by
  simp (maxDischargeDepth := 40) [State.freeTag, *]

@[simp] theorem State.send_evolves {z s : State} (p : Packet) (h : z.Evolves s) :
    z.Evolves (State.send s p) := by
  simp (maxDischargeDepth := 40) [State.send, *]

@[simp] theorem State.unsend_evolves {z s : State} (p : Packet) (h : z.Evolves s) :
    z.Evolves (State.unsend s p) := by
  simp (maxDischargeDepth := 40) [State.unsend, *]

@[simp] theorem State.beginSwap_evolves {z s : State} (h : z.Evolves s) : z.Evolves (State.beginSwap s) := by
  simp (maxDischargeDepth := 40) [State.beginSwap, *]

@[simp] theorem State.requestLost_evolves {z s : State} (ag : Agent) (a : Nat) (wr : Bool) (h : z.Evolves s) :
    z.Evolves (State.requestLost s ag a wr) := by
  unfold State.requestLost
  dsimp only
  split <;> simp [*]

@[simp] theorem State.turnedRead_evolves {z s : State} (ag : Agent) (a k : Nat) (t : Turned) (h : z.Evolves s) :
    z.Evolves (State.turnedRead s ag a k t).2.2 := by
  cases t <;> simp [State.turnedRead, *]

@[simp] theorem State.turnedWrite_evolves {z s : State} (ag : Agent) (a : Nat) (t : Turned) (h : z.Evolves s) :
    z.Evolves (State.turnedWrite s ag a t).2 := by
  cases t <;> simp [State.turnedWrite, *]

@[simp] theorem State.atHub_evolves {z s : State} (ag : Agent) (f : State → Nat × State) (h : z.Evolves s) (hf : z.Evolves (f s).2) :
    Leads z (State.atHub s ag f) := by
  unfold State.atHub
  split <;> simp [*]

@[simp] theorem State.swapWrite_evolves {z s : State} (ag : Agent) (v : Nat) (h : z.Evolves s) :
    z.Evolves (State.swapWrite s ag v).2 := by
  simp +contextual (maxDischargeDepth := 40) [State.swapWrite, snd_ite, *]

@[simp] theorem State.shadowWrite_evolves {z s : State} (ag : Agent) (off : Nat) (v : Nat) (h : z.Evolves s) :
    z.Evolves (State.shadowWrite s ag off v).2 := by
  simp +contextual (maxDischargeDepth := 40) [State.shadowWrite, snd_ite, *]

end Sys2Proof.Machine
end

