-- ==== Sys2Proof/Laws/ArrayRegsEv.lean ====
section
/-!
SUPPORT. What the operations of Machine/ArrayRegs.lean respect.
-/
namespace Sys2Proof.Machine

open Sys2Proof

@[simp] theorem State.handReports_evolves {z s : State} (q : Nat) (h0 : Nat) (h : z.Evolves s) :
    z.Evolves (State.handReports s q h0) := by
  simp +contextual (maxDischargeDepth := 40) [State.handReports, snd_ite, *]

@[simp] theorem State.hselWrite_evolves {z s : State} (ag : Agent) (v : Nat) (h : z.Evolves s) :
    z.Evolves (State.hselWrite s ag v).2 := by
  simp +contextual (maxDischargeDepth := 40) [State.hselWrite, snd_ite, *]

@[simp] theorem State.hselNext_evolves {z s : State} (h : z.Evolves s) :
    z.Evolves (State.hselNext s) := by
  simp (maxDischargeDepth := 40) [State.hselNext, *]

@[simp] theorem State.hdataWrite_evolves {z s : State} (ag : Agent) (v : Nat) (h : z.Evolves s) :
    z.Evolves (State.hdataWrite s ag v).2 := by
  simp +contextual (maxDischargeDepth := 40) [State.hdataWrite, snd_ite, *]

@[simp] theorem execArrayHselWrite_evolves {z s : State} (ag : Agent) (v : Word) (h : z.Evolves s) :
    Leads z (execArrayHselWrite ag v s) := by
  simp (maxDischargeDepth := 40) [execArrayHselWrite, *]

@[simp] theorem execArrayHdataWrite_evolves {z s : State} (ag : Agent) (v : Word) (h : z.Evolves s) :
    Leads z (execArrayHdataWrite ag v s) := by
  simp (maxDischargeDepth := 40) [execArrayHdataWrite, *]

@[simp] theorem State.edgeWrite_evolves {z s : State} (ag : Agent) (off : Nat) (v : Nat) (h : z.Evolves s) :
    z.Evolves (State.edgeWrite s ag off v).2 := by
  unfold State.edgeWrite
  repeat' (first
    | (simp +contextual (maxDischargeDepth := 40) [snd_ite, *]; done)
    | split
    | dsimp only
    | (rw [leads_next])
    | (intro _)
    | refine foldl_evolves _ _ ?_ ?_
    | refine foldl_snd_evolves _ _ ?_ ?_
    | apply State.fset_evolves
    | apply State.fsets_evolves
    | apply State.event_evolves)

@[simp] theorem State.setCtu_evolves {z s : State} (t : Nat) (r : CtuRec) (h : z.Evolves s) :
    z.Evolves (State.setCtu s t r) := by
  simp (maxDischargeDepth := 40) [State.setCtu, *]

@[simp] theorem State.ctuFetch_evolves {z s : State} (t : Nat) (r : CtuRec) (i : Nat) (h : z.Evolves s) :
    z.Evolves (State.ctuFetch s t r i).2 := by
  simp +contextual (maxDischargeDepth := 40) [State.ctuFetch, snd_ite, *]

@[simp] theorem State.ctuRead_evolves {z s : State} (t : Nat) (r : CtuRec) (i : Nat) (h : z.Evolves s) :
    z.Evolves (State.ctuRead s t r i).2 := by
  unfold State.ctuRead
  repeat' (first
    | (simp +contextual (maxDischargeDepth := 40) [snd_ite, *]; done)
    | split
    | dsimp only
    | (rw [leads_next])
    | (intro _)
    | refine foldl_evolves _ _ ?_ ?_
    | refine foldl_snd_evolves _ _ ?_ ?_
    | apply State.fset_evolves
    | apply State.fsets_evolves
    | apply State.event_evolves)

@[simp] theorem State.ctuPump_evolves {z s : State} (t : Nat) (x2 : Nat) (h : z.Evolves s) :
    z.Evolves (State.ctuPump s t x2) := by
  induction x2 generalizing s with
  | zero => exact h
  | succ k ih =>
    unfold State.ctuPump
    split
    · exact h
    · split
      · dsimp only
        split
        · exact ih (State.send_evolves _ (State.setCtu_evolves _ _ (State.ctuRead_evolves _ _ _ (State.holdTag_evolves _ _ h))))
        · exact ih (State.send_evolves _ (State.setCtu_evolves _ _ (State.holdTag_evolves _ _ h)))
      · exact h

@[simp] theorem State.ctuRun_evolves {z s : State} (t : Nat) (h : z.Evolves s) :
    z.Evolves (State.ctuRun s t) := by
  simp (maxDischargeDepth := 40) [State.ctuRun, *]

@[simp] theorem State.ctuRow_evolves {z s : State} (t : Nat) (r : CtuRec) (row : Nat) (h : z.Evolves s) :
    z.Evolves (State.ctuRow s t r row) := by
  simp +contextual (maxDischargeDepth := 40) [State.ctuRow, snd_ite, *]

@[simp] theorem State.ctuAnswer_evolves {z s : State} (t : Nat) (tag : Nat) (status : Nat) (data : List DWord) (poison : List Bool) (h :
    z.Evolves s) :
    z.Evolves (State.ctuAnswer s t tag status data poison) := by
  unfold State.ctuAnswer
  repeat' (first
    | (simp +contextual (maxDischargeDepth := 40) [snd_ite, *]; done)
    | split
    | dsimp only
    | (rw [leads_next])
    | (intro _)
    | refine foldl_evolves _ _ ?_ ?_
    | refine foldl_snd_evolves _ _ ?_ ?_
    | apply State.fset_evolves
    | apply State.fsets_evolves
    | apply State.event_evolves)

@[simp] theorem State.ctuWrite_evolves {z s : State} (ag : Agent) (off : Nat) (v : Nat) (h : z.Evolves s) :
    z.Evolves (State.ctuWrite s ag off v).2 := by
  unfold State.ctuWrite
  dsimp only
  repeat' split
  all_goals simp (maxDischargeDepth := 40) [h]

@[simp] theorem execCtuGo_evolves {z s : State} (ag : Agent) (t : Fin 64) (v : Word) (h : z.Evolves s) :
    Leads z (execCtuGo ag t v s) := by
  simp (maxDischargeDepth := 40) [execCtuGo, *]

@[simp] theorem execCtuTransferDone_evolves {z s : State} (t : Fin 64) (h : z.Evolves s) :
    Leads z (execCtuTransferDone t s) := by
  unfold execCtuTransferDone
  repeat' (first
    | (simp +contextual (maxDischargeDepth := 40) [snd_ite, *]; done)
    | split
    | dsimp only
    | (rw [leads_next])
    | (intro _)
    | refine foldl_evolves _ _ ?_ ?_
    | refine foldl_snd_evolves _ _ ?_ ?_
    | apply State.fset_evolves
    | apply State.fsets_evolves
    | apply State.event_evolves)

end Sys2Proof.Machine
end

