-- ==== Sys2Proof/Laws/BanksEv.lean ====
section
/-!
SUPPORT. What the operations of Machine/Banks.lean respect.
-/
namespace Sys2Proof.Machine

open Sys2Proof

@[simp] theorem State.zeroFor_evolves {z s : State} (b : Nat) (c : Nat) (h : z.Evolves s) :
    z.Evolves (State.zeroFor s b c) := by
  simp +contextual (maxDischargeDepth := 40) [State.zeroFor, snd_ite, *]

@[simp] theorem State.zeroBank_evolves {z s : State} (b : Nat) (h : z.Evolves s) :
    z.Evolves (State.zeroBank s b) := by
  unfold State.zeroBank
  repeat' (first
    | (simp +contextual (maxDischargeDepth := 40) [snd_ite, *]; done)
    | split
    | dsimp only
    | (rw [leads_next])
    | (intro _)
    | refine foldl_evolves _ _ ?_ ?_
    | refine foldl_snd_evolves _ _ ?_ ?_
    | apply State.fset_evolves
    | apply State.fsets_evolves
    | apply State.event_evolves)

@[simp] theorem State.startClear_evolves {z s : State} (b : Nat) (h : z.Evolves s) :
    z.Evolves (State.startClear s b) := by
  simp (maxDischargeDepth := 40) [State.startClear, *]

@[simp] theorem State.ownerWrite_evolves {z s : State} (ag : Agent) (b : Nat) (v : Nat) (h : z.Evolves s) :
    z.Evolves (State.ownerWrite s ag b v).2 := by
  simp +contextual (maxDischargeDepth := 40) [State.ownerWrite, snd_ite, *]

@[simp] theorem execBankHandoverWrite_evolves {z s : State} (ag : Agent) (b : Fin 33) (owner : BitVec 4) (h : z.Evolves s) :
    Leads z (execBankHandoverWrite ag b owner s) := by
  simp (maxDischargeDepth := 40) [execBankHandoverWrite, *]

@[simp] theorem execBankHandoverClear_evolves {z s : State} (ag : Agent) (b : Fin 33) (owner : BitVec 4) (h : z.Evolves s) :
    Leads z (execBankHandoverClear ag b owner s) := by
  simp (maxDischargeDepth := 40) [execBankHandoverClear, *]

@[simp] theorem execBankClearDone_evolves {z s : State} (b : Fin 32) (h : z.Evolves s) :
    Leads z (execBankClearDone b s) := by
  simp (maxDischargeDepth := 40) [execBankClearDone, *]

@[simp] theorem State.copyWord_evolves {z s : State} (src : Nat) (dst : Nat) (a : Nat) (h : z.Evolves s) :
    z.Evolves (State.copyWord s src dst a) := by
  simp (maxDischargeDepth := 40) [State.copyWord, *]

@[simp] theorem State.testWord_evolves {z s : State} (a : Nat) (h : z.Evolves s) :
    z.Evolves (State.testWord s a) := by
  simp (maxDischargeDepth := 40) [State.testWord, *]

@[simp] theorem State.testStep_evolves {z s : State} (a : Nat) (faulty : Bool) (h : z.Evolves s) :
    z.Evolves (State.testStep s a faulty) := by
  simp +contextual (maxDischargeDepth := 40) [State.testStep, snd_ite, *]

@[simp] theorem State.weedStep_evolves {z s : State} (b : Fin 33) (faulty : Bool) (h : z.Evolves s) :
    z.Evolves (State.weedStep s b faulty) := by
  simp (maxDischargeDepth := 40) [State.weedStep, *]

@[simp] theorem execWeedingStep_evolves {z s : State} (b : Fin 33) (faulty : Bool) (h : z.Evolves s) :
    Leads z (execWeedingStep b faulty s) := by
  simp (maxDischargeDepth := 40) [execWeedingStep, *]

@[simp] theorem execWeedRemap_evolves {z s : State} (b : Fin 32) (h : z.Evolves s) :
    Leads z (execWeedRemap b s) := by
  simp (maxDischargeDepth := 40) [execWeedRemap, *]

@[simp] theorem execWeedUnmap_evolves {z s : State} (b : Fin 32) (h : z.Evolves s) :
    Leads z (execWeedUnmap b s) := by
  simp (maxDischargeDepth := 40) [execWeedUnmap, *]

@[simp] theorem State.coldWipe_evolves {z s : State} (cause : Nat) (h : z.Evolves s) :
    z.Evolves (State.coldWipe s cause) := by
  simp +contextual (maxDischargeDepth := 40) [State.coldWipe, snd_ite, *]

@[simp] theorem execColdWipeDone_evolves {z s : State} (ok : Bool) (h : z.Evolves s) :
    Leads z (execColdWipeDone ok s) := by
  simp (maxDischargeDepth := 40) [execColdWipeDone, *]

end Sys2Proof.Machine
end

