-- ==== Sys2Proof/Laws/CamerasEv.lean ====
section
/-!
SUPPORT. What the operations of Machine/Cameras.lean respect.
-/
namespace Sys2Proof.Machine

open Sys2Proof

@[simp] theorem State.setCtx_evolves {z s : State} (c : Nat) (i : Nat) (r : CtxRec) (h : z.Evolves s) :
    z.Evolves (State.setCtx s c i r) := by
  simp (maxDischargeDepth := 40) [State.setCtx, *]

@[simp] theorem State.dropPacket_evolves {z s : State} (c : Nat) (h : z.Evolves s) :
    z.Evolves (State.dropPacket s c) := by
  simp (maxDischargeDepth := 40) [State.dropPacket, *]

@[simp] theorem State.badFrame_evolves {z s : State} (c : Nat) (bad : Nat) (h : z.Evolves s) :
    z.Evolves (State.badFrame s c bad) := by
  simp +contextual (maxDischargeDepth := 40) [State.badFrame, snd_ite, *]

@[simp] theorem State.openFrame_evolves {z s : State} (c : Nat) (i : Nat) (fnum : Nat) (hdrBad : Bool) (h : z.Evolves s) :
    z.Evolves (State.openFrame s c i fnum hdrBad) := by
  unfold State.openFrame
  repeat' (first
    | (simp +contextual (maxDischargeDepth := 40) [snd_ite, *]; done)
    | split
    | dsimp only
    | (rw [leads_next])
    | (intro _)
    | refine foldl_evolves _ _ ?_ ?_
    | refine foldl_snd_evolves _ _ ?_ ?_
    | apply State.fset_evolves
    | apply State.fsets_evolves
    | apply State.event_evolves)

@[simp] theorem execCsi2FrameStart_evolves {z s : State} (c : Fin 8) (vc : Fin 16) (fnum : BitVec 16) (hdrBad : Bool) (h : z.Evolves s) :
    Leads z (execCsi2FrameStart c vc fnum hdrBad s) := by
  unfold execCsi2FrameStart
  repeat' (first
    | (simp +contextual (maxDischargeDepth := 40) [snd_ite, *]; done)
    | split
    | dsimp only
    | (rw [leads_next])
    | (intro _)
    | refine foldl_evolves _ _ ?_ ?_
    | refine foldl_snd_evolves _ _ ?_ ?_
    | apply State.fset_evolves
    | apply State.fsets_evolves
    | apply State.event_evolves)

@[simp] theorem execCsi2LongPacket_evolves {z s : State} (c : Fin 8) (vc : Fin 16) (dt : BitVec 6) (px : List (BitVec 24)) (crcOk : Bool)
    (hdrBad : Bool) (h : z.Evolves s) :
    Leads z (execCsi2LongPacket c vc dt px crcOk hdrBad s) := by
  unfold execCsi2LongPacket
  repeat' (first
    | (simp +contextual (maxDischargeDepth := 40) [snd_ite, *]; done)
    | split
    | dsimp only
    | (rw [leads_next])
    | (intro _)
    | refine foldl_evolves _ _ ?_ ?_
    | refine foldl_snd_evolves _ _ ?_ ?_
    | apply State.fset_evolves
    | apply State.fsets_evolves
    | apply State.event_evolves)

@[simp] theorem State.closeFrame_evolves {z s : State} (c : Nat) (i : Nat) (hdrBad : Bool) (h : z.Evolves s) :
    z.Evolves (State.closeFrame s c i hdrBad) := by
  unfold State.closeFrame
  repeat' (first
    | (simp +contextual (maxDischargeDepth := 40) [snd_ite, *]; done)
    | split
    | dsimp only
    | (rw [leads_next])
    | (intro _)
    | refine foldl_evolves _ _ ?_ ?_
    | refine foldl_snd_evolves _ _ ?_ ?_
    | apply State.fset_evolves
    | apply State.fsets_evolves
    | apply State.event_evolves)

@[simp] theorem execCsi2FrameEnd_evolves {z s : State} (c : Fin 8) (vc : Fin 16) (hdrBad : Bool) (h : z.Evolves s) :
    Leads z (execCsi2FrameEnd c vc hdrBad s) := by
  unfold execCsi2FrameEnd
  repeat' (first
    | (simp +contextual (maxDischargeDepth := 40) [snd_ite, *]; done)
    | split
    | dsimp only
    | (rw [leads_next])
    | (intro _)
    | refine foldl_evolves _ _ ?_ ?_
    | refine foldl_snd_evolves _ _ ?_ ?_
    | apply State.fset_evolves
    | apply State.fsets_evolves
    | apply State.event_evolves)

@[simp] theorem State.cameraWrite_evolves {z s : State} (c : Fin 8) (a : Nat) (v : Nat) (h : z.Evolves s) :
    z.Evolves (State.cameraWrite s c a v) := by
  unfold State.cameraWrite
  repeat' (first
    | (simp +contextual (maxDischargeDepth := 40) [snd_ite, *]; done)
    | split
    | dsimp only
    | (rw [leads_next])
    | (intro _)
    | refine foldl_evolves _ _ ?_ ?_
    | refine foldl_snd_evolves _ _ ?_ ?_
    | apply State.fset_evolves
    | apply State.fsets_evolves
    | apply State.event_evolves)

@[simp] theorem execCameraLineWritten_evolves {z s : State} (c : Fin 8) (i : Fin 2) (h : z.Evolves s) :
    Leads z (execCameraLineWritten c i s) := by
  unfold execCameraLineWritten
  repeat' (first
    | (simp +contextual (maxDischargeDepth := 40) [snd_ite, *]; done)
    | split
    | dsimp only
    | (rw [leads_next])
    | (intro _)
    | refine foldl_evolves _ _ ?_ ?_
    | refine foldl_snd_evolves _ _ ?_ ?_
    | apply State.fset_evolves
    | apply State.fsets_evolves
    | apply State.event_evolves)

@[simp] theorem execFsyncPulseStart_evolves {z s : State} (c : Fin 8) (h : z.Evolves s) :
    Leads z (execFsyncPulseStart c s) := by
  simp (maxDischargeDepth := 40) [execFsyncPulseStart, *]

@[simp] theorem execFsyncPulseEnd_evolves {z s : State} (c : Fin 8) (h : z.Evolves s) :
    Leads z (execFsyncPulseEnd c s) := by
  simp (maxDischargeDepth := 40) [execFsyncPulseEnd, *]

@[simp] theorem execCameraLanesStopState_evolves {z s : State} (c : Fin 8) (h : z.Evolves s) :
    Leads z (execCameraLanesStopState c s) := by
  simp (maxDischargeDepth := 40) [execCameraLanesStopState, *]

@[simp] theorem State.latchCtx_evolves {z s : State} (c : Nat) (i : Nat) (h : z.Evolves s) :
    z.Evolves (State.latchCtx s c i) := by
  unfold State.latchCtx
  repeat' (first
    | (simp +contextual (maxDischargeDepth := 40) [snd_ite, *]; done)
    | split
    | dsimp only
    | (rw [leads_next])
    | (intro _)
    | refine foldl_evolves _ _ ?_ ?_
    | refine foldl_snd_evolves _ _ ?_ ?_
    | apply State.fset_evolves
    | apply State.fsets_evolves
    | apply State.event_evolves)

@[simp] theorem State.latchCameras_evolves {z s : State} (h : z.Evolves s) :
    z.Evolves (State.latchCameras s) := by
  simp +contextual (maxDischargeDepth := 40) [State.latchCameras, snd_ite, *]

end Sys2Proof.Machine
end

