-- ==== Sys2Proof/Laws/TellEv.lean ====
section
/-!
SUPPORT. What the operations of Machine/Tell.lean respect.
-/
namespace Sys2Proof.Machine

open Sys2Proof

@[simp] theorem State.setPipe_evolves {z s : State} (p : Nat) (r : PipeRec) (h : z.Evolves s) :
    z.Evolves (State.setPipe s p r) := by
  simp (maxDischargeDepth := 40) [State.setPipe, *]

@[simp] theorem State.setTell_evolves {z s : State} (i : Nat) (r : TellRec) (h : z.Evolves s) :
    z.Evolves (State.setTell s i r) := by
  simp (maxDischargeDepth := 40) [State.setTell, *]

@[simp] theorem State.setDbox_evolves {z s : State} (b : Nat) (r : DealBox) (h : z.Evolves s) :
    z.Evolves (State.setDbox s b r) := by
  simp (maxDischargeDepth := 40) [State.setDbox, *]

@[simp] theorem State.queueNotice_evolves {z s : State} (kind : Nat) (pipe : Nat) (id : Nat) (flags : Nat) (code : Nat) (data : Nat) (h :
    z.Evolves s) :
    z.Evolves (State.queueNotice s kind pipe id flags code data) := by
  simp (maxDischargeDepth := 40) [State.queueNotice, *]

@[simp] theorem execSafetyNoticePost_evolves {z s : State} (h : z.Evolves s) :
    Leads z (execSafetyNoticePost s) := by
  unfold execSafetyNoticePost
  repeat' (first
    | (simp +contextual (maxDischargeDepth := 40) [snd_ite, *]; done)
    | split
    | dsimp only
    | (rw [leads_next])
    | (intro _)
    | refine foldl_evolves _ _ ?_ ?_
    | refine foldl_snd_evolves _ _ ?_ ?_
    | apply State.fset_evolves
    | apply State.fsets_evolves
    | apply State.event_evolves)

@[simp] theorem State.enterSafe_evolves {z s : State} (i : Nat) (code : Nat) (h : z.Evolves s) :
    z.Evolves (State.enterSafe s i code) := by
  simp +contextual (maxDischargeDepth := 40) [State.enterSafe, snd_ite, *]

@[simp] theorem State.restartTell_evolves {z s : State} (i : Nat) (h : z.Evolves s) :
    z.Evolves (State.restartTell s i) := by
  simp (maxDischargeDepth := 40) [State.restartTell, *]

@[simp] theorem State.tellEntry_evolves {z s : State} (seat : Nat) (e : Nat) (h : z.Evolves s) :
    z.Evolves (State.tellEntry s seat e).2 := by
  simp +contextual (maxDischargeDepth := 40) [State.tellEntry, snd_ite, *]

@[simp] theorem State.tellEntries_evolves {z s : State} (seat : Nat) (x2 : List Word) (x3 : Nat) (x4 : Nat) (h : z.Evolves s) :
    z.Evolves (State.tellEntries s seat x2 x3 x4).2 := by
  revert h
  fun_induction State.tellEntries s seat x2 x3 x4 <;> intro h <;>
  repeat' (first
    | (simp +contextual +zetaDelta (maxDischargeDepth := 40) [snd_ite, *]; done)
    | split
    | dsimp only
    | (rw [leads_next])
    | (intro _)
    | refine foldl_evolves _ _ ?_ ?_
    | refine foldl_snd_evolves _ _ ?_ ?_
    | apply State.fset_evolves
    | apply State.fsets_evolves
    | apply State.event_evolves)

@[simp] theorem State.tellSet_evolves {z s : State} (seat : Nat) (ws : List Word) (h : z.Evolves s) :
    z.Evolves (State.tellSet s seat ws).2.2 := by
  simp +contextual (maxDischargeDepth := 40) [State.tellSet, snd_ite, *]

@[simp] theorem execTelltaleTimeout_evolves {z s : State} (i : Fin 256) (h : z.Evolves s) :
    Leads z (execTelltaleTimeout i s) := by
  simp (maxDischargeDepth := 40) [execTelltaleTimeout, *]

@[simp] theorem State.iconReports_evolves {z s : State} (p : Nat) (b : BoxRec) (y : Nat) (h : z.Evolves s) :
    z.Evolves (State.iconReports s p b y) := by
  simp +contextual (maxDischargeDepth := 40) [State.iconReports, snd_ite, *]

@[simp] theorem State.espSample_evolves {z s : State} (i : Nat) (h : z.Evolves s) :
    z.Evolves (State.espSample s i) := by
  simp (maxDischargeDepth := 40) [State.espSample, *]

@[simp] theorem State.tellFrame_evolves {z s : State} (i : Nat) (h : z.Evolves s) :
    z.Evolves (State.tellFrame s i).2 := by
  simp +contextual (maxDischargeDepth := 40) [State.tellFrame, snd_ite, *]

@[simp] theorem State.tellIdle_evolves {z s : State} (i : Nat) (h : z.Evolves s) :
    z.Evolves (State.tellIdle s i) := by
  unfold State.tellIdle
  dsimp only
  split <;> simp [*]

@[simp] theorem State.frameBoxes_evolves {z s : State} (p : Nat) (h : z.Evolves s) :
    z.Evolves (State.frameBoxes s p).2 := by
  unfold State.frameBoxes
  refine foldl_snd_evolves _ _ h ?_
  intro t i k
  dsimp only
  split
  · split <;> simp [*]
  · exact k

@[simp] theorem State.badVerdict_evolves {z s : State} (p : Nat) (q : BoxRec) (v : Nat) (h : z.Evolves s) :
    z.Evolves (State.badVerdict s p q v) := by
  simp +contextual (maxDischargeDepth := 40) [State.badVerdict, snd_ite, *]

@[simp] theorem execTallyVerdict_evolves {z s : State} (p : Fin 6) (deal : Bool) (id : Fin 256) (h : z.Evolves s) :
    Leads z (execTallyVerdict p deal id s) := by
  unfold execTallyVerdict
  repeat' (first
    | (simp +contextual (maxDischargeDepth := 40) [snd_ite, *]; done)
    | split
    | dsimp only
    | (rw [leads_next])
    | (intro _)
    | refine foldl_evolves _ _ ?_ ?_
    | refine foldl_snd_evolves _ _ ?_ ?_
    | apply State.fset_evolves
    | apply State.fsets_evolves
    | apply State.event_evolves)

@[simp] theorem State.hboxWrite_evolves {z s : State} (ag : Agent) (off : Nat) (v : Nat) (h : z.Evolves s) :
    z.Evolves (State.hboxWrite s ag off v).2 := by
  unfold State.hboxWrite
  repeat' (first
    | (simp +contextual (maxDischargeDepth := 40) [snd_ite, *]; done)
    | split
    | dsimp only
    | (rw [leads_next])
    | (intro _)
    | refine foldl_evolves _ _ ?_ ?_
    | refine foldl_snd_evolves _ _ ?_ ?_
    | apply State.fset_evolves
    | apply State.fsets_evolves
    | apply State.event_evolves)

@[simp] theorem State.hcmtWrite_evolves {z s : State} (ag : Agent) (v : Nat) (h : z.Evolves s) :
    z.Evolves (State.hcmtWrite s ag v).2 := by
  unfold State.hcmtWrite
  repeat' (first
    | (simp +contextual (maxDischargeDepth := 40) [snd_ite, *]; done)
    | split
    | dsimp only
    | (rw [leads_next])
    | (intro _)
    | refine foldl_evolves _ _ ?_ ?_
    | refine foldl_snd_evolves _ _ ?_ ?_
    | apply State.fset_evolves
    | apply State.fsets_evolves
    | apply State.event_evolves)

@[simp] theorem execTellHcmtWrite_evolves {z s : State} (ag : Agent) (v : Word) (h : z.Evolves s) :
    Leads z (execTellHcmtWrite ag v s) := by
  simp (maxDischargeDepth := 40) [execTellHcmtWrite, *]

@[simp] theorem State.settleBox_evolves {z s : State} (b : Nat) (h : z.Evolves s) :
    z.Evolves (State.settleBox s b) := by
  unfold State.settleBox
  repeat' (first
    | (simp +contextual (maxDischargeDepth := 40) [snd_ite, *]; done)
    | split
    | dsimp only
    | (rw [leads_next])
    | (intro _)
    | refine foldl_evolves _ _ ?_ ?_
    | refine foldl_snd_evolves _ _ ?_ ?_
    | apply State.fset_evolves
    | apply State.fsets_evolves
    | apply State.event_evolves)

@[simp] theorem State.settleBoxes_evolves {z s : State} (h : z.Evolves s) :
    z.Evolves (State.settleBoxes s) := by
  simp +contextual (maxDischargeDepth := 40) [State.settleBoxes, snd_ite, *]

@[simp] theorem State.readbackMiss_evolves {z s : State} (p : Nat) (h : z.Evolves s) :
    z.Evolves (State.readbackMiss s p) := by
  simp (maxDischargeDepth := 40) [State.readbackMiss, *]

@[simp] theorem State.readbackFail_evolves {z s : State} (p : Nat) (h : z.Evolves s) :
    z.Evolves (State.readbackFail s p) := by
  simp +contextual (maxDischargeDepth := 40) [State.readbackFail, snd_ite, *]

@[simp] theorem execPanelReadback_evolves {z s : State} (p : Fin 4) (reading : Option SinkCrc) (h : z.Evolves s) :
    Leads z (execPanelReadback p reading s) := by
  unfold execPanelReadback
  repeat' (first
    | (simp +contextual (maxDischargeDepth := 40) [snd_ite, *]; done)
    | split
    | dsimp only
    | (rw [leads_next])
    | (intro _)
    | refine foldl_evolves _ _ ?_ ?_
    | refine foldl_snd_evolves _ _ ?_ ?_
    | apply State.fset_evolves
    | apply State.fsets_evolves
    | apply State.event_evolves)

end Sys2Proof.Machine
end

