-- ==== Sys2Proof/Laws/PipesEv.lean ====
section
/-!
SUPPORT. What the operations of Machine/Pipes.lean respect.
-/
namespace Sys2Proof.Machine

open Sys2Proof

@[simp] theorem State.commitWrite_evolves {z s : State} (ag : Agent) (p : Nat) (v : Nat) (h : z.Evolves s) :
    z.Evolves (State.commitWrite s ag p v).2 := by
  unfold State.commitWrite
  repeat' (first
    | (simp +contextual (maxDischargeDepth := 40) [snd_ite, *]; done)
    | split
    | dsimp only
    | (rw [leads_next])
    | (intro _)
    | refine foldl_evolves _ _ ?_ ?_
    | refine foldl_snd_evolves _ _ ?_ ?_
    | apply State.fset_evolves
    | apply State.fsets_evolves
    | apply State.event_evolves)

@[simp] theorem execDspCommitWrite_evolves {z s : State} (ag : Agent) (p : Fin 6) (v : Word) (h : z.Evolves s) :
    Leads z (execDspCommitWrite ag p v s) := by
  simp (maxDischargeDepth := 40) [execDspCommitWrite, *]

@[simp] theorem State.setWbuf_evolves {z s : State} (p : Nat) (b : Nat) (k : Nat) (h : z.Evolves s) :
    z.Evolves (State.setWbuf s p b k) := by
  simp (maxDischargeDepth := 40) [State.setWbuf, *]

@[simp] theorem State.swapPipe_evolves {z s : State} (p : Nat) (h : z.Evolves s) :
    z.Evolves (State.swapPipe s p) := by
  simp (maxDischargeDepth := 40) [State.swapPipe, *]

@[simp] theorem State.chooseBuffers_evolves {z s : State} (p : Nat) (h : z.Evolves s) :
    z.Evolves (State.chooseBuffers s p) := by
  unfold State.chooseBuffers
  repeat' (first
    | (simp +contextual (maxDischargeDepth := 40) [snd_ite, *]; done)
    | split
    | dsimp only
    | (rw [leads_next])
    | (intro _)
    | refine foldl_evolves _ _ ?_ ?_
    | refine foldl_snd_evolves _ _ ?_ ?_
    | apply State.fset_evolves
    | apply State.fsets_evolves
    | apply State.event_evolves)

@[simp] theorem State.uncoverBands_evolves {z s : State} (p : Nat) (h : z.Evolves s) :
    z.Evolves (State.uncoverBands s p) := by
  simp (maxDischargeDepth := 40) [State.uncoverBands, *]

@[simp] theorem State.milestone_evolves {z s : State} (k : Nat) (h : z.Evolves s) :
    z.Evolves (State.milestone s k) := by
  simp (maxDischargeDepth := 40) [State.milestone, *]

@[simp] theorem State.frameMilestones_evolves {z s : State} (h : z.Evolves s) :
    z.Evolves (State.frameMilestones s) := by
  simp +contextual (maxDischargeDepth := 40) [State.frameMilestones, snd_ite, *]

@[simp] theorem State.warmComplete_evolves {z s : State} (h : z.Evolves s) :
    z.Evolves (State.warmComplete s) := by
  simp (maxDischargeDepth := 40) [State.warmComplete, *]

@[simp] theorem State.frameTime_evolves {z s : State} (p : Nat) (h : z.Evolves s) :
    z.Evolves (State.frameTime s p) := by
  unfold State.frameTime
  split
  · exact ⟨h.1, h.2, h.3, h.4, h.5, Nat.le_trans h.6 (Nat.le_max_left _ _), h.7⟩
  · exact h

@[simp] theorem State.frameStart_evolves {z s : State} (p : Nat) (h : z.Evolves s) :
    z.Evolves (State.frameStart s p) := by
  unfold State.frameStart
  repeat' (first
    | (simp +contextual (maxDischargeDepth := 40) [snd_ite, *]; done)
    | split
    | dsimp only
    | (rw [leads_next])
    | (intro _)
    | refine foldl_evolves _ _ ?_ ?_
    | refine foldl_snd_evolves _ _ ?_ ?_
    | apply State.fset_evolves
    | apply State.fsets_evolves
    | apply State.event_evolves)

@[simp] theorem execPipeFrameStart_evolves {z s : State} (p : Fin 6) (h : z.Evolves s) :
    Leads z (execPipeFrameStart p s) := by
  simp +contextual (maxDischargeDepth := 40) [execPipeFrameStart, snd_ite, *]

@[simp] theorem State.fetchWord_evolves {z s : State} (p : Nat) (a : Nat) (h : z.Evolves s) :
    z.Evolves (State.fetchWord s p a).2 := by
  unfold State.fetchWord
  repeat' (first
    | (simp +contextual (maxDischargeDepth := 40) [snd_ite, *]; done)
    | split
    | dsimp only
    | (rw [leads_next])
    | (intro _)
    | refine foldl_evolves _ _ ?_ ?_
    | refine foldl_snd_evolves _ _ ?_ ?_
    | apply State.fset_evolves
    | apply State.fsets_evolves
    | apply State.event_evolves)

@[simp] theorem State.fetchWords_evolves {z s : State} (p : Nat) (a : Nat) (x3 : Nat) (h : z.Evolves s) :
    z.Evolves (State.fetchWords s p a x3).2 := by
  induction x3 generalizing s a with
  | zero => exact h
  | succ n ih =>
    unfold State.fetchWords
    exact ih _ (State.fetchWord_evolves _ _ h)

@[simp] theorem State.fetchLine_evolves {z s : State} (p : Nat) (code : Nat) (y : Nat) (h : z.Evolves s) :
    z.Evolves (State.fetchLine s p code y).2 := by
  simp +contextual (maxDischargeDepth := 40) [State.fetchLine, snd_ite, *]

@[simp] theorem State.underrun_evolves {z s : State} (p : Nat) (h : z.Evolves s) :
    z.Evolves (State.underrun s p) := by
  simp +contextual (maxDischargeDepth := 40) [State.underrun, snd_ite, *]

@[simp] theorem State.linePixels_evolves {z s : State} (p : Nat) (y : Nat) (missing : Nat) (h : z.Evolves s) :
    z.Evolves (State.linePixels s p y missing).2 := by
  unfold State.linePixels
  repeat' (first
    | (simp +contextual (maxDischargeDepth := 40) [snd_ite, *]; done)
    | split
    | dsimp only
    | (rw [leads_next])
    | (intro _)
    | refine foldl_evolves _ _ ?_ ?_
    | refine foldl_snd_evolves _ _ ?_ ?_
    | apply State.fset_evolves
    | apply State.fsets_evolves
    | apply State.event_evolves)

@[simp] theorem State.sendLine_evolves {z s : State} (p : Nat) (y : Nat) (px : List Nat) (h : z.Evolves s) :
    z.Evolves (State.sendLine s p y px) := by
  simp (maxDischargeDepth := 40) [State.sendLine, *]

@[simp] theorem execPipeLine_evolves {z s : State} (p : Fin 6) (missing : Nat) (h : z.Evolves s) :
    Leads z (execPipeLine p missing s) := by
  simp +contextual (maxDischargeDepth := 40) [execPipeLine, snd_ite, *]

@[simp] theorem execDisplayLinkLost_evolves {z s : State} (p : Fin 6) (h : z.Evolves s) :
    Leads z (execDisplayLinkLost p s) := by
  simp +contextual (maxDischargeDepth := 40) [execDisplayLinkLost, snd_ite, *]

@[simp] theorem execDisplayLinkUp_evolves {z s : State} (p : Fin 6) (sup : Bool) (h : z.Evolves s) :
    Leads z (execDisplayLinkUp p sup s) := by
  simp +contextual (maxDischargeDepth := 40) [execDisplayLinkUp, snd_ite, *]

end Sys2Proof.Machine
end

