-- ==== Sys2Proof/Laws/SeatRegsEv.lean ====
section
/-!
SUPPORT. What the operations of Machine/SeatRegs.lean respect.
-/
namespace Sys2Proof.Machine

open Sys2Proof

@[simp] theorem State.setSeat_evolves {z s : State} (k : Nat) (r : SeatRec) (h : z.Evolves s) :
    z.Evolves (State.setSeat s k r) := by
  simp (maxDischargeDepth := 40) [State.setSeat, *]

@[simp] theorem State.advancePI_evolves {z s : State} (k : Nat) (pi : Nat) (h : z.Evolves s) :
    z.Evolves (State.advancePI s k pi) := by
  simp +contextual (maxDischargeDepth := 40) [State.advancePI, snd_ite, *]

@[simp] theorem State.doorbell_evolves {z s : State} (k : Nat) (v : Nat) (h : z.Evolves s) :
    z.Evolves (State.doorbell s k v).2 := by
  simp +contextual (maxDischargeDepth := 40) [State.doorbell, snd_ite, *]

@[simp] theorem State.consume_evolves {z s : State} (ci : Fld) (pi : Fld) (v : Nat) (h : z.Evolves s) :
    z.Evolves (State.consume s ci pi v).2 := by
  simp +contextual (maxDischargeDepth := 40) [State.consume, snd_ite, *]

@[simp] theorem State.msixPending_evolves {z s : State} (k : Nat) (i : Nat) (h : z.Evolves s) :
    z.Evolves (State.msixPending s k i) := by
  simp (maxDischargeDepth := 40) [State.msixPending, *]

@[simp] theorem State.msixWrite_evolves {z s : State} (k : Nat) (off : Nat) (v : Nat) (h : z.Evolves s) :
    z.Evolves (State.msixWrite s k off v) := by
  simp +contextual (maxDischargeDepth := 40) [State.msixWrite, snd_ite, *]

@[simp] theorem State.seatWrite_evolves {z s : State} (ag : Agent) (k : Nat) (off : Nat) (v : Nat) (h : z.Evolves s) :
    z.Evolves (State.seatWrite s ag k off v).2 := by
  simp +contextual (maxDischargeDepth := 40) [State.seatWrite, snd_ite, *]

@[simp] theorem State.bar0Write_evolves {z s : State} (k : Fin 4) (off : Nat) (v : Nat) (h : z.Evolves s) :
    Leads z (State.bar0Write s k off v) := by
  simp (maxDischargeDepth := 40) [State.bar0Write, *]

@[simp] theorem execDoorbell_evolves {z s : State} (k : Fin 4) (pi : BitVec 8) (h : z.Evolves s) :
    Leads z (execDoorbell k pi s) := by
  simp (maxDischargeDepth := 40) [execDoorbell, *]

@[simp] theorem execCompletionCiWrite_evolves {z s : State} (k : Fin 4) (ci : BitVec 8) (h : z.Evolves s) :
    Leads z (execCompletionCiWrite k ci s) := by
  simp (maxDischargeDepth := 40) [execCompletionCiWrite, *]

@[simp] theorem State.latchLayer_evolves {z s : State} (k : Nat) (j : Nat) (h : z.Evolves s) :
    z.Evolves (State.latchLayer s k j) := by
  unfold State.latchLayer
  repeat' (first
    | (simp +contextual (maxDischargeDepth := 40) [snd_ite, *]; done)
    | split
    | dsimp only
    | (rw [leads_next])
    | (intro _)
    | refine foldl_evolves _ _ ?_ ?_
    | refine foldl_snd_evolves _ _ ?_ ?_
    | apply State.fset_evolves
    | apply State.fsets_evolves
    | apply State.event_evolves)

@[simp] theorem State.latchLayers_evolves {z s : State} (h : z.Evolves s) :
    z.Evolves (State.latchLayers s) := by
  simp +contextual (maxDischargeDepth := 40) [State.latchLayers, snd_ite, *]

end Sys2Proof.Machine
end

