-- ==== Sys2Proof/Laws/ClocksEv.lean ====
section
/-!
SUPPORT. What the operations of Machine/Clocks.lean respect.
-/
namespace Sys2Proof.Machine

open Sys2Proof

@[simp] theorem State.resetBy_evolves {z s : State} (cause : Nat) (src : Nat) (wipe : Nat) (h : z.Evolves s) :
    z.Evolves (State.resetBy s cause src wipe) := by
  simp +contextual (maxDischargeDepth := 40) [State.resetBy, snd_ite, *]

@[simp] theorem State.coldReset_evolves {z s : State} (cause : Nat) (h : z.Evolves s) :
    z.Evolves (State.coldReset s cause) := by
  simp (maxDischargeDepth := 40) [State.coldReset, *]

@[simp] theorem State.filtered_evolves {z s : State} (ns : Nat) (act : State → State) (h : z.Evolves s) (hact : ∀ t, z.Evolves t →
    z.Evolves (act t)) :
    z.Evolves (State.filtered s ns act) := by
  simp (maxDischargeDepth := 40) [State.filtered, *]

@[simp] theorem execPowerOnReset_evolves {z s : State} (ns : Nat) (h : z.Evolves s) :
    Leads z (execPowerOnReset ns s) := by
  simp +contextual (maxDischargeDepth := 40) [execPowerOnReset, snd_ite, *]

@[simp] theorem execResetNAssert_evolves {z s : State} (ns : Nat) (h : z.Evolves s) :
    Leads z (execResetNAssert ns s) := by
  simp +contextual (maxDischargeDepth := 40) [execResetNAssert, snd_ite, *]

@[simp] theorem execResetRelease_evolves {z s : State} (strap : BitVec 4) (h : z.Evolves s) :
    Leads z (execResetRelease strap s) := by
  simp +contextual (maxDischargeDepth := 40) [execResetRelease, snd_ite, *]

@[simp] theorem State.setPllReady_evolves {z s : State} (p : Nat) (b : Bool) (h : z.Evolves s) :
    z.Evolves (State.setPllReady s p b) := by
  simp (maxDischargeDepth := 40) [State.setPllReady, *]

@[simp] theorem State.stopParts_evolves {z s : State} (h : z.Evolves s) :
    z.Evolves (State.stopParts s) := by
  simp +contextual (maxDischargeDepth := 40) [State.stopParts, snd_ite, *]

@[simp] theorem State.enterSafeHold_evolves {z s : State} (h : z.Evolves s) :
    z.Evolves (State.enterSafeHold s) := by
  simp +contextual (maxDischargeDepth := 40) [State.enterSafeHold, snd_ite, *]

@[simp] theorem execXtalQualified_evolves {z s : State} (x : Fin 2) (h : z.Evolves s) :
    Leads z (execXtalQualified x s) := by
  simp (maxDischargeDepth := 40) [execXtalQualified, *]

@[simp] theorem State.takeXB_evolves {z s : State} (h : z.Evolves s) :
    z.Evolves (State.takeXB s) := by
  unfold State.takeXB
  repeat' (first
    | (simp +contextual (maxDischargeDepth := 40) [snd_ite, *]; done)
    | split
    | dsimp only
    | (rw [leads_next])
    | (intro _)
    | refine foldl_evolves _ _ ?_ ?_
    | refine foldl_snd_evolves _ _ ?_ ?_
    | apply State.fset_evolves
    | apply State.fsets_evolves
    | apply State.event_evolves)

@[simp] theorem State.switchTo_evolves {z s : State} (d v : Nat) (h : z.Evolves s) :
    z.Evolves (State.switchTo s d v).2 := by
  unfold State.switchTo
  repeat' (first
    | (simp +contextual (maxDischargeDepth := 40) [snd_ite, *]; done)
    | split
    | dsimp only
    | (rw [leads_next])
    | (intro _)
    | refine foldl_evolves _ _ ?_ ?_
    | refine foldl_snd_evolves _ _ ?_ ?_
    | apply State.fset_evolves
    | apply State.fsets_evolves
    | apply State.event_evolves)

@[simp] theorem State.planSwitches_evolves {z s : State} (h : z.Evolves s) :
    z.Evolves (State.planSwitches s) := by
  unfold State.planSwitches
  repeat' (first
    | (simp +contextual (maxDischargeDepth := 40) [snd_ite, *]; done)
    | split
    | dsimp only
    | (rw [leads_next])
    | (intro _)
    | refine foldl_evolves _ _ ?_ ?_
    | refine foldl_snd_evolves _ _ ?_ ?_
    | apply State.fset_evolves
    | apply State.fsets_evolves
    | apply State.event_evolves)

@[simp] theorem execXtalQualTimeout_evolves {z s : State} (x : Fin 2) (h : z.Evolves s) :
    Leads z (execXtalQualTimeout x s) := by
  simp (maxDischargeDepth := 40) [execXtalQualTimeout, *]

@[simp] theorem execPllLock_evolves {z s : State} (p : Fin 6) (h : z.Evolves s) :
    Leads z (execPllLock p s) := by
  simp (maxDischargeDepth := 40) [execPllLock, *]

@[simp] theorem State.pllWrite_evolves {z s : State} (ag : Agent) (off : Nat) (v : Nat) (h : z.Evolves s) :
    z.Evolves (State.pllWrite s ag off v).2 := by
  simp +contextual (maxDischargeDepth := 40) [State.pllWrite, snd_ite, *]

@[simp] theorem State.trimWrite_evolves {z s : State} (ag : Agent) (v : Nat) (h : z.Evolves s) :
    z.Evolves (State.trimWrite s ag v).2 := by
  simp +contextual (maxDischargeDepth := 40) [State.trimWrite, snd_ite, *]

@[simp] theorem State.switchRefused_evolves {z s : State} (h : z.Evolves s) :
    z.Evolves (State.switchRefused s).2 := by
  simp (maxDischargeDepth := 40) [State.switchRefused, *]

@[simp] theorem State.selWrite_evolves {z s : State} (ag : Agent) (d : Nat) (v : Nat) (h : z.Evolves s) :
    z.Evolves (State.selWrite s ag d v).2 := by
  simp +contextual (maxDischargeDepth := 40) [State.selWrite, snd_ite, *]

@[simp] theorem execClkNativeSwitch_evolves {z s : State} (ag : Agent) (d : Fin 7) (src : Bool) (h : z.Evolves s) :
    Leads z (execClkNativeSwitch ag d src s) := by
  simp (maxDischargeDepth := 40) [execClkNativeSwitch, *]

@[simp] theorem execClkRampSwitch_evolves {z s : State} (ag : Agent) (d : Fin 7) (src : Bool) (h : z.Evolves s) :
    Leads z (execClkRampSwitch ag d src s) := by
  simp (maxDischargeDepth := 40) [execClkRampSwitch, *]

@[simp] theorem execRampStepExpiry_evolves {z s : State} (d : Fin 7) (h : z.Evolves s) :
    Leads z (execRampStepExpiry d s) := by
  simp (maxDischargeDepth := 40) [execRampStepExpiry, *]

@[simp] theorem State.gateWrite_evolves {z s : State} (ag : Agent) (g : Nat) (v : Nat) (h : z.Evolves s) :
    z.Evolves (State.gateWrite s ag g v).2 := by
  simp +contextual (maxDischargeDepth := 40) [State.gateWrite, snd_ite, *]

@[simp] theorem execClkGateWrite_evolves {z s : State} (ag : Agent) (g : Fin 25) (en : Bool) (h : z.Evolves s) :
    Leads z (execClkGateWrite ag g en s) := by
  simp (maxDischargeDepth := 40) [execClkGateWrite, *]

@[simp] theorem execTrimWindow_evolves {z s : State} (target : BitVec 10) (within : Bool) (h : z.Evolves s) :
    Leads z (execTrimWindow target within s) := by
  simp (maxDischargeDepth := 40) [execTrimWindow, *]

@[simp] theorem execCanTrimFrame_evolves {z s : State} (c : Fin 4) (h : z.Evolves s) :
    Leads z (execCanTrimFrame c s) := by
  simp (maxDischargeDepth := 40) [execCanTrimFrame, *]

@[simp] theorem State.toFirc_evolves {z s : State} (p : Nat) (h : z.Evolves s) :
    z.Evolves (State.toFirc s p) := by
  simp (maxDischargeDepth := 40) [State.toFirc, *]

@[simp] theorem State.fallBack_evolves {z s : State} (x : Nat) (l : List Nat) (h : z.Evolves s) :
    z.Evolves (State.fallBack s x l).2 := by
  simp +contextual (maxDischargeDepth := 40) [State.fallBack, snd_ite, *]

@[simp] theorem execClockMonitorFail_evolves {z s : State} (src : Fin 10) (h : z.Evolves s) :
    Leads z (execClockMonitorFail src s) := by
  simp +contextual (maxDischargeDepth := 40) [execClockMonitorFail, snd_ite, *]

@[simp] theorem execFircMonitorWarning_evolves {z s : State} (h : z.Evolves s) :
    Leads z (execFircMonitorWarning s) := by
  simp (maxDischargeDepth := 40) [execFircMonitorWarning, *]

@[simp] theorem execSircWindowTimeout_evolves {z s : State} (h : z.Evolves s) :
    Leads z (execSircWindowTimeout s) := by
  simp (maxDischargeDepth := 40) [execSircWindowTimeout, *]

@[simp] theorem execSircQualified_evolves {z s : State} (h : z.Evolves s) :
    Leads z (execSircQualified s) := by
  simp (maxDischargeDepth := 40) [execSircQualified, *]

@[simp] theorem execSupplyWarning_evolves {z s : State} (rail : Fin 7) (outside : Bool) (h : z.Evolves s) :
    Leads z (execSupplyWarning rail outside s) := by
  simp (maxDischargeDepth := 40) [execSupplyWarning, *]

@[simp] theorem execSupplyResetExpiry_evolves {z s : State} (h : z.Evolves s) :
    Leads z (execSupplyResetExpiry s) := by
  simp (maxDischargeDepth := 40) [execSupplyResetExpiry, *]

@[simp] theorem execThermalThreshold_evolves {z s : State} (tj : BitVec 9) (h : z.Evolves s) :
    Leads z (execThermalThreshold tj s) := by
  simp +contextual (maxDischargeDepth := 40) [execThermalThreshold, snd_ite, *]

@[simp] theorem execThermalShutdownExpiry_evolves {z s : State} (h : z.Evolves s) :
    Leads z (execThermalShutdownExpiry s) := by
  simp (maxDischargeDepth := 40) [execThermalShutdownExpiry, *]

@[simp] theorem execPocOvercurrent_evolves {z s : State} (k : Fin 14) (mv : Nat) (h : z.Evolves s) :
    Leads z (execPocOvercurrent k mv s) := by
  simp +contextual (maxDischargeDepth := 40) [execPocOvercurrent, snd_ite, *]

@[simp] theorem execPocRetryExpiry_evolves {z s : State} (k : Fin 14) (h : z.Evolves s) :
    Leads z (execPocRetryExpiry k s) := by
  simp (maxDischargeDepth := 40) [execPocRetryExpiry, *]

@[simp] theorem State.lcreqWrite_evolves {z s : State} (ag : Agent) (v : Nat) (h : z.Evolves s) :
    z.Evolves (State.lcreqWrite s ag v).2 := by
  simp +contextual (maxDischargeDepth := 40) [State.lcreqWrite, snd_ite, *]

@[simp] theorem execSysLcreqWrite_evolves {z s : State} (ag : Agent) (v : Word) (h : z.Evolves s) :
    Leads z (execSysLcreqWrite ag v s) := by
  simp (maxDischargeDepth := 40) [execSysLcreqWrite, *]

@[simp] theorem execFuseProgrammingDone_evolves {z s : State} (h : z.Evolves s) :
    Leads z (execFuseProgrammingDone s) := by
  unfold execFuseProgrammingDone
  repeat' (first
    | (simp +contextual (maxDischargeDepth := 40) [snd_ite, *]; done)
    | split
    | dsimp only
    | (rw [leads_next])
    | (intro _)
    | refine foldl_evolves _ _ ?_ ?_
    | refine foldl_snd_evolves _ _ ?_ ?_
    | apply State.fset_evolves
    | apply State.fsets_evolves
    | apply State.event_evolves
    | apply State.filtered_evolves)

end Sys2Proof.Machine
end

