-- ==== Sys2Proof/Laws/EspalierEv.lean ====
section
/-!
SUPPORT. What the operations of Machine/Espalier.lean respect.
-/
namespace Sys2Proof.Machine

open Sys2Proof

@[simp] theorem State.espHold_evolves {z s : State} (h : z.Evolves s) :
    z.Evolves (State.espHold s) := by
  simp (maxDischargeDepth := 40) [State.espHold, *]

@[simp] theorem State.espClock_evolves {z s : State} (rises : Nat × Macrocell → Bool) (h : z.Evolves s) :
    z.Evolves (State.espClock s rises) := by
  simp +contextual (maxDischargeDepth := 40) [State.espClock, snd_ite, *]

@[simp] theorem State.espAlt_evolves {z s : State} (h : z.Evolves s) :
    z.Evolves (State.espAlt s) := by
  simp (maxDischargeDepth := 40) [State.espAlt, *]

@[simp] theorem State.espTree_evolves {z s : State} (trees : List Nat) (h : z.Evolves s) :
    z.Evolves (State.espTree s trees) := by
  simp (maxDischargeDepth := 40) [State.espTree, *]

@[simp] theorem State.fclkTrees_evolves {z s : State} (h : z.Evolves s) :
    z.Evolves (State.fclkTrees s).2 := by
  simp +contextual (maxDischargeDepth := 40) [State.fclkTrees, snd_ite, *]

@[simp] theorem State.espEnter_evolves {z s : State} (st : Nat) (h : z.Evolves s) :
    z.Evolves (State.espEnter s st) := by
  simp +contextual (maxDischargeDepth := 40) [State.espEnter, snd_ite, *]

@[simp] theorem State.fclkEdge_evolves {z s : State} (h : z.Evolves s) :
    z.Evolves (State.fclkEdge s) := by
  simp +contextual (maxDischargeDepth := 40) [State.fclkEdge, snd_ite, *]

@[simp] theorem State.espTick_evolves {z s : State} (h : z.Evolves s) :
    z.Evolves (State.espTick s) := by
  simp (maxDischargeDepth := 40) [State.espTick, *]

@[simp] theorem State.idle_evolves {z s : State} (h : z.Evolves s) :
    z.Evolves (State.idle s) := State.espTick_evolves ⟨h.1, h.2, h.3, h.4, h.5, Nat.le_succ_of_le h.6, h.7⟩

@[simp] theorem State.espConfigure_evolves {z s : State} (h : z.Evolves s) :
    z.Evolves (State.espConfigure s) := by
  unfold State.espConfigure
  repeat' (first
    | (simp +contextual (maxDischargeDepth := 40) [snd_ite, *]; done)
    | split
    | dsimp only
    | (rw [leads_next])
    | (intro _)
    | refine foldl_evolves _ _ ?_ ?_
    | refine foldl_snd_evolves _ _ ?_ ?_
    | apply State.fset_evolves
    | apply State.fsets_evolves
    | apply State.event_evolves)

@[simp] theorem State.espTells_evolves {z s : State} (h : z.Evolves s) :
    z.Evolves (State.espTells s) := by
  simp +contextual (maxDischargeDepth := 40) [State.espTells, snd_ite, *]

@[simp] theorem execEspOutputsRelease_evolves {z s : State} (h : z.Evolves s) :
    Leads z (execEspOutputsRelease s) := by
  simp (maxDischargeDepth := 40) [execEspOutputsRelease, *]

@[simp] theorem execEspWriteEnable_evolves {z s : State} (h : z.Evolves s) :
    Leads z (execEspWriteEnable s) := by
  simp (maxDischargeDepth := 40) [execEspWriteEnable, *]

@[simp] theorem execEspResetRelease_evolves {z s : State} (h : z.Evolves s) :
    Leads z (execEspResetRelease s) := by
  simp +contextual (maxDischargeDepth := 40) [execEspResetRelease, snd_ite, *]

@[simp] theorem execEspRunEntry_evolves {z s : State} (h : z.Evolves s) :
    Leads z (execEspRunEntry s) := by
  simp (maxDischargeDepth := 40) [execEspRunEntry, *]

@[simp] theorem execEspRecoveryEntry_evolves {z s : State} (h : z.Evolves s) :
    Leads z (execEspRecoveryEntry s) := by
  simp (maxDischargeDepth := 40) [execEspRecoveryEntry, *]

@[simp] theorem execEspEoRise_evolves {z s : State} (k : Fin 28) (h : z.Evolves s) :
    Leads z (execEspEoRise k s) := by
  simp (maxDischargeDepth := 40) [execEspEoRise, *]

@[simp] theorem State.espSettled_evolves {z s : State} (h : z.Evolves s) :
    z.Evolves (State.espSettled s) := by
  unfold State.espSettled
  repeat' (first
    | (simp +contextual (maxDischargeDepth := 40) [snd_ite, *]; done)
    | split
    | dsimp only
    | (rw [leads_next])
    | (intro _)
    | refine foldl_evolves _ _ ?_ ?_
    | refine foldl_snd_evolves _ _ ?_ ?_
    | apply State.fset_evolves
    | apply State.fsets_evolves
    | apply State.event_evolves)

@[simp] theorem State.espTestWrite_evolves {z s : State} (ag : Agent) (v : Nat) (h : z.Evolves s) :
    z.Evolves (State.espTestWrite s ag v).2 := by
  simp +contextual (maxDischargeDepth := 40) [State.espTestWrite, snd_ite, *]

@[simp] theorem State.espTestRow_evolves {z s : State} (ag : Agent) (enter : Bool) (stop : Bool) (step : Bool) (h : z.Evolves s) :
    Leads z (State.espTestRow s ag enter stop step) := by
  simp (maxDischargeDepth := 40) [State.espTestRow, *]

@[simp] theorem execEspTestEnter_evolves {z s : State} (ag : Agent) (h : z.Evolves s) :
    Leads z (execEspTestEnter ag s) := by
  simp (maxDischargeDepth := 40) [execEspTestEnter, *]

@[simp] theorem execEspTestExit_evolves {z s : State} (ag : Agent) (h : z.Evolves s) :
    Leads z (execEspTestExit ag s) := by
  simp (maxDischargeDepth := 40) [execEspTestExit, *]

@[simp] theorem execEspTestStop_evolves {z s : State} (ag : Agent) (h : z.Evolves s) :
    Leads z (execEspTestStop ag s) := by
  simp (maxDischargeDepth := 40) [execEspTestStop, *]

@[simp] theorem execEspTestStep_evolves {z s : State} (ag : Agent) (h : z.Evolves s) :
    Leads z (execEspTestStep ag s) := by
  simp (maxDischargeDepth := 40) [execEspTestStep, *]

@[simp] theorem execGpioPadInputChange_evolves {z s : State} (g : Fin 96) (level : Bool) (h : z.Evolves s) :
    Leads z (execGpioPadInputChange g level s) := by
  simp (maxDischargeDepth := 40) [execGpioPadInputChange, *]

end Sys2Proof.Machine
end

