-- ==== Sys2Proof/Laws/DeviceEv.lean ====
section
/-!
SUPPORT. What the operations of Machine/Device.lean respect.
-/
namespace Sys2Proof.Machine

open Sys2Proof

@[simp] theorem State.devRead_evolves {z s : State} (ag : Agent) (off : Nat) (h : z.Evolves s) :
    z.Evolves (State.devRead s ag off).2.2 := by
  simp +contextual (maxDischargeDepth := 40) [State.devRead, snd_ite, *]

@[simp] theorem execArrayHdataRead_evolves {z s : State} (ag : Agent) (h : z.Evolves s) :
    Leads z (execArrayHdataRead ag s) := by
  unfold execArrayHdataRead
  repeat' (first
    | (simp +contextual (maxDischargeDepth := 40) [snd_ite, *]; done)
    | split
    | dsimp only
    | (rw [leads_next])
    | (intro _)
    | refine foldl_evolves _ _ ?_ ?_
    | refine foldl_snd_evolves _ _ ?_ ?_
    | refine State.atHub_evolves _ _ h ?_
    | apply State.fset_evolves
    | apply State.fsets_evolves
    | apply State.event_evolves)

@[simp] theorem State.saveAreaWrite_evolves {z s : State} (ag : Agent) (n : Nat) (off : Nat) (v : Nat) (h : z.Evolves s) :
    z.Evolves (State.saveAreaWrite s ag n off v).2 := by
  simp +contextual (maxDischargeDepth := 40) [State.saveAreaWrite, snd_ite, *]

@[simp] theorem State.devWriteLow_evolves {z s : State} (ag : Agent) (off : Nat) (v : Nat) (h : z.Evolves s) :
    z.Evolves (State.devWriteLow s ag off v).2 := by
  unfold State.devWriteLow
  repeat' (first
    | (simp +contextual (maxDischargeDepth := 40) [snd_ite, *]; done)
    | split
    | dsimp only
    | (rw [leads_next])
    | (intro _)
    | refine foldl_evolves _ _ ?_ ?_
    | refine foldl_snd_evolves _ _ ?_ ?_
    | apply State.fset_evolves
    | apply State.fsets_evolves
    | apply State.event_evolves)

@[simp] theorem State.devWriteMid_evolves {z s : State} (ag : Agent) (off : Nat) (v : Nat) (h : z.Evolves s) :
    z.Evolves (State.devWriteMid s ag off v).2 := by
  unfold State.devWriteMid
  repeat' (first
    | (simp +contextual (maxDischargeDepth := 40) [snd_ite, *]; done)
    | split
    | dsimp only
    | (rw [leads_next])
    | (intro _)
    | refine foldl_evolves _ _ ?_ ?_
    | refine foldl_snd_evolves _ _ ?_ ?_
    | apply State.fset_evolves
    | apply State.fsets_evolves
    | apply State.event_evolves)

@[simp] theorem State.devWriteHigh_evolves {z s : State} (ag : Agent) (off : Nat) (v : Nat) (h : z.Evolves s) :
    z.Evolves (State.devWriteHigh s ag off v).2 := by
  unfold State.devWriteHigh
  repeat' (first
    | (simp +contextual (maxDischargeDepth := 40) [snd_ite, *]; done)
    | split
    | dsimp only
    | (rw [leads_next])
    | (intro _)
    | refine foldl_evolves _ _ ?_ ?_
    | refine foldl_snd_evolves _ _ ?_ ?_
    | apply State.fset_evolves
    | apply State.fsets_evolves
    | apply State.event_evolves)

@[simp] theorem State.devWrite_evolves {z s : State} (ag : Agent) (off : Nat) (v : Nat) (h : z.Evolves s) :
    z.Evolves (State.devWrite s ag off v).2 := by
  simp +contextual (maxDischargeDepth := 40) [State.devWrite, snd_ite, *]

@[simp] theorem execRegisterWrite_evolves {z s : State} (ag : Agent) (off : Nat) (v : Word) (h : z.Evolves s) :
    Leads z (execRegisterWrite ag off v s) := by
  unfold execRegisterWrite
  repeat' (first
    | (simp +contextual (maxDischargeDepth := 40) [snd_ite, *]; done)
    | split
    | dsimp only
    | (rw [leads_next])
    | (intro _)
    | refine foldl_evolves _ _ ?_ ?_
    | refine foldl_snd_evolves _ _ ?_ ?_
    | refine State.atHub_evolves _ _ h ?_
    | apply State.fset_evolves
    | apply State.fsets_evolves
    | apply State.event_evolves)

@[simp] theorem State.busRead_evolves {z s : State} (ag : Agent) (a : Nat) (k : Nat) (h : z.Evolves s) :
    z.Evolves (State.busRead s ag a k).2.2 := by
  unfold State.busRead
  repeat' (first
    | (simp +contextual (maxDischargeDepth := 40) [snd_ite, *]; done)
    | split
    | dsimp only
    | (rw [leads_next])
    | (intro _)
    | refine foldl_evolves _ _ ?_ ?_
    | refine foldl_snd_evolves _ _ ?_ ?_
    | apply State.fset_evolves
    | apply State.fsets_evolves
    | apply State.event_evolves)

@[simp] theorem State.busWrite_evolves {z s : State} (ag : Agent) (a : Nat) (k : Nat) (v : Nat) (h : z.Evolves s) :
    z.Evolves (State.busWrite s ag a k v).2 := by
  unfold State.busWrite
  repeat' (first
    | (simp +contextual (maxDischargeDepth := 40) [snd_ite, *]; done)
    | split
    | dsimp only
    | (rw [leads_next])
    | (intro _)
    | refine foldl_evolves _ _ ?_ ?_
    | refine foldl_snd_evolves _ _ ?_ ?_
    | apply State.fset_evolves
    | apply State.fsets_evolves
    | apply State.event_evolves)

@[simp] theorem State.packetRead_evolves {z s : State} (ag : Agent) (a k : Nat) (h : z.Evolves s) :
    z.Evolves (State.packetRead s ag a k).2.2 := by
  unfold State.packetRead
  repeat' (first
    | (simp +contextual (maxDischargeDepth := 40) [snd_ite, *]; done)
    | split
    | dsimp only
    | (rw [leads_next])
    | (intro _)
    | refine foldl_evolves _ _ ?_ ?_
    | refine foldl_snd_evolves _ _ ?_ ?_
    | apply State.fset_evolves
    | apply State.fsets_evolves
    | apply State.event_evolves)

@[simp] theorem State.packetWrite_evolves {z s : State} (ag : Agent) (a k v : Nat) (h : z.Evolves s) :
    z.Evolves (State.packetWrite s ag a k v).2 := by
  unfold State.packetWrite
  repeat' (first
    | (simp +contextual (maxDischargeDepth := 40) [snd_ite, *]; done)
    | split
    | dsimp only
    | (rw [leads_next])
    | (intro _)
    | refine foldl_evolves _ _ ?_ ?_
    | refine foldl_snd_evolves _ _ ?_ ?_
    | apply State.fset_evolves
    | apply State.fsets_evolves
    | apply State.event_evolves)

@[simp] theorem State.pathRead_evolves {z s : State} (ag : Agent) (a : Nat) (k : Nat) (h : z.Evolves s) :
    z.Evolves (State.pathRead s ag a k).2.2 := by
  unfold State.pathRead
  repeat' (first
    | (simp +contextual (maxDischargeDepth := 40) [snd_ite, *]; done)
    | split
    | dsimp only
    | (rw [leads_next])
    | (intro _)
    | refine foldl_evolves _ _ ?_ ?_
    | refine foldl_snd_evolves _ _ ?_ ?_
    | apply State.fset_evolves
    | apply State.fsets_evolves
    | apply State.event_evolves)

@[simp] theorem State.pathWrite_evolves {z s : State} (ag : Agent) (a : Nat) (k : Nat) (v : Nat) (h : z.Evolves s) :
    z.Evolves (State.pathWrite s ag a k v).2 := by
  unfold State.pathWrite
  repeat' (first
    | (simp +contextual (maxDischargeDepth := 40) [snd_ite, *]; done)
    | split
    | dsimp only
    | (rw [leads_next])
    | (intro _)
    | refine foldl_evolves _ _ ?_ ?_
    | refine foldl_snd_evolves _ _ ?_ ?_
    | apply State.fset_evolves
    | apply State.fsets_evolves
    | apply State.event_evolves)

end Sys2Proof.Machine
end

