-- ==== Sys2Proof/Laws/OperandsEv.lean ====
section
/-!
SUPPORT. What the operations of Machine/Operands.lean respect.
-/
namespace Sys2Proof.Machine

open Sys2Proof

@[simp] theorem State.advance_evolves {z s : State} (n : Dealer) (op : SOp) (cost : Nat) (h : z.Evolves s) :
    z.Evolves (State.advance s n op cost) := by
  simp (maxDischargeDepth := 40) [State.advance, *]

@[simp] theorem runScalar_evolves {z s : State} (n : Dealer) (op : SOp) (chk : Option Trap) (eff : State → State) (h : z.Evolves s) (heff
    : ∀ t, z.Evolves t → z.Evolves (eff t)) :
    Leads z (runScalar n op s chk eff) := by
  unfold runScalar
  repeat' (first
    | (simp +contextual (maxDischargeDepth := 40) [snd_ite, *]; done)
    | split
    | dsimp only
    | (rw [leads_next])
    | (intro _)
    | refine foldl_evolves _ _ ?_ ?_
    | refine foldl_snd_evolves _ _ ?_ ?_
    | apply State.fset_evolves
    | apply State.fsets_evolves
    | apply State.event_evolves)

@[simp] theorem runReg_evolves {z s : State} (n : Dealer) (opc : Nat) (op : SOp) (cost : Nat) (f : Nat → Nat → Word → Option (Nat ×
    Word)) (h : z.Evolves s) :
    Leads z (runReg n opc op s cost f) := by
  unfold runReg
  repeat' (first
    | (simp +contextual (maxDischargeDepth := 40) [snd_ite, *]; done)
    | split
    | dsimp only
    | (rw [leads_next])
    | (intro _)
    | refine foldl_evolves _ _ ?_ ?_
    | refine foldl_snd_evolves _ _ ?_ ?_
    | apply State.fset_evolves
    | apply State.fsets_evolves
    | apply State.event_evolves
    | apply runScalar_evolves)

@[simp] theorem runImm_evolves {z s : State} (n : Dealer) (opc : Nat) (op : SOp) (signed : Bool) (bad : Bool) (f : Nat → Nat → Word →
    Option (Nat × Word)) (h : z.Evolves s) :
    Leads z (runImm n opc op s signed bad f) := by
  unfold runImm
  repeat' (first
    | (simp +contextual (maxDischargeDepth := 40) [snd_ite, *]; done)
    | split
    | dsimp only
    | (rw [leads_next])
    | (intro _)
    | refine foldl_evolves _ _ ?_ ?_
    | refine foldl_snd_evolves _ _ ?_ ?_
    | apply State.fset_evolves
    | apply State.fsets_evolves
    | apply State.event_evolves
    | apply runScalar_evolves)

@[simp] theorem State.ctxWrite_evolves {z s : State} (n : Dealer) (x2 : List (Nat × Nat × Nat)) (h : z.Evolves s) :
    z.Evolves (State.ctxWrite s n x2).2 := by
  revert h
  fun_induction State.ctxWrite s n x2 <;> intro h <;>
  repeat' (first
    | (simp +contextual +zetaDelta (maxDischargeDepth := 40) [snd_ite, *]; done)
    | split
    | dsimp only
    | (rw [leads_next])
    | (intro _)
    | refine foldl_evolves _ _ ?_ ?_
    | refine foldl_snd_evolves _ _ ?_ ?_
    | apply State.fset_evolves
    | apply State.fsets_evolves
    | apply State.event_evolves
    | apply runScalar_evolves)

@[simp] theorem State.ctxRead_evolves {z s : State} (n : Dealer) (x2 : List (Nat × Nat)) (h : z.Evolves s) :
    z.Evolves (State.ctxRead s n x2).2 := by
  revert h
  fun_induction State.ctxRead s n x2 <;> intro h <;>
  repeat' (first
    | (simp +contextual +zetaDelta (maxDischargeDepth := 40) [snd_ite, *]; done)
    | split
    | dsimp only
    | (rw [leads_next])
    | (intro _)
    | refine foldl_evolves _ _ ?_ ?_
    | refine foldl_snd_evolves _ _ ?_ ?_
    | apply State.fset_evolves
    | apply State.fsets_evolves
    | apply State.event_evolves
    | apply runScalar_evolves)

@[simp] theorem State.ctxErr_evolves {z s : State} (n : Dealer) (h : z.Evolves s) :
    z.Evolves (State.ctxErr s n) := by
  simp (maxDischargeDepth := 40) [State.ctxErr, *]

@[simp] theorem State.lazyFill_evolves {z s : State} (n : Dealer) (g : Nat) (h : z.Evolves s) :
    z.Evolves (State.lazyFill s n g).2 := by
  simp +contextual (maxDischargeDepth := 40) [State.lazyFill, snd_ite, *]

@[simp] theorem State.withFill_evolves {z s : State} (n : Dealer) (g : Nat) (eff : State → State) (h : z.Evolves s) (heff : ∀ t,
    z.Evolves t → z.Evolves (eff t)) :
    z.Evolves (State.withFill s n g eff) := by
  simp (maxDischargeDepth := 40) [State.withFill, *]

@[simp] theorem State.lateTrap_evolves {z s : State} (n : Dealer) (op : SOp) (cost : Nat) (t : Trap) (h : z.Evolves s) :
    z.Evolves (State.lateTrap s n op cost t) := by
  simp (maxDischargeDepth := 40) [State.lateTrap, *]

@[simp] theorem State.fpEnd_evolves {z s : State} (n : Dealer) (op : SOp) (cost : Nat) (r : FRes) (write : State → State) (h : z.Evolves
    s) (hwrite : ∀ t, z.Evolves t → z.Evolves (write t)) :
    z.Evolves (State.fpEnd s n op cost r write) := by
  simp +contextual (maxDischargeDepth := 40) [State.fpEnd, snd_ite, *]

@[simp] theorem runFP_evolves {z s : State} (n : Dealer) (opc : Nat) (op : SOp) (useB : Bool) (useC : Bool) (bad : Bool) (toF : Bool)
    (cost : Nat) (res : State → FRes) (write : State → Nat → State) (h : z.Evolves s) (hwrite : ∀ t a1, z.Evolves t → z.Evolves (write t
    a1)) :
    Leads z (runFP n opc op s useB useC bad toF cost res write) := by
  simp +contextual (maxDischargeDepth := 40) [runFP, snd_ite, *]

@[simp] theorem State.segRead_evolves {z s : State} (n : Dealer) (x : Desc) (off : Nat) (k : Nat) (h : z.Evolves s) :
    z.Evolves (State.segRead s n x off k).2.2 := by
  simp +contextual (maxDischargeDepth := 40) [State.segRead, snd_ite, *]

@[simp] theorem State.segWrite_evolves {z s : State} (n : Dealer) (x : Desc) (off : Nat) (k : Nat) (v : Nat) (h : z.Evolves s) :
    z.Evolves (State.segWrite s n x off k v).2 := by
  simp (maxDischargeDepth := 40) [State.segWrite, *]

@[simp] theorem State.accessError_evolves {z s : State} (n : Dealer) (status : Nat) (a : Nat) (seg : Nat) (wr : Bool) (h : z.Evolves s) :
    z.Evolves (State.accessError s n status a seg wr) := by
  simp +contextual (maxDischargeDepth := 40) [State.accessError, snd_ite, *]

@[simp] theorem runLoad_evolves {z s : State} (n : Dealer) (opc : Nat) (op : SOp) (k : Nat) (bad : Bool) (toF : Bool) (write : State →
    Nat → State) (h : z.Evolves s) (hwrite : ∀ t a1, z.Evolves t → z.Evolves (write t a1)) :
    Leads z (runLoad n opc op s k bad toF write) := by
  simp +contextual (maxDischargeDepth := 40) [runLoad, snd_ite, *]

@[simp] theorem runStore_evolves {z s : State} (n : Dealer) (opc : Nat) (op : SOp) (k : Nat) (bad : Bool) (v : State → Nat) (h :
    z.Evolves s) :
    Leads z (runStore n opc op s k bad v) := by
  simp +contextual (maxDischargeDepth := 40) [runStore, snd_ite, *]

end Sys2Proof.Machine
end

