-- ==== Sys2Proof/Laws/ArrayOpsEv.lean ====
section
/-!
SUPPORT. What the operations of Machine/ArrayOps.lean respect.
-/
namespace Sys2Proof.Machine

open Sys2Proof

@[simp] theorem State.setMRow_evolves {z s : State} (y : Nat) (j : Nat) (v : Nat) (h : z.Evolves s) :
    z.Evolves (State.setMRow s y j v) := by
  simp (maxDischargeDepth := 40) [State.setMRow, *]

@[simp] theorem State.writeRow_evolves {z s : State} (p : Nat) (y : Nat) (j : Nat) (gate : Nat → Bool) (bit : Nat → Bool) (h : z.Evolves
    s) :
    z.Evolves (State.writeRow s p y j gate bit) := by
  simp (maxDischargeDepth := 40) [State.writeRow, *]

@[simp] theorem State.writeField_evolves {z s : State} (rows : List (Nat × Nat)) (base : Nat) (w : Nat) (gate : Nat → Nat → Bool) (v :
    Nat → Nat → Nat) (h : z.Evolves s) :
    z.Evolves (State.writeField s rows base w gate v) := by
  simp +contextual (maxDischargeDepth := 40) [State.writeField, snd_ite, *]

@[simp] theorem State.raiseFlags_evolves {z s : State} (rows : List (Nat × Nat)) (gate : Nat → Nat → Bool) (fl : Nat → Nat → Nat) (h :
    z.Evolves s) :
    z.Evolves (State.raiseFlags s rows gate fl) := by
  simp +contextual (maxDischargeDepth := 40) [State.raiseFlags, snd_ite, *]

@[simp] theorem State.scanPlanes_evolves {z s : State} (rows : List (Nat × Nat)) (planes : List Nat) (h : z.Evolves s) :
    z.Evolves (State.scanPlanes s rows planes).2 := by
  simp +contextual (maxDischargeDepth := 40) [State.scanPlanes, snd_ite, *]

@[simp] theorem State.dispEntry_evolves {z s : State} (n : Dealer) (aop : Nat) (h : z.Evolves s) :
    z.Evolves (State.dispEntry s n aop).2.2 := by
  simp (maxDischargeDepth := 40) [State.dispEntry, *]

@[simp] theorem State.tUndefined_evolves {z s : State} (h : z.Evolves s) :
    z.Evolves (State.tUndefined s) := by
  simp (maxDischargeDepth := 40) [State.tUndefined, *]

@[simp] theorem State.arrayEnd_evolves {z s : State} (n : Dealer) (op : AOp) (cost : Nat) (h : z.Evolves s) :
    z.Evolves (State.arrayEnd s n op cost) := by
  simp +contextual (maxDischargeDepth := 40) [State.arrayEnd, snd_ite, *]

@[simp] theorem State.holdArray_evolves {z s : State} (n : Dealer) (h : z.Evolves s) :
    z.Evolves (State.holdArray s n) := by
  simp (maxDischargeDepth := 40) [State.holdArray, *]

@[simp] theorem State.unhold_evolves {z s : State} (n : Dealer) (k : Nat) (h : z.Evolves s) :
    z.Evolves (State.unhold s n k) := by
  simp (maxDischargeDepth := 40) [State.unhold, *]

@[simp] theorem runArray_evolves {z s : State} (n : Dealer) (aop : Nat) (op : AOp) (chk : Option Trap) (zero : Bool) (chk6 : Option Trap)
    (eff : State → State) (h : z.Evolves s) (heff : chk6 = none → ∀ t, z.Evolves t → z.Evolves (eff t)) :
    Leads z (runArray n aop op s chk zero chk6 eff) := by
  unfold runArray
  repeat' (first
    | (simp +contextual (maxDischargeDepth := 40) [snd_ite, *]; done)
    | split
    | dsimp only
    | (rw [leads_next])
    | (intro _)
    | refine foldl_evolves _ _ ?_ ?_
    | refine foldl_snd_evolves _ _ ?_ ?_
    | apply State.fset_evolves
    | apply State.fsets_evolves
    | apply State.event_evolves)

@[simp] theorem State.withSources_evolves {z s : State} (n : Dealer) (aop : Nat) (rows : List (Nat × Nat)) (planes : List Nat) (eff :
    State → State) (h : z.Evolves s) (heff : ∀ t, z.Evolves t → z.Evolves (eff t)) :
    z.Evolves (State.withSources s n aop rows planes eff) := by
  simp (maxDischargeDepth := 40) [State.withSources, *]

@[simp] theorem State.withReads_evolves {z s : State} (n : Dealer) (aop : Nat) (rows : List (Nat × Nat)) (planes : List Nat) (dest : List
    Nat) (eff : State → State) (h : z.Evolves s) (heff : ∀ t, z.Evolves t → z.Evolves (eff t)) :
    z.Evolves (State.withReads s n aop rows planes dest eff) := by
  simp +contextual (maxDischargeDepth := 40) [State.withReads, snd_ite, *]

@[simp] theorem State.withFlags_evolves {z s : State} (n : Dealer) (aop : Nat) (rows : List (Nat × Nat)) (fl : State → Nat → Nat → Nat)
    (x5 : List Nat) (x6 : State → State) (h : z.Evolves s) (hx6 : ∀ t, z.Evolves t → z.Evolves (x6 t)) :
    z.Evolves (State.withFlags s n aop rows fl x5 x6) := by
  revert h
  fun_induction State.withFlags s n aop rows fl x5 x6 <;> intro h <;>
  repeat' (first
    | (simp +contextual +zetaDelta (maxDischargeDepth := 40) [snd_ite, *]; done)
    | split
    | dsimp only
    | (rw [leads_next])
    | (intro _)
    | refine foldl_evolves _ _ ?_ ?_
    | refine foldl_snd_evolves _ _ ?_ ?_
    | apply State.fset_evolves
    | apply State.fsets_evolves
    | apply State.event_evolves
    | apply runArray_evolves
    | apply State.withSources_evolves
    | apply State.withReads_evolves)

@[simp] theorem runField_evolves {z s : State} (n : Dealer) (aop : Nat) (op : AOp) (u : AUse) (badW : Widths → Bool) (zero : Bool) (cost
    : Widths → Nat) (wc : Bool) (g : State → Nat → Nat → PERes) (pre : State → State) (h : z.Evolves s) (hpre : ∀ t, z.Evolves t →
    z.Evolves (pre t)) :
    Leads z (runField n aop op s u badW zero cost wc g pre) := by
  unfold runField
  repeat' (first
    | (simp +contextual (maxDischargeDepth := 40) [snd_ite, *]; done)
    | split
    | dsimp only
    | (rw [leads_next])
    | (intro _)
    | refine foldl_evolves _ _ ?_ ?_
    | refine foldl_snd_evolves _ _ ?_ ?_
    | apply State.fset_evolves
    | apply State.fsets_evolves
    | apply State.event_evolves
    | apply runArray_evolves
    | apply State.withSources_evolves
    | apply State.withReads_evolves
    | apply State.withFlags_evolves)

@[simp] theorem runInt_evolves {z s : State} (n : Dealer) (aop : Nat) (op : AOp) (cost : Nat → Nat) (maxW : Nat) (f : Nat → Nat → Nat →
    PERes) (h : z.Evolves s) :
    Leads z (runInt n aop op s cost maxW f) := by
  simp (maxDischargeDepth := 40) [runInt, *]

@[simp] theorem runCmp_evolves {z s : State} (n : Dealer) (aop : Nat) (op : AOp) (k : Nat) (f : Nat → Nat → Nat → Bool) (h : z.Evolves s) :
    Leads z (runCmp n aop op s k f) := by
  simp (maxDischargeDepth := 40) [runCmp, *]

@[simp] theorem runShift_evolves {z s : State} (n : Dealer) (aop : Nat) (op : AOp) (f : Nat → Nat → Nat → Nat) (h : z.Evolves s) :
    Leads z (runShift n aop op s f) := by
  simp (maxDischargeDepth := 40) [runShift, *]

@[simp] theorem State.arrayFPTrap_evolves {z s : State} (n : Dealer) (op : AOp) (cost : Nat) (ex : Nat) (h : z.Evolves s) :
    z.Evolves (State.arrayFPTrap s n op cost ex) := by
  simp +contextual (maxDischargeDepth := 40) [State.arrayFPTrap, snd_ite, *]

@[simp] theorem runAFP_evolves {z s : State} (n : Dealer) (aop0 : Nat) (op : AOp) (u : AUse) (wd : Nat) (wa : Nat) (wb : Nat) (wc : Nat)
    (cS : Nat) (cH : Nat) (g : State → Nat → Nat → FRes) (h : z.Evolves s) :
    Leads z (runAFP n aop0 op s u wd wa wb wc cS cH g) := by
  simp +contextual (maxDischargeDepth := 40) [runAFP, snd_ite, *]

end Sys2Proof.Machine
end

