-- ==== Sys2Proof/Laws/ScalarEv.lean ====
section
/-!
SUPPORT. What the operations of Machine/Scalar.lean respect.
-/
namespace Sys2Proof.Machine

open Sys2Proof

@[simp] theorem execAdd_evolves {z s : State} (n : Dealer) (op : SOp) (h : z.Evolves s) :
    Leads z (execAdd n op s) := by
  simp (maxDischargeDepth := 40) [execAdd, *]

@[simp] theorem execAddc_evolves {z s : State} (n : Dealer) (op : SOp) (h : z.Evolves s) :
    Leads z (execAddc n op s) := by
  simp (maxDischargeDepth := 40) [execAddc, *]

@[simp] theorem execSub_evolves {z s : State} (n : Dealer) (op : SOp) (h : z.Evolves s) :
    Leads z (execSub n op s) := by
  simp (maxDischargeDepth := 40) [execSub, *]

@[simp] theorem execSubb_evolves {z s : State} (n : Dealer) (op : SOp) (h : z.Evolves s) :
    Leads z (execSubb n op s) := by
  simp (maxDischargeDepth := 40) [execSubb, *]

@[simp] theorem execAnd_evolves {z s : State} (n : Dealer) (op : SOp) (h : z.Evolves s) :
    Leads z (execAnd n op s) := by
  simp (maxDischargeDepth := 40) [execAnd, *]

@[simp] theorem execOr_evolves {z s : State} (n : Dealer) (op : SOp) (h : z.Evolves s) :
    Leads z (execOr n op s) := by
  simp (maxDischargeDepth := 40) [execOr, *]

@[simp] theorem execXor_evolves {z s : State} (n : Dealer) (op : SOp) (h : z.Evolves s) :
    Leads z (execXor n op s) := by
  simp (maxDischargeDepth := 40) [execXor, *]

@[simp] theorem execAndn_evolves {z s : State} (n : Dealer) (op : SOp) (h : z.Evolves s) :
    Leads z (execAndn n op s) := by
  simp (maxDischargeDepth := 40) [execAndn, *]

@[simp] theorem execShl_evolves {z s : State} (n : Dealer) (op : SOp) (h : z.Evolves s) :
    Leads z (execShl n op s) := by
  simp (maxDischargeDepth := 40) [execShl, *]

@[simp] theorem execShru_evolves {z s : State} (n : Dealer) (op : SOp) (h : z.Evolves s) :
    Leads z (execShru n op s) := by
  simp (maxDischargeDepth := 40) [execShru, *]

@[simp] theorem execShrs_evolves {z s : State} (n : Dealer) (op : SOp) (h : z.Evolves s) :
    Leads z (execShrs n op s) := by
  simp (maxDischargeDepth := 40) [execShrs, *]

@[simp] theorem execMul_evolves {z s : State} (n : Dealer) (op : SOp) (h : z.Evolves s) :
    Leads z (execMul n op s) := by
  simp (maxDischargeDepth := 40) [execMul, *]

@[simp] theorem runMulPair_evolves {z s : State} (n : Dealer) (opc : Nat) (op : SOp) (f : Nat → Nat → Nat) (h : z.Evolves s) :
    Leads z (runMulPair n opc op s f) := by
  simp +contextual (maxDischargeDepth := 40) [runMulPair, snd_ite, *]

@[simp] theorem execMulwu_evolves {z s : State} (n : Dealer) (op : SOp) (h : z.Evolves s) :
    Leads z (execMulwu n op s) := by
  simp (maxDischargeDepth := 40) [execMulwu, *]

@[simp] theorem execMulws_evolves {z s : State} (n : Dealer) (op : SOp) (h : z.Evolves s) :
    Leads z (execMulws n op s) := by
  simp (maxDischargeDepth := 40) [execMulws, *]

@[simp] theorem runDiv_evolves {z s : State} (n : Dealer) (opc : Nat) (op : SOp) (f : Nat → Nat → Nat) (h : z.Evolves s) :
    Leads z (runDiv n opc op s f) := by
  simp +contextual (maxDischargeDepth := 40) [runDiv, snd_ite, *]

@[simp] theorem execDivu_evolves {z s : State} (n : Dealer) (op : SOp) (h : z.Evolves s) :
    Leads z (execDivu n op s) := by
  simp (maxDischargeDepth := 40) [execDivu, *]

@[simp] theorem execDivs_evolves {z s : State} (n : Dealer) (op : SOp) (h : z.Evolves s) :
    Leads z (execDivs n op s) := by
  simp (maxDischargeDepth := 40) [execDivs, *]

@[simp] theorem execRemu_evolves {z s : State} (n : Dealer) (op : SOp) (h : z.Evolves s) :
    Leads z (execRemu n op s) := by
  simp (maxDischargeDepth := 40) [execRemu, *]

@[simp] theorem execRems_evolves {z s : State} (n : Dealer) (op : SOp) (h : z.Evolves s) :
    Leads z (execRems n op s) := by
  simp (maxDischargeDepth := 40) [execRems, *]

@[simp] theorem execSltu_evolves {z s : State} (n : Dealer) (op : SOp) (h : z.Evolves s) :
    Leads z (execSltu n op s) := by
  simp (maxDischargeDepth := 40) [execSltu, *]

@[simp] theorem execSlts_evolves {z s : State} (n : Dealer) (op : SOp) (h : z.Evolves s) :
    Leads z (execSlts n op s) := by
  simp (maxDischargeDepth := 40) [execSlts, *]

@[simp] theorem wrFbits_evolves {z s : State} (n : Dealer) (op : SOp) (v : Nat) (h : z.Evolves s) :
    z.Evolves (wrFbits n op s v) := by
  simp (maxDischargeDepth := 40) [wrFbits, *]

@[simp] theorem runFP2_evolves {z s : State} (n : Dealer) (opc : Nat) (op : SOp) (cost : Nat) (f : FFmt → Rm → Bool → Nat → Nat → FRes)
    (h : z.Evolves s) :
    Leads z (runFP2 n opc op s cost f) := by
  simp +contextual (maxDischargeDepth := 40) [runFP2, snd_ite, *]

@[simp] theorem runFCmp_evolves {z s : State} (n : Dealer) (opc : Nat) (op : SOp) (c : FCmp) (h : z.Evolves s) :
    Leads z (runFCmp n opc op s c) := by
  simp +contextual (maxDischargeDepth := 40) [runFCmp, snd_ite, *]

@[simp] theorem runFP1_evolves {z s : State} (n : Dealer) (opc : Nat) (op : SOp) (cost : Nat) (f : FFmt → Rm → Bool → Nat → FRes) (h :
    z.Evolves s) :
    Leads z (runFP1 n opc op s cost f) := by
  simp +contextual (maxDischargeDepth := 40) [runFP1, snd_ite, *]

@[simp] theorem execFadd_evolves {z s : State} (n : Dealer) (op : SOp) (h : z.Evolves s) :
    Leads z (execFadd n op s) := by
  simp (maxDischargeDepth := 40) [execFadd, *]

@[simp] theorem execFsub_evolves {z s : State} (n : Dealer) (op : SOp) (h : z.Evolves s) :
    Leads z (execFsub n op s) := by
  simp (maxDischargeDepth := 40) [execFsub, *]

@[simp] theorem execFmul_evolves {z s : State} (n : Dealer) (op : SOp) (h : z.Evolves s) :
    Leads z (execFmul n op s) := by
  simp (maxDischargeDepth := 40) [execFmul, *]

@[simp] theorem execFma_evolves {z s : State} (n : Dealer) (op : SOp) (h : z.Evolves s) :
    Leads z (execFma n op s) := by
  simp +contextual (maxDischargeDepth := 40) [execFma, snd_ite, *]

@[simp] theorem execFdiv_evolves {z s : State} (n : Dealer) (op : SOp) (h : z.Evolves s) :
    Leads z (execFdiv n op s) := by
  simp (maxDischargeDepth := 40) [execFdiv, *]

@[simp] theorem execFsqrt_evolves {z s : State} (n : Dealer) (op : SOp) (h : z.Evolves s) :
    Leads z (execFsqrt n op s) := by
  simp (maxDischargeDepth := 40) [execFsqrt, *]

@[simp] theorem execFmin_evolves {z s : State} (n : Dealer) (op : SOp) (h : z.Evolves s) :
    Leads z (execFmin n op s) := by
  simp (maxDischargeDepth := 40) [execFmin, *]

@[simp] theorem execFmax_evolves {z s : State} (n : Dealer) (op : SOp) (h : z.Evolves s) :
    Leads z (execFmax n op s) := by
  simp (maxDischargeDepth := 40) [execFmax, *]

@[simp] theorem execFcmpeq_evolves {z s : State} (n : Dealer) (op : SOp) (h : z.Evolves s) :
    Leads z (execFcmpeq n op s) := by
  simp (maxDischargeDepth := 40) [execFcmpeq, *]

@[simp] theorem execFcmplt_evolves {z s : State} (n : Dealer) (op : SOp) (h : z.Evolves s) :
    Leads z (execFcmplt n op s) := by
  simp (maxDischargeDepth := 40) [execFcmplt, *]

@[simp] theorem execFcmple_evolves {z s : State} (n : Dealer) (op : SOp) (h : z.Evolves s) :
    Leads z (execFcmple n op s) := by
  simp (maxDischargeDepth := 40) [execFcmple, *]

@[simp] theorem execFneg_evolves {z s : State} (n : Dealer) (op : SOp) (h : z.Evolves s) :
    Leads z (execFneg n op s) := by
  simp (maxDischargeDepth := 40) [execFneg, *]

@[simp] theorem execFabs_evolves {z s : State} (n : Dealer) (op : SOp) (h : z.Evolves s) :
    Leads z (execFabs n op s) := by
  simp (maxDischargeDepth := 40) [execFabs, *]

@[simp] theorem runFToI_evolves {z s : State} (n : Dealer) (opc : Nat) (op : SOp) (signed : Bool) (h : z.Evolves s) :
    Leads z (runFToI n opc op s signed) := by
  simp +contextual (maxDischargeDepth := 40) [runFToI, snd_ite, *]

@[simp] theorem runIToF_evolves {z s : State} (n : Dealer) (opc : Nat) (op : SOp) (signed : Bool) (h : z.Evolves s) :
    Leads z (runIToF n opc op s signed) := by
  simp +contextual (maxDischargeDepth := 40) [runIToF, snd_ite, *]

@[simp] theorem execFcvtI_evolves {z s : State} (n : Dealer) (op : SOp) (h : z.Evolves s) :
    Leads z (execFcvtI n op s) := by
  simp (maxDischargeDepth := 40) [execFcvtI, *]

@[simp] theorem execFcvtIu_evolves {z s : State} (n : Dealer) (op : SOp) (h : z.Evolves s) :
    Leads z (execFcvtIu n op s) := by
  simp (maxDischargeDepth := 40) [execFcvtIu, *]

@[simp] theorem execFcvtF_evolves {z s : State} (n : Dealer) (op : SOp) (h : z.Evolves s) :
    Leads z (execFcvtF n op s) := by
  simp (maxDischargeDepth := 40) [execFcvtF, *]

@[simp] theorem execFcvtFu_evolves {z s : State} (n : Dealer) (op : SOp) (h : z.Evolves s) :
    Leads z (execFcvtFu n op s) := by
  simp (maxDischargeDepth := 40) [execFcvtFu, *]

@[simp] theorem execFcvtX_evolves {z s : State} (n : Dealer) (op : SOp) (h : z.Evolves s) :
    Leads z (execFcvtX n op s) := by
  simp (maxDischargeDepth := 40) [execFcvtX, *]

@[simp] theorem execFmfw_evolves {z s : State} (n : Dealer) (op : SOp) (h : z.Evolves s) :
    Leads z (execFmfw n op s) := by
  simp +contextual (maxDischargeDepth := 40) [execFmfw, snd_ite, *]

@[simp] theorem execFmtw_evolves {z s : State} (n : Dealer) (op : SOp) (h : z.Evolves s) :
    Leads z (execFmtw n op s) := by
  simp +contextual (maxDischargeDepth := 40) [execFmtw, snd_ite, *]

@[simp] theorem execMtpd_evolves {z s : State} (n : Dealer) (op : SOp) (h : z.Evolves s) :
    Leads z (execMtpd n op s) := by
  simp +contextual (maxDischargeDepth := 40) [execMtpd, snd_ite, *]

@[simp] theorem execMfpd_evolves {z s : State} (n : Dealer) (op : SOp) (h : z.Evolves s) :
    Leads z (execMfpd n op s) := by
  simp +contextual (maxDischargeDepth := 40) [execMfpd, snd_ite, *]

@[simp] theorem State.writeSpecial_evolves {z s : State} (n : Dealer) (k : Fin 8) (sel : Nat) (v : Nat) (h : z.Evolves s) :
    z.Evolves (State.writeSpecial s n k sel v) := by
  unfold State.writeSpecial
  repeat' (first
    | (simp +contextual (maxDischargeDepth := 40) [snd_ite, *]; done)
    | split
    | dsimp only
    | (rw [leads_next])
    | (intro _)
    | refine foldl_evolves _ _ ?_ ?_
    | refine foldl_snd_evolves _ _ ?_ ?_
    | apply State.fset_evolves
    | apply State.fsets_evolves
    | apply State.event_evolves
    | apply runScalar_evolves
    | apply runFP_evolves
    | apply runLoad_evolves
    | apply runStore_evolves
    | apply State.withFill_evolves)

@[simp] theorem execMfs_evolves {z s : State} (n : Dealer) (op : SOp) (h : z.Evolves s) :
    Leads z (execMfs n op s) := by
  simp +contextual (maxDischargeDepth := 40) [execMfs, snd_ite, *]

@[simp] theorem execMts_evolves {z s : State} (n : Dealer) (op : SOp) (h : z.Evolves s) :
    Leads z (execMts n op s) := by
  simp +contextual (maxDischargeDepth := 40) [execMts, snd_ite, *]

@[simp] theorem execSgld_evolves {z s : State} (n : Dealer) (op : SOp) (h : z.Evolves s) :
    Leads z (execSgld n op s) := by
  simp +contextual (maxDischargeDepth := 40) [execSgld, snd_ite, *]

@[simp] theorem execSgrd_evolves {z s : State} (n : Dealer) (op : SOp) (h : z.Evolves s) :
    Leads z (execSgrd n op s) := by
  simp +contextual (maxDischargeDepth := 40) [execSgrd, snd_ite, *]

@[simp] theorem execAddi_evolves {z s : State} (n : Dealer) (op : SOp) (h : z.Evolves s) :
    Leads z (execAddi n op s) := by
  simp (maxDischargeDepth := 40) [execAddi, *]

@[simp] theorem execAndi_evolves {z s : State} (n : Dealer) (op : SOp) (h : z.Evolves s) :
    Leads z (execAndi n op s) := by
  simp (maxDischargeDepth := 40) [execAndi, *]

@[simp] theorem execOri_evolves {z s : State} (n : Dealer) (op : SOp) (h : z.Evolves s) :
    Leads z (execOri n op s) := by
  simp (maxDischargeDepth := 40) [execOri, *]

@[simp] theorem execXori_evolves {z s : State} (n : Dealer) (op : SOp) (h : z.Evolves s) :
    Leads z (execXori n op s) := by
  simp (maxDischargeDepth := 40) [execXori, *]

@[simp] theorem execShli_evolves {z s : State} (n : Dealer) (op : SOp) (h : z.Evolves s) :
    Leads z (execShli n op s) := by
  simp (maxDischargeDepth := 40) [execShli, *]

@[simp] theorem execShrui_evolves {z s : State} (n : Dealer) (op : SOp) (h : z.Evolves s) :
    Leads z (execShrui n op s) := by
  simp (maxDischargeDepth := 40) [execShrui, *]

@[simp] theorem execShrsi_evolves {z s : State} (n : Dealer) (op : SOp) (h : z.Evolves s) :
    Leads z (execShrsi n op s) := by
  simp (maxDischargeDepth := 40) [execShrsi, *]

@[simp] theorem execCmpi_evolves {z s : State} (n : Dealer) (op : SOp) (h : z.Evolves s) :
    Leads z (execCmpi n op s) := by
  simp (maxDischargeDepth := 40) [execCmpi, *]

@[simp] theorem execSltui_evolves {z s : State} (n : Dealer) (op : SOp) (h : z.Evolves s) :
    Leads z (execSltui n op s) := by
  simp (maxDischargeDepth := 40) [execSltui, *]

@[simp] theorem execSltsi_evolves {z s : State} (n : Dealer) (op : SOp) (h : z.Evolves s) :
    Leads z (execSltsi n op s) := by
  simp (maxDischargeDepth := 40) [execSltsi, *]

@[simp] theorem execMovi_evolves {z s : State} (n : Dealer) (op : SOp) (h : z.Evolves s) :
    Leads z (execMovi n op s) := by
  simp (maxDischargeDepth := 40) [execMovi, *]

@[simp] theorem execLdb_evolves {z s : State} (n : Dealer) (op : SOp) (h : z.Evolves s) :
    Leads z (execLdb n op s) := by
  simp +contextual (maxDischargeDepth := 40) [execLdb, snd_ite, *]

@[simp] theorem execLdbu_evolves {z s : State} (n : Dealer) (op : SOp) (h : z.Evolves s) :
    Leads z (execLdbu n op s) := by
  simp +contextual (maxDischargeDepth := 40) [execLdbu, snd_ite, *]

@[simp] theorem execLdh_evolves {z s : State} (n : Dealer) (op : SOp) (h : z.Evolves s) :
    Leads z (execLdh n op s) := by
  simp +contextual (maxDischargeDepth := 40) [execLdh, snd_ite, *]

@[simp] theorem execLdhu_evolves {z s : State} (n : Dealer) (op : SOp) (h : z.Evolves s) :
    Leads z (execLdhu n op s) := by
  simp +contextual (maxDischargeDepth := 40) [execLdhu, snd_ite, *]

@[simp] theorem execLdw_evolves {z s : State} (n : Dealer) (op : SOp) (h : z.Evolves s) :
    Leads z (execLdw n op s) := by
  simp +contextual (maxDischargeDepth := 40) [execLdw, snd_ite, *]

@[simp] theorem execLdd_evolves {z s : State} (n : Dealer) (op : SOp) (h : z.Evolves s) :
    Leads z (execLdd n op s) := by
  simp +contextual (maxDischargeDepth := 40) [execLdd, snd_ite, *]

@[simp] theorem execFldS_evolves {z s : State} (n : Dealer) (op : SOp) (h : z.Evolves s) :
    Leads z (execFldS n op s) := by
  simp +contextual (maxDischargeDepth := 40) [execFldS, snd_ite, *]

@[simp] theorem execFldD_evolves {z s : State} (n : Dealer) (op : SOp) (h : z.Evolves s) :
    Leads z (execFldD n op s) := by
  simp +contextual (maxDischargeDepth := 40) [execFldD, snd_ite, *]

@[simp] theorem execStb_evolves {z s : State} (n : Dealer) (op : SOp) (h : z.Evolves s) :
    Leads z (execStb n op s) := by
  simp (maxDischargeDepth := 40) [execStb, *]

@[simp] theorem execSth_evolves {z s : State} (n : Dealer) (op : SOp) (h : z.Evolves s) :
    Leads z (execSth n op s) := by
  simp (maxDischargeDepth := 40) [execSth, *]

@[simp] theorem execStw_evolves {z s : State} (n : Dealer) (op : SOp) (h : z.Evolves s) :
    Leads z (execStw n op s) := by
  simp (maxDischargeDepth := 40) [execStw, *]

@[simp] theorem execStd_evolves {z s : State} (n : Dealer) (op : SOp) (h : z.Evolves s) :
    Leads z (execStd n op s) := by
  simp (maxDischargeDepth := 40) [execStd, *]

@[simp] theorem execFstS_evolves {z s : State} (n : Dealer) (op : SOp) (h : z.Evolves s) :
    Leads z (execFstS n op s) := by
  simp (maxDischargeDepth := 40) [execFstS, *]

@[simp] theorem execFstD_evolves {z s : State} (n : Dealer) (op : SOp) (h : z.Evolves s) :
    Leads z (execFstD n op s) := by
  simp (maxDischargeDepth := 40) [execFstD, *]

@[simp] theorem execAadd_evolves {z s : State} (n : Dealer) (op : SOp) (h : z.Evolves s) :
    Leads z (execAadd n op s) := by
  simp +contextual (maxDischargeDepth := 40) [execAadd, snd_ite, *]

@[simp] theorem execLea_evolves {z s : State} (n : Dealer) (op : SOp) (h : z.Evolves s) :
    Leads z (execLea n op s) := by
  simp +contextual (maxDischargeDepth := 40) [execLea, snd_ite, *]

@[simp] theorem execB_evolves {z s : State} (n : Dealer) (op : SOp) (h : z.Evolves s) :
    Leads z (execB n op s) := by
  simp +contextual (maxDischargeDepth := 40) [execB, snd_ite, *]

@[simp] theorem execCall_evolves {z s : State} (n : Dealer) (op : SOp) (h : z.Evolves s) :
    Leads z (execCall n op s) := by
  simp +contextual (maxDischargeDepth := 40) [execCall, snd_ite, *]

@[simp] theorem execJr_evolves {z s : State} (n : Dealer) (op : SOp) (h : z.Evolves s) :
    Leads z (execJr n op s) := by
  simp +contextual (maxDischargeDepth := 40) [execJr, snd_ite, *]

@[simp] theorem execJalr_evolves {z s : State} (n : Dealer) (op : SOp) (h : z.Evolves s) :
    Leads z (execJalr n op s) := by
  simp +contextual (maxDischargeDepth := 40) [execJalr, snd_ite, *]

@[simp] theorem execBchkSegment_evolves {z s : State} (n : Dealer) (op : SOp) (h : z.Evolves s) :
    Leads z (execBchkSegment n op s) := by
  simp +contextual (maxDischargeDepth := 40) [execBchkSegment, snd_ite, *]

@[simp] theorem execBchkRange_evolves {z s : State} (n : Dealer) (op : SOp) (h : z.Evolves s) :
    Leads z (execBchkRange n op s) := by
  simp +contextual (maxDischargeDepth := 40) [execBchkRange, snd_ite, *]

@[simp] theorem execNop_evolves {z s : State} (n : Dealer) (op : SOp) (h : z.Evolves s) :
    Leads z (execNop n op s) := by
  simp +contextual (maxDischargeDepth := 40) [execNop, snd_ite, *]

end Sys2Proof.Machine
end

