-- ==== Sys2Proof/Laws/ArrayEv.lean ====
section
/-!
SUPPORT. What the operations of Machine/Array.lean respect.
-/
namespace Sys2Proof.Machine

open Sys2Proof

@[simp] theorem execArrayMov_evolves {z s : State} (n : Dealer) (op : AOp) (h : z.Evolves s) :
    Leads z (execArrayMov n op s) := by
  simp (maxDischargeDepth := 40) [execArrayMov, *]

@[simp] theorem execArrayZext_evolves {z s : State} (n : Dealer) (op : AOp) (h : z.Evolves s) :
    Leads z (execArrayZext n op s) := by
  simp (maxDischargeDepth := 40) [execArrayZext, *]

@[simp] theorem execArraySext_evolves {z s : State} (n : Dealer) (op : AOp) (h : z.Evolves s) :
    Leads z (execArraySext n op s) := by
  simp (maxDischargeDepth := 40) [execArraySext, *]

@[simp] theorem execArrayNot_evolves {z s : State} (n : Dealer) (op : AOp) (h : z.Evolves s) :
    Leads z (execArrayNot n op s) := by
  simp (maxDischargeDepth := 40) [execArrayNot, *]

@[simp] theorem execArrayBool_evolves {z s : State} (n : Dealer) (op : AOp) (h : z.Evolves s) :
    Leads z (execArrayBool n op s) := by
  simp (maxDischargeDepth := 40) [execArrayBool, *]

@[simp] theorem execArraySel_evolves {z s : State} (n : Dealer) (op : AOp) (h : z.Evolves s) :
    Leads z (execArraySel n op s) := by
  simp (maxDischargeDepth := 40) [execArraySel, *]

@[simp] theorem execArrayClr_evolves {z s : State} (n : Dealer) (op : AOp) (h : z.Evolves s) :
    Leads z (execArrayClr n op s) := by
  simp (maxDischargeDepth := 40) [execArrayClr, *]

@[simp] theorem execArraySeti_evolves {z s : State} (n : Dealer) (op : AOp) (h : z.Evolves s) :
    Leads z (execArraySeti n op s) := by
  simp (maxDischargeDepth := 40) [execArraySeti, *]

@[simp] theorem execArraySetw_evolves {z s : State} (n : Dealer) (op : AOp) (h : z.Evolves s) :
    Leads z (execArraySetw n op s) := by
  simp (maxDischargeDepth := 40) [execArraySetw, *]

@[simp] theorem execArrayXmove_evolves {z s : State} (n : Dealer) (op : AOp) (h : z.Evolves s) :
    Leads z (execArrayXmove n op s) := by
  simp (maxDischargeDepth := 40) [execArrayXmove, *]

@[simp] theorem execArrayShuf_evolves {z s : State} (n : Dealer) (op : AOp) (h : z.Evolves s) :
    Leads z (execArrayShuf n op s) := by
  simp +contextual (maxDischargeDepth := 40) [execArrayShuf, snd_ite, *]

@[simp] theorem runReduce_evolves {z s : State} (n : Dealer) (aop : Nat) (op : AOp) (cost : Nat) (f : State → List (Nat × Nat) → Nat) (h
    : z.Evolves s) :
    Leads z (runReduce n aop op s cost f) := by
  simp +contextual (maxDischargeDepth := 40) [runReduce, snd_ite, *]

@[simp] theorem execArrayAny_evolves {z s : State} (n : Dealer) (op : AOp) (h : z.Evolves s) :
    Leads z (execArrayAny n op s) := by
  simp (maxDischargeDepth := 40) [execArrayAny, *]

@[simp] theorem execArrayCnt_evolves {z s : State} (n : Dealer) (op : AOp) (h : z.Evolves s) :
    Leads z (execArrayCnt n op s) := by
  simp (maxDischargeDepth := 40) [execArrayCnt, *]

@[simp] theorem execArrayFlgrd_evolves {z s : State} (n : Dealer) (op : AOp) (h : z.Evolves s) :
    Leads z (execArrayFlgrd n op s) := by
  simp +contextual (maxDischargeDepth := 40) [execArrayFlgrd, snd_ite, *]

@[simp] theorem execArrayFlgclr_evolves {z s : State} (n : Dealer) (op : AOp) (h : z.Evolves s) :
    Leads z (execArrayFlgclr n op s) := by
  simp +contextual (maxDischargeDepth := 40) [execArrayFlgclr, snd_ite, *]

@[simp] theorem execArrayFlgany_evolves {z s : State} (n : Dealer) (op : AOp) (h : z.Evolves s) :
    Leads z (execArrayFlgany n op s) := by
  simp +contextual (maxDischargeDepth := 40) [execArrayFlgany, snd_ite, *]

/-- What a mask instruction does: its depth stays within 56 where the BOUNDS check passes (R97). -/
theorem runMask_evolves {z s : State} (n : Dealer) (aop : Nat) (op : AOp) (useA : Bool) (full : Bool) (cost : Nat) (save : Bool)
    (f : Nat → Nat → Nat → Nat) (dm : Nat → Nat) (hd : ∀ k, k ≤ 56 → (full = true → k < 56) → dm k ≤ 56) (h : z.Evolves s) :
    Leads z (runMask n aop op s useA full cost save f dm) := by
  unfold runMask
  refine runArray_evolves _ _ _ _ _ _ _ h (fun hc t ht => State.withSources_evolves _ _ _ _ _ ht (fun u hu => ?_))
  have hm : z.MasksFit → dm (s.dl n).msp ≤ 56 := by
    intro m
    refine hd _ (h.masks m n) (fun e => ?_)
    simp only [e, if_true, ite_eq_right_iff, reduceCtorEq, imp_false] at hc
    simpa using hc
  refine State.arrayEnd_evolves _ _ _ (State.setDl_evolves n _ hm (foldl_evolves _ _ hu (fun t r k => ?_)))
  split <;> simp [k]

@[simp] theorem execArrayMpush_evolves {z s : State} (n : Dealer) (op : AOp) (h : z.Evolves s) :
    Leads z (execArrayMpush n op s) := runMask_evolves _ _ _ _ _ _ _ _ _ (fun k hk hf => by have := hf rfl; omega) h

@[simp] theorem execArrayMpushn_evolves {z s : State} (n : Dealer) (op : AOp) (h : z.Evolves s) :
    Leads z (execArrayMpushn n op s) := runMask_evolves _ _ _ _ _ _ _ _ _ (fun k hk hf => by have := hf rfl; omega) h

@[simp] theorem execArrayMelse_evolves {z s : State} (n : Dealer) (op : AOp) (h : z.Evolves s) :
    Leads z (execArrayMelse n op s) := runMask_evolves _ _ _ _ _ _ _ _ _ (fun k hk hf => hk) h

@[simp] theorem execArrayMpop_evolves {z s : State} (n : Dealer) (op : AOp) (h : z.Evolves s) :
    Leads z (execArrayMpop n op s) := runMask_evolves _ _ _ _ _ _ _ _ _ (fun k hk hf => by omega) h

@[simp] theorem execArrayAdd_evolves {z s : State} (n : Dealer) (op : AOp) (h : z.Evolves s) :
    Leads z (execArrayAdd n op s) := by
  simp (maxDischargeDepth := 40) [execArrayAdd, *]

@[simp] theorem execArraySub_evolves {z s : State} (n : Dealer) (op : AOp) (h : z.Evolves s) :
    Leads z (execArraySub n op s) := by
  simp (maxDischargeDepth := 40) [execArraySub, *]

@[simp] theorem runCarry_evolves {z s : State} (n : Dealer) (aop : Nat) (op : AOp) (f : Nat → Nat → Nat → Nat → PERes) (h : z.Evolves s) :
    Leads z (runCarry n aop op s f) := by
  simp (maxDischargeDepth := 40) [runCarry, *]

@[simp] theorem execArrayAddc_evolves {z s : State} (n : Dealer) (op : AOp) (h : z.Evolves s) :
    Leads z (execArrayAddc n op s) := by
  simp (maxDischargeDepth := 40) [execArrayAddc, *]

@[simp] theorem execArraySubb_evolves {z s : State} (n : Dealer) (op : AOp) (h : z.Evolves s) :
    Leads z (execArraySubb n op s) := by
  simp (maxDischargeDepth := 40) [execArraySubb, *]

@[simp] theorem execArrayAddi_evolves {z s : State} (n : Dealer) (op : AOp) (h : z.Evolves s) :
    Leads z (execArrayAddi n op s) := by
  simp (maxDischargeDepth := 40) [execArrayAddi, *]

@[simp] theorem execArrayNeg_evolves {z s : State} (n : Dealer) (op : AOp) (h : z.Evolves s) :
    Leads z (execArrayNeg n op s) := by
  simp (maxDischargeDepth := 40) [execArrayNeg, *]

@[simp] theorem execArrayAddsu_evolves {z s : State} (n : Dealer) (op : AOp) (h : z.Evolves s) :
    Leads z (execArrayAddsu n op s) := by
  simp (maxDischargeDepth := 40) [execArrayAddsu, *]

@[simp] theorem execArrayAddss_evolves {z s : State} (n : Dealer) (op : AOp) (h : z.Evolves s) :
    Leads z (execArrayAddss n op s) := by
  simp (maxDischargeDepth := 40) [execArrayAddss, *]

@[simp] theorem execArraySubsu_evolves {z s : State} (n : Dealer) (op : AOp) (h : z.Evolves s) :
    Leads z (execArraySubsu n op s) := by
  simp (maxDischargeDepth := 40) [execArraySubsu, *]

@[simp] theorem execArraySubss_evolves {z s : State} (n : Dealer) (op : AOp) (h : z.Evolves s) :
    Leads z (execArraySubss n op s) := by
  simp (maxDischargeDepth := 40) [execArraySubss, *]

@[simp] theorem execArrayCmpeq_evolves {z s : State} (n : Dealer) (op : AOp) (h : z.Evolves s) :
    Leads z (execArrayCmpeq n op s) := by
  simp (maxDischargeDepth := 40) [execArrayCmpeq, *]

@[simp] theorem execArrayCmpne_evolves {z s : State} (n : Dealer) (op : AOp) (h : z.Evolves s) :
    Leads z (execArrayCmpne n op s) := by
  simp (maxDischargeDepth := 40) [execArrayCmpne, *]

@[simp] theorem execArrayCmpltu_evolves {z s : State} (n : Dealer) (op : AOp) (h : z.Evolves s) :
    Leads z (execArrayCmpltu n op s) := by
  simp (maxDischargeDepth := 40) [execArrayCmpltu, *]

@[simp] theorem execArrayCmplts_evolves {z s : State} (n : Dealer) (op : AOp) (h : z.Evolves s) :
    Leads z (execArrayCmplts n op s) := by
  simp (maxDischargeDepth := 40) [execArrayCmplts, *]

@[simp] theorem execArrayCmpleu_evolves {z s : State} (n : Dealer) (op : AOp) (h : z.Evolves s) :
    Leads z (execArrayCmpleu n op s) := by
  simp (maxDischargeDepth := 40) [execArrayCmpleu, *]

@[simp] theorem execArrayCmples_evolves {z s : State} (n : Dealer) (op : AOp) (h : z.Evolves s) :
    Leads z (execArrayCmples n op s) := by
  simp (maxDischargeDepth := 40) [execArrayCmples, *]

@[simp] theorem execArrayShl_evolves {z s : State} (n : Dealer) (op : AOp) (h : z.Evolves s) :
    Leads z (execArrayShl n op s) := by
  simp (maxDischargeDepth := 40) [execArrayShl, *]

@[simp] theorem execArrayShru_evolves {z s : State} (n : Dealer) (op : AOp) (h : z.Evolves s) :
    Leads z (execArrayShru n op s) := by
  simp (maxDischargeDepth := 40) [execArrayShru, *]

@[simp] theorem execArrayShrs_evolves {z s : State} (n : Dealer) (op : AOp) (h : z.Evolves s) :
    Leads z (execArrayShrs n op s) := by
  simp (maxDischargeDepth := 40) [execArrayShrs, *]

@[simp] theorem runMulWide_evolves {z s : State} (n : Dealer) (aop : Nat) (op : AOp) (f : Nat → Nat → Nat → Nat) (h : z.Evolves s) :
    Leads z (runMulWide n aop op s f) := by
  simp (maxDischargeDepth := 40) [runMulWide, *]

@[simp] theorem execArrayMulwu_evolves {z s : State} (n : Dealer) (op : AOp) (h : z.Evolves s) :
    Leads z (execArrayMulwu n op s) := by
  simp (maxDischargeDepth := 40) [execArrayMulwu, *]

@[simp] theorem execArrayMulws_evolves {z s : State} (n : Dealer) (op : AOp) (h : z.Evolves s) :
    Leads z (execArrayMulws n op s) := by
  simp (maxDischargeDepth := 40) [execArrayMulws, *]

@[simp] theorem execArrayDivu_evolves {z s : State} (n : Dealer) (op : AOp) (h : z.Evolves s) :
    Leads z (execArrayDivu n op s) := by
  simp (maxDischargeDepth := 40) [execArrayDivu, *]

@[simp] theorem execArrayDivs_evolves {z s : State} (n : Dealer) (op : AOp) (h : z.Evolves s) :
    Leads z (execArrayDivs n op s) := by
  simp (maxDischargeDepth := 40) [execArrayDivs, *]

@[simp] theorem execArrayRemu_evolves {z s : State} (n : Dealer) (op : AOp) (h : z.Evolves s) :
    Leads z (execArrayRemu n op s) := by
  simp (maxDischargeDepth := 40) [execArrayRemu, *]

@[simp] theorem execArrayRems_evolves {z s : State} (n : Dealer) (op : AOp) (h : z.Evolves s) :
    Leads z (execArrayRems n op s) := by
  simp (maxDischargeDepth := 40) [execArrayRems, *]

@[simp] theorem execArrayFadd_evolves {z s : State} (n : Dealer) (op : AOp) (h : z.Evolves s) :
    Leads z (execArrayFadd n op s) := by
  simp (maxDischargeDepth := 40) [execArrayFadd, *]

@[simp] theorem execArrayFsub_evolves {z s : State} (n : Dealer) (op : AOp) (h : z.Evolves s) :
    Leads z (execArrayFsub n op s) := by
  simp (maxDischargeDepth := 40) [execArrayFsub, *]

@[simp] theorem execArrayFmul_evolves {z s : State} (n : Dealer) (op : AOp) (h : z.Evolves s) :
    Leads z (execArrayFmul n op s) := by
  simp (maxDischargeDepth := 40) [execArrayFmul, *]

@[simp] theorem execArrayFma_evolves {z s : State} (n : Dealer) (op : AOp) (h : z.Evolves s) :
    Leads z (execArrayFma n op s) := by
  simp (maxDischargeDepth := 40) [execArrayFma, *]

@[simp] theorem execArrayFdiv_evolves {z s : State} (n : Dealer) (op : AOp) (h : z.Evolves s) :
    Leads z (execArrayFdiv n op s) := by
  simp (maxDischargeDepth := 40) [execArrayFdiv, *]

@[simp] theorem execArrayFsqrt_evolves {z s : State} (n : Dealer) (op : AOp) (h : z.Evolves s) :
    Leads z (execArrayFsqrt n op s) := by
  simp (maxDischargeDepth := 40) [execArrayFsqrt, *]

@[simp] theorem execArrayFmin_evolves {z s : State} (n : Dealer) (op : AOp) (h : z.Evolves s) :
    Leads z (execArrayFmin n op s) := by
  simp (maxDischargeDepth := 40) [execArrayFmin, *]

@[simp] theorem execArrayFmax_evolves {z s : State} (n : Dealer) (op : AOp) (h : z.Evolves s) :
    Leads z (execArrayFmax n op s) := by
  simp (maxDischargeDepth := 40) [execArrayFmax, *]

@[simp] theorem execArrayFcmpeq_evolves {z s : State} (n : Dealer) (op : AOp) (h : z.Evolves s) :
    Leads z (execArrayFcmpeq n op s) := by
  simp (maxDischargeDepth := 40) [execArrayFcmpeq, *]

@[simp] theorem execArrayFcmplt_evolves {z s : State} (n : Dealer) (op : AOp) (h : z.Evolves s) :
    Leads z (execArrayFcmplt n op s) := by
  simp (maxDischargeDepth := 40) [execArrayFcmplt, *]

@[simp] theorem execArrayFcmple_evolves {z s : State} (n : Dealer) (op : AOp) (h : z.Evolves s) :
    Leads z (execArrayFcmple n op s) := by
  simp (maxDischargeDepth := 40) [execArrayFcmple, *]

@[simp] theorem execArrayFneg_evolves {z s : State} (n : Dealer) (op : AOp) (h : z.Evolves s) :
    Leads z (execArrayFneg n op s) := by
  simp (maxDischargeDepth := 40) [execArrayFneg, *]

@[simp] theorem execArrayFabs_evolves {z s : State} (n : Dealer) (op : AOp) (h : z.Evolves s) :
    Leads z (execArrayFabs n op s) := by
  simp (maxDischargeDepth := 40) [execArrayFabs, *]

@[simp] theorem execArrayFcvtI_evolves {z s : State} (n : Dealer) (op : AOp) (h : z.Evolves s) :
    Leads z (execArrayFcvtI n op s) := by
  simp (maxDischargeDepth := 40) [execArrayFcvtI, *]

@[simp] theorem execArrayFcvtIu_evolves {z s : State} (n : Dealer) (op : AOp) (h : z.Evolves s) :
    Leads z (execArrayFcvtIu n op s) := by
  simp (maxDischargeDepth := 40) [execArrayFcvtIu, *]

@[simp] theorem execArrayFcvtF_evolves {z s : State} (n : Dealer) (op : AOp) (h : z.Evolves s) :
    Leads z (execArrayFcvtF n op s) := by
  simp (maxDischargeDepth := 40) [execArrayFcvtF, *]

@[simp] theorem execArrayFcvtFu_evolves {z s : State} (n : Dealer) (op : AOp) (h : z.Evolves s) :
    Leads z (execArrayFcvtFu n op s) := by
  simp (maxDischargeDepth := 40) [execArrayFcvtFu, *]

@[simp] theorem execArrayFcvtX_evolves {z s : State} (n : Dealer) (op : AOp) (h : z.Evolves s) :
    Leads z (execArrayFcvtX n op s) := by
  simp (maxDischargeDepth := 40) [execArrayFcvtX, *]

end Sys2Proof.Machine
end

