-- ==== Sys2Proof/Laws/LevelsEv.lean ====
section
/-!
SUPPORT. What the operations of Machine/Levels.lean respect.
-/
namespace Sys2Proof.Machine

open Sys2Proof

@[simp] theorem State.accept_evolves {z s : State} (e : Nat) (h : z.Evolves s) :
    z.Evolves (State.accept s e) := by
  simp (maxDischargeDepth := 40) [State.accept, *]

@[simp] theorem State.setReady_evolves {z s : State} (n : Dealer) (k : Nat) (j : Nat) (b : Bool) (h : z.Evolves s) :
    z.Evolves (State.setReady s n k j b) := by
  simp (maxDischargeDepth := 40) [State.setReady, *]

@[simp] theorem State.acceptTasks_evolves {z s : State} (n : Dealer) (k : Nat) (h : z.Evolves s) :
    z.Evolves (State.acceptTasks s n k) := by
  simp +contextual (maxDischargeDepth := 40) [State.acceptTasks, snd_ite, *]

@[simp] theorem State.storeTask_evolves {z s : State} (n : Dealer) (k : Fin 8) (j : Nat) (h : z.Evolves s) :
    z.Evolves (State.storeTask s n k j).2 := by
  simp (maxDischargeDepth := 40) [State.storeTask, *]

@[simp] theorem State.loadTask_evolves {z s : State} (n : Dealer) (k : Fin 8) (j : Nat) (h : z.Evolves s) :
    z.Evolves (State.loadTask s n k j).2 := by
  unfold State.loadTask
  repeat' (first
    | (simp +contextual (maxDischargeDepth := 40) [snd_ite, *]; done)
    | split
    | dsimp only
    | (rw [leads_next])
    | (intro _)
    | refine foldl_evolves _ _ ?_ ?_
    | refine foldl_snd_evolves _ _ ?_ ?_
    | apply State.fset_evolves
    | apply State.fsets_evolves
    | apply State.event_evolves)

@[simp] theorem State.giveW1_evolves {z s : State} (n : Dealer) (k : Fin 8) (j : Nat) (h : z.Evolves s) :
    z.Evolves (State.giveW1 s n k j) := by
  unfold State.giveW1
  repeat' (first
    | (simp +contextual (maxDischargeDepth := 40) [snd_ite, *]; done)
    | split
    | dsimp only
    | (rw [leads_next])
    | (intro _)
    | refine foldl_evolves _ _ ?_ ?_
    | refine foldl_snd_evolves _ _ ?_ ?_
    | apply State.fset_evolves
    | apply State.fsets_evolves
    | apply State.event_evolves)

@[simp] theorem State.runTask_evolves {z s : State} (n : Dealer) (k : Fin 8) (j : Nat) (cost : Nat) (h : z.Evolves s) :
    z.Evolves (State.runTask s n k j cost) := by
  simp +contextual (maxDischargeDepth := 40) [State.runTask, snd_ite, *]

@[simp] theorem State.switchTask_evolves {z s : State} (n : Dealer) (k : Fin 8) (j : Nat) (h : z.Evolves s) :
    z.Evolves (State.switchTask s n k j) := by
  simp +contextual (maxDischargeDepth := 40) [State.switchTask, snd_ite, *]

@[simp] theorem State.enterLevel_evolves {z s : State} (n : Dealer) (k : Fin 8) (h : z.Evolves s) :
    z.Evolves (State.enterLevel s n k) := by
  unfold State.enterLevel
  repeat' (first
    | (simp +contextual (maxDischargeDepth := 40) [snd_ite, *]; done)
    | split
    | dsimp only
    | (rw [leads_next])
    | (intro _)
    | refine foldl_evolves _ _ ?_ ?_
    | refine foldl_snd_evolves _ _ ?_ ?_
    | apply State.fset_evolves
    | apply State.fsets_evolves
    | apply State.event_evolves)

@[simp] theorem State.runNext_evolves {z s : State} (n : Dealer) (h : z.Evolves s) :
    z.Evolves (State.runNext s n) := by
  unfold State.runNext
  repeat' (first
    | (simp +contextual (maxDischargeDepth := 40) [snd_ite, *]; done)
    | split
    | dsimp only
    | (rw [leads_next])
    | (intro _)
    | refine foldl_evolves _ _ ?_ ?_
    | refine foldl_snd_evolves _ _ ?_ ?_
    | apply State.fset_evolves
    | apply State.fsets_evolves
    | apply State.event_evolves)

@[simp] theorem State.taskAccept_evolves {z s : State} (n : Dealer) (h : z.Evolves s) :
    z.Evolves (State.taskAccept s n) := by
  simp (maxDischargeDepth := 40) [State.taskAccept, *]

@[simp] theorem State.boundary_evolves {z s : State} (n : Dealer) (h : z.Evolves s) :
    z.Evolves (State.boundary s n) := by
  unfold State.boundary
  repeat' (first
    | (simp +contextual (maxDischargeDepth := 40) [snd_ite, *]; done)
    | split
    | dsimp only
    | (rw [leads_next])
    | (intro _)
    | refine foldl_evolves _ _ ?_ ?_
    | refine foldl_snd_evolves _ _ ?_ ?_
    | apply State.fset_evolves
    | apply State.fsets_evolves
    | apply State.event_evolves)

@[simp] theorem State.saveExhausted_evolves {z s : State} (n : Dealer) (w : Word) (h : z.Evolves s) :
    z.Evolves (State.saveExhausted s n w) := by
  simp +contextual (maxDischargeDepth := 40) [State.saveExhausted, snd_ite, *]

end Sys2Proof.Machine
end

