-- ==== Sys2Proof/Laws/ContextEv.lean ====
section
/-!
SUPPORT. What the operations of Machine/Context.lean respect.
-/
namespace Sys2Proof.Machine

open Sys2Proof

@[simp] theorem execXret_evolves {z s : State} (n : Dealer) (op : SOp) (h : z.Evolves s) :
    Leads z (execXret n op s) := by
  unfold execXret
  repeat' (first
    | (simp +contextual (maxDischargeDepth := 40) [snd_ite, *]; done)
    | split
    | dsimp only
    | (rw [leads_next])
    | (intro _)
    | refine foldl_evolves _ _ ?_ ?_
    | refine foldl_snd_evolves _ _ ?_ ?_
    | apply State.fset_evolves
    | apply State.fsets_evolves
    | apply State.event_evolves
    | apply runScalar_evolves)

@[simp] theorem State.markAt_evolves {z s : State} (n : Dealer) (k : Fin 8) (g : Nat) (h : z.Evolves s) :
    z.Evolves (State.markAt s n k g) := by
  simp (maxDischargeDepth := 40) [State.markAt, *]

@[simp] theorem State.winWrite_evolves {z s : State} (n : Dealer) (k : Fin 8) (i : Nat) (v : Word) (h : z.Evolves s) :
    z.Evolves (State.winWrite s n k i v) := by
  simp (maxDischargeDepth := 40) [State.winWrite, *]

@[simp] theorem State.winStep_evolves {z s : State} (n : Dealer) (op : SOp) (h : z.Evolves s) :
    z.Evolves (State.winStep s n op) := by
  simp (maxDischargeDepth := 40) [State.winStep, *]

@[simp] theorem execWget_evolves {z s : State} (n : Dealer) (op : SOp) (h : z.Evolves s) :
    Leads z (execWget n op s) := by
  simp +contextual (maxDischargeDepth := 40) [execWget, snd_ite, *]

@[simp] theorem execWput_evolves {z s : State} (n : Dealer) (op : SOp) (h : z.Evolves s) :
    Leads z (execWput n op s) := by
  simp +contextual (maxDischargeDepth := 40) [execWput, snd_ite, *]

@[simp] theorem State.setSFL_evolves {z s : State} (n : Dealer) (l : Nat) (h : z.Evolves s) :
    z.Evolves (State.setSFL s n l) := by
  simp (maxDischargeDepth := 40) [State.setSFL, *]

@[simp] theorem State.setSAH_evolves {z s : State} (n : Dealer) (k : Nat) (l : Nat) (h : z.Evolves s) :
    z.Evolves (State.setSAH s n k l) := by
  simp (maxDischargeDepth := 40) [State.setSAH, *]

@[simp] theorem State.areaRead_evolves {z s : State} (n : Dealer) (x2 : List (Nat × Nat)) (h : z.Evolves s) :
    z.Evolves (State.areaRead s n x2).2 := by
  revert h
  fun_induction State.areaRead s n x2 <;> intro h <;>
  repeat' (first
    | (simp +contextual +zetaDelta (maxDischargeDepth := 40) [snd_ite, *]; done)
    | split
    | dsimp only
    | (rw [leads_next])
    | (intro _)
    | refine foldl_evolves _ _ ?_ ?_
    | refine foldl_snd_evolves _ _ ?_ ?_
    | apply State.fset_evolves
    | apply State.fsets_evolves
    | apply State.event_evolves
    | apply runScalar_evolves)

@[simp] theorem State.areaWrite_evolves {z s : State} (n : Dealer) (x2 : List (Nat × Nat × Nat)) (h : z.Evolves s) :
    z.Evolves (State.areaWrite s n x2).2 := by
  revert h
  fun_induction State.areaWrite s n x2 <;> intro h <;>
  repeat' (first
    | (simp +contextual +zetaDelta (maxDischargeDepth := 40) [snd_ite, *]; done)
    | split
    | dsimp only
    | (rw [leads_next])
    | (intro _)
    | refine foldl_evolves _ _ ?_ ?_
    | refine foldl_snd_evolves _ _ ?_ ?_
    | apply State.fset_evolves
    | apply State.fsets_evolves
    | apply State.event_evolves
    | apply runScalar_evolves)

@[simp] theorem runSave_evolves {z s : State} (n : Dealer) (opc : Nat) (op : SOp) (cost : Nat) (kind : Nat) (regs : Bank → List Nat) (h :
    z.Evolves s) :
    Leads z (runSave n opc op s cost kind regs) := by
  unfold runSave
  repeat' (first
    | (simp +contextual (maxDischargeDepth := 40) [snd_ite, *]; done)
    | split
    | dsimp only
    | (rw [leads_next])
    | (intro _)
    | refine foldl_evolves _ _ ?_ ?_
    | refine foldl_snd_evolves _ _ ?_ ?_
    | apply State.fset_evolves
    | apply State.fsets_evolves
    | apply State.event_evolves
    | apply runScalar_evolves)

@[simp] theorem execSavel_evolves {z s : State} (n : Dealer) (op : SOp) (h : z.Evolves s) :
    Leads z (execSavel n op s) := by
  simp (maxDischargeDepth := 40) [execSavel, *]

@[simp] theorem execSaveu_evolves {z s : State} (n : Dealer) (op : SOp) (h : z.Evolves s) :
    Leads z (execSaveu n op s) := by
  simp (maxDischargeDepth := 40) [execSaveu, *]

@[simp] theorem State.advanceOr_evolves {z s : State} (n : Dealer) (op : SOp) (cost : Nat) (h : z.Evolves s) :
    z.Evolves (State.advanceOr s n op cost) := by
  simp (maxDischargeDepth := 40) [State.advanceOr, *]

@[simp] theorem runRest_evolves {z s : State} (n : Dealer) (opc : Nat) (op : SOp) (cost : Nat) (kind : Nat) (words : Nat) (fill : Bool)
    (target : List Nat → Option Nat) (load : State → Fin 8 → List Nat → State) (h : z.Evolves s) (hload : ∀ t a1 a2, z.Evolves t →
    z.Evolves (load t a1 a2)) :
    Leads z (runRest n opc op s cost kind words fill target load) := by
  unfold runRest
  repeat' (first
    | (simp +contextual (maxDischargeDepth := 40) [snd_ite, *]; done)
    | split
    | dsimp only
    | (rw [leads_next])
    | (intro _)
    | refine foldl_evolves _ _ ?_ ?_
    | refine foldl_snd_evolves _ _ ?_ ?_
    | apply State.fset_evolves
    | apply State.fsets_evolves
    | apply State.event_evolves
    | apply runScalar_evolves)

@[simp] theorem execRestl_evolves {z s : State} (n : Dealer) (op : SOp) (h : z.Evolves s) :
    Leads z (execRestl n op s) := by
  simp +contextual (maxDischargeDepth := 40) [execRestl, snd_ite, *]

@[simp] theorem execRestu_evolves {z s : State} (n : Dealer) (op : SOp) (h : z.Evolves s) :
    Leads z (execRestu n op s) := by
  simp +contextual (maxDischargeDepth := 40) [execRestu, snd_ite, *]

@[simp] theorem execSwto_evolves {z s : State} (n : Dealer) (op : SOp) (h : z.Evolves s) :
    Leads z (execSwto n op s) := by
  unfold execSwto
  repeat' (first
    | (simp +contextual (maxDischargeDepth := 40) [snd_ite, *]; done)
    | split
    | dsimp only
    | (rw [leads_next])
    | (intro _)
    | refine foldl_evolves _ _ ?_ ?_
    | refine foldl_snd_evolves _ _ ?_ ?_
    | apply State.fset_evolves
    | apply State.fsets_evolves
    | apply State.event_evolves
    | apply runScalar_evolves
    | apply runRest_evolves)

@[simp] theorem State.leaveHandler_evolves {z s : State} (n : Dealer) (h : z.Evolves s) :
    z.Evolves (State.leaveHandler s n) := by
  unfold State.leaveHandler
  repeat' (first
    | (simp +contextual (maxDischargeDepth := 40) [snd_ite, *]; done)
    | split
    | dsimp only
    | (rw [leads_next])
    | (intro _)
    | refine foldl_evolves _ _ ?_ ?_
    | refine foldl_snd_evolves _ _ ?_ ?_
    | apply State.fset_evolves
    | apply State.fsets_evolves
    | apply State.event_evolves
    | apply runScalar_evolves
    | apply runRest_evolves)

@[simp] theorem State.leaveTask_evolves {z s : State} (n : Dealer) (op : SOp) (h : z.Evolves s) :
    z.Evolves (State.leaveTask s n op) := by
  unfold State.leaveTask
  repeat' (first
    | (simp +contextual (maxDischargeDepth := 40) [snd_ite, *]; done)
    | split
    | dsimp only
    | (rw [leads_next])
    | (intro _)
    | refine foldl_evolves _ _ ?_ ?_
    | refine foldl_snd_evolves _ _ ?_ ?_
    | apply State.fset_evolves
    | apply State.fsets_evolves
    | apply State.event_evolves
    | apply runScalar_evolves
    | apply runRest_evolves)

@[simp] theorem execLret_evolves {z s : State} (n : Dealer) (op : SOp) (h : z.Evolves s) :
    Leads z (execLret n op s) := by
  simp +contextual (maxDischargeDepth := 40) [execLret, snd_ite, *]

@[simp] theorem execLevelEntry_evolves {z s : State} (n : Dealer) (h : z.Evolves s) :
    Leads z (execLevelEntry n s) := by
  simp (maxDischargeDepth := 40) [execLevelEntry, *]

end Sys2Proof.Machine
end

