-- ==== Sys2Proof/Laws/StoresEv.lean ====
section
/-!
SUPPORT. What the operations of Machine/Stores.lean respect.
-/
namespace Sys2Proof.Machine

open Sys2Proof

@[simp] theorem State.portAccess_evolves {z s : State} (ag : Agent) (acc : PortAcc) (h : z.Evolves s) :
    z.Evolves (State.portAccess s ag acc).2.2 := by
  unfold State.portAccess
  repeat' (first
    | (simp +contextual (maxDischargeDepth := 40) [snd_ite, *]; done)
    | split
    | dsimp only
    | (rw [leads_next])
    | (intro _)
    | refine foldl_evolves _ _ ?_ ?_
    | refine foldl_snd_evolves _ _ ?_ ?_
    | apply State.fset_evolves
    | apply State.fsets_evolves
    | apply State.event_evolves
    | apply State.filtered_evolves)

@[simp] theorem State.portB_evolves {z s : State} (n : Dealer) (seg : Nat) (acc : PortAcc) (h : z.Evolves s) :
    z.Evolves (State.portB s n seg acc) := by
  simp (maxDischargeDepth := 40) [State.portB, *]

@[simp] theorem State.collide_evolves {z s : State} (b : Nat) (h : z.Evolves s) :
    z.Evolves (State.collide s b) := by
  simp (maxDischargeDepth := 40) [State.collide, *]

@[simp] theorem State.portA_evolves {z s : State} (ag : Agent) (acc : PortAcc) (h : z.Evolves s) :
    z.Evolves (State.portA s ag acc).2.2 := by
  unfold State.portA
  repeat' (first
    | (simp +contextual (maxDischargeDepth := 40) [snd_ite, *]; done)
    | split
    | dsimp only
    | (rw [leads_next])
    | (intro _)
    | refine foldl_evolves _ _ ?_ ?_
    | refine foldl_snd_evolves _ _ ?_ ?_
    | apply State.fset_evolves
    | apply State.fsets_evolves
    | apply State.event_evolves
    | apply State.filtered_evolves)

@[simp] theorem execStorePortAAccess_evolves {z s : State} (ag : Agent) (acc : PortAcc) (b : Option (Dealer × Fin 8 × PortAcc)) (h :
    z.Evolves s) :
    Leads z (execStorePortAAccess ag acc b s) := by
  unfold execStorePortAAccess
  repeat' (first
    | (simp +contextual (maxDischargeDepth := 40) [snd_ite, *]; done)
    | split
    | dsimp only
    | (rw [leads_next])
    | (intro _)
    | refine foldl_evolves _ _ ?_ ?_
    | refine foldl_snd_evolves _ _ ?_ ?_
    | apply State.fset_evolves
    | apply State.fsets_evolves
    | apply State.event_evolves
    | apply State.filtered_evolves)

@[simp] theorem execStorePortBAccess_evolves {z s : State} (n : Dealer) (seg : Fin 8) (acc : PortAcc) (h : z.Evolves s) :
    Leads z (execStorePortBAccess n seg acc s) := by
  unfold execStorePortBAccess
  repeat' (first
    | (simp +contextual (maxDischargeDepth := 40) [snd_ite, *]; done)
    | split
    | dsimp only
    | (rw [leads_next])
    | (intro _)
    | refine foldl_evolves _ _ ?_ ?_
    | refine foldl_snd_evolves _ _ ?_ ?_
    | apply State.fset_evolves
    | apply State.fsets_evolves
    | apply State.event_evolves
    | apply State.filtered_evolves)

@[simp] theorem State.tamper_evolves {z s : State} (cause : Nat) (held : List Nat) (part : List (Nat × Nat)) (reads : List (Dealer × Fin
    8 × Nat)) (h : z.Evolves s) :
    z.Evolves (State.tamper s cause held part reads) := by
  simp +contextual (maxDischargeDepth := 40) [State.tamper, snd_ite, *]

@[simp] theorem execTamperInput_evolves {z s : State} (i : Fin 2) (ns : Nat) (held : List Nat) (part : List (Nat × Nat)) (reads : List
    (Dealer × Fin 8 × Nat)) (h : z.Evolves s) :
    Leads z (execTamperInput i ns held part reads s) := by
  simp +contextual (maxDischargeDepth := 40) [execTamperInput, snd_ite, *]

@[simp] theorem execGlitchDetect_evolves {z s : State} (held : List Nat) (part : List (Nat × Nat)) (reads : List (Dealer × Fin 8 × Nat))
    (h : z.Evolves s) :
    Leads z (execGlitchDetect held part reads s) := by
  simp (maxDischargeDepth := 40) [execGlitchDetect, *]

@[simp] theorem execDramRequest_evolves {z s : State} (ag : Agent) (qos : Fin 4) (acc : PortAcc) (h : z.Evolves s) :
    Leads z (execDramRequest ag qos acc s) := by
  unfold execDramRequest
  repeat' (first
    | (simp +contextual (maxDischargeDepth := 40) [snd_ite, *]; done)
    | split
    | dsimp only
    | (rw [leads_next])
    | (intro _)
    | refine foldl_evolves _ _ ?_ ?_
    | refine foldl_snd_evolves _ _ ?_ ?_
    | apply State.fset_evolves
    | apply State.fsets_evolves
    | apply State.event_evolves
    | apply State.filtered_evolves)

@[simp] theorem State.scrubWord_evolves {z s : State} (a : Nat) (h : z.Evolves s) :
    z.Evolves (State.scrubWord s a) := by
  simp (maxDischargeDepth := 40) [State.scrubWord, *]

@[simp] theorem State.dramScrub_evolves {z s : State} (h : z.Evolves s) :
    z.Evolves (State.dramScrub s) := by
  simp +contextual (maxDischargeDepth := 40) [State.dramScrub, snd_ite, *]

@[simp] theorem execDramScrubStep_evolves {z s : State} (h : z.Evolves s) :
    Leads z (execDramScrubStep s) := by
  simp (maxDischargeDepth := 40) [execDramScrubStep, *]

@[simp] theorem execDramRefresh_evolves {z s : State} (suit : Fin 4) (h : z.Evolves s) :
    Leads z (execDramRefresh suit s) := by
  simp +contextual (maxDischargeDepth := 40) [execDramRefresh, snd_ite, *]

end Sys2Proof.Machine
end

