-- ==== Sys2Proof/Laws/TrellisEv.lean ====
section
/-!
SUPPORT. What the operations of Machine/Trellis.lean respect.
-/
namespace Sys2Proof.Machine

open Sys2Proof

@[simp] theorem State.linkUnit_evolves {z s : State} (r port : Nat) (p : Packet) (k : Nat) (flips : List (Fin 80)) (inverted : BitVec 3) (h : z.Evolves s) :
    z.Evolves (State.linkUnit s r port p k flips inverted).2 := by
  unfold State.linkUnit
  repeat' (first
    | (simp +contextual (maxDischargeDepth := 40) [snd_ite, *]; done)
    | split
    | dsimp only
    | (rw [leads_next])
    | (intro _)
    | refine foldl_evolves _ _ ?_ ?_
    | refine foldl_snd_evolves _ _ ?_ ?_
    | apply State.fset_evolves
    | apply State.fsets_evolves
    | apply State.event_evolves)

@[simp] theorem State.crossPort_evolves {z s : State} (r port : Nat) (errs : List LinkErr) (p : Packet) (h : z.Evolves s) :
    z.Evolves (State.crossPort s r port errs p).2 := by
  unfold State.crossPort
  refine foldl_snd_evolves _ _ h ?_
  intro t k hk
  dsimp only
  split
  · exact hk
  · split
    · exact hk
    · exact State.linkUnit_evolves _ _ _ _ _ _ hk

@[simp] theorem State.travel_evolves {z s : State} (old : Bool) (errs : List LinkErr) (from_ : Nat → Bool) (hops r : Nat) (p : Packet) (h : z.Evolves s) :
    z.Evolves (State.travel s old errs from_ hops r p).2 := by
  induction hops generalizing s from_ r p with
  | zero =>
    unfold State.travel
    extract_lets mine port c
    have hc : z.Evolves c.2 := State.crossPort_evolves _ _ _ _ h
    clear_value c
    obtain ⟨c1, c2⟩ := c
    cases c1 <;> exact hc
  | succ k ih =>
    unfold State.travel
    extract_lets mine port c
    have hc : z.Evolves c.2 := State.crossPort_evolves _ _ _ _ h
    clear_value c
    obtain ⟨c1, c2⟩ := c
    cases c1 with
    | none => exact hc
    | some q =>
      dsimp only at hc ⊢
      split
      · exact hc
      · split
        · exact hc
        · split
          · exact hc
          · exact ih _ _ _ hc

@[simp] theorem State.cross_evolves {z s : State} (old : Bool) (p : Packet) (errs : List LinkErr) (h : z.Evolves s) :
    z.Evolves (State.cross s old p errs).2 := by
  exact State.travel_evolves _ _ _ _ _ _ h

@[simp] theorem State.reply_evolves {z s : State} (p : Packet) (status : Nat) (data : List DWord) (poison : List Bool) (h : z.Evolves s) :
    z.Evolves (State.reply s p status data poison) := by
  simp (maxDischargeDepth := 40) [State.reply, *]

@[simp] theorem State.replyStatus_evolves {z s : State} (p : Packet) (status : Nat) (h : z.Evolves s) :
    z.Evolves (State.replyStatus s p status) := by
  simp (maxDischargeDepth := 40) [State.replyStatus, *]

@[simp] theorem State.absorbPacket_evolves {z s : State} (r : Nat) (p : Packet) (h : z.Evolves s) :
    z.Evolves (State.absorbPacket s r p) := by
  simp (maxDischargeDepth := 40) [State.absorbPacket, *]

@[simp] theorem State.regUnit_evolves {z s : State} (ag : Agent) (a : Nat) (h : z.Evolves s) :
    z.Evolves (State.regUnit s ag a).2.2 := by
  simp (maxDischargeDepth := 40) [State.regUnit, *]

@[simp] theorem State.readUnits_evolves {z s : State} (ag : Agent) (x2 : Nat) (x3 : Nat) (h : z.Evolves s) :
    z.Evolves (State.readUnits s ag x2 x3).2.2 := by
  induction x3 generalizing s x2 with
  | zero => exact h
  | succ n ih =>
    unfold State.readUnits
    extract_lets r t
    have hr : z.Evolves r.2.2 := by simp only [r]; split <;> simp [h]
    clear_value r
    split
    · exact hr
    · exact ih _ hr

@[simp] theorem State.serveRead_evolves {z s : State} (ag : Agent) (p : Packet) (h : z.Evolves s) :
    z.Evolves (State.serveRead s ag p) := by
  simp (maxDischargeDepth := 40) [State.serveRead, *]

@[simp] theorem State.poisonWord_evolves {z s : State} (a : Nat) (h : z.Evolves s) :
    z.Evolves (State.poisonWord s a) := by
  unfold State.poisonWord
  repeat' (first
    | (simp +contextual (maxDischargeDepth := 40) [snd_ite, *]; done)
    | split
    | dsimp only
    | (rw [leads_next])
    | (intro _)
    | refine foldl_evolves _ _ ?_ ?_
    | refine foldl_snd_evolves _ _ ?_ ?_
    | apply State.fset_evolves
    | apply State.fsets_evolves
    | apply State.event_evolves)

@[simp] theorem State.writeUnit_evolves {z s : State} (ag : Agent) (a : Nat) (mask : Nat) (d : DWord) (poison : Bool) (h : z.Evolves s) :
    z.Evolves (State.writeUnit s ag a mask d poison).2 := by
  simp +contextual (maxDischargeDepth := 40) [State.writeUnit, snd_ite, *]

@[simp] theorem State.writeUnits_evolves {z s : State} (ag : Agent) (p : Packet) (h : z.Evolves s) :
    z.Evolves (State.writeUnits s ag p).2 := by
  simp +contextual (maxDischargeDepth := 40) [State.writeUnits, snd_ite, *]

@[simp] theorem State.serveWrite_evolves {z s : State} (ag : Agent) (p : Packet) (h : z.Evolves s) :
    z.Evolves (State.serveWrite s ag p) := by
  unfold State.serveWrite
  split
  · exact State.replyStatus_evolves _ _ h
  · split <;> simp [h]

@[simp] theorem State.serveFadd_evolves {z s : State} (ag : Agent) (p : Packet) (h : z.Evolves s) :
    z.Evolves (State.serveFadd s ag p) := by
  simp +contextual (maxDischargeDepth := 40) [State.serveFadd, snd_ite, *]

@[simp] theorem State.dropCounted_evolves {z s : State} (h : z.Evolves s) :
    z.Evolves (State.dropCounted s) := by
  simp (maxDischargeDepth := 40) [State.dropCounted, *]

@[simp] theorem State.record_evolves {z s : State} (q : Nat × Nat) (p : Packet) (h : z.Evolves s) :
    z.Evolves (State.record s q p) := by
  simp (maxDischargeDepth := 40) [State.record, *]

@[simp] theorem State.beginAbsorb_evolves {z s : State} (q : Nat × Nat) (which : Packet → Bool) (h : z.Evolves s) :
    z.Evolves (State.beginAbsorb s q which) := by
  simp +contextual (maxDischargeDepth := 40) [State.beginAbsorb, snd_ite, *]

@[simp] theorem State.arrive_evolves {z s : State} (ag : Agent) (p : Packet) (h : z.Evolves s) :
    z.Evolves (State.arrive s ag p) := by
  simp (maxDischargeDepth := 40) [State.arrive, *]

@[simp] theorem State.serve_evolves {z s : State} (ag : Agent) (p : Packet) (h : z.Evolves s) :
    z.Evolves (State.serve s ag p) := by
  unfold State.serve
  repeat' (first
    | (simp +contextual (maxDischargeDepth := 40) [snd_ite, *]; done)
    | split
    | dsimp only
    | (rw [leads_next])
    | (intro _)
    | refine foldl_evolves _ _ ?_ ?_
    | refine foldl_snd_evolves _ _ ?_ ?_
    | apply State.fset_evolves
    | apply State.fsets_evolves
    | apply State.event_evolves)

@[simp] theorem State.atTarget_evolves {z s : State} (ag : Agent) (p : Packet) (h : z.Evolves s) :
    z.Evolves (State.atTarget s ag p) := by
  unfold State.atTarget
  repeat' (first
    | (simp +contextual (maxDischargeDepth := 40) [snd_ite, *]; done)
    | split
    | dsimp only
    | (rw [leads_next])
    | (intro _)
    | refine foldl_evolves _ _ ?_ ?_
    | refine foldl_snd_evolves _ _ ?_ ?_
    | apply State.fset_evolves
    | apply State.fsets_evolves
    | apply State.event_evolves)

@[simp] theorem State.request_evolves {z s : State} (ag : Agent) (p : Packet) (cmd : Nat) (units : Bool) (errs : List LinkErr) (h : z.Evolves s) :
    z.Evolves (State.request s ag p cmd units errs) := by
  unfold State.request
  repeat' (first
    | (simp +contextual (maxDischargeDepth := 40) [snd_ite, *]; done)
    | split
    | dsimp only
    | (rw [leads_next])
    | (intro _)
    | refine foldl_evolves _ _ ?_ ?_
    | refine foldl_snd_evolves _ _ ?_ ?_
    | apply State.fset_evolves
    | apply State.fsets_evolves
    | apply State.event_evolves)

@[simp] theorem execTrellisRd_evolves {z s : State} (ag : Agent) (p : Packet) (errs : List LinkErr) (h : z.Evolves s) :
    Leads z (execTrellisRd ag p errs s) := by
  simp +contextual (maxDischargeDepth := 40) [execTrellisRd, snd_ite, *]

@[simp] theorem execTrellisWr_evolves {z s : State} (ag : Agent) (p : Packet) (errs : List LinkErr) (h : z.Evolves s) :
    Leads z (execTrellisWr ag p errs s) := by
  simp +contextual (maxDischargeDepth := 40) [execTrellisWr, snd_ite, *]

@[simp] theorem execTrellisWrp_evolves {z s : State} (ag : Agent) (p : Packet) (errs : List LinkErr) (h : z.Evolves s) :
    Leads z (execTrellisWrp ag p errs s) := by
  simp +contextual (maxDischargeDepth := 40) [execTrellisWrp, snd_ite, *]

@[simp] theorem execTrellisFadd_evolves {z s : State} (ag : Agent) (p : Packet) (errs : List LinkErr) (h : z.Evolves s) :
    Leads z (execTrellisFadd ag p errs s) := by
  simp +contextual (maxDischargeDepth := 40) [execTrellisFadd, snd_ite, *]

@[simp] theorem State.deliverEvent_evolves {z s : State} (k : Nat) (e : Nat) (atNotice : Bool) (h : z.Evolves s) :
    z.Evolves (State.deliverEvent s k e atNotice) := by
  unfold State.deliverEvent
  repeat' (first
    | (simp +contextual (maxDischargeDepth := 40) [snd_ite, *]; done)
    | split
    | dsimp only
    | (rw [leads_next])
    | (intro _)
    | refine foldl_evolves _ _ ?_ ?_
    | refine foldl_snd_evolves _ _ ?_ ?_
    | apply State.fset_evolves
    | apply State.fsets_evolves
    | apply State.event_evolves
    | apply State.atTarget_evolves
    | apply State.request_evolves)

@[simp] theorem State.atSeatPort_evolves {z s : State} (p : Packet) (h : z.Evolves s) :
    z.Evolves (State.atSeatPort s p) := by
  unfold State.atSeatPort
  repeat' (first
    | (simp +contextual (maxDischargeDepth := 40) [snd_ite, *]; done)
    | split
    | dsimp only
    | (rw [leads_next])
    | (intro _)
    | refine foldl_evolves _ _ ?_ ?_
    | refine foldl_snd_evolves _ _ ?_ ?_
    | apply State.fset_evolves
    | apply State.fsets_evolves
    | apply State.event_evolves)

@[simp] theorem execTrellisEvt_evolves {z s : State} (p : Packet) (errs : List LinkErr) (h : z.Evolves s) :
    Leads z (execTrellisEvt p errs s) := by
  unfold execTrellisEvt
  repeat' (first
    | (simp +contextual (maxDischargeDepth := 40) [snd_ite, *]; done)
    | split
    | dsimp only
    | (rw [leads_next])
    | (intro _)
    | refine foldl_evolves _ _ ?_ ?_
    | refine foldl_snd_evolves _ _ ?_ ?_
    | apply State.fset_evolves
    | apply State.fsets_evolves
    | apply State.event_evolves
    | apply State.atTarget_evolves
    | apply State.request_evolves)

@[simp] theorem State.deliver_evolves {z s : State} (r : TagRec) (tag : Nat) (status : Nat) (seg : Nat) (data : List DWord) (poison :
    List Bool) (h : z.Evolves s) :
    z.Evolves (State.deliver s r tag status seg data poison) := by
  unfold State.deliver
  repeat' (first
    | (simp +contextual (maxDischargeDepth := 40) [snd_ite, *]; done)
    | split
    | dsimp only
    | (rw [leads_next])
    | (intro _)
    | refine foldl_evolves _ _ ?_ ?_
    | refine foldl_snd_evolves _ _ ?_ ?_
    | apply State.fset_evolves
    | apply State.fsets_evolves
    | apply State.event_evolves
    | apply State.atTarget_evolves
    | apply State.request_evolves)

@[simp] theorem State.answerTag_evolves {z s : State} (q : Packet) (seg : Nat) (h : z.Evolves s) :
    z.Evolves (State.answerTag s q seg) := by
  unfold State.answerTag
  repeat' (first
    | (simp +contextual (maxDischargeDepth := 40) [snd_ite, *]; done)
    | split
    | dsimp only
    | (rw [leads_next])
    | (intro _)
    | refine foldl_evolves _ _ ?_ ?_
    | refine foldl_snd_evolves _ _ ?_ ?_
    | apply State.fset_evolves
    | apply State.fsets_evolves
    | apply State.event_evolves
    | apply State.atTarget_evolves
    | apply State.request_evolves)

@[simp] theorem State.atRequester_evolves {z s : State} (q : Packet) (seg : Nat) (h : z.Evolves s) :
    z.Evolves (State.atRequester s q seg) := by
  unfold State.atRequester
  repeat' (first
    | (simp +contextual (maxDischargeDepth := 40) [snd_ite, *]; done)
    | split
    | dsimp only
    | (rw [leads_next])
    | (intro _)
    | refine foldl_evolves _ _ ?_ ?_
    | refine foldl_snd_evolves _ _ ?_ ?_
    | apply State.fset_evolves
    | apply State.fsets_evolves
    | apply State.event_evolves)

@[simp] theorem State.answer_evolves {z s : State} (p : Packet) (cmd : Nat) (units : Bool) (errs : List LinkErr) (seg : Nat) (h :
    z.Evolves s) :
    z.Evolves (State.answer s p cmd units errs seg) := by
  unfold State.answer
  repeat' (first
    | (simp +contextual (maxDischargeDepth := 40) [snd_ite, *]; done)
    | split
    | dsimp only
    | (rw [leads_next])
    | (intro _)
    | refine foldl_evolves _ _ ?_ ?_
    | refine foldl_snd_evolves _ _ ?_ ?_
    | apply State.fset_evolves
    | apply State.fsets_evolves
    | apply State.event_evolves
    | apply State.atTarget_evolves
    | apply State.request_evolves)

@[simp] theorem execTrellisRdresp_evolves {z s : State} (p : Packet) (errs : List LinkErr) (seg : Fin 8) (h : z.Evolves s) :
    Leads z (execTrellisRdresp p errs seg s) := by
  simp (maxDischargeDepth := 40) [execTrellisRdresp, *]

@[simp] theorem execTrellisWrack_evolves {z s : State} (p : Packet) (errs : List LinkErr) (seg : Fin 8) (h : z.Evolves s) :
    Leads z (execTrellisWrack p errs seg s) := by
  simp (maxDischargeDepth := 40) [execTrellisWrack, *]

@[simp] theorem execTagTimeout_evolves {z s : State} (tag : Fin 2048) (seg : Fin 8) (h : z.Evolves s) :
    Leads z (execTagTimeout tag seg s) := by
  unfold execTagTimeout
  repeat' (first
    | (simp +contextual (maxDischargeDepth := 40) [snd_ite, *]; done)
    | split
    | dsimp only
    | (rw [leads_next])
    | (intro _)
    | refine foldl_evolves _ _ ?_ ?_
    | refine foldl_snd_evolves _ _ ?_ ?_
    | apply State.fset_evolves
    | apply State.fsets_evolves
    | apply State.event_evolves
    | apply State.atTarget_evolves
    | apply State.request_evolves)

@[simp] theorem execTagRelease_evolves {z s : State} (tag : Fin 2048) (h : z.Evolves s) :
    Leads z (execTagRelease tag s) := by
  unfold execTagRelease
  repeat' (first
    | (simp +contextual (maxDischargeDepth := 40) [snd_ite, *]; done)
    | split
    | dsimp only
    | (rw [leads_next])
    | (intro _)
    | refine foldl_evolves _ _ ?_ ?_
    | refine foldl_snd_evolves _ _ ?_ ?_
    | apply State.fset_evolves
    | apply State.fsets_evolves
    | apply State.event_evolves
    | apply State.atTarget_evolves
    | apply State.request_evolves)

@[simp] theorem execTrlSwapCommit_evolves {z s : State} (ag : Agent) (v : Word) (h : z.Evolves s) :
    Leads z (execTrlSwapCommit ag v s) := by
  simp (maxDischargeDepth := 40) [execTrlSwapCommit, *]

@[simp] theorem State.swapEntries_evolves {z s : State} (h : z.Evolves s) :
    z.Evolves (State.swapEntries s) := by
  simp +contextual (maxDischargeDepth := 40) [State.swapEntries, snd_ite, *]

@[simp] theorem State.drainPorts_evolves {z s : State} (r : Nat) (h : z.Evolves s) :
    z.Evolves (State.drainPorts s r) := by
  simp +contextual (maxDischargeDepth := 40) [State.drainPorts, snd_ite, *]

@[simp] theorem execTableSwapDone_evolves {z s : State} (h : z.Evolves s) :
    Leads z (execTableSwapDone s) := by
  unfold execTableSwapDone
  split
  · exact h
  · extract_lets s1
    have h1 : z.Evolves s1 := by simp (maxDischargeDepth := 40) [s1, h]
    clear_value s1
    split <;> simp [h1]

@[simp] theorem execRouterIsolate_evolves {z s : State} (r : Fin 24) (h : z.Evolves s) :
    Leads z (execRouterIsolate r s) := by
  unfold execRouterIsolate
  repeat' (first
    | (simp +contextual (maxDischargeDepth := 40) [snd_ite, *]; done)
    | split
    | dsimp only
    | (rw [leads_next])
    | (intro _)
    | refine foldl_evolves _ _ ?_ ?_
    | refine foldl_snd_evolves _ _ ?_ ?_
    | apply State.fset_evolves
    | apply State.fsets_evolves
    | apply State.event_evolves
    | apply State.atTarget_evolves
    | apply State.request_evolves)

@[simp] theorem State.dropToken_evolves {z s : State} (q : Nat × Nat) (cut : List Packet) (h : z.Evolves s) :
    z.Evolves (State.dropToken s q cut) := by
  unfold State.dropToken
  repeat' (first
    | (simp +contextual (maxDischargeDepth := 40) [snd_ite, *]; done)
    | split
    | dsimp only
    | (rw [leads_next])
    | (intro _)
    | refine foldl_evolves _ _ ?_ ?_
    | refine foldl_snd_evolves _ _ ?_ ?_
    | apply State.fset_evolves
    | apply State.fsets_evolves
    | apply State.event_evolves)

@[simp] theorem State.resumeToken_evolves {z s : State} (q : Nat × Nat) (h : z.Evolves s) :
    z.Evolves (State.resumeToken s q) := by
  unfold State.resumeToken
  repeat' (first
    | (simp +contextual (maxDischargeDepth := 40) [snd_ite, *]; done)
    | split
    | dsimp only
    | (rw [leads_next])
    | (intro _)
    | refine foldl_evolves _ _ ?_ ?_
    | refine foldl_snd_evolves _ _ ?_ ?_
    | apply State.fset_evolves
    | apply State.fsets_evolves
    | apply State.event_evolves)

@[simp] theorem execLinkTokenDrop_evolves {z s : State} (r : Fin 24) (drop : TokenDrop) (h : z.Evolves s) :
    Leads z (execLinkTokenDrop r drop s) := by
  simp +contextual (maxDischargeDepth := 40) [execLinkTokenDrop, snd_ite, *]

end Sys2Proof.Machine
end

