-- ==== Sys2Proof/Laws/SeatsEv.lean ====
section
/-!
SUPPORT. What the operations of Machine/Seats.lean respect.
-/
namespace Sys2Proof.Machine

open Sys2Proof

@[simp] theorem State.no_evolves {z s : State} (reason : Nat) (h : z.Evolves s) :
    z.Evolves (State.no s reason).2.2 := by
  simp (maxDischargeDepth := 40) [State.no, *]

@[simp] theorem State.checked_evolves {z s : State} (x1 : List (Bool × Nat)) (x2 : State → CmdOut) (h : z.Evolves s) (hx2 : ∀ t,
    z.Evolves t → z.Evolves (x2 t).2.2) :
    z.Evolves (State.checked s x1 x2).2.2 := by
  revert h
  fun_induction State.checked s x1 x2 <;> intro h <;>
  repeat' (first
    | (simp +contextual +zetaDelta (maxDischargeDepth := 40) [snd_ite, *]; done)
    | split
    | dsimp only
    | (rw [leads_next])
    | (intro _)
    | refine foldl_evolves _ _ ?_ ?_
    | refine foldl_snd_evolves _ _ ?_ ?_
    | apply State.fset_evolves
    | apply State.fsets_evolves
    | apply State.event_evolves)

@[simp] theorem State.layerPost_evolves {z s : State} (k : Nat) (b : List Byte) (h : z.Evolves s) :
    z.Evolves (State.layerPost s k b).2.2 := by
  simp +contextual (maxDischargeDepth := 40) [State.layerPost, snd_ite, *]

@[simp] theorem State.statusGet_evolves {z s : State} (k : Nat) (b : List Byte) (h : z.Evolves s) :
    z.Evolves (State.statusGet s k b).2.2 := by
  unfold State.statusGet
  repeat' (first
    | (simp +contextual (maxDischargeDepth := 40) [snd_ite, *]; done)
    | split
    | dsimp only
    | (rw [leads_next])
    | (intro _)
    | refine foldl_evolves _ _ ?_ ?_
    | refine foldl_snd_evolves _ _ ?_ ?_
    | apply State.fset_evolves
    | apply State.fsets_evolves
    | apply State.event_evolves
    | apply State.checked_evolves)

@[simp] theorem State.diagRead_evolves {z s : State} (k : Nat) (b : List Byte) (h : z.Evolves s) :
    z.Evolves (State.diagRead s k b).2.2 := by
  simp +contextual (maxDischargeDepth := 40) [State.diagRead, snd_ite, *]

@[simp] theorem State.bankHandover_evolves {z s : State} (k : Nat) (b : List Byte) (h : z.Evolves s) :
    z.Evolves (State.bankHandover s k b).2.2 := by
  simp +contextual (maxDischargeDepth := 40) [State.bankHandover, snd_ite, *]

@[simp] theorem State.jobTo_evolves {z s : State} (k : Nat) (j : Nat) (st : Nat) (h : z.Evolves s) :
    z.Evolves (State.jobTo s k j st) := by
  simp (maxDischargeDepth := 40) [State.jobTo, *]

@[simp] theorem State.jobEnd_evolves {z s : State} (k : Nat) (j : Nat) (st : Nat) (status : Nat) (h : z.Evolves s) :
    z.Evolves (State.jobEnd s k j st status) := by
  simp (maxDischargeDepth := 40) [State.jobEnd, *]

@[simp] theorem State.setJob_evolves {z s : State} (k : Nat) (j : Nat) (r : JobRec) (h : z.Evolves s) :
    z.Evolves (State.setJob s k j r) := by
  simp (maxDischargeDepth := 40) [State.setJob, *]

@[simp] theorem State.enqueueJob_evolves {z s : State} (k j : Nat) (r : JobRec) (h : z.Evolves s) :
    z.Evolves (State.enqueueJob s k j r) := by
  unfold State.enqueueJob
  repeat' (first
    | (simp +contextual (maxDischargeDepth := 40) [snd_ite, *]; done)
    | split
    | dsimp only
    | (rw [leads_next])
    | (intro _)
    | refine foldl_evolves _ _ ?_ ?_
    | refine foldl_snd_evolves _ _ ?_ ?_
    | apply State.fset_evolves
    | apply State.fsets_evolves
    | apply State.event_evolves)

@[simp] theorem State.endImports_evolves {z s : State} (h : z.Evolves s) :
    z.Evolves (State.endImports s) := by
  unfold State.endImports
  repeat' (first
    | (simp +contextual (maxDischargeDepth := 40) [snd_ite, *]; done)
    | split
    | dsimp only
    | (rw [leads_next])
    | (intro _)
    | refine foldl_evolves _ _ ?_ ?_
    | refine foldl_snd_evolves _ _ ?_ ?_
    | apply State.fset_evolves
    | apply State.fsets_evolves
    | apply State.event_evolves)

@[simp] theorem State.newJob_evolves {z s : State} (k : Nat) (seq : Nat) (r : JobRec) (h : z.Evolves s) :
    z.Evolves (State.newJob s k seq r).2.2 := by
  unfold State.newJob
  repeat' (first
    | (simp +contextual (maxDischargeDepth := 40) [snd_ite, *]; done)
    | split
    | dsimp only
    | (rw [leads_next])
    | (intro _)
    | refine foldl_evolves _ _ ?_ ?_
    | refine foldl_snd_evolves _ _ ?_ ?_
    | apply State.fset_evolves
    | apply State.fsets_evolves
    | apply State.event_evolves
    | apply State.checked_evolves)

@[simp] theorem State.jobChecked_evolves {z s : State} (k : Nat) (seq : Nat) (r : JobRec) (h : z.Evolves s) :
    z.Evolves (State.jobChecked s k seq r).2.2 := by
  simp +contextual (maxDischargeDepth := 40) [State.jobChecked, snd_ite, *]

@[simp] theorem State.assetImport_evolves {z s : State} (k : Nat) (seq : Nat) (b : List Byte) (h : z.Evolves s) :
    z.Evolves (State.assetImport s k seq b).2.2 := by
  simp +contextual (maxDischargeDepth := 40) [State.assetImport, snd_ite, *]

@[simp] theorem State.exportCmd_evolves {z s : State} (k : Nat) (seq : Nat) (b : List Byte) (h : z.Evolves s) :
    z.Evolves (State.exportCmd s k seq b).2.2 := by
  simp +contextual (maxDischargeDepth := 40) [State.exportCmd, snd_ite, *]

@[simp] theorem State.dramFill_evolves {z s : State} (k : Nat) (seq : Nat) (b : List Byte) (h : z.Evolves s) :
    z.Evolves (State.dramFill s k seq b).2.2 := by
  simp +contextual (maxDischargeDepth := 40) [State.dramFill, snd_ite, *]

@[simp] theorem State.jobSuspend_evolves {z s : State} (k : Nat) (j : Nat) (h : z.Evolves s) :
    z.Evolves (State.jobSuspend s k j).2.2 := by
  unfold State.jobSuspend
  repeat' (first
    | (simp +contextual (maxDischargeDepth := 40) [snd_ite, *]; done)
    | split
    | dsimp only
    | (rw [leads_next])
    | (intro _)
    | refine foldl_evolves _ _ ?_ ?_
    | refine foldl_snd_evolves _ _ ?_ ?_
    | apply State.fset_evolves
    | apply State.fsets_evolves
    | apply State.event_evolves
    | apply State.checked_evolves)

@[simp] theorem State.jobResume_evolves {z s : State} (k : Nat) (j : Nat) (h : z.Evolves s) :
    z.Evolves (State.jobResume s k j).2.2 := by
  unfold State.jobResume
  repeat' (first
    | (simp +contextual (maxDischargeDepth := 40) [snd_ite, *]; done)
    | split
    | dsimp only
    | (rw [leads_next])
    | (intro _)
    | refine foldl_evolves _ _ ?_ ?_
    | refine foldl_snd_evolves _ _ ?_ ?_
    | apply State.fset_evolves
    | apply State.fsets_evolves
    | apply State.event_evolves
    | apply State.checked_evolves)

@[simp] theorem State.jobCancel_evolves {z s : State} (k : Nat) (j : Nat) (h : z.Evolves s) :
    z.Evolves (State.jobCancel s k j).2.2 := by
  unfold State.jobCancel
  repeat' (first
    | (simp +contextual (maxDischargeDepth := 40) [snd_ite, *]; done)
    | split
    | dsimp only
    | (rw [leads_next])
    | (intro _)
    | refine foldl_evolves _ _ ?_ ?_
    | refine foldl_snd_evolves _ _ ?_ ?_
    | apply State.fset_evolves
    | apply State.fsets_evolves
    | apply State.event_evolves
    | apply State.checked_evolves)

@[simp] theorem State.jobControl_evolves {z s : State} (k : Nat) (b : List Byte) (act : State → Nat → Nat → CmdOut) (h : z.Evolves s)
    (hact : ∀ t a1 a2, z.Evolves t → z.Evolves (act t a1 a2).2.2) :
    z.Evolves (State.jobControl s k b act).2.2 := by
  simp +contextual (maxDischargeDepth := 40) [State.jobControl, snd_ite, *]

@[simp] theorem State.tellCommand_evolves {z s : State} (k : Nat) (b : List Byte) (h : z.Evolves s) :
    z.Evolves (State.tellCommand s k b).2.2 := by
  simp +contextual (maxDischargeDepth := 40) [State.tellCommand, snd_ite, *]

@[simp] theorem State.command_evolves {z s : State} (k : Nat) (b : List Byte) (h : z.Evolves s) :
    z.Evolves (State.command s k b).2.2 := by
  unfold State.command
  repeat' (first
    | (simp +contextual (maxDischargeDepth := 40) [snd_ite, *]; done)
    | split
    | dsimp only
    | (rw [leads_next])
    | (intro _)
    | refine foldl_evolves _ _ ?_ ?_
    | refine foldl_snd_evolves _ _ ?_ ?_
    | apply State.fset_evolves
    | apply State.fsets_evolves
    | apply State.event_evolves
    | apply State.checked_evolves
    | apply State.jobControl_evolves)

@[simp] theorem State.complete_evolves {z s : State} (k : Nat) (seq : Nat) (opc : Nat) (status : Nat) (result : Nat) (h : z.Evolves s) :
    z.Evolves (State.complete s k seq opc status result) := by
  simp +contextual (maxDischargeDepth := 40) [State.complete, snd_ite, *]

@[simp] theorem execCommandTake_evolves {z s : State} (k : Fin 4) (h : z.Evolves s) :
    Leads z (execCommandTake k s) := by
  simp +contextual (maxDischargeDepth := 40) [execCommandTake, snd_ite, *]

@[simp] theorem State.jobSource_evolves {z s : State} (k : Nat) (r : JobRec) (data : List Byte) (base : Nat) (pos : Nat) (n : Nat) (h :
    z.Evolves s) :
    z.Evolves (State.jobSource s k r data base pos n).2.2 := by
  unfold State.jobSource
  repeat' (first
    | (simp +contextual (maxDischargeDepth := 40) [snd_ite, *]; done)
    | split
    | dsimp only
    | (rw [leads_next])
    | (intro _)
    | refine foldl_evolves _ _ ?_ ?_
    | refine foldl_snd_evolves _ _ ?_ ?_
    | apply State.fset_evolves
    | apply State.fsets_evolves
    | apply State.event_evolves
    | apply State.checked_evolves
    | apply State.jobControl_evolves)

@[simp] theorem State.moveBytes_evolves {z s : State} (k : Nat) (r : JobRec) (data : List Byte) (base : Nat) (x5 : Nat) (x6 : Nat) (x7 :
    Nat) (x8 : Nat) (h : z.Evolves s) :
    z.Evolves (State.moveBytes s k r data base x5 x6 x7 x8).2 := by
  induction x5 generalizing s x6 x7 x8 with
  | zero => exact h
  | succ n ih =>
    unfold State.moveBytes
    split
    · exact h
    · extract_lets a m q w t e
      have hq : z.Evolves q.2.2 := by simp [q, h]
      clear_value q
      have hw : z.Evolves w.2 := by simp only [w]; split <;> simp [hq]
      clear_value w
      have ht : z.Evolves t := by simp only [t]; split <;> simp [hw]
      exact ih _ _ _ ht

@[simp] theorem execJobStepDone_evolves {z s : State} (k : Fin 4) (data : List Byte) (flash : Fin 11) (h : z.Evolves s) :
    Leads z (execJobStepDone k data flash s) := by
  unfold execJobStepDone
  extract_lets k'
  split
  · simpa using h
  · split
    · simpa using h
    · split
      · simpa using h
      · extract_lets prog n bytes m fail s1
        have hm : z.Evolves m.2 := by simp only [m]; split <;> simp [h]
        clear_value m
        have h1 : z.Evolves s1 := by simp [s1, hm]
        rw [leads_next]
        split <;> simp [h1]

@[simp] theorem State.jobRunningEdge_evolves {z s : State} (k : Nat) (j : Nat) (r : JobRec) (h : z.Evolves s) :
    z.Evolves (State.jobRunningEdge s k j r) := by
  simp (maxDischargeDepth := 40) [State.jobRunningEdge, *]

@[simp] theorem State.jobsEdge_evolves {z s : State} (k : Nat) (h : z.Evolves s) :
    z.Evolves (State.jobsEdge s k) := by
  unfold State.jobsEdge
  repeat' (first
    | (simp +contextual (maxDischargeDepth := 40) [snd_ite, *]; done)
    | split
    | dsimp only
    | (rw [leads_next])
    | (intro _)
    | refine foldl_evolves _ _ ?_ ?_
    | refine foldl_snd_evolves _ _ ?_ ?_
    | apply State.fset_evolves
    | apply State.fsets_evolves
    | apply State.event_evolves
    | apply State.checked_evolves
    | apply State.jobControl_evolves)

@[simp] theorem State.cancelJobs_evolves {z s : State} (h : z.Evolves s) :
    z.Evolves (State.cancelJobs s) := by
  simp +contextual (maxDischargeDepth := 40) [State.cancelJobs, snd_ite, *]

@[simp] theorem State.enterCommand_evolves {z s : State} (k : Nat) (bytes : List Byte) (h : z.Evolves s) :
    z.Evolves (State.enterCommand s k bytes) := by
  simp (maxDischargeDepth := 40) [State.enterCommand, *]

@[simp] theorem execWriteCmd_evolves {z s : State} (p : Fin 2) (bytes : List Byte) (h : z.Evolves s) :
    Leads z (execWriteCmd p bytes s) := by
  unfold execWriteCmd
  repeat' (first
    | (simp +contextual (maxDischargeDepth := 40) [snd_ite, *]; done)
    | split
    | dsimp only
    | (rw [leads_next])
    | (intro _)
    | refine foldl_evolves _ _ ?_ ?_
    | refine foldl_snd_evolves _ _ ?_ ?_
    | apply State.fset_evolves
    | apply State.fsets_evolves
    | apply State.event_evolves
    | apply State.checked_evolves
    | apply State.jobControl_evolves)

@[simp] theorem State.readRing_evolves {z s : State} (p : Nat) (ring : Nat → Nat) (pi : Fld) (ci : Fld) (closed : Bool) (h : z.Evolves s) :
    z.Evolves (State.readRing s p ring pi ci closed) := by
  simp (maxDischargeDepth := 40) [State.readRing, *]

@[simp] theorem execReadCmp_evolves {z s : State} (p : Fin 2) (h : z.Evolves s) :
    Leads z (execReadCmp p s) := by
  unfold execReadCmp
  repeat' (first
    | (simp +contextual (maxDischargeDepth := 40) [snd_ite, *]; done)
    | split
    | dsimp only
    | (rw [leads_next])
    | (intro _)
    | refine foldl_evolves _ _ ?_ ?_
    | refine foldl_snd_evolves _ _ ?_ ?_
    | apply State.fset_evolves
    | apply State.fsets_evolves
    | apply State.event_evolves
    | apply State.checked_evolves
    | apply State.jobControl_evolves)

@[simp] theorem execReadNtc_evolves {z s : State} (p : Fin 2) (h : z.Evolves s) :
    Leads z (execReadNtc p s) := by
  unfold execReadNtc
  repeat' (first
    | (simp +contextual (maxDischargeDepth := 40) [snd_ite, *]; done)
    | split
    | dsimp only
    | (rw [leads_next])
    | (intro _)
    | refine foldl_evolves _ _ ?_ ?_
    | refine foldl_snd_evolves _ _ ?_ ?_
    | apply State.fset_evolves
    | apply State.fsets_evolves
    | apply State.event_evolves
    | apply State.checked_evolves
    | apply State.jobControl_evolves)

@[simp] theorem execReadState_evolves {z s : State} (p : Fin 2) (h : z.Evolves s) :
    Leads z (execReadState p s) := by
  unfold execReadState
  repeat' (first
    | (simp +contextual (maxDischargeDepth := 40) [snd_ite, *]; done)
    | split
    | dsimp only
    | (rw [leads_next])
    | (intro _)
    | refine foldl_evolves _ _ ?_ ?_
    | refine foldl_snd_evolves _ _ ?_ ?_
    | apply State.fset_evolves
    | apply State.fsets_evolves
    | apply State.event_evolves
    | apply State.checked_evolves
    | apply State.jobControl_evolves)

@[simp] theorem execSpiFrameError_evolves {z s : State} (p : Fin 2) (h : z.Evolves s) :
    Leads z (execSpiFrameError p s) := by
  unfold execSpiFrameError
  repeat' (first
    | (simp +contextual (maxDischargeDepth := 40) [snd_ite, *]; done)
    | split
    | dsimp only
    | (rw [leads_next])
    | (intro _)
    | refine foldl_evolves _ _ ?_ ?_
    | refine foldl_snd_evolves _ _ ?_ ?_
    | apply State.fset_evolves
    | apply State.fsets_evolves
    | apply State.event_evolves
    | apply State.checked_evolves
    | apply State.jobControl_evolves)

@[simp] theorem execCanCommandFrame_evolves {z s : State} (c : Fin 4) (ide : Bool) (id : BitVec 29) (bytes : List Byte) (h : z.Evolves s) :
    Leads z (execCanCommandFrame c ide id bytes s) := by
  unfold execCanCommandFrame
  repeat' (first
    | (simp +contextual (maxDischargeDepth := 40) [snd_ite, *]; done)
    | split
    | dsimp only
    | (rw [leads_next])
    | (intro _)
    | refine foldl_evolves _ _ ?_ ?_
    | refine foldl_snd_evolves _ _ ?_ ?_
    | apply State.fset_evolves
    | apply State.fsets_evolves
    | apply State.event_evolves
    | apply State.checked_evolves
    | apply State.jobControl_evolves)

@[simp] theorem State.canSend_evolves {z s : State} (c : Nat) (ide : Fld) (id : Fld) (ring : Nat) (ci : Fld) (h : z.Evolves s) :
    z.Evolves (State.canSend s c ide id ring ci) := by
  simp (maxDischargeDepth := 40) [State.canSend, *]

@[simp] theorem execCanTransmitDone_evolves {z s : State} (c : Fin 4) (h : z.Evolves s) :
    Leads z (execCanTransmitDone c s) := by
  unfold execCanTransmitDone
  repeat' (first
    | (simp +contextual (maxDischargeDepth := 40) [snd_ite, *]; done)
    | split
    | dsimp only
    | (rw [leads_next])
    | (intro _)
    | refine foldl_evolves _ _ ?_ ?_
    | refine foldl_snd_evolves _ _ ?_ ?_
    | apply State.fset_evolves
    | apply State.fsets_evolves
    | apply State.event_evolves
    | apply State.checked_evolves
    | apply State.jobControl_evolves)

@[simp] theorem State.canPort_evolves {z s : State} (c : Nat) (off : Bool) (k : Nat) (h : z.Evolves s) :
    z.Evolves (State.canPort s c off k) := by
  simp (maxDischargeDepth := 40) [State.canPort, *]

@[simp] theorem execCanErrorState_evolves {z s : State} (c : Fin 4) (st : Fin 3) (h : z.Evolves s) :
    Leads z (execCanErrorState c st s) := by
  simp +contextual (maxDischargeDepth := 40) [execCanErrorState, snd_ite, *]

@[simp] theorem State.sendCommand_evolves {z s : State} (k : Nat) (bytes : List Byte) (h : z.Evolves s) :
    z.Evolves (State.sendCommand s k bytes) := by
  simp (maxDischargeDepth := 40) [State.sendCommand, *]

@[simp] theorem execTelltaleSet_evolves {z s : State} (k : Fin 4) (cmd : TellCmd) (h : z.Evolves s) :
    Leads z (execTelltaleSet k cmd s) := by
  simp (maxDischargeDepth := 40) [execTelltaleSet, *]

@[simp] theorem State.setFn_evolves {z s : State} (k : Nat) (f : PcieFn) (h : z.Evolves s) :
    z.Evolves (State.setFn s k f) := by
  simp (maxDischargeDepth := 40) [State.setFn, *]

@[simp] theorem State.portFalls_evolves {z s : State} (k : Nat) (h : z.Evolves s) :
    z.Evolves (State.portFalls s k) := by
  simp (maxDischargeDepth := 40) [State.portFalls, *]

@[simp] theorem execHostPortDown_evolves {z s : State} (k : Fin 4) (h : z.Evolves s) :
    Leads z (execHostPortDown k s) := by
  simp +contextual (maxDischargeDepth := 40) [execHostPortDown, snd_ite, *]

@[simp] theorem State.redeliver_evolves {z s : State} (k : Nat) (h : z.Evolves s) :
    z.Evolves (State.redeliver s k) := by
  simp +contextual (maxDischargeDepth := 40) [State.redeliver, snd_ite, *]

@[simp] theorem execHostPortUp_evolves {z s : State} (k : Fin 4) (h : z.Evolves s) :
    Leads z (execHostPortUp k s) := by
  simp +contextual (maxDischargeDepth := 40) [execHostPortUp, snd_ite, *]

@[simp] theorem execLinkTokenResume_evolves {z s : State} (r : Fin 24) (l : Fin 4) (h : z.Evolves s) :
    Leads z (execLinkTokenResume r l s) := by
  unfold execLinkTokenResume
  repeat' (first
    | (simp +contextual (maxDischargeDepth := 40) [snd_ite, *]; done)
    | split
    | dsimp only
    | (rw [leads_next])
    | (intro _)
    | refine foldl_evolves _ _ ?_ ?_
    | refine foldl_snd_evolves _ _ ?_ ?_
    | apply State.fset_evolves
    | apply State.fsets_evolves
    | apply State.event_evolves)

@[simp] theorem execSeatWatchdogExpiry_evolves {z s : State} (k : Fin 4) (h : z.Evolves s) :
    Leads z (execSeatWatchdogExpiry k s) := by
  simp (maxDischargeDepth := 40) [execSeatWatchdogExpiry, *]

@[simp] theorem execPciePerstRelease_evolves {z s : State} (p : Fin 3) (h : z.Evolves s) :
    Leads z (execPciePerstRelease p s) := by
  simp (maxDischargeDepth := 40) [execPciePerstRelease, *]

@[simp] theorem State.pciePower_evolves {z s : State} (k : Nat) (d3hot : Bool) (h : z.Evolves s) :
    z.Evolves (State.pciePower s k d3hot) := by
  simp +contextual (maxDischargeDepth := 40) [State.pciePower, snd_ite, *]

@[simp] theorem State.pcieMsix_evolves {z s : State} (k : Nat) (enable : Bool) (mask : Bool) (h : z.Evolves s) :
    z.Evolves (State.pcieMsix s k enable mask) := by
  simp +contextual (maxDischargeDepth := 40) [State.pcieMsix, snd_ite, *]

@[simp] theorem State.pcieMaster_evolves {z s : State} (k : Nat) (mem bus : Bool) (h : z.Evolves s) :
    z.Evolves (State.pcieMaster s k mem bus) := by
  unfold State.pcieMaster
  repeat' (first
    | (simp +contextual (maxDischargeDepth := 40) [snd_ite, *]; done)
    | split
    | dsimp only
    | (rw [leads_next])
    | (intro _)
    | refine foldl_evolves _ _ ?_ ?_
    | refine foldl_snd_evolves _ _ ?_ ?_
    | apply State.fset_evolves
    | apply State.fsets_evolves
    | apply State.event_evolves)

@[simp] theorem State.barWrite_evolves {z s : State} (k : Nat) (i : Fin 6) (v : Word) (h : z.Evolves s) :
    z.Evolves (State.barWrite s k i v) := by
  unfold State.barWrite
  repeat' (first
    | (simp +contextual (maxDischargeDepth := 40) [snd_ite, *]; done)
    | split
    | dsimp only
    | (rw [leads_next])
    | (intro _)
    | refine foldl_evolves _ _ ?_ ?_
    | refine foldl_snd_evolves _ _ ?_ ?_
    | apply State.fset_evolves
    | apply State.fsets_evolves
    | apply State.event_evolves)

@[simp] theorem State.pcieConfig_evolves {z s : State} (p : Nat) (k : Nat) (x3 : CfgAsk) (h : z.Evolves s) :
    z.Evolves (State.pcieConfig s p k x3) := by
  unfold State.pcieConfig
  repeat' (first
    | (simp +contextual (maxDischargeDepth := 40) [snd_ite, *]; done)
    | split
    | dsimp only
    | (rw [leads_next])
    | (intro _)
    | refine foldl_evolves _ _ ?_ ?_
    | refine foldl_snd_evolves _ _ ?_ ?_
    | apply State.fset_evolves
    | apply State.fsets_evolves
    | apply State.event_evolves
    | apply State.checked_evolves
    | apply State.jobControl_evolves)

@[simp] theorem execPcieConfigRequest_evolves {z s : State} (req : CfgReq) (h : z.Evolves s) :
    Leads z (execPcieConfigRequest req s) := by
  unfold execPcieConfigRequest
  repeat' (first
    | (simp +contextual (maxDischargeDepth := 40) [snd_ite, *]; done)
    | split
    | dsimp only
    | (rw [leads_next])
    | (intro _)
    | refine foldl_evolves _ _ ?_ ?_
    | refine foldl_snd_evolves _ _ ?_ ?_
    | apply State.fset_evolves
    | apply State.fsets_evolves
    | apply State.event_evolves
    | apply State.checked_evolves
    | apply State.jobControl_evolves)

@[simp] theorem State.readBytes_evolves {z s : State} (ag : Agent) (x2 : Nat) (x3 : Nat) (x4 : Nat) (h : z.Evolves s) :
    z.Evolves (State.readBytes s ag x2 x3 x4).2.2 := by
  revert h
  fun_induction State.readBytes s ag x2 x3 x4 <;> intro h <;>
  repeat' (first
    | (simp +contextual +zetaDelta (maxDischargeDepth := 40) [snd_ite, *]; done)
    | split
    | dsimp only
    | (rw [leads_next])
    | (intro _)
    | refine foldl_evolves _ _ ?_ ?_
    | refine foldl_snd_evolves _ _ ?_ ?_
    | apply State.fset_evolves
    | apply State.fsets_evolves
    | apply State.event_evolves
    | apply State.checked_evolves
    | apply State.jobControl_evolves)

@[simp] theorem State.writeBytes_evolves {z s : State} (ag : Agent) (x2 : Nat) (x3 : Nat) (x4 : List Byte) (h : z.Evolves s) :
    z.Evolves (State.writeBytes s ag x2 x3 x4).2 := by
  revert h
  fun_induction State.writeBytes s ag x2 x3 x4 <;> intro h <;>
  repeat' (first
    | (simp +contextual +zetaDelta (maxDischargeDepth := 40) [snd_ite, *]; done)
    | split
    | dsimp only
    | (rw [leads_next])
    | (intro _)
    | refine foldl_evolves _ _ ?_ ?_
    | refine foldl_snd_evolves _ _ ?_ ?_
    | apply State.fset_evolves
    | apply State.fsets_evolves
    | apply State.event_evolves
    | apply State.checked_evolves
    | apply State.jobControl_evolves)

@[simp] theorem State.apertureError_evolves {z s : State} (k : Nat) (h : z.Evolves s) :
    z.Evolves (State.apertureError s k) := by
  simp (maxDischargeDepth := 40) [State.apertureError, *]

@[simp] theorem execApertureRead_evolves {z s : State} (k : Fin 4) (o : Nat) (n : Nat) (h : z.Evolves s) :
    Leads z (execApertureRead k o n s) := by
  unfold execApertureRead
  repeat' (first
    | (simp +contextual (maxDischargeDepth := 40) [snd_ite, *]; done)
    | split
    | dsimp only
    | (rw [leads_next])
    | (intro _)
    | refine foldl_evolves _ _ ?_ ?_
    | refine foldl_snd_evolves _ _ ?_ ?_
    | apply State.fset_evolves
    | apply State.fsets_evolves
    | apply State.event_evolves
    | apply State.checked_evolves
    | apply State.jobControl_evolves)

@[simp] theorem execApertureWrite_evolves {z s : State} (k : Fin 4) (o : Nat) (data : List Byte) (h : z.Evolves s) :
    Leads z (execApertureWrite k o data s) := by
  unfold execApertureWrite
  repeat' (first
    | (simp +contextual (maxDischargeDepth := 40) [snd_ite, *]; done)
    | split
    | dsimp only
    | (rw [leads_next])
    | (intro _)
    | refine foldl_evolves _ _ ?_ ?_
    | refine foldl_snd_evolves _ _ ?_ ?_
    | apply State.fset_evolves
    | apply State.fsets_evolves
    | apply State.event_evolves
    | apply State.checked_evolves
    | apply State.jobControl_evolves)

end Sys2Proof.Machine
end

