-- ==== Sys2Proof/Laws/GardenerEv.lean ====
section
/-!
SUPPORT. What the operations of Machine/Gardener.lean respect.
-/
namespace Sys2Proof.Machine

open Sys2Proof

@[simp] theorem State.withGard_evolves {z s : State} (f : GardRec → GardRec) (h : z.Evolves s) :
    z.Evolves (State.withGard s f) := by
  simp (maxDischargeDepth := 40) [State.withGard, *]

@[simp] theorem State.gardLog_evolves {z s : State} (r : Report) (action : Nat) (h : z.Evolves s) :
    z.Evolves (State.gardLog s r action) := by
  simp (maxDischargeDepth := 40) [State.gardLog, *]

@[simp] theorem State.holdPlace_evolves {z s : State} (r : Report) (h : z.Evolves s) :
    z.Evolves (State.holdPlace s r) := by
  simp (maxDischargeDepth := 40) [State.holdPlace, *]

@[simp] theorem State.freePlace_evolves {z s : State} (r : Report) (h : z.Evolves s) :
    z.Evolves (State.freePlace s r) := by
  simp (maxDischargeDepth := 40) [State.freePlace, *]

@[simp] theorem State.showTrack_evolves {z s : State} (h : z.Evolves s) :
    z.Evolves (State.showTrack s) := by
  simp (maxDischargeDepth := 40) [State.showTrack, *]

@[simp] theorem State.freeTracker_evolves {z s : State} (cls : Nat) (key : Nat) (h : z.Evolves s) :
    z.Evolves (State.freeTracker s cls key) := by
  simp (maxDischargeDepth := 40) [State.freeTracker, *]

@[simp] theorem State.roomForTracker_evolves {z s : State} (h : z.Evolves s) :
    z.Evolves (State.roomForTracker s) := by
  unfold State.roomForTracker
  repeat' (first
    | (simp +contextual (maxDischargeDepth := 40) [snd_ite, *]; done)
    | split
    | dsimp only
    | (rw [leads_next])
    | (intro _)
    | refine foldl_evolves _ _ ?_ ?_
    | refine foldl_snd_evolves _ _ ?_ ?_
    | apply State.fset_evolves
    | apply State.fsets_evolves
    | apply State.event_evolves)

@[simp] theorem State.strike_evolves {z s : State} (c : Nat) (key : Nat) (ms : Nat) (h : z.Evolves s) :
    z.Evolves (State.strike s c key ms).2 := by
  simp +contextual (maxDischargeDepth := 40) [State.strike, snd_ite, *]

@[simp] theorem State.settle_evolves {z s : State} (h : z.Evolves s) :
    z.Evolves (State.settle s) := by
  simp (maxDischargeDepth := 40) [State.settle, *]

@[simp] theorem State.askScrub_evolves {z s : State} (r : Report) (h : z.Evolves s) :
    z.Evolves (State.askScrub s r) := by
  simp (maxDischargeDepth := 40) [State.askScrub, *]

@[simp] theorem State.tolerate_evolves {z s : State} (r : Report) (h : z.Evolves s) :
    z.Evolves (State.tolerate s r) := by
  simp +contextual (maxDischargeDepth := 40) [State.tolerate, snd_ite, *]

@[simp] theorem State.noSpare_evolves {z s : State} (r : Report) (h : z.Evolves s) :
    z.Evolves (State.noSpare s r) := by
  simp (maxDischargeDepth := 40) [State.noSpare, *]

@[simp] theorem State.askTilePrune_evolves {z s : State} (t : Nat) (r : Report) (h : z.Evolves s) :
    z.Evolves (State.askTilePrune s t r) := by
  simp (maxDischargeDepth := 40) [State.askTilePrune, *]

@[simp] theorem State.graftColumn_evolves {z s : State} (t : Nat) (col : Nat) (r : Report) (h : z.Evolves s) :
    z.Evolves (State.graftColumn s t col r) := by
  unfold State.graftColumn
  repeat' (first
    | (simp +contextual (maxDischargeDepth := 40) [snd_ite, *]; done)
    | split
    | dsimp only
    | (rw [leads_next])
    | (intro _)
    | refine foldl_evolves _ _ ?_ ?_
    | refine foldl_snd_evolves _ _ ?_ ?_
    | apply State.fset_evolves
    | apply State.fsets_evolves
    | apply State.event_evolves)

@[simp] theorem State.dummyFault_evolves {z s : State} (t : Nat) (d : Nat) (r : Report) (h : z.Evolves s) :
    z.Evolves (State.dummyFault s t d r) := by
  simp +contextual (maxDischargeDepth := 40) [State.dummyFault, snd_ite, *]

@[simp] theorem State.planeFault_evolves {z s : State} (r : Report) (h : z.Evolves s) :
    z.Evolves (State.planeFault s r) := by
  simp (maxDischargeDepth := 40) [State.planeFault, *]

@[simp] theorem State.askBankPrune_evolves {z s : State} (b : Nat) (r : Report) (h : z.Evolves s) :
    z.Evolves (State.askBankPrune s b r) := by
  unfold State.askBankPrune
  repeat' (first
    | (simp +contextual (maxDischargeDepth := 40) [snd_ite, *]; done)
    | split
    | dsimp only
    | (rw [leads_next])
    | (intro _)
    | refine foldl_evolves _ _ ?_ ?_
    | refine foldl_snd_evolves _ _ ?_ ?_
    | apply State.fset_evolves
    | apply State.fsets_evolves
    | apply State.event_evolves)

@[simp] theorem State.graftNursery_evolves {z s : State} (b : Nat) (h : z.Evolves s) :
    z.Evolves (State.graftNursery s b) := by
  simp +contextual (maxDischargeDepth := 40) [State.graftNursery, snd_ite, *]

@[simp] theorem State.startGraft_evolves {z s : State} (h : z.Evolves s) :
    z.Evolves (State.startGraft s) := by
  unfold State.startGraft
  repeat' (first
    | (simp +contextual (maxDischargeDepth := 40) [snd_ite, *]; done)
    | split
    | dsimp only
    | (rw [leads_next])
    | (intro _)
    | refine foldl_evolves _ _ ?_ ?_
    | refine foldl_snd_evolves _ _ ?_ ?_
    | apply State.fset_evolves
    | apply State.fsets_evolves
    | apply State.event_evolves)

@[simp] theorem State.bankFault_evolves {z s : State} (r : Report) (h : z.Evolves s) :
    z.Evolves (State.bankFault s r) := by
  unfold State.bankFault
  repeat' (first
    | (simp +contextual (maxDischargeDepth := 40) [snd_ite, *]; done)
    | split
    | dsimp only
    | (rw [leads_next])
    | (intro _)
    | refine foldl_evolves _ _ ?_ ?_
    | refine foldl_snd_evolves _ _ ?_ ?_
    | apply State.fset_evolves
    | apply State.fsets_evolves
    | apply State.event_evolves)

@[simp] theorem State.askRepair_evolves {z s : State} (r : Report) (h : z.Evolves s) :
    z.Evolves (State.askRepair s r) := by
  unfold State.askRepair
  repeat' (first
    | (simp +contextual (maxDischargeDepth := 40) [snd_ite, *]; done)
    | split
    | dsimp only
    | (rw [leads_next])
    | (intro _)
    | refine foldl_evolves _ _ ?_ ?_
    | refine foldl_snd_evolves _ _ ?_ ?_
    | apply State.fset_evolves
    | apply State.fsets_evolves
    | apply State.event_evolves)

@[simp] theorem State.dramFault_evolves {z s : State} (r : Report) (h : z.Evolves s) :
    z.Evolves (State.dramFault s r) := by
  simp +contextual (maxDischargeDepth := 40) [State.dramFault, snd_ite, *]

@[simp] theorem State.loseDealer_evolves {z s : State} (n : Dealer) (runs : Bool) (r : Report) (h : z.Evolves s) :
    z.Evolves (State.loseDealer s n runs r) := by
  simp +contextual (maxDischargeDepth := 40) [State.loseDealer, snd_ite, *]

@[simp] theorem State.swapIn_evolves {z s : State} (k : Nat) (a : AltSet) (h : z.Evolves s) :
    z.Evolves (State.swapIn s k a) := by
  simp +contextual (maxDischargeDepth := 40) [State.swapIn, snd_ite, *]

@[simp] theorem State.pruneBank_evolves {z s : State} (b : Nat) (h : z.Evolves s) :
    z.Evolves (State.pruneBank s b) := by
  simp +contextual (maxDischargeDepth := 40) [State.pruneBank, snd_ite, *]

@[simp] theorem State.loseNursery_evolves {z s : State} (h : z.Evolves s) :
    z.Evolves (State.loseNursery s) := by
  simp +contextual (maxDischargeDepth := 40) [State.loseNursery, snd_ite, *]

@[simp] theorem State.linkFault_evolves {z s : State} (r : Nat) (port : Nat) (rep : Report) (h : z.Evolves s) :
    z.Evolves (State.linkFault s r port rep) := by
  unfold State.linkFault
  repeat' (first
    | (simp +contextual (maxDischargeDepth := 40) [snd_ite, *]; done)
    | split
    | dsimp only
    | (rw [leads_next])
    | (intro _)
    | refine foldl_evolves _ _ ?_ ?_
    | refine foldl_snd_evolves _ _ ?_ ?_
    | apply State.fset_evolves
    | apply State.fsets_evolves
    | apply State.event_evolves)

@[simp] theorem State.resetRange_evolves {z s : State} (lo : Nat) (hi : Nat) (h : z.Evolves s) :
    z.Evolves (State.resetRange s lo hi) := by
  simp +contextual (maxDischargeDepth := 40) [State.resetRange, snd_ite, *]

@[simp] theorem State.warmStop_evolves {z s : State} (h : z.Evolves s) :
    z.Evolves (State.warmStop s) := by
  simp +contextual (maxDischargeDepth := 40) [State.warmStop, snd_ite, *]

@[simp] theorem State.warmRestart_evolves {z s : State} (cause : Nat) (h : z.Evolves s) :
    z.Evolves (State.warmRestart s cause) := by
  simp +contextual (maxDischargeDepth := 40) [State.warmRestart, snd_ite, *]

@[simp] theorem State.lastingAction_evolves {z s : State} (r : Report) (h : z.Evolves s) :
    z.Evolves (State.lastingAction s r) := by
  simp (maxDischargeDepth := 40) [State.lastingAction, *]

@[simp] theorem State.judgedLasting_evolves {z s : State} (r : Report) (h : z.Evolves s) :
    z.Evolves (State.judgedLasting s r) := by
  simp +contextual (maxDischargeDepth := 40) [State.judgedLasting, snd_ite, *]

@[simp] theorem State.judge_evolves {z s : State} (r : Report) (ms : Nat) (h : z.Evolves s) :
    z.Evolves (State.judge s r ms) := by
  simp +contextual (maxDischargeDepth := 40) [State.judge, snd_ite, *]

@[simp] theorem execReportJudgement_evolves {z s : State} (h : z.Evolves s) :
    Leads z (execReportJudgement s) := by
  unfold execReportJudgement
  repeat' (first
    | (simp +contextual (maxDischargeDepth := 40) [snd_ite, *]; done)
    | split
    | dsimp only
    | (rw [leads_next])
    | (intro _)
    | refine foldl_evolves _ _ ?_ ?_
    | refine foldl_snd_evolves _ _ ?_ ?_
    | apply State.fset_evolves
    | apply State.fsets_evolves
    | apply State.event_evolves)

@[simp] theorem State.enqueue_evolves {z s : State} (r : Report) (ms : Nat) (h : z.Evolves s) :
    z.Evolves (State.enqueue s r ms) := by
  simp (maxDischargeDepth := 40) [State.enqueue, *]

@[simp] theorem execGardenerReport_evolves {z s : State} (rep : Option Report) (ms : Nat) (h : z.Evolves s) :
    Leads z (execGardenerReport rep ms s) := by
  unfold execGardenerReport
  repeat' (first
    | (simp +contextual (maxDischargeDepth := 40) [snd_ite, *]; done)
    | split
    | dsimp only
    | (rw [leads_next])
    | (intro _)
    | refine foldl_evolves _ _ ?_ ?_
    | refine foldl_snd_evolves _ _ ?_ ?_
    | apply State.fset_evolves
    | apply State.fsets_evolves
    | apply State.event_evolves)

@[simp] theorem execStandbySelfcheckFail_evolves {z s : State} (n : Dealer) (h : z.Evolves s) :
    Leads z (execStandbySelfcheckFail n s) := by
  simp (maxDischargeDepth := 40) [execStandbySelfcheckFail, *]

@[simp] theorem State.healWord_evolves {z s : State} (a : Nat) (h : z.Evolves s) :
    z.Evolves (State.healWord s a) := by
  simp (maxDischargeDepth := 40) [State.healWord, *]

@[simp] theorem State.healIcon_evolves {z s : State} (a : Nat) (h : z.Evolves s) :
    z.Evolves (State.healIcon s a) := by
  simp (maxDischargeDepth := 40) [State.healIcon, *]

@[simp] theorem execTransientScrub_evolves {z s : State} (i : Nat) (met : Bool) (h : z.Evolves s) :
    Leads z (execTransientScrub i met s) := by
  unfold execTransientScrub
  repeat' (first
    | (simp +contextual (maxDischargeDepth := 40) [snd_ite, *]; done)
    | split
    | dsimp only
    | (rw [leads_next])
    | (intro _)
    | refine foldl_evolves _ _ ?_ ?_
    | refine foldl_snd_evolves _ _ ?_ ?_
    | apply State.fset_evolves
    | apply State.fsets_evolves
    | apply State.event_evolves)

@[simp] theorem execImageCopyRepair_evolves {z s : State} (h : z.Evolves s) :
    Leads z (execImageCopyRepair s) := by
  unfold execImageCopyRepair
  repeat' (first
    | (simp +contextual (maxDischargeDepth := 40) [snd_ite, *]; done)
    | split
    | dsimp only
    | (rw [leads_next])
    | (intro _)
    | refine foldl_evolves _ _ ?_ ?_
    | refine foldl_snd_evolves _ _ ?_ ?_
    | apply State.fset_evolves
    | apply State.fsets_evolves
    | apply State.event_evolves)

@[simp] theorem execWarmDramBack_evolves {z s : State} (ok : Bool) (h : z.Evolves s) :
    Leads z (execWarmDramBack ok s) := by
  simp (maxDischargeDepth := 40) [execWarmDramBack, *]

@[simp] theorem execWarmTelltaleCheckDone_evolves {z s : State} (h : z.Evolves s) :
    Leads z (execWarmTelltaleCheckDone s) := by
  simp (maxDischargeDepth := 40) [execWarmTelltaleCheckDone, *]

@[simp] theorem State.moveRoutes_evolves {z s : State} (n : Dealer) (m : Dealer) (h : z.Evolves s) :
    z.Evolves (State.moveRoutes s n m) := by
  simp +contextual (maxDischargeDepth := 40) [State.moveRoutes, snd_ite, *]

@[simp] theorem State.moveOwners_evolves {z s : State} (n : Dealer) (m : Dealer) (h : z.Evolves s) :
    z.Evolves (State.moveOwners s n m) := by
  simp +contextual (maxDischargeDepth := 40) [State.moveOwners, snd_ite, *]

@[simp] theorem State.carryEdge_evolves {z s : State} (n : Dealer) (m : Dealer) (h : z.Evolves s) :
    z.Evolves (State.carryEdge s n m) := by
  simp (maxDischargeDepth := 40) [State.carryEdge, *]

@[simp] theorem State.retire_evolves {z s : State} (n : Dealer) (h : z.Evolves s) :
    z.Evolves (State.retire s n) := by
  simp +contextual (maxDischargeDepth := 40) [State.retire, snd_ite, *]

@[simp] theorem State.applyLoss_evolves {z s : State} (n : Dealer) (h : z.Evolves s) :
    z.Evolves (State.applyLoss s n) := by
  unfold State.applyLoss
  repeat' (first
    | (simp +contextual (maxDischargeDepth := 40) [snd_ite, *]; done)
    | split
    | dsimp only
    | (rw [leads_next])
    | (intro _)
    | refine foldl_evolves _ _ ?_ ?_
    | refine foldl_snd_evolves _ _ ?_ ?_
    | apply State.fset_evolves
    | apply State.fsets_evolves
    | apply State.event_evolves)

@[simp] theorem State.applyTilePrune_evolves {z s : State} (t : Nat) (h : z.Evolves s) :
    z.Evolves (State.applyTilePrune s t) := by
  simp +contextual (maxDischargeDepth := 40) [State.applyTilePrune, snd_ite, *]

@[simp] theorem State.healColumn_evolves {z s : State} (t : Nat) (col : Nat) (h : z.Evolves s) :
    z.Evolves (State.healColumn s t col) := by
  unfold State.healColumn
  repeat' (first
    | (simp +contextual (maxDischargeDepth := 40) [snd_ite, *]; done)
    | split
    | dsimp only
    | (rw [leads_next])
    | (intro _)
    | refine foldl_evolves _ _ ?_ ?_
    | refine foldl_snd_evolves _ _ ?_ ?_
    | apply State.fset_evolves
    | apply State.fsets_evolves
    | apply State.event_evolves)

@[simp] theorem State.applyColumn_evolves {z s : State} (c : ColCopy) (h : z.Evolves s) :
    z.Evolves (State.applyColumn s c) := by
  simp +contextual (maxDischargeDepth := 40) [State.applyColumn, snd_ite, *]

@[simp] theorem State.applyNursery_evolves {z s : State} (h : z.Evolves s) :
    z.Evolves (State.applyNursery s) := by
  unfold State.applyNursery
  repeat' (first
    | (simp +contextual (maxDischargeDepth := 40) [snd_ite, *]; done)
    | split
    | dsimp only
    | (rw [leads_next])
    | (intro _)
    | refine foldl_evolves _ _ ?_ ?_
    | refine foldl_snd_evolves _ _ ?_ ?_
    | apply State.fset_evolves
    | apply State.fsets_evolves
    | apply State.event_evolves)

@[simp] theorem State.applySuit_evolves {z s : State} (h : z.Evolves s) :
    z.Evolves (State.applySuit s) := by
  unfold State.applySuit
  repeat' (first
    | (simp +contextual (maxDischargeDepth := 40) [snd_ite, *]; done)
    | split
    | dsimp only
    | (rw [leads_next])
    | (intro _)
    | refine foldl_evolves _ _ ?_ ?_
    | refine foldl_snd_evolves _ _ ?_ ?_
    | apply State.fset_evolves
    | apply State.fsets_evolves
    | apply State.event_evolves)

@[simp] theorem State.applyCond_evolves {z s : State} (n : Dealer) (h : z.Evolves s) :
    z.Evolves (State.applyCond s n) := by
  unfold State.applyCond
  repeat' (first
    | (simp +contextual (maxDischargeDepth := 40) [snd_ite, *]; done)
    | split
    | dsimp only
    | (rw [leads_next])
    | (intro _)
    | refine foldl_evolves _ _ ?_ ?_
    | refine foldl_snd_evolves _ _ ?_ ?_
    | apply State.fset_evolves
    | apply State.fsets_evolves
    | apply State.event_evolves)

@[simp] theorem State.dropPrunes_evolves {z s : State} (h : z.Evolves s) :
    z.Evolves (State.dropPrunes s) := by
  unfold State.dropPrunes
  repeat' (first
    | (simp +contextual (maxDischargeDepth := 40) [snd_ite, *]; done)
    | split
    | dsimp only
    | (rw [leads_next])
    | (intro _)
    | refine foldl_evolves _ _ ?_ ?_
    | refine foldl_snd_evolves _ _ ?_ ?_
    | apply State.fset_evolves
    | apply State.fsets_evolves
    | apply State.event_evolves)

@[simp] theorem State.applyEdge_evolves {z s : State} (h : z.Evolves s) :
    z.Evolves (State.applyEdge s) := by
  simp +contextual (maxDischargeDepth := 40) [State.applyEdge, snd_ite, *]

end Sys2Proof.Machine
end

