-- ==== Sys2Proof/Laws/TicksEv.lean ====
section
/-!
SUPPORT. What the operations of Machine/Ticks.lean respect.
-/
namespace Sys2Proof.Machine

open Sys2Proof

@[simp] theorem State.noteOverrun_evolves {z s : State} (n : Dealer) (h : z.Evolves s) :
    z.Evolves (State.noteOverrun s n) := by
  simp +contextual (maxDischargeDepth := 40) [State.noteOverrun, snd_ite, *]

@[simp] theorem State.edgeBuffers_evolves {z s : State} (h : z.Evolves s) :
    z.Evolves (State.edgeBuffers s) := by
  simp +contextual (maxDischargeDepth := 40) [State.edgeBuffers, snd_ite, *]

@[simp] theorem State.edgeLedger_evolves {z s : State} (len : Nat) (since : Nat) (h : z.Evolves s) :
    z.Evolves (State.edgeLedger s len since) := by
  simp (maxDischargeDepth := 40) [State.edgeLedger, *]

@[simp] theorem State.edgeDealer_evolves {z s : State} (n : Dealer) (h : z.Evolves s) :
    z.Evolves (State.edgeDealer s n) := by
  simp (maxDischargeDepth := 40) [State.edgeDealer, *]

@[simp] theorem State.edgeRestarts_evolves {z s : State} (h : z.Evolves s) :
    z.Evolves (State.edgeRestarts s) := by
  simp +contextual (maxDischargeDepth := 40) [State.edgeRestarts, snd_ite, *]

@[simp] theorem State.edgeWarm_evolves {z s : State} (h : z.Evolves s) :
    z.Evolves (State.edgeWarm s) := by
  simp +contextual (maxDischargeDepth := 40) [State.edgeWarm, snd_ite, *]

@[simp] theorem State.startTick_evolves {z s : State} (len : Nat) (h : z.Evolves s) :
    z.Evolves (State.startTick s len) := ⟨h.1, h.2, h.3, h.4, h.5, Nat.le_trans h.6 (Nat.le_max_left _ _), h.7⟩

@[simp] theorem State.tickEdge_evolves {z s : State} (len : Nat) (h : z.Evolves s) :
    z.Evolves (State.tickEdge s len) := by
  simp +contextual (maxDischargeDepth := 40) [State.tickEdge, snd_ite, *]

@[simp] theorem State.dsp0Frame_evolves {z s : State} (h : z.Evolves s) :
    z.Evolves (State.dsp0Frame s) := by
  unfold State.dsp0Frame
  repeat' (first
    | (simp +contextual (maxDischargeDepth := 40) [snd_ite, *]; done)
    | split
    | dsimp only
    | (rw [leads_next])
    | (intro _)
    | refine foldl_evolves _ _ ?_ ?_
    | refine foldl_snd_evolves _ _ ?_ ?_
    | apply State.fset_evolves
    | apply State.fsets_evolves
    | apply State.event_evolves)

@[simp] theorem execTickEdge_evolves {z s : State} (cycles : BitVec 25) (h : z.Evolves s) :
    Leads z (execTickEdge cycles s) := by
  unfold execTickEdge
  repeat' (first
    | (simp +contextual (maxDischargeDepth := 40) [snd_ite, *]; done)
    | split
    | dsimp only
    | (rw [leads_next])
    | (intro _)
    | refine foldl_evolves _ _ ?_ ?_
    | refine foldl_snd_evolves _ _ ?_ ?_
    | apply State.dsp0Frame_evolves
    | apply State.tickEdge_evolves
    | apply State.fset_evolves
    | apply State.fsets_evolves
    | apply State.event_evolves)

@[simp] theorem execTickTimerExpiry_evolves {z s : State} (h : z.Evolves s) :
    Leads z (execTickTimerExpiry s) := by
  simp (maxDischargeDepth := 40) [execTickTimerExpiry, *]

@[simp] theorem execTickMaxExpiry_evolves {z s : State} (h : z.Evolves s) :
    Leads z (execTickMaxExpiry s) := by
  simp +contextual (maxDischargeDepth := 40) [execTickMaxExpiry, snd_ite, *]

@[simp] theorem execTickHoldExpiry_evolves {z s : State} (h : z.Evolves s) :
    Leads z (execTickHoldExpiry s) := by
  simp (maxDischargeDepth := 40) [execTickHoldExpiry, *]

@[simp] theorem execFirstTickEdge_evolves {z s : State} (bound : Bool) (h : z.Evolves s) :
    Leads z (execFirstTickEdge bound s) := by
  simp (maxDischargeDepth := 40) [execFirstTickEdge, *]

@[simp] theorem execOverrunCut_evolves {z s : State} (n : Dealer) (h : z.Evolves s) :
    Leads z (execOverrunCut n s) := by
  simp +contextual (maxDischargeDepth := 40) [execOverrunCut, snd_ite, *]

@[simp] theorem State.noteFallow_evolves {z s : State} (h : z.Evolves s) :
    z.Evolves (State.noteFallow s) := by
  simp (maxDischargeDepth := 40) [State.noteFallow, *]

@[simp] theorem State.skipDeal_evolves {z s : State} (n : Dealer) (h : z.Evolves s) :
    z.Evolves (State.skipDeal s n) := by
  simp (maxDischargeDepth := 40) [State.skipDeal, *]

@[simp] theorem State.afterSwitch_evolves {z s : State} (n : Dealer) (h : z.Evolves s) :
    z.Evolves (State.afterSwitch s n) := by
  simp (maxDischargeDepth := 40) [State.afterSwitch, *]

@[simp] theorem execEdgeSwitch_evolves {z s : State} (h : z.Evolves s) :
    Leads z (execEdgeSwitch s) := by
  simp +contextual (maxDischargeDepth := 40) [execEdgeSwitch, snd_ite, *]

@[simp] theorem State.setM_evolves {z s : State} (q : Nat) (h : z.Evolves s) :
    z.Evolves (State.setM s q) := by
  simp (maxDischargeDepth := 40) [State.setM, *]

@[simp] theorem State.startDeal_evolves {z s : State} (n : Dealer) (h : z.Evolves s) :
    z.Evolves (State.startDeal s n) := by
  simp +contextual (maxDischargeDepth := 40) [State.startDeal, snd_ite, *]

@[simp] theorem execDealStart_evolves {z s : State} (n : Dealer) (h : z.Evolves s) :
    Leads z (execDealStart n s) := by
  simp (maxDischargeDepth := 40) [execDealStart, *]

@[simp] theorem execPhase_evolves {z s : State} (n : Dealer) (op : SOp) (h : z.Evolves s) :
    Leads z (execPhase n op s) := by
  simp +contextual (maxDischargeDepth := 40) [execPhase, snd_ite, *]

@[simp] theorem execDend_evolves {z s : State} (n : Dealer) (op : SOp) (h : z.Evolves s) :
    Leads z (execDend n op s) := by
  simp +contextual (maxDischargeDepth := 40) [execDend, snd_ite, *]

@[simp] theorem State.raiseTile_evolves {z s : State} (t : Nat) (h : z.Evolves s) :
    z.Evolves (State.raiseTile s t) := by
  simp (maxDischargeDepth := 40) [State.raiseTile, *]

@[simp] theorem State.gridQuad_evolves {z s : State} (q : Nat) (h : z.Evolves s) :
    z.Evolves (State.gridQuad s q) := by
  unfold State.gridQuad
  repeat' (first
    | (simp +contextual (maxDischargeDepth := 40) [snd_ite, *]; done)
    | split
    | dsimp only
    | (rw [leads_next])
    | (intro _)
    | refine foldl_evolves _ _ ?_ ?_
    | refine foldl_snd_evolves _ _ ?_ ?_
    | apply State.fset_evolves
    | apply State.fsets_evolves
    | apply State.event_evolves
    | apply runScalar_evolves)

@[simp] theorem execGridPoint_evolves {z s : State} (h : z.Evolves s) :
    Leads z (execGridPoint s) := by
  simp +contextual (maxDischargeDepth := 40) [execGridPoint, snd_ite, *]

@[simp] theorem execTileLowerIdleExpiry_evolves {z s : State} (n : Dealer) (h : z.Evolves s) :
    Leads z (execTileLowerIdleExpiry n s) := by
  simp (maxDischargeDepth := 40) [execTileLowerIdleExpiry, *]

@[simp] theorem execArrayHoldRelease_evolves {z s : State} (n : Dealer) (h : z.Evolves s) :
    Leads z (execArrayHoldRelease n s) := by
  simp (maxDischargeDepth := 40) [execArrayHoldRelease, *]

@[simp] theorem execEventAssert_evolves {z s : State} (e : Fin 320) (h : z.Evolves s) :
    Leads z (execEventAssert e s) := by
  simp (maxDischargeDepth := 40) [execEventAssert, *]

end Sys2Proof.Machine
end

