-- ==== Sys2Proof/Laws/BackgroundEv.lean ====
section
/-!
SUPPORT. What the operations of Machine/Background.lean respect.
-/
namespace Sys2Proof.Machine

open Sys2Proof

@[simp] theorem State.testedColumn_evolves {z s : State} (t : Nat) (word : Nat) (c : Fin 66) (h : z.Evolves s) :
    z.Evolves (State.testedColumn s t word c) := by
  simp (maxDischargeDepth := 40) [State.testedColumn, *]

@[simp] theorem State.locateUE_evolves {z s : State} (t : Nat) (word : Nat) (bad : List (Fin 66)) (h : z.Evolves s) :
    z.Evolves (State.locateUE s t word bad) := by
  simp +contextual (maxDischargeDepth := 40) [State.locateUE, snd_ite, *]

@[simp] theorem State.scrubPlane_evolves {z s : State} (t : Nat) (h : z.Evolves s) :
    z.Evolves (State.scrubPlane s t) := by
  simp +contextual (maxDischargeDepth := 40) [State.scrubPlane, snd_ite, *]

@[simp] theorem State.planeStep_evolves {z s : State} (t : Nat) (bad : List (Fin 66)) (h : z.Evolves s) :
    z.Evolves (State.planeStep s t bad) := by
  unfold State.planeStep
  repeat' (first
    | (simp +contextual (maxDischargeDepth := 40) [snd_ite, *]; done)
    | split
    | dsimp only
    | (rw [leads_next])
    | (intro _)
    | refine foldl_evolves _ _ ?_ ?_
    | refine foldl_snd_evolves _ _ ?_ ?_
    | apply State.fset_evolves
    | apply State.fsets_evolves
    | apply State.event_evolves)

@[simp] theorem execPlaneScrubStep_evolves {z s : State} (t : Fin 64) (bad : List (Fin 66)) (h : z.Evolves s) :
    Leads z (execPlaneScrubStep t bad s) := by
  simp (maxDischargeDepth := 40) [execPlaneScrubStep, *]

@[simp] theorem State.copyStep_evolves {z s : State} (t : Nat) (ended : Bool) (h : z.Evolves s) :
    z.Evolves (State.copyStep s t ended) := by
  unfold State.copyStep
  repeat' (first
    | (simp +contextual (maxDischargeDepth := 40) [snd_ite, *]; done)
    | split
    | dsimp only
    | (rw [leads_next])
    | (intro _)
    | refine foldl_evolves _ _ ?_ ?_
    | refine foldl_snd_evolves _ _ ?_ ?_
    | apply State.fset_evolves
    | apply State.fsets_evolves
    | apply State.event_evolves)

@[simp] theorem execGraftCopyStep_evolves {z s : State} (t : Fin 64) (ended : Bool) (h : z.Evolves s) :
    Leads z (execGraftCopyStep t ended s) := by
  simp (maxDischargeDepth := 40) [execGraftCopyStep, *]

@[simp] theorem execBackgroundStep_evolves {z s : State} (work : BgWork) (yields : Bool) (h : z.Evolves s) :
    Leads z (execBackgroundStep work yields s) := by
  unfold execBackgroundStep
  repeat' (first
    | (simp +contextual (maxDischargeDepth := 40) [snd_ite, *]; done)
    | split
    | dsimp only
    | (rw [leads_next])
    | (intro _)
    | refine foldl_evolves _ _ ?_ ?_
    | refine foldl_snd_evolves _ _ ?_ ?_
    | apply State.fset_evolves
    | apply State.fsets_evolves
    | apply State.event_evolves)

@[simp] theorem execBackgroundYieldOverdue_evolves {z s : State} (e : Fin 320) (h : z.Evolves s) :
    Leads z (execBackgroundYieldOverdue e s) := by
  simp (maxDischargeDepth := 40) [execBackgroundYieldOverdue, *]

end Sys2Proof.Machine
end

