-- ==== Sys2Proof/Laws/MicrocodeEv.lean ====
section
/-!
SUPPORT. What the operations of Machine/Microcode.lean respect.
-/
namespace Sys2Proof.Machine

open Sys2Proof

@[simp] theorem uWrite_evolves {z : State} (e : UEnv) (u : URun) (w : Nat) (zs : List Nat)  (hu : z.Evolves u.s) :
    z.Evolves (uWrite e u w zs) := by
  unfold uWrite
  repeat' (first
    | (simp +contextual (maxDischargeDepth := 40) [snd_ite, *]; done)
    | split
    | dsimp only
    | (rw [leads_next])
    | (intro _)
    | refine foldl_evolves _ _ ?_ ?_
    | refine foldl_snd_evolves _ _ ?_ ?_
    | apply State.fset_evolves
    | apply State.fsets_evolves
    | apply State.event_evolves
    | apply runScalar_evolves
    | apply runArray_evolves
    | apply State.withSources_evolves
    | apply State.withReads_evolves)

@[simp] theorem State.countMsp_evolves {z s : State} (n : Dealer) (up : Bool) (h : z.Evolves s) : z.Evolves (State.countMsp s n up) := by
  unfold State.countMsp
  dsimp only
  split
  · refine State.setDl_evolves n _ (fun _ => ?_) h
    show (s.dl n).msp + 1 ≤ 56
    omega
  · split
    · exact State.setDl_evolves n _ (fun m => Nat.le_trans (Nat.sub_le _ 1) (h.masks m n)) h
    · exact State.setDl_evolves n _ (fun _ => Nat.le_of_lt_succ (Nat.mod_lt _ (by decide))) (State.draw_evolves 18 h)

@[simp] theorem uScalar_evolves {z : State} (e : UEnv) (u : URun) (w : Nat)  (hu : z.Evolves u.s) :
    z.Evolves (uScalar e u w).1 := by
  unfold uScalar
  repeat' (first
    | (simp +contextual (maxDischargeDepth := 40) [snd_ite, *]; done)
    | split
    | dsimp only
    | (rw [leads_next])
    | (intro _)
    | refine foldl_evolves _ _ ?_ ?_
    | refine foldl_snd_evolves _ _ ?_ ?_
    | apply State.fset_evolves
    | apply State.fsets_evolves
    | apply State.event_evolves
    | apply runScalar_evolves
    | apply runArray_evolves
    | apply State.withSources_evolves
    | apply State.withReads_evolves)

@[simp] theorem uReads_evolves {z : State} (e : UEnv) (u : URun) (w : Nat)  (hu : z.Evolves u.s) :
    z.Evolves (uReads e u w).2 := by
  unfold uReads
  repeat' (first
    | (simp +contextual (maxDischargeDepth := 40) [snd_ite, *]; done)
    | split
    | dsimp only
    | (rw [leads_next])
    | (intro _)
    | refine foldl_evolves _ _ ?_ ?_
    | refine foldl_snd_evolves _ _ ?_ ?_
    | apply State.fset_evolves
    | apply State.fsets_evolves
    | apply State.event_evolves
    | apply runScalar_evolves
    | apply runArray_evolves
    | apply State.withSources_evolves
    | apply State.withReads_evolves)

@[simp] theorem State.drainSamples_evolves {z s : State} (n : Dealer) (base : Nat) (v : URun) (h : z.Evolves s) (hv : z.Evolves v.s) :
    z.Evolves (State.drainSamples s n base v) := by
  simp (maxDischargeDepth := 40) [State.drainSamples, *]

/-- What the way a routine goes on respects. -/
def UNext.Ok (z : State) : UNext → Prop
  | .next u => z.Evolves u.s
  | .done u => z.Evolves u.s
  | .check _ s => z.Evolves s

@[simp] theorem UNext.ok_next (z : State) (u : URun) : (UNext.next u).Ok z ↔ z.Evolves u.s := Iff.rfl
@[simp] theorem UNext.ok_done (z : State) (u : URun) : (UNext.done u).Ok z ↔ z.Evolves u.s := Iff.rfl
@[simp] theorem UNext.ok_check (z s : State) (m : MCheck) : (UNext.check m s).Ok z ↔ z.Evolves s := Iff.rfl

theorem uNextAddr_ok {z : State} (e : UEnv) (u : URun) (w : Nat) (h : z.Evolves u.s) : (uNextAddr e u w).Ok z := by
  unfold uNextAddr uCheck
  repeat' (first
    | (simp +contextual (maxDischargeDepth := 40) [snd_ite, *]; done)
    | split
    | dsimp only
    | (intro _))

theorem uIssue_ok {z : State} (e : UEnv) (u : URun) (w : Nat) (h : z.Evolves u.s) : (uIssue e u w).Ok z := by
  unfold uIssue
  extract_lets ue u0 xs zc zs s1 s2 l u1 im cnt u2 v u3 sc u4 u5
  have h0 : z.Evolves u0.s := by
    show z.Evolves ue.2
    simp only [ue]
    repeat' split
    all_goals simp [h]
  have h1 : z.Evolves s1 := uWrite_evolves _ _ _ _ h0
  have h2 : z.Evolves s2 := by
    simp only [s2]
    split
    · exact foldl_evolves _ _ h1 (fun t p k => by simp [k])
    · exact h1
  have h3 : z.Evolves u3.s := by
    have e3 : u3.s = u2.s := by simp only [u3]; split <;> rfl
    have e2 : u2.s = s2 := by simp only [u2]; split <;> rfl
    rw [e3, e2]; exact h2
  have h4 : z.Evolves u5.s := by
    have e5 : u5.s = sc.1 := by simp only [u5]; split <;> rfl
    rw [e5]; exact uScalar_evolves _ _ _ h3
  have h5 := uNextAddr_ok e u5 w h4
  split
  · simp [uCheck, h4]
  · split <;> simp_all

theorem uRun_ok {z : State} (e : UEnv) (k : Nat) (u : URun) (h : z.Evolves u.s) : ∀ r b, uRun e k u = some (r, b) → r.Ok z := by
  induction k generalizing u with
  | zero => intro r b hr; cases hr
  | succ k ih =>
    intro r b hr
    unfold uRun at hr
    dsimp only at hr
    have hi := uIssue_ok e u (uFetch e u).1 h
    repeat' split at hr
    all_goals first
      | (obtain ⟨rfl, _⟩ := Prod.mk.inj (Option.some.inj hr); simp_all [uCheck]; done)
      | exact ih _ (by simp_all) _ _ hr


@[simp] theorem execCustomerOpcode_evolves {z s : State} (n : Dealer) (a : Fin 128) (op : AOp) (h : z.Evolves s) :
    Leads z (execCustomerOpcode n a op s) := by
  unfold execCustomerOpcode
  extract_lets aop x u pds badW q
  apply runArray_evolves _ _ _ _ _ _ _ h
  intro _ s0 h0
  split
  · simp [h0]
  · extract_lets rows s1 others e free r
    have h1 : z.Evolves s1 := by simp [s1, h0]
    have hr : ∀ y b, r = some (y, b) → y.Ok z := uRun_ok e microLimit _ h1
    clear_value r s1
    split
    · exact h1
    all_goals
      have hk := hr _ _ rfl
      simp only [UNext.ok_next, UNext.ok_done, UNext.ok_check] at hk
      simp (maxDischargeDepth := 40) [hk]

@[simp] theorem execIllOpcode_evolves {z s : State} (n : Dealer) (w : Word) (h : z.Evolves s) :
    Leads z (execIllOpcode n w s) := by
  simp (maxDischargeDepth := 40) [execIllOpcode, *]

@[simp] theorem State.reportMC_evolves {z s : State} (n : Dealer) (m : MCheck) (lasting : Bool) (h : z.Evolves s) :
    z.Evolves (State.reportMC s n m lasting) := by
  unfold State.reportMC
  repeat' (first
    | (simp +contextual (maxDischargeDepth := 40) [snd_ite, *]; done)
    | split
    | dsimp only
    | (rw [leads_next])
    | (intro _)
    | refine foldl_evolves _ _ ?_ ?_
    | refine foldl_snd_evolves _ _ ?_ ?_
    | apply State.fset_evolves
    | apply State.fsets_evolves
    | apply State.event_evolves
    | apply runScalar_evolves
    | apply runArray_evolves
    | apply State.withSources_evolves
    | apply State.withReads_evolves)

@[simp] theorem State.leaveL7_evolves {z s : State} (n : Dealer) (h : z.Evolves s) :
    z.Evolves (State.leaveL7 s n) := by
  simp (maxDischargeDepth := 40) [State.leaveL7, *]

@[simp] theorem State.mcRestart_evolves {z s : State} (n : Dealer) (h : z.Evolves s) :
    z.Evolves (State.mcRestart s n) := by
  simp +contextual (maxDischargeDepth := 40) [State.mcRestart, snd_ite, *]

@[simp] theorem State.mcAgain_evolves {z s : State} (n : Dealer) (m : MCheck) (h : z.Evolves s) :
    z.Evolves (State.mcAgain s n m) := by
  simp (maxDischargeDepth := 40) [State.mcAgain, *]

@[simp] theorem State.enterRoot_evolves {z s : State} (n : Dealer) (m : MCheck) (h : z.Evolves s) :
    z.Evolves (State.enterRoot s n m) := by
  simp +contextual (maxDischargeDepth := 40) [State.enterRoot, snd_ite, *]

@[simp] theorem execMachineCheckEntry_evolves {z s : State} (n : Dealer) (mc : MCheck) (h : z.Evolves s) :
    Leads z (execMachineCheckEntry n mc s) := by
  unfold execMachineCheckEntry
  extract_lets d m
  split
  · exact h
  · repeat' split
    all_goals simp +zetaDelta (maxDischargeDepth := 40) [h]

@[simp] theorem State.reloaded_evolves {z s : State} (n : Dealer) (m : MCheck) (w : Nat) (cost : Nat) (h : z.Evolves s) :
    z.Evolves (State.reloaded s n m w cost) := by
  simp +contextual (maxDischargeDepth := 40) [State.reloaded, snd_ite, *]

@[simp] theorem execMicrocodeReloadDone_evolves {z s : State} (n : Dealer) (poison : Bool) (w : BitVec 144) (h : z.Evolves s) :
    Leads z (execMicrocodeReloadDone n poison w s) := by
  unfold execMicrocodeReloadDone
  repeat' (first
    | (simp +contextual (maxDischargeDepth := 40) [snd_ite, *]; done)
    | split
    | dsimp only
    | (rw [leads_next])
    | (intro _)
    | refine foldl_evolves _ _ ?_ ?_
    | refine foldl_snd_evolves _ _ ?_ ?_
    | apply State.fset_evolves
    | apply State.fsets_evolves
    | apply State.event_evolves
    | apply runScalar_evolves
    | apply runArray_evolves
    | apply State.withSources_evolves
    | apply State.withReads_evolves)

@[simp] theorem execFlashBlockReloadDone_evolves {z s : State} (n : Dealer) (done : Bool) (block : List (BitVec 144)) (h : z.Evolves s) :
    Leads z (execFlashBlockReloadDone n done block s) := by
  unfold execFlashBlockReloadDone
  repeat' (first
    | (simp +contextual (maxDischargeDepth := 40) [snd_ite, *]; done)
    | split
    | dsimp only
    | (rw [leads_next])
    | (intro _)
    | refine foldl_evolves _ _ ?_ ?_
    | refine foldl_snd_evolves _ _ ?_ ?_
    | apply State.fset_evolves
    | apply State.fsets_evolves
    | apply State.event_evolves
    | apply runScalar_evolves
    | apply runArray_evolves
    | apply State.withSources_evolves
    | apply State.withReads_evolves)

@[simp] theorem execControlStoreWrite_evolves {z s : State} (n : Dealer) (off : Nat) (v : DWord) (h : z.Evolves s) :
    Leads z (execControlStoreWrite n off v s) := by
  simp (maxDischargeDepth := 40) [execControlStoreWrite, *]

end Sys2Proof.Machine
end

