-- ==== Sys2Proof/Laws/PlanEv.lean ====
section
/-!
SUPPORT. What the operations of Machine/Plan.lean respect.
-/
namespace Sys2Proof.Machine

open Sys2Proof

@[simp] theorem State.applyConfig_evolves {z s : State} (p : Plan) (warm : Bool) (h : z.Evolves s) :
    z.Evolves (State.applyConfig s p warm) := by
  simp +contextual (maxDischargeDepth := 40) [State.applyConfig, snd_ite, *]

@[simp] theorem State.applyFallback_evolves {z s : State} (h : z.Evolves s) :
    z.Evolves (State.applyFallback s) := by
  simp +contextual (maxDischargeDepth := 40) [State.applyFallback, snd_ite, *]

@[simp] theorem State.relockPlls_evolves {z s : State} (before : State) (h : z.Evolves s) :
    z.Evolves (State.relockPlls s before) := by
  simp +contextual (maxDischargeDepth := 40) [State.relockPlls, snd_ite, *]

@[simp] theorem State.loadMicroword_evolves {z s : State} (n : Dealer) (m : Nat) (w : Nat) (h : z.Evolves s) :
    z.Evolves (State.loadMicroword s n m w) := by
  simp +contextual (maxDischargeDepth := 40) [State.loadMicroword, snd_ite, *]

@[simp] theorem State.loadMicrocode_evolves {z s : State} (p : Plan) (n : Dealer) (h : z.Evolves s) :
    z.Evolves (State.loadMicrocode s p n) := by
  simp +contextual (maxDischargeDepth := 40) [State.loadMicrocode, snd_ite, *]

@[simp] theorem State.loadDeals_evolves {z s : State} (p : Plan) (n : Dealer) (h : z.Evolves s) :
    z.Evolves (State.loadDeals s p n) := by
  simp +contextual (maxDischargeDepth := 40) [State.loadDeals, snd_ite, *]

@[simp] theorem State.loadStores_evolves {z s : State} (p : Plan) (h : z.Evolves s) :
    z.Evolves (State.loadStores s p) := by
  simp +contextual (maxDischargeDepth := 40) [State.loadStores, snd_ite, *]

@[simp] theorem State.loadLevel_evolves {z s : State} (x : LevelInit) (h : z.Evolves s) :
    z.Evolves (State.loadLevel s x) := by
  simp (maxDischargeDepth := 40) [State.loadLevel, *]

@[simp] theorem State.loadLevels_evolves {z s : State} (p : Plan) (h : z.Evolves s) :
    z.Evolves (State.loadLevels s p) := by
  simp +contextual (maxDischargeDepth := 40) [State.loadLevels, snd_ite, *]

theorem State.loadHands_evolves {z s : State} (p : Plan) (hp : ∀ x ∈ p.hands, isPermutation x.2 = true) (h : z.Evolves s) :
    z.Evolves (State.loadHands s p) := by
  unfold State.loadHands
  generalize p.hands = l at hp
  induction l generalizing s with
  | nil => exact h
  | cons a l ih =>
    exact ih (State.putLine_evolves a.1 a.2 (hp a (List.mem_cons_self ..)) h) (fun x hx => hp x (List.mem_cons_of_mem a hx))

@[simp] theorem State.clearMarked_evolves {z s : State} (p : Plan) (h : z.Evolves s) :
    z.Evolves (State.clearMarked s p) := by
  simp +contextual (maxDischargeDepth := 40) [State.clearMarked, snd_ite, *]

@[simp] theorem State.startRoles_evolves {z s : State} (h : z.Evolves s) :
    z.Evolves (State.startRoles s) := by
  simp +contextual (maxDischargeDepth := 40) [State.startRoles, snd_ite, *]

@[simp] theorem State.loadIcons_evolves {z s : State} (p : Plan) (h : z.Evolves s) :
    z.Evolves (State.loadIcons s p) := by
  simp (maxDischargeDepth := 40) [State.loadIcons, *]

@[simp] theorem State.initTells_evolves {z s : State} (h : z.Evolves s) :
    z.Evolves (State.initTells s) := by
  simp +contextual (maxDischargeDepth := 40) [State.initTells, snd_ite, *]

@[simp] theorem State.openGates_evolves {z s : State} (h : z.Evolves s) :
    z.Evolves (State.openGates s) := by
  simp +contextual (maxDischargeDepth := 40) [State.openGates, snd_ite, *]

@[simp] theorem State.startPorts_evolves {z s : State} (h : z.Evolves s) :
    z.Evolves (State.startPorts s) := by
  simp +contextual (maxDischargeDepth := 40) [State.startPorts, snd_ite, *]

@[simp] theorem State.placeBytes_evolves {z s : State} (a : Nat) (l : List Byte) (h : z.Evolves s) :
    z.Evolves (State.placeBytes s a l) := by
  unfold State.placeBytes
  repeat' (first
    | (simp +contextual (maxDischargeDepth := 40) [snd_ite, *]; done)
    | split
    | dsimp only
    | (rw [leads_next])
    | (intro _)
    | refine foldl_evolves _ _ ?_ ?_
    | refine foldl_snd_evolves _ _ ?_ ?_
    | apply State.fset_evolves
    | apply State.fsets_evolves
    | apply State.event_evolves)

@[simp] theorem State.loadBanks_evolves {z s : State} (p : Plan) (h : z.Evolves s) :
    z.Evolves (State.loadBanks s p) := by
  unfold State.loadBanks
  repeat' (first
    | (simp +contextual (maxDischargeDepth := 40) [snd_ite, *]; done)
    | split
    | dsimp only
    | (rw [leads_next])
    | (intro _)
    | refine foldl_evolves _ _ ?_ ?_
    | refine foldl_snd_evolves _ _ ?_ ?_
    | apply State.fset_evolves
    | apply State.fsets_evolves
    | apply State.event_evolves)

theorem State.withPlan_evolves {z s : State} (p : Plan) (hp : ∀ x ∈ p.hands, isPermutation x.2 = true) (h : z.Evolves s) :
    z.Evolves (State.withPlan s p) := by
  have hl : ∀ t, z.Evolves t → z.Evolves (t.loadHands p) := fun t => State.loadHands_evolves p hp
  simp +contextual (maxDischargeDepth := 40) [State.withPlan, snd_ite, *]

theorem State.applyEarly_evolves {z s : State} (p : Plan) (hp : ∀ x ∈ p.hands, isPermutation x.2 = true) (h : z.Evolves s) :
    z.Evolves (State.applyEarly s p) := by
  have hl := State.withPlan_evolves p hp h
  simp +contextual (maxDischargeDepth := 40) [State.applyEarly, snd_ite, *]

@[simp] theorem State.applyAgain_evolves {z s : State} (p : Plan) (h : z.Evolves s) :
    z.Evolves (State.applyAgain s p) := by
  simp +contextual (maxDischargeDepth := 40) [State.applyAgain, snd_ite, *]

end Sys2Proof.Machine
end

