-- ==== Sys2Proof/Laws/LoaderEv.lean ====
section
/-!
SUPPORT. What the operations of Machine/Loader.lean respect.
-/
namespace Sys2Proof.Machine

open Sys2Proof

@[simp] theorem State.slotInvalid_evolves {z s : State} (code : Nat) (sect : Option Nat) (h : z.Evolves s) :
    z.Evolves (State.slotInvalid s code sect) := by
  unfold State.slotInvalid
  repeat' (first
    | (simp +contextual (maxDischargeDepth := 40) [snd_ite, *]; done)
    | split
    | dsimp only
    | (rw [leads_next])
    | (intro _)
    | refine foldl_evolves _ _ ?_ ?_
    | refine foldl_snd_evolves _ _ ?_ ?_
    | apply State.fset_evolves
    | apply State.fsets_evolves
    | apply State.event_evolves)

@[simp] theorem State.flashFound_evolves {z s : State} (k : Nat) (img : Image) (h : z.Evolves s) :
    z.Evolves (State.flashFound s k img) := by
  unfold State.flashFound
  repeat' (first
    | (simp +contextual (maxDischargeDepth := 40) [snd_ite, *]; done)
    | split
    | dsimp only
    | (rw [leads_next])
    | (intro _)
    | refine foldl_evolves _ _ ?_ ?_
    | refine foldl_snd_evolves _ _ ?_ ?_
    | apply State.fset_evolves
    | apply State.fsets_evolves
    | apply State.event_evolves)

/-- The hand lines of a slot without a fault are permutations (R59, check 0x89). -/
theorem State.slotFault_hands {s : State} {img : Image} (h : s.slotFault img = none) : ∀ x ∈ img.plan.hands, isPermutation x.2 = true := by
  have hb : (s.withPlan img.plan).bad89 img.plan = false := by
    unfold State.slotFault at h
    repeat' split at h
    all_goals first | (cases h; done) | skip
    unfold State.contentFault at h
    dsimp only at h
    split at h
    · cases h
    · by_cases hv : img.vendorOk = true
      · by_cases hb : (s.withPlan img.plan).bad89 img.plan = true
        · simp [hv, hb] at h
        · simpa using hb
      · simp [hv] at h
  simp only [State.bad89, Bool.or_eq_false_iff, List.any_eq_false] at hb
  simpa using hb.1.1.1.2

@[simp] theorem execSlotCheckDone_evolves {z s : State} (img : Image) (h : z.Evolves s) :
    Leads z (execSlotCheckDone img s) := by
  unfold execSlotCheckDone
  split
  · exact h
  · dsimp only
    split
    · simp [h]
    · next hf =>
      have hl := fun t (k : z.Evolves t) => State.applyEarly_evolves img.plan (State.slotFault_hands hf) k
      simp [h, hl]

@[simp] theorem execDramTrainingDone_evolves {z s : State} (ok : Bool) (h : z.Evolves s) :
    Leads z (execDramTrainingDone ok s) := by
  simp +contextual (maxDischargeDepth := 40) [execDramTrainingDone, snd_ite, *]

@[simp] theorem State.placeSection_evolves {z s : State} (x : Section) (l : List Byte) (h : z.Evolves s) :
    z.Evolves (State.placeSection s x l) := by
  simp +contextual (maxDischargeDepth := 40) [State.placeSection, snd_ite, *]

@[simp] theorem State.lcreqSection_evolves {z s : State} (r : Nat × Nat) (h : z.Evolves s) :
    z.Evolves (State.lcreqSection s r) := by
  simp (maxDischargeDepth := 40) [State.lcreqSection, *]

@[simp] theorem State.mainDone_evolves {z s : State} (h : z.Evolves s) :
    z.Evolves (State.mainDone s) := by
  unfold State.mainDone
  repeat' (first
    | (simp +contextual (maxDischargeDepth := 40) [snd_ite, *]; done)
    | split
    | dsimp only
    | (rw [leads_next])
    | (intro _)
    | refine foldl_evolves _ _ ?_ ?_
    | refine foldl_snd_evolves _ _ ?_ ?_
    | apply State.fset_evolves
    | apply State.fsets_evolves
    | apply State.event_evolves)

@[simp] theorem execMainSectionRead_evolves {z s : State} (first second : List Byte) (other : Option Image) (h : z.Evolves s) :
    Leads z (execMainSectionRead first second other s) := by
  unfold execMainSectionRead
  repeat' (first
    | (simp +contextual (maxDischargeDepth := 40) [snd_ite, *]; done)
    | split
    | dsimp only
    | (rw [leads_next])
    | (intro _)
    | refine foldl_evolves _ _ ?_ ?_
    | refine foldl_snd_evolves _ _ ?_ ?_
    | apply State.fset_evolves
    | apply State.fsets_evolves
    | apply State.event_evolves)

@[simp] theorem State.rereadCopy_evolves {z s : State} (h : z.Evolves s) :
    z.Evolves (State.rereadCopy s) := by
  simp +contextual (maxDischargeDepth := 40) [State.rereadCopy, snd_ite, *]

@[simp] theorem execWarmImageVerified_evolves {z s : State} (reread : Bool) (h : z.Evolves s) :
    Leads z (execWarmImageVerified reread s) := by
  simp +contextual (maxDischargeDepth := 40) [execWarmImageVerified, snd_ite, *]

end Sys2Proof.Machine
end

