-- ==== Sys2Proof/Laws/Strings.lean ====
section
/-!
SUPPORT. Lemmas about the string instructions and REP: the iteration and the loop of BFILL, and what an instruction looks at between
iterations.
-/
namespace Sys2Proof.Machine

open Sys2Proof

/-- What REP looks at between iterations, the registers, the acceptances and whether the Dealer is live, is as before. -/
structure SameWants (n : Dealer) (s t : State) : Prop where
  regs : t.regs = s.regs
  acc : t.evAcc = s.evAcc
  live : (t.dl n).live = (s.dl n).live
  tags : t.tags = s.tags

theorem SameWants.trans {n : Dealer} {s t u : State} (h : SameWants n s t) (k : SameWants n t u) : SameWants n s u :=
  ⟨k.regs.trans h.regs, k.acc.trans h.acc, k.live.trans h.live, k.tags.trans h.tags⟩

theorem SameWants.acceptable {n : Dealer} {s t : State} (h : SameWants n s t) (k e : Nat) : t.acceptable n k e = s.acceptable n k e := by
  have hg : ∀ f, t.fget f = s.fget f := fun f => fget_of_regs h.regs f
  simp only [State.acceptable, State.routedTo, State.accepted, State.levelKind, State.fbit, h.acc, hg]
  rfl

theorem SameWants.pendingSources {n : Dealer} {s t : State} (h : SameWants n s t) : t.pendingSources = s.pendingSources := by
  have hr : ∀ o, t.reg o = s.reg o := fun o => by unfold State.reg; rw [h.regs]
  unfold State.pendingSources
  simp only [hr]

theorem SameWants.interrupts {n : Dealer} {s t : State} (h : SameWants n s t) : t.interrupts n = s.interrupts n := by
  have hg : ∀ f, t.fget f = s.fget f := fun f => fget_of_regs h.regs f
  have hb : ∀ f i, t.fbit f i = s.fbit f i := fun f i => by unfold State.fbit; rw [hg]
  have hk : ∀ k, t.levelKind n k = s.levelKind n k := fun k => by unfold State.levelKind; rw [hg]
  have hf : ∀ k, t.firstFor n k = s.firstFor n k := fun k => by
    unfold State.firstFor
    rw [h.pendingSources, funext (h.acceptable k)]
  have hw : ∀ k, t.wants n k = s.wants n k := fun k => by
    unfold State.wants State.levelActive
    simp only [hf, hk, hg, hb]
  have hl : t.lvl n = s.lvl n := by unfold State.lvl; rw [hg]
  unfold State.interrupts State.topWanting State.levelActive
  simp only [hw, h.live, hl, hb]

theorem SameWants.undisturbed {n : Dealer} {s t : State} (h : SameWants n s t) (hs : s.Undisturbed n) : t.Undisturbed n := by
  have hg : ∀ f, t.fget f = s.fget f := fun f => fget_of_regs h.regs f
  have hl : t.lvl n = s.lvl n := by unfold State.lvl; rw [hg]
  have ht : t.inTask n = s.inTask n := by simp only [State.inTask, State.levelKind, State.levelActive, State.fbit, hl, hg, h.live]
  refine ⟨h.interrupts.trans hs.1, fun q => ?_⟩
  rw [ht] at q
  have := hs.2 q
  rw [h.pendingSources, hl, hg]
  simp only [h.acceptable, State.topReady, hg]
  exact this

/-- An undisturbed level accepts nothing and switches no task. -/
theorem undisturbed_none {n : Dealer} {s : State} (hs : s.Undisturbed n) : s.taskAccept n = s ∧ s.outranks n = none := by
  by_cases q : s.inTask n = true
  · obtain ⟨h1, h2⟩ := hs.2 q
    constructor
    · unfold State.taskAccept
      rw [if_pos q]
      unfold State.acceptTasks
      generalize s.pendingSources = l at h1
      induction l with
      | nil => rfl
      | cons e l ih =>
        rw [List.foldl_cons, h1 e List.mem_cons_self]
        exact ih (fun x hx => h1 x (List.mem_cons_of_mem _ hx))
    · unfold State.outranks
      dsimp only
      split
      · cases ho : s.topReady n (s.lvl n).val with
        | none => rfl
        | some j =>
          have := h2 j ho
          simp; omega
      · rfl
  · have q' : s.inTask n = false := by simpa using q
    simp [State.taskAccept, State.outranks, q']

theorem sameWants_setBank (n : Dealer) (b : Bank) (s : State) : SameWants n s (s.setBank n b) :=
  ⟨rfl, rfl, by simp [State.setBank, State.setBankAt], rfl⟩

theorem sameWants_charge (n : Dealer) (c : Nat) (s : State) : SameWants n s (s.charge n c) :=
  ⟨rfl, rfl, by simp [State.charge], rfl⟩

theorem sameWants_wrLow (n : Dealer) (s : State) (r : Nat) (v : Word) (hr : 0 < r ∧ r < 16) : SameWants n s (s.wrW n r v) := by
  unfold State.wrW
  rw [if_neg (by omega)]
  dsimp only
  rw [if_pos (by omega)]
  exact sameWants_setBank _ _ _

theorem sameWants_stores {s t : State} {a k v : Nat} (h : Stores s t a k v) (n : Dealer) : SameWants n s t := by
  rw [h.rest]; exact ⟨rfl, rfl, rfl, rfl⟩

/-- One iteration of BFILL towards higher offsets, and what it leaves for the next. -/

theorem fill_iter {n : Dealer} {op : SOp} {s : State} (hd : op.sDown = false)
    (ha : Segment.Admits (s.rdSG n op.sSgd) (s.rdW n 14).toNat op.sSize false true)
    (hx : Desc.space (s.rdSG n op.sSgd) = spDRAM ∨ Desc.space (s.rdSG n op.sSgd) = spSCRATCH)
    (hs : s.Sound n (descAddr n (s.rdSG n op.sSgd) (s.rdW n 14).toNat) op.sSize) :
    ∃ t u, iterBfill n op s = .done t false ∧ Stores s u (descAddr n (s.rdSG n op.sSgd) (s.rdW n 14).toNat) op.sSize (s.strData n op) ∧
      u.OnlyBank n { s.bank n with w := (s.bank n).w.set 14 (s.rdW n 14 + BitVec.ofNat 32 op.sSize) } t ∧ SameWants n s t := by
  have hk := size_le op
  have h := elemStore_ok (s := s) (sg := op.sSgd) (v := s.strData n op) hx hs hk
  have eb := stores_bank h.2 n
  refine ⟨((s.elemStore n op.sSgd op.sSize (s.strData n op)).2.advanceReg n regOD op.sDown op.sSize).charge n (s.elemStoreCost n op.sSgd op.sSize + 1),
    (s.elemStore n op.sSgd op.sSize (s.strData n op)).2, ?_, h.2, ?_, ?_⟩
  · unfold iterBfill
    dsimp only
    rw [firstTrap_none (elemChecks_none (s := s) (sg := op.sSgd) (r := regOD) (k := op.sSize) ha)]
    have hw : s.elemWaits n op.sSgd regOD op.sSize = false := by
      have q := segWaits_loads (x := s.rdSG n op.sSgd) (off := ((s.rdW n 14).toNat : Int)) (Or.inr ⟨hx, hs⟩) hk.1
      rw [Int.toNat_natCast] at q
      exact q
    simp only [h.1, hw, Bool.false_eq_true, if_false]
  · unfold State.advanceReg regOD
    rw [hd]
    simp only [Bool.false_eq_true, if_false]
    have h2 := State.OnlyBank.wrLow n (s.elemStore n op.sSgd op.sSize (s.strData n op)).2 14
      ((s.elemStore n op.sSgd op.sSize (s.strData n op)).2.rdW n 14 + BitVec.ofNat 32 op.sSize) (by decide)
    refine (h2.trans (State.OnlyBank.charge n _ _)).bank_only ?_
    rw [h2.bank, eb]
    have : (s.elemStore n op.sSgd op.sSize (s.strData n op)).2.rdW n 14 = s.rdW n 14 := by unfold State.rdW; rw [eb]
    rw [this]
    rfl
  · refine (sameWants_stores h.2 n).trans (SameWants.trans ?_ (sameWants_charge _ _ _))
    unfold State.advanceReg regOD
    exact sameWants_wrLow n _ 14 _ (by decide)

theorem get_set_other (v : Vector Word 32) (i j : Fin 32) (x : Word) (h : i ≠ j) : (v.set i x).get j = v.get j := by
  have : i.val ≠ j.val := fun e => h (Fin.ext e)
  show (v.set i.val x)[j.val] = v[j.val]
  rw [Vector.getElem_set]; simp [this]

theorem get_set_same (v : Vector Word 32) (i : Fin 32) (x : Word) : (v.set i x).get i = x := by
  show (v.set i.val x)[i.val] = x
  simp

/-- What the fill of j elements leaves. -/
structure Filled (n : Dealer) (op : SOp) (j : Nat) (s t : State) : Prop where
  stored : ∀ i, i < op.sSize * j → t.byte (descAddr n (s.rdSG n op.sSgd) (s.rdW n 14).toNat + i) = BitVec.ofNat 8 (s.strData n op / 256 ^ (i % op.sSize))
  bytes : ∀ y, (y < descAddr n (s.rdSG n op.sSgd) (s.rdW n 14).toNat ∨ descAddr n (s.rdSG n op.sSgd) (s.rdW n 14).toNat + op.sSize * j ≤ y) → t.byte y = s.byte y
  syndromes : ∀ x, t.wordSyn x = s.wordSyn x
  registers : ∀ o, t.reg o = s.reg o
  bank : t.bank n = { s.bank n with w := ((s.bank n).w.set 12 0).set 14 (BitVec.ofNat 32 ((s.rdW n 14).toNat + op.sSize * j)), pc := BitVec.ofNat 32 (s.pc n + 8) }
  levels : ∀ k, k ≠ s.lvl n → t.bankAt n k = s.bankAt n k
  dealers : ∀ m, m ≠ n → t.dl m = s.dl m

theorem repOut_bank (n : Dealer) (s : State) : s.OnlyBank n { s.bank n with pc := BitVec.ofNat 32 (s.pc n + 8) } (s.repOut n) := by
  unfold State.repOut State.setPc; exact State.OnlyBank.setBank _ _ _

theorem descAddr_add (n : Dealer) (x : Desc) (a b : Nat) : descAddr n x ((a + b : Nat) : Int) = descAddr n x (a : Int) + b := by
  unfold descAddr; rw [Int.toNat_natCast, Int.toNat_natCast]; omega

theorem fill_loop (n : Dealer) (op : SOp) (hd : op.sDown = false) : ∀ (j : Nat) (s : State), (s.rdW n 12).toNat = j →
    (0 < j → Segment.Admits (s.rdSG n op.sSgd) (s.rdW n 14).toNat (op.sSize * j) false true) →
    (Desc.space (s.rdSG n op.sSgd) = spDRAM ∨ Desc.space (s.rdSG n op.sSgd) = spSCRATCH) →
    (∀ i, i < j → s.Sound n (descAddr n (s.rdSG n op.sSgd) (s.rdW n 14).toNat + op.sSize * i) op.sSize) → s.Undisturbed n →
    Filled n op j s (repLoop strBfill n op j s) := by
  intro j
  induction j with
  | zero =>
    intro s h12 _ _ _ _
    have o := repOut_bank n s
    unfold repLoop
    have e12 : (s.bank n).w[12] = 0 := by
      have : s.rdW n 12 = 0 := BitVec.eq_of_toNat_eq (by simpa using h12)
      exact this
    refine ⟨fun i hi => by omega, fun y _ => o.bytes y, o.syndromes, o.registers, ?_, o.levels, o.dealers⟩
    rw [o.bank]
    have e14 : BitVec.ofNat 32 ((s.rdW n 14).toNat + op.sSize * 0) = (s.bank n).w[14] := by
      rw [Nat.mul_zero, Nat.add_zero, BitVec.ofNat_toNat, BitVec.setWidth_eq]; rfl
    rw [e14]
    have : ((s.bank n).w.set 12 0).set 14 (s.bank n).w[14] = (s.bank n).w := by
      rw [← e12]; simp
    rw [this]
  | succ j ih =>
    intro s h12 ha hx hs hi
    have hk := size_le op
    have ha' := ha (by omega)
    have hkj : op.sSize ≤ op.sSize * (j + 1) := Nat.le_mul_of_pos_right _ (by omega)
    have hhi := ha'.high
    obtain ⟨t, u, e, hst, ho, hsw⟩ := fill_iter (n := n) (op := op) (s := s) hd
      ⟨ha'.present, ha'.reads, ha'.writes, ha'.low, by
        have : (op.sSize : Int) ≤ ((op.sSize * (j + 1) : Nat) : Int) := by exact_mod_cast hkj
        omega⟩ hx (by have := hs 0 (by omega); rwa [Nat.mul_zero, Nat.add_zero] at this)
    have ne : s.rdW n 12 ≠ 0 := by intro q; rw [q] at h12; simp at h12
    have t12 : t.rdW n 12 = s.rdW n 12 := by
      unfold State.rdW; rw [ho.bank]; exact get_set_other _ 14 12 _ (by decide)
    have hv := State.OnlyBank.wrLow n t 12 (t.rdW n 12 - 1) (by decide)
    have hw : SameWants n s (t.wrW n 12 (t.rdW n 12 - 1)) := hsw.trans (sameWants_wrLow n t 12 _ (by decide))
    have ov : u.OnlyBank n { s.bank n with w := ((s.bank n).w.set 14 (s.rdW n 14 + BitVec.ofNat 32 op.sSize)).set 12 (s.rdW n 12 - 1) } (t.wrW n 12 (t.rdW n 12 - 1)) :=
      (ho.trans hv).bank_only (by rw [ho.bank, t12]; rfl)
    have el : repLoop strBfill n op (j + 1) s = repLoop strBfill n op j (t.wrW n 12 (t.rdW n 12 - 1)) := by
      have hi' := hw.undisturbed hi
      obtain ⟨hi2, hi3⟩ := undisturbed_none hi'
      conv => lhs; unfold repLoop
      unfold regCT
      rw [if_neg ne]
      rw [show strBfill.iter n op s = .done t false from e]
      simp only [show strBfill.stops = false from rfl, Bool.false_and, Bool.false_eq_true, if_false, hi'.1, hi2, hi3, Option.isSome_none]
    rw [el]
    generalize hvv : t.wrW n 12 (t.rdW n 12 - 1) = v at *
    have s14 : (s.rdW n 14).toNat + op.sSize < 2 ^ 32 ∨ j = 0 := by
      by_cases q : j = 0
      · exact Or.inr q
      · left
        have h2 : op.sSize + op.sSize ≤ op.sSize * (j + 1) := by
          have := Nat.mul_le_mul_left op.sSize (show 2 ≤ j + 1 by omega)
          omega
        have hlim : Desc.limit (s.rdSG n op.sSgd) < 2 ^ 32 := by
          exact Nat.mod_lt _ (by decide)
        omega
    have v12 : (v.rdW n 12).toNat = j := by
      have : v.rdW n 12 = s.rdW n 12 - 1 := by
        unfold State.rdW; rw [ov.bank]; exact get_set_same _ 12 _
      rw [this, BitVec.toNat_sub, h12]
      have := (s.rdW n 12).isLt
      simp; omega
    have vsg : ∀ r, v.rdSG n r = s.rdSG n r := by intro r; unfold State.rdSG; rw [ov.bank]
    have v14 : v.rdW n 14 = s.rdW n 14 + BitVec.ofNat 32 op.sSize := by
      unfold State.rdW; rw [ov.bank]
      exact (get_set_other _ 12 14 _ (by decide)).trans (get_set_same _ 14 _)
    have vd : v.strData n op = s.strData n op := by
      have q : ∀ r, r < 12 → v.rdW n r = s.rdW n r := by
        intro r hr
        unfold State.rdW
        split
        · rfl
        · rw [ov.bank]
          have hf : Fin.ofNat 32 r = ⟨r, by omega⟩ := Fin.ext (Nat.mod_eq_of_lt (by omega))
          rw [hf]
          exact (get_set_other _ 12 ⟨r, by omega⟩ _ (Fin.ne_of_val_ne (by show 12 ≠ r; omega))).trans
            (get_set_other _ 14 ⟨r, by omega⟩ _ (Fin.ne_of_val_ne (by show 14 ≠ r; omega)))
      have h8 : op.sWr < 8 := fld_lt op 17 3
      unfold State.strData State.rdPair
      rw [q _ (by omega), q _ (by omega)]
    have vdesc : j = 0 ∨ descAddr n (v.rdSG n op.sSgd) ((v.rdW n 14).toNat : Int) = descAddr n (s.rdSG n op.sSgd) ((s.rdW n 14).toNat : Int) + op.sSize ∧
        (v.rdW n 14).toNat = (s.rdW n 14).toNat + op.sSize := by
      rcases s14 with q | q
      · right
        have : (v.rdW n 14).toNat = (s.rdW n 14).toNat + op.sSize := by
          rw [v14, BitVec.toNat_add, BitVec.toNat_ofNat, Nat.mod_eq_of_lt (show op.sSize < 2 ^ 32 by omega), Nat.mod_eq_of_lt q]
        exact ⟨by rw [vsg, this, descAddr_add], this⟩
      · exact Or.inl q
    have vpc : v.pc n = s.pc n := by unfold State.pc; rw [ov.bank]
    have hvi : v.Undisturbed n := hw.undisturbed hi
    have r := ih v v12 (by
      intro hj
      have q := (vdesc.resolve_left (by omega)).2
      rw [vsg, q]
      refine ⟨ha'.present, ha'.reads, ha'.writes, by omega, ?_⟩
      have hm : op.sSize * (j + 1) = op.sSize * j + op.sSize := Nat.mul_succ _ _
      rw [hm] at hhi
      omega) (by rw [vsg]; exact hx) (by
      intro i hij
      rw [(vdesc.resolve_left (by omega)).1]
      have hm : op.sSize * (i + 1) = op.sSize * i + op.sSize := Nat.mul_succ _ _
      have h1 := hs (i + 1) (by omega)
      have h2 := sound_of_stores hst h1
      rw [show descAddr n (s.rdSG n op.sSgd) ((s.rdW n 14).toNat : Int) + op.sSize + op.sSize * i = descAddr n (s.rdSG n op.sSgd) ((s.rdW n 14).toNat : Int) + op.sSize * (i + 1) by omega]
      have hvr : v.regs = u.regs := by rw [hw.regs, hst.rest]
      have hvt : v.tags = u.tags := by rw [hw.tags, hst.rest]
      refine ⟨h2.whole, ?_, fun i hi => by rw [pathTurns_regs hvr hvt]; exact h2.clear i hi, fun x hx => by rw [ov.syndromes]; exact h2.valid x hx⟩
      have hg : ∀ g, v.fget g = u.fget g := fun g => by unfold State.fget; rw [ov.registers]
      rcases h2.admits with q | ⟨c, q1, q2, q3⟩
      · left
        refine ⟨q.1, by rw [hg]; exact q.2.1, by rw [hg]; exact q.2.2.1, ?_⟩
        have := q.2.2.2
        unfold State.inImageCopy at this ⊢
        simp only [hg]; exact this
      · right
        refine ⟨c, q1, ?_, by rw [hg]; exact q3⟩
        rw [← q2]
        unfold State.storeStatus State.storeOwner State.ownerAdmits
        simp only [hg]) hvi
    have hm : op.sSize * (j + 1) = op.sSize * j + op.sSize := Nat.mul_succ _ _
    have hvl : v.lvl n = s.lvl n := by
      have : v.lvl n = u.lvl n := State.OnlyBank.lvl ov n
      rw [this, hst.rest]; rfl
    have hub : ∀ y, v.byte y = stored s (descAddr n (s.rdSG n op.sSgd) ((s.rdW n 14).toNat : Int)) op.sSize (s.strData n op) y := fun y => by rw [ov.bytes, hst.1]
    generalize hA : descAddr n (s.rdSG n op.sSgd) ((s.rdW n 14).toNat : Int) = A at *
    constructor
    · intro i hi'
      rw [hA]
      by_cases q : i < op.sSize
      · have : (repLoop strBfill n op j v).byte (A + i) = v.byte (A + i) := by
          refine r.bytes _ ?_
          rcases vdesc with z | z
          · subst z; rw [Nat.mul_zero, Nat.add_zero]; omega
          · left; rw [z.1]; omega
        rw [this, hub]
        unfold stored
        rw [if_pos (by omega), Nat.mod_eq_of_lt q]
        congr 3; omega
      · have hj : j ≠ 0 := by rintro rfl; rw [Nat.zero_add, Nat.mul_one] at hi'; omega
        have z := vdesc.resolve_left hj
        have := r.stored (i - op.sSize) (by omega)
        rw [z.1, vd, show A + op.sSize + (i - op.sSize) = A + i by omega] at this
        rw [this]
        have : i % op.sSize = (i - op.sSize) % op.sSize := by rw [Nat.mod_eq_sub_mod (by omega)]
        rw [this]
    · intro y hy
      rw [hA] at hy
      have : (repLoop strBfill n op j v).byte y = v.byte y := by
        refine r.bytes _ ?_
        rcases vdesc with z | z
        · subst z; rw [Nat.mul_zero, Nat.add_zero]; omega
        · rw [z.1]; omega
      rw [this, hub]
      unfold stored
      rw [if_neg (by omega)]
    · intro x; rw [r.syndromes, ov.syndromes, hst.2]
    · intro o; rw [r.registers, ov.registers, hst.rest]; rfl
    · rw [r.bank, ov.bank, vpc]
      have e14 : BitVec.ofNat 32 ((v.rdW n 14).toNat + op.sSize * j) = BitVec.ofNat 32 ((s.rdW n 14).toNat + op.sSize * (j + 1)) := by
        rw [v14]
        apply BitVec.eq_of_toNat_eq
        simp only [BitVec.toNat_ofNat, BitVec.toNat_add, hm]
        omega
      rw [e14]
      generalize s.bank n = b
      show Bank.mk _ _ _ _ _ _ _ _ _ _ _ = Bank.mk _ _ _ _ _ _ _ _ _ _ _
      congr 1
      apply Vector.ext
      intro i hi'
      show (((((b.w.set 14 _).set 12 _).set 12 _).set 14 _) : Vector Word 32)[i] = ((b.w.set 12 _).set 14 _)[i]
      simp only [Vector.getElem_set]
      split
      · rfl
      · split
        · rfl
        · rfl
    · intro k hk'; rw [r.levels _ (by rw [hvl]; exact hk'), ov.levels _ (by rw [show u.lvl n = s.lvl n by rw [hst.rest]; rfl]; exact hk'), hst.rest]; rfl
    · intro m hm'; rw [r.dealers _ hm', ov.dealers _ hm', hst.rest]; rfl

theorem strOf_fill {w : Word} (h : w.extractLsb' 23 9 = 0x112) : strOf w = some strBfill := by
  have h1 : w.extractLsb' 29 3 = 4 := by
    have : w.extractLsb' 29 3 = (w.extractLsb' 23 9).extractLsb' 6 3 := by
      apply BitVec.eq_of_getLsbD_eq; intro i hi
      simp only [BitVec.getLsbD_extractLsb']
      have : 6 + i < 9 := by omega
      simp [hi, this, ← Nat.add_assoc]
    rw [this, h]; decide
  have h2 : w.extractLsb' 23 6 = 0x12 := by
    have : w.extractLsb' 23 6 = (w.extractLsb' 23 9).extractLsb' 0 6 := by
      apply BitVec.eq_of_getLsbD_eq; intro i hi
      simp only [BitVec.getLsbD_extractLsb']
      have : i < 9 := by omega
      simp [hi, this]
    rw [this, h]; decide
  have e1 : getField w 29 3 = 4 := by
    have : getField w 29 3 = (w.extractLsb' 29 3).toNat := by simp [getField, natBits_eq]
    rw [this, h1]; rfl
  have e2 : getField w 23 6 = 0x12 := by
    have : getField w 23 6 = (w.extractLsb' 23 6).toNat := by simp [getField, natBits_eq]
    rw [this, h2]; rfl
  unfold strOf
  rw [e1, e2]; rfl

theorem trap_rept (s : State) (n : Dealer) (t : Trap) (ext : Bool) (hc : t.code ≠ trapSaveExhausted) :
    TrapTaken n (t.code + 2 ^ 11) t.info t.seg ext (t.fpc.getD (s.bank n).fpc) s (s.trap n t ext true) := by
  unfold TrapTaken State.trap
  have hc' : (t.code != trapSaveExhausted) = true := by simpa using hc
  rw [hc', Bool.and_true]
  by_cases h : stTRP (s.st n) = true
  · rw [if_pos h, if_pos h]
    exact restarted_event _ (by omega) (dealRestart_restarted s n)
  · rw [if_neg h, if_neg h]
    unfold State.enterTrap
    refine onlyBank_charge (c := 4) ?_
    rw [setTRP]
    have : t.code + 256 * t.seg + 2048 * b2n true + 4096 * b2n ext = t.code + 2 ^ 11 + 2 ^ 8 * t.seg + 2 ^ 12 * (if ext then 1 else 0) := by
      simp [b2n]; omega
    rw [← this]

end Sys2Proof.Machine
end

