-- ==== Sys2Proof/Laws/Planes.lean ====
section
/-!
SUPPORT. Lemmas about the planes of the array: what a write of a row, of a field and of the flag planes leaves, and how an instruction with a
destination field ends.
-/
namespace Sys2Proof.Machine

open Sys2Proof

theorem mem_rangeFrom (lo n k : Nat) : k ∈ rangeFrom lo n ↔ lo ≤ k ∧ k < lo + n := by
  induction n generalizing lo with
  | zero => simp [rangeFrom]
  | succ n ih => simp only [rangeFrom, List.mem_cons, ih]; omega

theorem wordOf_bit (f : Nat → Bool) (n i : Nat) : (wordOf f n).testBit i = (decide (i < n) && f i) ∧ wordOf f n < 2 ^ n := by
  induction n generalizing i with
  | zero => simp [wordOf]
  | succ n ih =>
    have h2 := (ih 0).2
    unfold wordOf
    rw [Nat.add_comm]
    have hb : b2n (f n) ≤ 1 := by unfold b2n; split <;> omega
    constructor
    · rw [Nat.testBit_two_pow_mul_add _ h2, (ih i).1]
      by_cases h : i < n
      · simp [h, Nat.lt_succ_of_lt h]
      · by_cases e : i = n
        · subst e; cases q : f i <;> simp [b2n, q]
        · have : (b2n (f n)).testBit (i - n) = false := by
            have : b2n (f n) < 2 ^ (i - n) := Nat.lt_of_le_of_lt hb (Nat.one_lt_two_pow (by omega))
            exact Nat.testBit_lt_two_pow this
          simp [h, this]; omega
    · have := Nat.pow_succ 2 n
      have : 2 ^ n * b2n (f n) ≤ 2 ^ n * 1 := Nat.mul_le_mul_left _ hb
      omega

/-- The row word of an address's plane, row and tile column is its own. -/
theorem rowWord_div (p y j : Nat) : rowWordAddr p y j / 8 = 0x820000000 + 0x1000 * p + 8 * y + j := by
  unfold rowWordAddr; omega

theorem rowWord_plane {p y j : Nat} (hp : p < 1983) (hy : y < 512) (hj : j < 8) : planeOfAddr (rowWordAddr p y j) = p := by
  unfold planeOfAddr rowWordAddr; omega

theorem rowWord_inj {p y j p' y' j' : Nat} (hy : y < 512) (hj : j < 8) (hy' : y' < 512) (hj' : j' < 8) :
    rowWordAddr p y j / 8 = rowWordAddr p' y' j' / 8 ↔ p = p' ∧ y = y' ∧ j = j' := by
  rw [rowWord_div, rowWord_div]; omega

theorem wordData_putWord (s : State) (a d x : Nat) : (s.putWord a d).wordData x = if x / 8 = a / 8 then d % 2 ^ 64 else s.wordData x := by
  apply Nat.eq_of_testBit_eq
  intro i
  unfold State.wordData
  rw [State.bytes_testBit]
  by_cases h : x / 8 = a / 8
  · rw [if_pos h, Nat.testBit_mod_two_pow, State.byte_putWord]
    by_cases hi : i < 64
    · have hi' : i / 8 < 8 := by omega
      rw [if_pos (by omega), byte_testBit _ _ _ (by omega)]
      have e : (x / 8 * 8 + i / 8) % 8 = i / 8 := by omega
      rw [e, show 8 * (i / 8) + i % 8 = i by omega]
      simp [hi, hi']
    · have hi' : ¬ i / 8 < 8 := by omega
      simp [hi, hi']
  · rw [if_neg h, State.bytes_testBit]
    by_cases hi : i / 8 < 8
    · rw [State.byte_putWord, if_neg (by omega)]
    · simp [hi]

/-- The planes and nothing else: planes with check bits are what `f` says and stay clean; the bytes outside the plane window, and all else,
stay. -/
structure PlaneStep (f : Nat → Nat → Nat → Bool) (s t : State) : Prop where
  planes : ∀ p y x, p < 1983 → y < 512 → x < 512 → t.planeBit p y x = f p y x
  clean : t.PlanesClean
  bytes : ∀ a, (a < 0x4100000000 ∨ 0x4104000000 ≤ a) → t.byte a = s.byte a
  rest : t = { s with mem := t.mem, syn := t.syn }

theorem PlaneStep.refl {s : State} (h : s.PlanesClean) : PlaneStep s.planeBit s s := ⟨fun _ _ _ _ _ _ => rfl, h, fun _ _ => rfl, rfl⟩

theorem PlaneStep.trans {s t u : State} {f g : Nat → Nat → Nat → Bool} (h : PlaneStep f s t) (k : PlaneStep g t u) : PlaneStep g s u :=
  ⟨k.planes, k.clean, fun a ha => (k.bytes a ha).trans (h.bytes a ha), by
    have h1 := k.rest
    rw [h.rest] at h1
    exact h1⟩

theorem PlaneStep.to {s t : State} {f g : Nat → Nat → Nat → Bool} (h : PlaneStep f s t)
    (e : ∀ p y x, p < 1983 → y < 512 → x < 512 → f p y x = g p y x) : PlaneStep g s t :=
  ⟨fun p y x hp hy hx => (h.planes p y x hp hy hx).trans (e p y x hp hy hx), h.clean, h.bytes, h.rest⟩

theorem planeVal_clean {s : State} (h : s.PlanesClean) {p y j : Nat} (hp : p < 1983) (hy : y < 512) (hj : j < 8) :
    s.planeVal (rowWordAddr p y j) = s.wordData (rowWordAddr p y j) := by
  unfold State.planeVal
  rw [if_pos (by rw [rowWord_plane hp hy hj]; exact hp), h p y j hp hy hj]
  rfl

theorem writeRow_step {s : State} (h : s.PlanesClean) {p y j : Nat} (hp : p < 1983) (hy : y < 512) (hj : j < 8) (gate bit : Nat → Bool) :
    PlaneStep (fun p' y' x' => if p' = p ∧ y' = y ∧ x' / 64 = j ∧ gate x' = true then bit x' else s.planeBit p' y' x') s (s.writeRow p y j gate bit) := by
  by_cases hg : (rangeFrom (64 * j) 64).any gate = true
  · have hw : s.writeRow p y j gate bit = s.putWord (rowWordAddr p y j) (wordOf (fun c => if gate (64 * j + c) = true then bit (64 * j + c) else
        natBit (s.planeVal (rowWordAddr p y j)) c) 64) := by
      unfold State.writeRow
      dsimp only
      rw [if_pos hg]
    rw [hw]
    generalize hd : wordOf _ 64 = d
    have hc : (s.putWord (rowWordAddr p y j) d).PlanesClean := by
      intro p' y' j' hp' hy' hj'
      rw [State.wordSyn_putWord]
      split
      · rfl
      · exact h p' y' j' hp' hy' hj'
    refine ⟨?_, hc, ?_, State.putWord_eq _ _ _⟩
    · intro p' y' x' hp' hy' hx'
      have hj' : x' / 64 < 8 := by omega
      unfold State.planeBit
      rw [planeVal_clean hc hp' hy' hj', planeVal_clean h hp' hy' hj', wordData_putWord]
      by_cases q : p' = p ∧ y' = y ∧ x' / 64 = j
      · obtain ⟨rfl, rfl, rfl⟩ := q
        rw [if_pos rfl, ← hd]
        have e : natBit (wordOf (fun c => if gate (64 * (x' / 64) + c) = true then bit (64 * (x' / 64) + c) else
            natBit (s.planeVal (rowWordAddr p' y' (x' / 64))) c) 64 % 2 ^ 64) (x' % 64) =
            if gate x' = true then bit x' else natBit (s.planeVal (rowWordAddr p' y' (x' / 64))) (x' % 64) := by
          rw [natBit_testBit, Nat.testBit_mod_two_pow, (wordOf_bit _ 64 _).1]
          have : x' % 64 < 64 := Nat.mod_lt _ (by decide)
          have e2 : 64 * (x' / 64) + x' % 64 = x' := by omega
          simp only [this, decide_true, Bool.true_and, e2]
        rw [e, planeVal_clean h hp' hy' hj']
        simp
      · rw [if_neg (by rw [rowWord_inj hy' hj' hy hj]; exact q), if_neg (by rintro ⟨a, b, c, _⟩; exact q ⟨a, b, c⟩)]
    · intro a ha
      rw [State.byte_putWord, if_neg]
      rw [rowWord_div]; omega
  · have hw : s.writeRow p y j gate bit = s := by unfold State.writeRow; dsimp only; rw [if_neg hg]
    rw [hw]
    refine (PlaneStep.refl h).to ?_
    intro p' y' x' _ _ _
    rw [if_neg]
    rintro ⟨_, _, e, g⟩
    apply hg
    rw [List.any_eq_true]
    exact ⟨x', (mem_rangeFrom _ _ _).2 (by omega), g⟩

/-- The planes of one row written from a list of planes. -/
theorem rowPlanes_step {s : State} (h : s.PlanesClean) (ks : List Nat) (base y j : Nat) (hb : ∀ k ∈ ks, base + k < 1983) (hy : y < 512) (hj : j < 8)
    (gate : Nat → Bool) (v : Nat → Nat) :
    PlaneStep (fun p' y' x' => if (base ≤ p' ∧ p' - base ∈ ks) ∧ y' = y ∧ x' / 64 = j ∧ gate x' = true then natBit (v x') (p' - base) else s.planeBit p' y' x') s
      (ks.foldl (fun u k => u.writeRow (base + k) y j gate (fun x => natBit (v x) k)) s) := by
  induction ks generalizing s with
  | nil => exact (PlaneStep.refl h).to (by intros; simp)
  | cons k ks ih =>
    have h1 := writeRow_step h (hb k (List.mem_cons_self ..)) hy hj gate (fun x => natBit (v x) k)
    have h2 := ih h1.clean (fun i hi => hb i (List.mem_cons_of_mem _ hi))
    refine (h1.trans h2).to ?_
    intro p' y' x' hp' hy' hx'
    by_cases q : (base ≤ p' ∧ p' - base ∈ ks) ∧ y' = y ∧ x' / 64 = j ∧ gate x' = true
    · rw [if_pos q, if_pos ⟨⟨q.1.1, List.mem_cons_of_mem _ q.1.2⟩, q.2⟩]
    · rw [if_neg q, h1.planes _ _ _ hp' hy' hx']
      by_cases q2 : p' = base + k ∧ y' = y ∧ x' / 64 = j ∧ gate x' = true
      · rw [if_pos q2, if_pos]
        · have : p' - base = k := by omega
          rw [this]
        · refine ⟨⟨by omega, ?_⟩, q2.2⟩
          have : p' - base = k := by omega
          rw [this]; exact List.mem_cons_self ..
      · rw [if_neg q2, if_neg]
        rintro ⟨⟨a, b⟩, c⟩
        rcases List.mem_cons.1 b with e | e
        · exact q2 ⟨by omega, c⟩
        · exact q ⟨⟨a, e⟩, c⟩

theorem writeField_step {s : State} (h : s.PlanesClean) (rows : List (Nat × Nat)) (base w : Nat) (hb : base + w ≤ 1983)
    (hr : ∀ r ∈ rows, r.1 < 512 ∧ r.2 < 8) (gate : Nat → Nat → Bool) (v : Nat → Nat → Nat) :
    PlaneStep (fun p' y' x' => if (base ≤ p' ∧ p' < base + w) ∧ (y', x' / 64) ∈ rows ∧ gate y' x' = true then natBit (v y' x') (p' - base) else s.planeBit p' y' x')
      s (s.writeField rows base w gate v) := by
  unfold State.writeField
  induction rows generalizing s with
  | nil => exact (PlaneStep.refl h).to (by intros; simp)
  | cons r rows ih =>
    have h1 := rowPlanes_step h (rangeFrom 0 w) base r.1 r.2 (by intro k hk; rw [mem_rangeFrom] at hk; omega) (hr r (List.mem_cons_self ..)).1
      (hr r (List.mem_cons_self ..)).2 (gate r.1) (v r.1)
    have h2 := ih h1.clean (fun i hi => hr i (List.mem_cons_of_mem _ hi))
    refine (h1.trans h2).to ?_
    intro p' y' x' hp' hy' hx'
    by_cases q : (base ≤ p' ∧ p' < base + w) ∧ (y', x' / 64) ∈ rows ∧ gate y' x' = true
    · rw [if_pos q, if_pos ⟨q.1, List.mem_cons_of_mem _ q.2.1, q.2.2⟩]
    · rw [if_neg q, h1.planes _ _ _ hp' hy' hx']
      by_cases q2 : (base ≤ p' ∧ p' - base ∈ rangeFrom 0 w) ∧ y' = r.1 ∧ x' / 64 = r.2 ∧ gate r.1 x' = true
      · rw [if_pos q2, if_pos]
        · rw [q2.2.1]
        · refine ⟨⟨q2.1.1, by have := (mem_rangeFrom _ _ _).1 q2.1.2; omega⟩, ?_, by rw [q2.2.1]; exact q2.2.2.2⟩
          rw [q2.2.1, q2.2.2.1]; exact List.mem_cons_self ..
      · rw [if_neg q2, if_neg]
        rintro ⟨a, b, c⟩
        rcases List.mem_cons.1 b with e | e
        · have e1 : y' = r.1 := by rw [← e]
          have e2 : x' / 64 = r.2 := by rw [← e]
          exact q2 ⟨⟨a.1, by rw [mem_rangeFrom]; omega⟩, e1, e2, by rw [← e1]; exact c⟩
        · exact q ⟨a, e, c⟩

theorem rowFlags_step {s : State} (h : s.PlanesClean) (ks : List Nat) (y j : Nat) (hb : ∀ k ∈ ks, k < 7) (hy : y < 512) (hj : j < 8)
    (gate : Nat → Bool) (fl : Nat → Nat) :
    PlaneStep (fun p' y' x' => if (1976 ≤ p' ∧ p' - 1976 ∈ ks) ∧ y' = y ∧ x' / 64 = j ∧ (gate x' && natBit (fl x') (p' - 1976)) = true then true else s.planeBit p' y' x') s
      (ks.foldl (fun u k => if (rangeFrom (64 * j) 64).any (fun x => gate x && natBit (fl x) k) then
        u.writeRow (1976 + k) y j (fun x => gate x && natBit (fl x) k) (fun _ => true) else u) s) := by
  induction ks generalizing s with
  | nil => exact (PlaneStep.refl h).to (by intros; simp)
  | cons k ks ih =>
    have hk := hb k (List.mem_cons_self ..)
    have h1 : PlaneStep (fun p' y' x' => if p' = 1976 + k ∧ y' = y ∧ x' / 64 = j ∧ (gate x' && natBit (fl x') k) = true then true else s.planeBit p' y' x') s
        (if (rangeFrom (64 * j) 64).any (fun x => gate x && natBit (fl x) k) then
          s.writeRow (1976 + k) y j (fun x => gate x && natBit (fl x) k) (fun _ => true) else s) := by
      split
      · exact writeRow_step h (by omega) hy hj _ _
      · rename_i hn
        refine (PlaneStep.refl h).to ?_
        intro p' y' x' _ _ _
        rw [if_neg]
        rintro ⟨_, _, e, g⟩
        apply hn
        rw [List.any_eq_true]
        exact ⟨x', (mem_rangeFrom _ _ _).2 (by omega), g⟩
    have h2 := ih h1.clean (fun i hi => hb i (List.mem_cons_of_mem _ hi))
    refine (h1.trans h2).to ?_
    intro p' y' x' hp' hy' hx'
    by_cases q : (1976 ≤ p' ∧ p' - 1976 ∈ ks) ∧ y' = y ∧ x' / 64 = j ∧ (gate x' && natBit (fl x') (p' - 1976)) = true
    · rw [if_pos q, if_pos ⟨⟨q.1.1, List.mem_cons_of_mem _ q.1.2⟩, q.2⟩]
    · rw [if_neg q, h1.planes _ _ _ hp' hy' hx']
      by_cases q2 : p' = 1976 + k ∧ y' = y ∧ x' / 64 = j ∧ (gate x' && natBit (fl x') k) = true
      · rw [if_pos q2, if_pos]
        have e : p' - 1976 = k := by omega
        refine ⟨⟨by omega, ?_⟩, q2.2.1, q2.2.2.1, by rw [e]; exact q2.2.2.2⟩
        rw [e]; exact List.mem_cons_self ..
      · rw [if_neg q2, if_neg]
        rintro ⟨⟨a, b⟩, c⟩
        rcases List.mem_cons.1 b with e | e
        · exact q2 ⟨by omega, c.1, c.2.1, by rw [← e]; exact c.2.2⟩
        · exact q ⟨⟨a, e⟩, c⟩

theorem raiseFlags_step {s : State} (h : s.PlanesClean) (rows : List (Nat × Nat)) (hr : ∀ r ∈ rows, r.1 < 512 ∧ r.2 < 8)
    (gate : Nat → Nat → Bool) (fl : Nat → Nat → Nat) :
    PlaneStep (fun p' y' x' => if 1976 ≤ p' ∧ (y', x' / 64) ∈ rows ∧ (gate y' x' && natBit (fl y' x') (p' - 1976)) = true then true else s.planeBit p' y' x')
      s (s.raiseFlags rows gate fl) := by
  unfold State.raiseFlags
  induction rows generalizing s with
  | nil => exact (PlaneStep.refl h).to (by intros; simp)
  | cons r rows ih =>
    have h1 := rowFlags_step h (rangeFrom 0 7) r.1 r.2 (by intro k hk; rw [mem_rangeFrom] at hk; omega) (hr r (List.mem_cons_self ..)).1
      (hr r (List.mem_cons_self ..)).2 (gate r.1) (fl r.1)
    have h2 := ih h1.clean (fun i hi => hr i (List.mem_cons_of_mem _ hi))
    refine (h1.trans h2).to ?_
    intro p' y' x' hp' hy' hx'
    by_cases q : 1976 ≤ p' ∧ (y', x' / 64) ∈ rows ∧ (gate y' x' && natBit (fl y' x') (p' - 1976)) = true
    · rw [if_pos q, if_pos ⟨q.1, List.mem_cons_of_mem _ q.2.1, q.2.2⟩]
    · rw [if_neg q, h1.planes _ _ _ hp' hy' hx']
      by_cases q2 : (1976 ≤ p' ∧ p' - 1976 ∈ rangeFrom 0 7) ∧ y' = r.1 ∧ x' / 64 = r.2 ∧ (gate r.1 x' && natBit (fl r.1 x') (p' - 1976)) = true
      · rw [if_pos q2, if_pos]
        refine ⟨q2.1.1, ?_, by rw [q2.2.1]; exact q2.2.2.2⟩
        rw [q2.2.1, q2.2.2.1]; exact List.mem_cons_self ..
      · rw [if_neg q2, if_neg]
        rintro ⟨a, b, c⟩
        rcases List.mem_cons.1 b with e | e
        · have e1 : y' = r.1 := by rw [← e]
          have e2 : x' / 64 = r.2 := by rw [← e]
          exact q2 ⟨⟨a, by rw [mem_rangeFrom]; omega⟩, e1, e2, by rw [← e1]; exact c⟩
        · exact q ⟨a, e, c⟩

theorem mem_rows (s : State) (q y j : Nat) : (y, j) ∈ s.rows q ↔ y < 512 ∧ j < 8 ∧ natBit q (peQuad y (64 * j)) = true ∧ s.rampTile (peTile y (64 * j)) = true := by
  unfold State.rows
  simp only [List.mem_flatMap, mem_rangeFrom, List.mem_filter, List.mem_map, Prod.mk.injEq, Bool.and_eq_true]
  constructor
  · rintro ⟨a, ha, ⟨b, hb, rfl, rfl⟩, h1, h2⟩
    exact ⟨by omega, by omega, h1, h2⟩
  · rintro ⟨a, b, c, d⟩
    exact ⟨y, by omega, ⟨j, by omega, rfl, rfl⟩, c, d⟩

theorem counts_rows (s : State) (q : Nat) {y x : Nat} (hy : y < 512) (hx : x < 512) : s.counts q y x = true ↔ (y, x / 64) ∈ s.rows q ∧ s.mAt y x = true := by
  have e1 : peQuad y (64 * (x / 64)) = peQuad y x := by
    unfold peQuad
    have : 64 * (x / 64) < 256 ↔ x < 256 := by omega
    simp only [this]
  have e2 : peTile y (64 * (x / 64)) = peTile y x := by unfold peTile; rw [Nat.mul_div_cancel_left _ (by decide)]
  rw [mem_rows, e1, e2]
  unfold State.counts
  simp only [Bool.and_eq_true]
  constructor
  · rintro ⟨⟨a, b⟩, c⟩; exact ⟨⟨hy, by omega, a, b⟩, c⟩
  · rintro ⟨⟨_, _, a, b⟩, c⟩; exact ⟨⟨a, b⟩, c⟩

theorem scanPlanes_clean {s : State} (h : s.PlanesClean) (rows : List (Nat × Nat)) (hr : ∀ r ∈ rows, r.1 < 512 ∧ r.2 < 8) (ps : List Nat) :
    s.scanPlanes rows ps = (false, s) := by
  unfold State.scanPlanes
  induction rows with
  | nil => rfl
  | cons r rows ih =>
    rw [List.foldl_cons]
    have : (ps.foldl (fun (acc : Bool × State) p =>
        let a := rowWordAddr p r.1 r.2
        if 1983 ≤ p then acc
        else
          let k := decodeSyn (acc.2.wordSyn a).toNat
          (acc.1 || decide (k = .ue), acc.2.reportWord a k)) (false, s)) = (false, s) := by
      clear ih
      induction ps with
      | nil => rfl
      | cons p ps ih2 =>
        rw [List.foldl_cons]
        by_cases hp : 1983 ≤ p
        · simp only [hp, if_true]; exact ih2
        · have := h p r.1 r.2 (by omega) (hr r (List.mem_cons_self ..)).1 (hr r (List.mem_cons_self ..)).2
          simp only [hp, if_false, this]
          exact ih2
    rw [this]
    exact ih (fun i hi => hr i (List.mem_cons_of_mem _ hi))

theorem fieldAt_bit (s : State) (base w y x k : Nat) : (s.fieldAt base w y x).testBit k = (decide (k < w) && s.planeBit (base + k) y x) ∧ s.fieldAt base w y x < 2 ^ w := by
  have e : s.fieldAt base w y x = wordOf (fun k => s.planeBit (base + k) y x) w := by
    induction w with
    | zero => rfl
    | succ w ih => unfold State.fieldAt wordOf; rw [ih]
  rw [e]; exact wordOf_bit _ _ _

/-- The end of an array instruction: the PC and the T planes. -/
theorem arrayEnd_planes {n : Dealer} {op : AOp} {s u : State} {c : Nat} {b : Bank} (h : s.OnlyPlanes n b u) :
    s.OnlyPlanes n { b with pc := BitVec.ofNat 32 (b.pc.toNat + 4 + 4 * op.extN) } (u.arrayEnd n op c) := by
  have hl : u.lvl n = s.lvl n := by unfold State.lvl State.fget; rw [h.registers]
  have o := (State.OnlyBank.setBank n { u.bank n with pc := BitVec.ofNat 32 (u.pc n + 4 + 4 * op.extN) } u).trans (State.OnlyBank.charge n _ c)
  rw [State.bank_setBank] at o
  have e : (u.setBank n { u.bank n with pc := BitVec.ofNat 32 (u.pc n + 4 + 4 * op.extN) }) = u.setPc n (u.pc n + 4 + 4 * op.extN) := rfl
  rw [e] at o
  unfold State.arrayEnd
  dsimp only
  have hrow : ((u.setPc n (u.pc n + 4 + 4 * op.extN)).charge n c).mrow = u.mrow := rfl
  generalize (u.setPc n (u.pc n + 4 + 4 * op.extN)).charge n c = t at o hrow ⊢
  have hb : ∀ d m j, (t.setDl n { t.dl n with drainTo := d }).bankAt m j = t.bankAt m j := by
    intro d m j
    unfold State.bankAt
    by_cases q : m = n
    · subst q; rw [State.dl_setDl_same]
    · rw [State.dl_setDl_other (h := q)]
  constructor
  · show (t.setDl n _).bankAt n _ = _
    rw [hb]
    have := o.bank
    unfold State.bank at this
    refine (show _ = t.bankAt n (t.lvl n) from rfl).trans (this.trans ?_)
    have hbk : u.bankAt n (u.lvl n) = b := h.bank
    unfold State.pc State.bank
    rw [hbk]
  · intro k hk
    show (t.setDl n _).bankAt n k = _
    rw [hb, o.levels k (by rw [hl]; exact hk)]
    exact h.levels k hk
  · show ((t.setDl n _).dl n).msp = _
    rw [State.dl_setDl_same]
    exact o.msp.trans h.msp
  · intro m hm
    show (t.setDl n _).dl m = _
    rw [State.dl_setDl_other (h := hm)]
    exact (o.dealers m hm).trans (h.dealers m hm)
  · intro r; exact (o.registers r).trans (h.registers r)
  · intro a ha; exact (o.bytes a).trans (h.bytes a ha)
  · exact hrow.trans h.masks

theorem region_lt (s : State) (n : Dealer) : s.region n < 16 := by
  unfold State.region
  have hp : ∀ n : Dealer, 2 ^ n.val + 2 ^ (partner n).val < 16 ∧ 2 ^ n.val < 16 := by decide
  split
  · decide
  · split
    · have := hp n
      split
      · exact this.1
      · exact this.2
    · split <;> decide
    · decide

theorem within_and {s : State} {n : Dealer} {q : Nat} (hq : q < 16) (h : s.Within n q) : q &&& (15 - s.region n) = 0 := by
  have hr := region_lt s n
  unfold State.Within at h
  generalize s.region n = r at *
  have : ∀ q r : Fin 16, (∀ k : Fin 4, natBit q.val k.val = true → natBit r.val k.val = true) → q.val &&& (15 - r.val) = 0 := by decide
  exact this ⟨q, hq⟩ ⟨r, hr⟩ (fun k => h k.val k.isLt)

theorem pdQset_lt (w : Word) : pdQset w < 16 := by unfold pdQset; exact getField_lt w 28 4

theorem fieldFits.low {w : Word} (h : fieldFits w) : pdBase w + pdWidth w ≤ 1920 := h.2

theorem limitTrap_fits {pds : List Word} (h : ∀ w ∈ pds, fieldFits w) : (limitTrap pds).1 = false := by
  unfold limitTrap
  split
  · rename_i w hw
    have h1 := List.find?_some hw
    have h2 := (h w (List.mem_of_find?_eq_some hw)).2
    simp only [decide_eq_true_eq] at h1
    omega
  · rfl

/-- A word that passes the checks of R95 takes no trap. -/
theorem arrayTrap_none {s : State} {n : Dealer} {aop : Nat} {op : AOp} {u : AUse} {bad : Bool} {q : Option Nat} (r : s.ArrayReady n aop op)
    (hu : aopReserved op u = false) (hb : bad = false) (fits : ∀ w ∈ s.usedPDs n op u, fieldFits w)
    (hq : ∀ v, q = some v → v < 16 ∧ s.Within n v) : s.arrayTrap n aop op u bad q = none := by
  have h1 : s.defined n aop = true := by
    unfold State.defined State.dispEntry
    rw [State.readWord_clean _ _ r.valid]
    exact r.entry
  have h2 : (s.usedPDs n op u).any pdReserved = false := by
    rw [List.any_eq_false]
    intro w hw
    rw [(fits w hw).1]; decide
  have h3 := limitTrap_fits fits
  have h5 : decide (0x3FFFC < s.pc n + 4 + 4 * op.extN) = false := by simp only [decide_eq_false_iff_not]; have := r.next; omega
  unfold State.arrayTrap
  dsimp only
  have e : limitTrap (s.usedPDs n op u) = (false, (limitTrap (s.usedPDs n op u)).2) := by rw [← h3]
  rw [e, h1, hu, hb, h2, h5]
  cases q with
  | none => rfl
  | some v => dsimp only; rw [within_and (hq v rfl).1 (hq v rfl).2]; rfl

/-- What an array instruction that passes its checks comes to. -/
theorem runArray_spec {s : State} {n : Dealer} {aop : Nat} {op : AOp} {chk chk6 : Option Trap} {zero : Bool} {eff : State → State}
    (r : s.ArrayReady n aop op) (h : chk = none) (h6 : chk6 = none) :
    runArray n aop op s chk zero chk6 eff = .next ((if zero then s.arrayEnd n op 1 else eff s).unhold n (s.lvl n).val) := by
  have e : s.dispEntry n aop = (s.wordData (ctlBase n + 0x80000 + 8 * aop), false, s) := by
    unfold State.dispEntry
    rw [State.readWord_clean _ _ r.valid]
  unfold runArray
  rw [if_neg (by rw [r.runs.1]; decide), if_neg (by rw [r.runs.2.1, r.runs.2.2.1, r.runs.2.2.2]; decide), if_neg (by rw [r.raised]; decide)]
  dsimp only
  rw [e]
  subst h h6
  dsimp only
  cases zero <;> rfl

theorem bankAt_unhold (s : State) (n m : Dealer) (k : Nat) (j : Fin 8) : (s.unhold n k).bankAt m j = s.bankAt m j := by
  unfold State.unhold State.bankAt
  by_cases q : m = n
  · subst q; rw [State.dl_setDl_same]
  · rw [State.dl_setDl_other (h := q)]

/-- The end of a hold is no part of what an array instruction is said to leave. -/
theorem onlyPlanes_unhold {s t : State} {n : Dealer} {b : Bank} (k : Nat) (h : s.OnlyPlanes n b t) : s.OnlyPlanes n b (t.unhold n k) := by
  refine ⟨?_, fun j hj => (bankAt_unhold ..).trans (h.levels j hj), ?_, fun m hm => ?_, h.registers, h.bytes, h.masks⟩
  · show (t.unhold n k).bankAt n _ = _
    rw [bankAt_unhold]; exact h.bank
  · unfold State.unhold; rw [State.dl_setDl_same]; exact h.msp
  · unfold State.unhold; rw [State.dl_setDl_other (h := hm)]; exact h.dealers m hm

theorem planeBit_unhold (t : State) (n : Dealer) (k p y x : Nat) : (t.unhold n k).planeBit p y x = t.planeBit p y x := rfl

theorem planesAre_unhold {s t : State} {n : Dealer} {q : Nat} {f : Nat → Nat → Nat → Bool} (k : Nat) (h : s.PlanesAre q f t) :
    s.PlanesAre q f (t.unhold n k) := fun p y x hp hy hx => (planeBit_unhold ..).trans (h p y x hp hy hx)

theorem rows_bounds (s : State) (q : Nat) : ∀ r ∈ s.rows q, r.1 < 512 ∧ r.2 < 8 := by
  intro r hr
  have := (mem_rows s q r.1 r.2).1 hr
  exact ⟨this.1, this.2.1⟩

theorem withSources_clean {s : State} {n : Dealer} {aop : Nat} {rows : List (Nat × Nat)} {ps : List Nat} {eff : State → State} (h : s.PlanesClean)
    (hr : ∀ r ∈ rows, r.1 < 512 ∧ r.2 < 8) : s.withSources n aop rows ps eff = eff s := by
  unfold State.withSources
  rw [scanPlanes_clean h rows hr]
  rfl

theorem withReads_clean {s : State} {n : Dealer} {aop : Nat} {rows : List (Nat × Nat)} {ps ds : List Nat} {eff : State → State} (h : s.PlanesClean)
    (hr : ∀ r ∈ rows, r.1 < 512 ∧ r.2 < 8) : s.withReads n aop rows ps ds eff = eff s := by
  unfold State.withReads
  rw [withSources_clean h hr, withSources_clean h]
  intro r hm
  exact hr r (List.mem_filter.1 hm).1

theorem withFlags_clean {s : State} {n : Dealer} {aop : Nat} {rows : List (Nat × Nat)} {fl : State → Nat → Nat → Nat} {eff : State → State}
    (h : s.PlanesClean) (hr : ∀ r ∈ rows, r.1 < 512 ∧ r.2 < 8) (ks : List Nat) : s.withFlags n aop rows fl ks eff = eff s := by
  induction ks with
  | nil => rfl
  | cons k ks ih =>
    unfold State.withFlags
    rw [withSources_clean h]
    · exact ih
    · intro r hm
      exact hr r (List.mem_filter.1 hm).1

theorem PlaneStep.only {f : Nat → Nat → Nat → Bool} {s t : State} (n : Dealer) (h : PlaneStep f s t) : s.OnlyPlanes n (s.bank n) t := by
  rw [h.rest]
  exact ⟨rfl, fun _ _ => rfl, rfl, fun _ _ => rfl, fun _ => rfl, fun a ha => by rw [← h.bytes a ha, h.rest], rfl⟩

/-- The planes after the end of an array instruction are those before it. -/
theorem arrayEnd_bit (n : Dealer) (op : AOp) (s : State) (c p y x : Nat) (hp : p < 1983) (hy : y < 512) (hx : x < 512) :
    (s.arrayEnd n op c).planeBit p y x = s.planeBit p y x := by
  unfold State.planeBit State.planeVal
  rw [rowWord_plane hp hy (by omega), if_pos hp, if_pos hp]
  rfl

/-- An instruction that writes field d of the PEs counted, and sets flag planes. -/
theorem field_end {s : State} {n : Dealer} {op : AOp} (clean : s.PlanesClean) (d : Word) (hd : pdBase d + pdWidth d ≤ 1920)
    (v fl : Nat → Nat → Nat) (c : Nat) :
    s.OnlyPlanes n (s.pastArray n op) (((s.writeField (s.rows (pdQset d)) (pdBase d) (pdWidth d) s.mAt v).raiseFlags (s.rows (pdQset d)) s.mAt fl).arrayEnd n op c) ∧
    s.PlanesAre (pdQset d) (s.fieldPlanes d v fl) (((s.writeField (s.rows (pdQset d)) (pdBase d) (pdWidth d) s.mAt v).raiseFlags (s.rows (pdQset d)) s.mAt fl).arrayEnd n op c) := by
  have h1 := writeField_step clean (s.rows (pdQset d)) (pdBase d) (pdWidth d) (by omega) (rows_bounds s _) s.mAt v
  have h2 := h1.trans (raiseFlags_step h1.clean (s.rows (pdQset d)) (rows_bounds s _) s.mAt fl)
  refine ⟨arrayEnd_planes (h2.only n), ?_⟩
  intro p y x hp hy hx
  rw [arrayEnd_bit _ _ _ _ _ _ _ hp hy hx, h2.planes p y x hp hy hx, h1.planes p y x hp hy hx]
  have hc := counts_rows s (pdQset d) hy hx
  unfold State.fieldPlanes
  cases hm : s.mAt y x <;> by_cases hr : (y, x / 64) ∈ s.rows (pdQset d)
  · rw [hm] at hc; simp [hr] at hc; simp [hc]
  · rw [hm] at hc; simp at hc; simp [hc]
  · have : s.counts (pdQset d) y x = true := hc.2 ⟨hr, hm⟩
    rw [this]
    simp only [hr, Bool.true_and, true_and, and_true, if_true]
    by_cases q : pdBase d ≤ p ∧ p < pdBase d + pdWidth d
    · rw [if_pos q, if_pos q, if_neg (by omega)]
    · rw [if_neg q, if_neg q]
  · have : s.counts (pdQset d) y x = false := by
      cases h : s.counts (pdQset d) y x with
      | false => rfl
      | true => exact absurd (hc.1 h).1 hr
    rw [this]
    simp [hr]

/-- An instruction whose quadrant set is empty counts no PE. -/
theorem counts_zero (s : State) (y x : Nat) : s.counts 0 y x = false := by
  unfold State.counts
  have : natBit 0 (peQuad y x) = false := by rw [natBit_testBit]; simp
  rw [this]; rfl

theorem runField_spec {s : State} {n : Dealer} {aop : Nat} {op : AOp} {u : AUse} {badW : Widths → Bool} {cost : Widths → Nat} {g : State → Nat → Nat → PERes}
    (r : s.ArrayRuns n aop op (s.usedPDs n op u) (pdQset (s.rdPD n op.pdd))) (hd : u.d = true) (hu : aopReserved op u = false) (hb : badW (s.widths n op) = false) :
    ∃ t, runField n aop op s u badW false cost false g = .next t ∧ s.OnlyPlanes n (s.pastArray n op) t ∧
      s.PlanesAre (pdQset (s.rdPD n op.pdd)) (s.fieldPlanes (s.rdPD n op.pdd) (fun y x => (g s y x).v) (fun y x => (g s y x).fl)) t := by
  have hd' : fieldFits (s.rdPD n op.pdd) := r.fits _ (by simp [State.usedPDs, hd])
  have ht := arrayTrap_none (q := some (pdQset (s.rdPD n op.pdd))) r.ready hu hb r.fits (fun v hv => by cases hv; exact ⟨pdQset_lt _, r.within⟩)
  by_cases hq : pdQset (s.rdPD n op.pdd) = 0
  · have e : runField n aop op s u badW false cost false g = .next ((s.arrayEnd n op 1).unhold n (s.lvl n).val) := by
      unfold runField
      dsimp only
      rw [ht, runArray_spec r.ready rfl rfl, hq]
      rfl
    refine ⟨_, e, onlyPlanes_unhold _ (arrayEnd_planes (PlaneStep.only n (PlaneStep.refl r.clean))), ?_⟩
    intro p y x hp hy hx
    rw [planeBit_unhold, arrayEnd_bit _ _ _ _ _ _ _ hp hy hx, hq, counts_zero]; rfl
  · have e : runField n aop op s u badW false cost false g = .next
        ((((s.writeField (s.rows (pdQset (s.rdPD n op.pdd))) (pdBase (s.rdPD n op.pdd)) (pdWidth (s.rdPD n op.pdd)) s.mAt (fun y x => (g s y x).v)).raiseFlags
          (s.rows (pdQset (s.rdPD n op.pdd))) s.mAt (fun y x => (g s y x).fl)).arrayEnd n op (cost (s.widths n op) + s.staging n op u false)).unhold n (s.lvl n).val) := by
      have hz : (pdQset (s.rdPD n op.pdd) == 0 || false) = false := by simp [hq]
      unfold runField
      dsimp only
      rw [ht, runArray_spec r.ready rfl rfl, hz]
      rw [if_neg (by decide), withReads_clean r.clean (rows_bounds s _), withFlags_clean r.clean (rows_bounds s _)]
      rfl
    obtain ⟨h1, h2⟩ := field_end (op := op) (n := n) r.clean _ hd'.low (fun y x => (g s y x).v) (fun y x => (g s y x).fl) (cost (s.widths n op) + s.staging n op u false)
    exact ⟨_, e, onlyPlanes_unhold _ h1, planesAre_unhold _ h2⟩


theorem ArrayWrites.congr {i : Instr} {n : Dealer} {op : AOp} {d : Word} {v v' fl fl' : Nat → Nat → Nat} {s : State}
    (h : ∃ t, exec i s = .next t ∧ s.OnlyPlanes n (s.pastArray n op) t ∧ s.PlanesAre (pdQset d) (s.fieldPlanes d v fl) t)
    (hv : ∀ y x k, k < pdWidth d → natBit (v y x) k = natBit (v' y x) k) (hf : ∀ y x, fl y x = fl' y x) : ArrayWrites i n op d v' fl' s := by
  obtain ⟨t, h1, h2, h3⟩ := h
  refine ⟨t, h1, h2, ?_⟩
  intro p y x hp hy hx
  rw [h3 p y x hp hy hx]
  unfold State.fieldPlanes
  split
  · split
    · exact hv _ _ _ (by omega)
    · rw [hf]
  · rfl

theorem valueAt_lt (s : State) (w : Word) (y x : Nat) : s.valueAt w y x < 2 ^ pdWidth w := (fieldAt_bit s _ _ _ _ 0).2

theorem peA_eq (s : State) (n : Dealer) (op : AOp) : s.peA n op = s.valueAt (s.rdPD n op.pda) := rfl

theorem peB_eq (s : State) (n : Dealer) (op : AOp) : s.peB n op = s.valueAt (s.rdPD n op.pdb) := rfl

theorem peC_eq (s : State) (n : Dealer) (op : AOp) : s.peC n op = s.valueAt (s.rdPD n op.pdc) := rfl

theorem boolField_eq (f a b w : Nat) : boolField f a b w = wordOf (fun k => natBit f (2 * b2n (natBit a k) + b2n (natBit b k))) w := by
  induction w with
  | zero => rfl
  | succ w ih => unfold boolField wordOf; rw [ih]

theorem toNat_b2n (b : Bool) : b.toNat = b2n b := by cases b <;> rfl

theorem arrayField {i : Instr} {s : State} {n : Dealer} {aop : Nat} {op : AOp} {u : AUse} {badW : Widths → Bool} {cost : Widths → Nat} {g : State → Nat → Nat → PERes}
    {v fl : Nat → Nat → Nat} (e : exec i s = runField n aop op s u badW false cost false g)
    (r : s.ArrayRuns n aop op (s.usedPDs n op u) (pdQset (s.rdPD n op.pdd))) (hd : u.d = true) (hu : aopReserved op u = false) (hb : badW (s.widths n op) = false)
    (hv : ∀ y x k, k < pdWidth (s.rdPD n op.pdd) → natBit (g s y x).v k = natBit (v y x) k) (hf : ∀ y x, (g s y x).fl = fl y x) :
    ArrayWrites i n op (s.rdPD n op.pdd) v fl s := by
  refine ArrayWrites.congr ?_ hv hf
  rw [e]
  exact runField_spec r hd hu hb

theorem ofSigned_eq' (w : Nat) (a : Int) : ofSigned w a = (BitVec.ofInt w a).toNat := by
  unfold ofSigned; rw [BitVec.toNat_ofInt]; simp

theorem clampRes_eq (w : Nat) (lo hi v : Int) (h : lo ≤ hi) : clampRes w lo hi v = { v := (BitVec.ofInt w (max lo (min hi v))).toNat, fl := if v < lo ∨ hi < v then 2 ^ 6 else 0 } := by
  unfold clampRes
  rw [ofSigned_eq']
  have : (if v < lo then lo else if hi < v then hi else v) = max lo (min hi v) := by
    by_cases h1 : v < lo
    · rw [if_pos h1]; omega
    · by_cases h2 : hi < v
      · rw [if_neg h1, if_pos h2]; omega
      · rw [if_neg h1, if_neg h2]; omega
  rw [this] <;> rfl

theorem runField_zero {s : State} {n : Dealer} {aop : Nat} {op : AOp} {u : AUse} {badW : Widths → Bool} {cost : Widths → Nat} {wc : Bool} {g : State → Nat → Nat → PERes}
    (r : s.ArrayRuns n aop op (s.usedPDs n op u) (pdQset (s.rdPD n op.pdd))) (hu : aopReserved op u = false) (hb : badW (s.widths n op) = false) :
    ∃ t, runField n aop op s u badW true cost wc g = .next t ∧ s.OnlyPlanes n (s.pastArray n op) t ∧ (∀ a, t.byte a = s.byte a) := by
  have ht := arrayTrap_none (q := some (pdQset (s.rdPD n op.pdd))) r.ready hu hb r.fits (fun v hv => by cases hv; exact ⟨pdQset_lt _, r.within⟩)
  have e : runField n aop op s u badW true cost wc g = .next ((s.arrayEnd n op 1).unhold n (s.lvl n).val) := by
    unfold runField
    dsimp only
    rw [ht, runArray_spec r.ready rfl rfl, Bool.or_true]
    rfl
  exact ⟨_, e, onlyPlanes_unhold _ (arrayEnd_planes (PlaneStep.only n (PlaneStep.refl r.clean))), fun _ => rfl⟩


end Sys2Proof.Machine
end

