-- ==== Sys2Proof/Laws/State.lean ====
section
/-!
SUPPORT. The fields of the state after each named update: what the update does not name is as before.  One lemma for each update, a
conjunction over the fields that simp takes apart.
-/
namespace Sys2Proof.Machine

open Sys2Proof

@[simp] theorem State.setReg_fields (s : State) (off : Nat) (v : Word) :
    (s.setReg off v).mem = s.mem ∧ (s.setReg off v).tmem = s.tmem ∧ (s.setReg off v).tEpoch = s.tEpoch ∧
    (s.setReg off v).tZero = s.tZero ∧ (s.setReg off v).tbad = s.tbad ∧ (s.setReg off v).syn = s.syn ∧
    (s.setReg off v).dealers = s.dealers ∧ (s.setReg off v).evAcc = s.evAcc ∧ (s.setReg off v).net = s.net ∧
    (s.setReg off v).netOld = s.netOld ∧ (s.setReg off v).recorded = s.recorded ∧ (s.setReg off v).rpt = s.rpt ∧
    (s.setReg off v).mrow = s.mrow ∧ (s.setReg off v).hands = s.hands ∧ (s.setReg off v).handSyn = s.handSyn ∧
    (s.setReg off v).hstage = s.hstage ∧ (s.setReg off v).ctus = s.ctus ∧ (s.setReg off v).tags = s.tags ∧
    (s.setReg off v).closing = s.closing ∧ (s.setReg off v).raised = s.raised ∧ (s.setReg off v).ctlStage = s.ctlStage ∧
    (s.setReg off v).eiPend = s.eiPend ∧ (s.setReg off v).locks = s.locks ∧ (s.setReg off v).ledgerDirty = s.ledgerDirty ∧
    (s.setReg off v).ntcLost = s.ntcLost ∧ (s.setReg off v).weedAt = s.weedAt ∧ (s.setReg off v).weedDone = s.weedDone ∧
    (s.setReg off v).coldRetry = s.coldRetry ∧ (s.setReg off v).scrubAt = s.scrubAt ∧ (s.setReg off v).rsvRows = s.rsvRows ∧
    (s.setReg off v).ctxs = s.ctxs ∧ (s.setReg off v).camPend = s.camPend ∧ (s.setReg off v).camPulse = s.camPulse ∧
    (s.setReg off v).fsync = s.fsync ∧ (s.setReg off v).pipes = s.pipes ∧ (s.setReg off v).icons = s.icons ∧
    (s.setReg off v).iconSyn = s.iconSyn ∧ (s.setReg off v).tells = s.tells ∧ (s.setReg off v).dboxes = s.dboxes ∧
    (s.setReg off v).notices = s.notices ∧ (s.setReg off v).overlayOff = s.overlayOff ∧ (s.setReg off v).full = s.full ∧
    (s.setReg off v).lacks = s.lacks ∧ (s.setReg off v).warm = s.warm ∧ (s.setReg off v).resetAt = s.resetAt ∧
    (s.setReg off v).seats = s.seats ∧ (s.setReg off v).pcie = s.pcie ∧ (s.setReg off v).canBad = s.canBad ∧
    (s.setReg off v).pxActive = s.pxActive ∧ (s.setReg off v).mainRead = s.mainRead ∧ (s.setReg off v).sectsDone = s.sectsDone ∧
    (s.setReg off v).esp = s.esp ∧ (s.setReg off v).inReset = s.inReset ∧ (s.setReg off v).xtalOff = s.xtalOff ∧
    (s.setReg off v).fbRef = s.fbRef ∧ (s.setReg off v).trimFirst = s.trimFirst ∧ (s.setReg off v).canTrim = s.canTrim ∧
    (s.setReg off v).started = s.started ∧ (s.setReg off v).fallow = s.fallow ∧ (s.setReg off v).railOut = s.railOut ∧
    (s.setReg off v).pocCuts = s.pocCuts ∧ (s.setReg off v).lcReq = s.lcReq ∧ (s.setReg off v).keyHash = s.keyHash ∧
    (s.setReg off v).keyFuse = s.keyFuse ∧ (s.setReg off v).svnFuse = s.svnFuse ∧ (s.setReg off v).gardTimer = s.gardTimer ∧
    (s.setReg off v).gard = s.gard ∧ (s.setReg off v).ticking = s.ticking ∧ (s.setReg off v).switching = s.switching ∧
    (s.setReg off v).edgeHeld = s.edgeHeld ∧ (s.setReg off v).rampAll = s.rampAll ∧ (s.setReg off v).plan = s.plan ∧
    (s.setReg off v).outs = s.outs ∧ (s.setReg off v).fresh = s.fresh ∧ (s.setReg off v).now = s.now ∧
    (s.setReg off v).oldRoutes = s.oldRoutes ∧
    (s.setReg off v).xspi = s.xspi ∧
    (s.setReg off v).selPlan = s.selPlan ∧
    (s.setReg off v).onXB = s.onXB ∧
    (s.setReg off v).hot = s.hot ∧
    (s.setReg off v).edgeAt = s.edgeAt ∧ (s.setReg off v).pending = s.pending := by
  and_intros <;> rfl

@[simp] theorem State.fset_fields (s : State) (f : Fld) (v : Nat) :
    (s.fset f v).mem = s.mem ∧ (s.fset f v).tmem = s.tmem ∧ (s.fset f v).tEpoch = s.tEpoch ∧ (s.fset f v).tZero = s.tZero ∧
    (s.fset f v).tbad = s.tbad ∧ (s.fset f v).syn = s.syn ∧ (s.fset f v).dealers = s.dealers ∧ (s.fset f v).evAcc = s.evAcc ∧
    (s.fset f v).net = s.net ∧ (s.fset f v).netOld = s.netOld ∧ (s.fset f v).recorded = s.recorded ∧ (s.fset f v).rpt = s.rpt ∧
    (s.fset f v).mrow = s.mrow ∧ (s.fset f v).hands = s.hands ∧ (s.fset f v).handSyn = s.handSyn ∧ (s.fset f v).hstage = s.hstage ∧
    (s.fset f v).ctus = s.ctus ∧ (s.fset f v).tags = s.tags ∧ (s.fset f v).closing = s.closing ∧ (s.fset f v).raised = s.raised ∧
    (s.fset f v).ctlStage = s.ctlStage ∧ (s.fset f v).eiPend = s.eiPend ∧ (s.fset f v).locks = s.locks ∧
    (s.fset f v).ledgerDirty = s.ledgerDirty ∧ (s.fset f v).ntcLost = s.ntcLost ∧ (s.fset f v).weedAt = s.weedAt ∧
    (s.fset f v).weedDone = s.weedDone ∧ (s.fset f v).coldRetry = s.coldRetry ∧ (s.fset f v).scrubAt = s.scrubAt ∧
    (s.fset f v).rsvRows = s.rsvRows ∧ (s.fset f v).ctxs = s.ctxs ∧ (s.fset f v).camPend = s.camPend ∧
    (s.fset f v).camPulse = s.camPulse ∧ (s.fset f v).fsync = s.fsync ∧ (s.fset f v).pipes = s.pipes ∧ (s.fset f v).icons = s.icons ∧
    (s.fset f v).iconSyn = s.iconSyn ∧ (s.fset f v).tells = s.tells ∧ (s.fset f v).dboxes = s.dboxes ∧ (s.fset f v).notices = s.notices ∧
    (s.fset f v).overlayOff = s.overlayOff ∧ (s.fset f v).full = s.full ∧ (s.fset f v).lacks = s.lacks ∧ (s.fset f v).warm = s.warm ∧
    (s.fset f v).resetAt = s.resetAt ∧ (s.fset f v).seats = s.seats ∧ (s.fset f v).pcie = s.pcie ∧ (s.fset f v).canBad = s.canBad ∧
    (s.fset f v).pxActive = s.pxActive ∧ (s.fset f v).mainRead = s.mainRead ∧ (s.fset f v).sectsDone = s.sectsDone ∧
    (s.fset f v).esp = s.esp ∧ (s.fset f v).inReset = s.inReset ∧ (s.fset f v).xtalOff = s.xtalOff ∧ (s.fset f v).fbRef = s.fbRef ∧
    (s.fset f v).trimFirst = s.trimFirst ∧ (s.fset f v).canTrim = s.canTrim ∧ (s.fset f v).started = s.started ∧
    (s.fset f v).fallow = s.fallow ∧ (s.fset f v).railOut = s.railOut ∧ (s.fset f v).pocCuts = s.pocCuts ∧ (s.fset f v).lcReq = s.lcReq ∧
    (s.fset f v).keyHash = s.keyHash ∧ (s.fset f v).keyFuse = s.keyFuse ∧ (s.fset f v).svnFuse = s.svnFuse ∧
    (s.fset f v).gardTimer = s.gardTimer ∧ (s.fset f v).gard = s.gard ∧ (s.fset f v).ticking = s.ticking ∧
    (s.fset f v).switching = s.switching ∧ (s.fset f v).edgeHeld = s.edgeHeld ∧ (s.fset f v).rampAll = s.rampAll ∧
    (s.fset f v).plan = s.plan ∧ (s.fset f v).outs = s.outs ∧ (s.fset f v).fresh = s.fresh ∧ (s.fset f v).now = s.now ∧
    (s.fset f v).oldRoutes = s.oldRoutes ∧
    (s.fset f v).xspi = s.xspi ∧
    (s.fset f v).selPlan = s.selPlan ∧
    (s.fset f v).onXB = s.onXB ∧
    (s.fset f v).hot = s.hot ∧
    (s.fset f v).edgeAt = s.edgeAt ∧ (s.fset f v).pending = s.pending := by
  and_intros <;> rfl

@[simp] theorem State.bump_fields (s : State) (f : Fld) (k : Nat) :
    (s.bump f k).mem = s.mem ∧ (s.bump f k).tmem = s.tmem ∧ (s.bump f k).tEpoch = s.tEpoch ∧ (s.bump f k).tZero = s.tZero ∧
    (s.bump f k).tbad = s.tbad ∧ (s.bump f k).syn = s.syn ∧ (s.bump f k).dealers = s.dealers ∧ (s.bump f k).evAcc = s.evAcc ∧
    (s.bump f k).net = s.net ∧ (s.bump f k).netOld = s.netOld ∧ (s.bump f k).recorded = s.recorded ∧ (s.bump f k).rpt = s.rpt ∧
    (s.bump f k).mrow = s.mrow ∧ (s.bump f k).hands = s.hands ∧ (s.bump f k).handSyn = s.handSyn ∧ (s.bump f k).hstage = s.hstage ∧
    (s.bump f k).ctus = s.ctus ∧ (s.bump f k).tags = s.tags ∧ (s.bump f k).closing = s.closing ∧ (s.bump f k).raised = s.raised ∧
    (s.bump f k).ctlStage = s.ctlStage ∧ (s.bump f k).eiPend = s.eiPend ∧ (s.bump f k).locks = s.locks ∧
    (s.bump f k).ledgerDirty = s.ledgerDirty ∧ (s.bump f k).ntcLost = s.ntcLost ∧ (s.bump f k).weedAt = s.weedAt ∧
    (s.bump f k).weedDone = s.weedDone ∧ (s.bump f k).coldRetry = s.coldRetry ∧ (s.bump f k).scrubAt = s.scrubAt ∧
    (s.bump f k).rsvRows = s.rsvRows ∧ (s.bump f k).ctxs = s.ctxs ∧ (s.bump f k).camPend = s.camPend ∧
    (s.bump f k).camPulse = s.camPulse ∧ (s.bump f k).fsync = s.fsync ∧ (s.bump f k).pipes = s.pipes ∧ (s.bump f k).icons = s.icons ∧
    (s.bump f k).iconSyn = s.iconSyn ∧ (s.bump f k).tells = s.tells ∧ (s.bump f k).dboxes = s.dboxes ∧ (s.bump f k).notices = s.notices ∧
    (s.bump f k).overlayOff = s.overlayOff ∧ (s.bump f k).full = s.full ∧ (s.bump f k).lacks = s.lacks ∧ (s.bump f k).warm = s.warm ∧
    (s.bump f k).resetAt = s.resetAt ∧ (s.bump f k).seats = s.seats ∧ (s.bump f k).pcie = s.pcie ∧ (s.bump f k).canBad = s.canBad ∧
    (s.bump f k).pxActive = s.pxActive ∧ (s.bump f k).mainRead = s.mainRead ∧ (s.bump f k).sectsDone = s.sectsDone ∧
    (s.bump f k).esp = s.esp ∧ (s.bump f k).inReset = s.inReset ∧ (s.bump f k).xtalOff = s.xtalOff ∧ (s.bump f k).fbRef = s.fbRef ∧
    (s.bump f k).trimFirst = s.trimFirst ∧ (s.bump f k).canTrim = s.canTrim ∧ (s.bump f k).started = s.started ∧
    (s.bump f k).fallow = s.fallow ∧ (s.bump f k).railOut = s.railOut ∧ (s.bump f k).pocCuts = s.pocCuts ∧ (s.bump f k).lcReq = s.lcReq ∧
    (s.bump f k).keyHash = s.keyHash ∧ (s.bump f k).keyFuse = s.keyFuse ∧ (s.bump f k).svnFuse = s.svnFuse ∧
    (s.bump f k).gardTimer = s.gardTimer ∧ (s.bump f k).gard = s.gard ∧ (s.bump f k).ticking = s.ticking ∧
    (s.bump f k).switching = s.switching ∧ (s.bump f k).edgeHeld = s.edgeHeld ∧ (s.bump f k).rampAll = s.rampAll ∧
    (s.bump f k).plan = s.plan ∧ (s.bump f k).outs = s.outs ∧ (s.bump f k).fresh = s.fresh ∧ (s.bump f k).now = s.now ∧
    (s.bump f k).oldRoutes = s.oldRoutes ∧
    (s.bump f k).xspi = s.xspi ∧
    (s.bump f k).selPlan = s.selPlan ∧
    (s.bump f k).onXB = s.onXB ∧
    (s.bump f k).hot = s.hot ∧
    (s.bump f k).edgeAt = s.edgeAt ∧ (s.bump f k).pending = s.pending := by
  and_intros <;> rfl

@[simp] theorem State.setFbit_fields (s : State) (f : Fld) (i : Nat) (b : Bool) :
    (s.setFbit f i b).mem = s.mem ∧ (s.setFbit f i b).tmem = s.tmem ∧ (s.setFbit f i b).tEpoch = s.tEpoch ∧
    (s.setFbit f i b).tZero = s.tZero ∧ (s.setFbit f i b).tbad = s.tbad ∧ (s.setFbit f i b).syn = s.syn ∧
    (s.setFbit f i b).dealers = s.dealers ∧ (s.setFbit f i b).evAcc = s.evAcc ∧ (s.setFbit f i b).net = s.net ∧
    (s.setFbit f i b).netOld = s.netOld ∧ (s.setFbit f i b).recorded = s.recorded ∧ (s.setFbit f i b).rpt = s.rpt ∧
    (s.setFbit f i b).mrow = s.mrow ∧ (s.setFbit f i b).hands = s.hands ∧ (s.setFbit f i b).handSyn = s.handSyn ∧
    (s.setFbit f i b).hstage = s.hstage ∧ (s.setFbit f i b).ctus = s.ctus ∧ (s.setFbit f i b).tags = s.tags ∧
    (s.setFbit f i b).closing = s.closing ∧ (s.setFbit f i b).raised = s.raised ∧ (s.setFbit f i b).ctlStage = s.ctlStage ∧
    (s.setFbit f i b).eiPend = s.eiPend ∧ (s.setFbit f i b).locks = s.locks ∧ (s.setFbit f i b).ledgerDirty = s.ledgerDirty ∧
    (s.setFbit f i b).ntcLost = s.ntcLost ∧ (s.setFbit f i b).weedAt = s.weedAt ∧ (s.setFbit f i b).weedDone = s.weedDone ∧
    (s.setFbit f i b).coldRetry = s.coldRetry ∧ (s.setFbit f i b).scrubAt = s.scrubAt ∧ (s.setFbit f i b).rsvRows = s.rsvRows ∧
    (s.setFbit f i b).ctxs = s.ctxs ∧ (s.setFbit f i b).camPend = s.camPend ∧ (s.setFbit f i b).camPulse = s.camPulse ∧
    (s.setFbit f i b).fsync = s.fsync ∧ (s.setFbit f i b).pipes = s.pipes ∧ (s.setFbit f i b).icons = s.icons ∧
    (s.setFbit f i b).iconSyn = s.iconSyn ∧ (s.setFbit f i b).tells = s.tells ∧ (s.setFbit f i b).dboxes = s.dboxes ∧
    (s.setFbit f i b).notices = s.notices ∧ (s.setFbit f i b).overlayOff = s.overlayOff ∧ (s.setFbit f i b).full = s.full ∧
    (s.setFbit f i b).lacks = s.lacks ∧ (s.setFbit f i b).warm = s.warm ∧ (s.setFbit f i b).resetAt = s.resetAt ∧
    (s.setFbit f i b).seats = s.seats ∧ (s.setFbit f i b).pcie = s.pcie ∧ (s.setFbit f i b).canBad = s.canBad ∧
    (s.setFbit f i b).pxActive = s.pxActive ∧ (s.setFbit f i b).mainRead = s.mainRead ∧ (s.setFbit f i b).sectsDone = s.sectsDone ∧
    (s.setFbit f i b).esp = s.esp ∧ (s.setFbit f i b).inReset = s.inReset ∧ (s.setFbit f i b).xtalOff = s.xtalOff ∧
    (s.setFbit f i b).fbRef = s.fbRef ∧ (s.setFbit f i b).trimFirst = s.trimFirst ∧ (s.setFbit f i b).canTrim = s.canTrim ∧
    (s.setFbit f i b).started = s.started ∧ (s.setFbit f i b).fallow = s.fallow ∧ (s.setFbit f i b).railOut = s.railOut ∧
    (s.setFbit f i b).pocCuts = s.pocCuts ∧ (s.setFbit f i b).lcReq = s.lcReq ∧ (s.setFbit f i b).keyHash = s.keyHash ∧
    (s.setFbit f i b).keyFuse = s.keyFuse ∧ (s.setFbit f i b).svnFuse = s.svnFuse ∧ (s.setFbit f i b).gardTimer = s.gardTimer ∧
    (s.setFbit f i b).gard = s.gard ∧ (s.setFbit f i b).ticking = s.ticking ∧ (s.setFbit f i b).switching = s.switching ∧
    (s.setFbit f i b).edgeHeld = s.edgeHeld ∧ (s.setFbit f i b).rampAll = s.rampAll ∧ (s.setFbit f i b).plan = s.plan ∧
    (s.setFbit f i b).outs = s.outs ∧ (s.setFbit f i b).fresh = s.fresh ∧ (s.setFbit f i b).now = s.now ∧
    (s.setFbit f i b).oldRoutes = s.oldRoutes ∧
    (s.setFbit f i b).xspi = s.xspi ∧
    (s.setFbit f i b).selPlan = s.selPlan ∧
    (s.setFbit f i b).onXB = s.onXB ∧
    (s.setFbit f i b).hot = s.hot ∧
    (s.setFbit f i b).edgeAt = s.edgeAt ∧ (s.setFbit f i b).pending = s.pending := by
  and_intros <;> rfl

@[simp] theorem State.emit_fields (s : State) (o : Out) :
    (s.emit o).regs = s.regs ∧ (s.emit o).mem = s.mem ∧ (s.emit o).tmem = s.tmem ∧ (s.emit o).tEpoch = s.tEpoch ∧
    (s.emit o).tZero = s.tZero ∧ (s.emit o).tbad = s.tbad ∧ (s.emit o).syn = s.syn ∧ (s.emit o).dealers = s.dealers ∧
    (s.emit o).evAcc = s.evAcc ∧ (s.emit o).net = s.net ∧ (s.emit o).netOld = s.netOld ∧ (s.emit o).recorded = s.recorded ∧
    (s.emit o).rpt = s.rpt ∧ (s.emit o).mrow = s.mrow ∧ (s.emit o).hands = s.hands ∧ (s.emit o).handSyn = s.handSyn ∧
    (s.emit o).hstage = s.hstage ∧ (s.emit o).ctus = s.ctus ∧ (s.emit o).tags = s.tags ∧ (s.emit o).closing = s.closing ∧
    (s.emit o).raised = s.raised ∧ (s.emit o).ctlStage = s.ctlStage ∧ (s.emit o).eiPend = s.eiPend ∧ (s.emit o).locks = s.locks ∧
    (s.emit o).ledgerDirty = s.ledgerDirty ∧ (s.emit o).ntcLost = s.ntcLost ∧ (s.emit o).weedAt = s.weedAt ∧
    (s.emit o).weedDone = s.weedDone ∧ (s.emit o).coldRetry = s.coldRetry ∧ (s.emit o).scrubAt = s.scrubAt ∧
    (s.emit o).rsvRows = s.rsvRows ∧ (s.emit o).ctxs = s.ctxs ∧ (s.emit o).camPend = s.camPend ∧ (s.emit o).camPulse = s.camPulse ∧
    (s.emit o).fsync = s.fsync ∧ (s.emit o).pipes = s.pipes ∧ (s.emit o).icons = s.icons ∧ (s.emit o).iconSyn = s.iconSyn ∧
    (s.emit o).tells = s.tells ∧ (s.emit o).dboxes = s.dboxes ∧ (s.emit o).notices = s.notices ∧ (s.emit o).overlayOff = s.overlayOff ∧
    (s.emit o).full = s.full ∧ (s.emit o).lacks = s.lacks ∧ (s.emit o).warm = s.warm ∧ (s.emit o).resetAt = s.resetAt ∧
    (s.emit o).seats = s.seats ∧ (s.emit o).pcie = s.pcie ∧ (s.emit o).canBad = s.canBad ∧ (s.emit o).pxActive = s.pxActive ∧
    (s.emit o).mainRead = s.mainRead ∧ (s.emit o).sectsDone = s.sectsDone ∧ (s.emit o).esp = s.esp ∧ (s.emit o).inReset = s.inReset ∧
    (s.emit o).xtalOff = s.xtalOff ∧ (s.emit o).fbRef = s.fbRef ∧ (s.emit o).trimFirst = s.trimFirst ∧ (s.emit o).canTrim = s.canTrim ∧
    (s.emit o).started = s.started ∧ (s.emit o).fallow = s.fallow ∧ (s.emit o).railOut = s.railOut ∧ (s.emit o).pocCuts = s.pocCuts ∧
    (s.emit o).lcReq = s.lcReq ∧ (s.emit o).keyHash = s.keyHash ∧ (s.emit o).keyFuse = s.keyFuse ∧ (s.emit o).svnFuse = s.svnFuse ∧
    (s.emit o).gardTimer = s.gardTimer ∧ (s.emit o).gard = s.gard ∧ (s.emit o).ticking = s.ticking ∧ (s.emit o).switching = s.switching ∧
    (s.emit o).edgeHeld = s.edgeHeld ∧ (s.emit o).rampAll = s.rampAll ∧ (s.emit o).plan = s.plan ∧ (s.emit o).fresh = s.fresh ∧
    (s.emit o).now = s.now ∧ (s.emit o).oldRoutes = s.oldRoutes ∧
    (s.emit o).xspi = s.xspi ∧
    (s.emit o).selPlan = s.selPlan ∧
    (s.emit o).onXB = s.onXB ∧
    (s.emit o).hot = s.hot ∧
    (s.emit o).edgeAt = s.edgeAt ∧ (s.emit o).pending = s.pending := by
  and_intros <;> rfl

@[simp] theorem State.setDl_fields (s : State) (n : Dealer) (d : DealerCore) :
    (s.setDl n d).regs = s.regs ∧ (s.setDl n d).mem = s.mem ∧ (s.setDl n d).tmem = s.tmem ∧ (s.setDl n d).tEpoch = s.tEpoch ∧
    (s.setDl n d).tZero = s.tZero ∧ (s.setDl n d).tbad = s.tbad ∧ (s.setDl n d).syn = s.syn ∧ (s.setDl n d).evAcc = s.evAcc ∧
    (s.setDl n d).net = s.net ∧ (s.setDl n d).netOld = s.netOld ∧ (s.setDl n d).recorded = s.recorded ∧ (s.setDl n d).rpt = s.rpt ∧
    (s.setDl n d).mrow = s.mrow ∧ (s.setDl n d).hands = s.hands ∧ (s.setDl n d).handSyn = s.handSyn ∧ (s.setDl n d).hstage = s.hstage ∧
    (s.setDl n d).ctus = s.ctus ∧ (s.setDl n d).tags = s.tags ∧ (s.setDl n d).closing = s.closing ∧ (s.setDl n d).raised = s.raised ∧
    (s.setDl n d).ctlStage = s.ctlStage ∧ (s.setDl n d).eiPend = s.eiPend ∧ (s.setDl n d).locks = s.locks ∧
    (s.setDl n d).ledgerDirty = s.ledgerDirty ∧ (s.setDl n d).ntcLost = s.ntcLost ∧ (s.setDl n d).weedAt = s.weedAt ∧
    (s.setDl n d).weedDone = s.weedDone ∧ (s.setDl n d).coldRetry = s.coldRetry ∧ (s.setDl n d).scrubAt = s.scrubAt ∧
    (s.setDl n d).rsvRows = s.rsvRows ∧ (s.setDl n d).ctxs = s.ctxs ∧ (s.setDl n d).camPend = s.camPend ∧
    (s.setDl n d).camPulse = s.camPulse ∧ (s.setDl n d).fsync = s.fsync ∧ (s.setDl n d).pipes = s.pipes ∧ (s.setDl n d).icons = s.icons ∧
    (s.setDl n d).iconSyn = s.iconSyn ∧ (s.setDl n d).tells = s.tells ∧ (s.setDl n d).dboxes = s.dboxes ∧
    (s.setDl n d).notices = s.notices ∧ (s.setDl n d).overlayOff = s.overlayOff ∧ (s.setDl n d).full = s.full ∧
    (s.setDl n d).lacks = s.lacks ∧ (s.setDl n d).warm = s.warm ∧ (s.setDl n d).resetAt = s.resetAt ∧ (s.setDl n d).seats = s.seats ∧
    (s.setDl n d).pcie = s.pcie ∧ (s.setDl n d).canBad = s.canBad ∧ (s.setDl n d).pxActive = s.pxActive ∧
    (s.setDl n d).mainRead = s.mainRead ∧ (s.setDl n d).sectsDone = s.sectsDone ∧ (s.setDl n d).esp = s.esp ∧
    (s.setDl n d).inReset = s.inReset ∧ (s.setDl n d).xtalOff = s.xtalOff ∧ (s.setDl n d).fbRef = s.fbRef ∧
    (s.setDl n d).trimFirst = s.trimFirst ∧ (s.setDl n d).canTrim = s.canTrim ∧ (s.setDl n d).started = s.started ∧
    (s.setDl n d).fallow = s.fallow ∧ (s.setDl n d).railOut = s.railOut ∧ (s.setDl n d).pocCuts = s.pocCuts ∧
    (s.setDl n d).lcReq = s.lcReq ∧ (s.setDl n d).keyHash = s.keyHash ∧ (s.setDl n d).keyFuse = s.keyFuse ∧
    (s.setDl n d).svnFuse = s.svnFuse ∧ (s.setDl n d).gardTimer = s.gardTimer ∧ (s.setDl n d).gard = s.gard ∧
    (s.setDl n d).ticking = s.ticking ∧ (s.setDl n d).switching = s.switching ∧ (s.setDl n d).edgeHeld = s.edgeHeld ∧
    (s.setDl n d).rampAll = s.rampAll ∧ (s.setDl n d).plan = s.plan ∧ (s.setDl n d).outs = s.outs ∧ (s.setDl n d).fresh = s.fresh ∧
    (s.setDl n d).now = s.now ∧ (s.setDl n d).oldRoutes = s.oldRoutes ∧
    (s.setDl n d).xspi = s.xspi ∧
    (s.setDl n d).selPlan = s.selPlan ∧
    (s.setDl n d).onXB = s.onXB ∧
    (s.setDl n d).hot = s.hot ∧
    (s.setDl n d).edgeAt = s.edgeAt ∧ (s.setDl n d).pending = s.pending := by
  and_intros <;> rfl

@[simp] theorem State.setBankAt_fields (s : State) (n : Dealer) (k : Fin 8) (b : Bank) :
    (s.setBankAt n k b).regs = s.regs ∧ (s.setBankAt n k b).mem = s.mem ∧ (s.setBankAt n k b).tmem = s.tmem ∧
    (s.setBankAt n k b).tEpoch = s.tEpoch ∧ (s.setBankAt n k b).tZero = s.tZero ∧ (s.setBankAt n k b).tbad = s.tbad ∧
    (s.setBankAt n k b).syn = s.syn ∧ (s.setBankAt n k b).evAcc = s.evAcc ∧ (s.setBankAt n k b).net = s.net ∧
    (s.setBankAt n k b).netOld = s.netOld ∧ (s.setBankAt n k b).recorded = s.recorded ∧ (s.setBankAt n k b).rpt = s.rpt ∧
    (s.setBankAt n k b).mrow = s.mrow ∧ (s.setBankAt n k b).hands = s.hands ∧ (s.setBankAt n k b).handSyn = s.handSyn ∧
    (s.setBankAt n k b).hstage = s.hstage ∧ (s.setBankAt n k b).ctus = s.ctus ∧ (s.setBankAt n k b).tags = s.tags ∧
    (s.setBankAt n k b).closing = s.closing ∧ (s.setBankAt n k b).raised = s.raised ∧ (s.setBankAt n k b).ctlStage = s.ctlStage ∧
    (s.setBankAt n k b).eiPend = s.eiPend ∧ (s.setBankAt n k b).locks = s.locks ∧ (s.setBankAt n k b).ledgerDirty = s.ledgerDirty ∧
    (s.setBankAt n k b).ntcLost = s.ntcLost ∧ (s.setBankAt n k b).weedAt = s.weedAt ∧ (s.setBankAt n k b).weedDone = s.weedDone ∧
    (s.setBankAt n k b).coldRetry = s.coldRetry ∧ (s.setBankAt n k b).scrubAt = s.scrubAt ∧ (s.setBankAt n k b).rsvRows = s.rsvRows ∧
    (s.setBankAt n k b).ctxs = s.ctxs ∧ (s.setBankAt n k b).camPend = s.camPend ∧ (s.setBankAt n k b).camPulse = s.camPulse ∧
    (s.setBankAt n k b).fsync = s.fsync ∧ (s.setBankAt n k b).pipes = s.pipes ∧ (s.setBankAt n k b).icons = s.icons ∧
    (s.setBankAt n k b).iconSyn = s.iconSyn ∧ (s.setBankAt n k b).tells = s.tells ∧ (s.setBankAt n k b).dboxes = s.dboxes ∧
    (s.setBankAt n k b).notices = s.notices ∧ (s.setBankAt n k b).overlayOff = s.overlayOff ∧ (s.setBankAt n k b).full = s.full ∧
    (s.setBankAt n k b).lacks = s.lacks ∧ (s.setBankAt n k b).warm = s.warm ∧ (s.setBankAt n k b).resetAt = s.resetAt ∧
    (s.setBankAt n k b).seats = s.seats ∧ (s.setBankAt n k b).pcie = s.pcie ∧ (s.setBankAt n k b).canBad = s.canBad ∧
    (s.setBankAt n k b).pxActive = s.pxActive ∧ (s.setBankAt n k b).mainRead = s.mainRead ∧ (s.setBankAt n k b).sectsDone = s.sectsDone ∧
    (s.setBankAt n k b).esp = s.esp ∧ (s.setBankAt n k b).inReset = s.inReset ∧ (s.setBankAt n k b).xtalOff = s.xtalOff ∧
    (s.setBankAt n k b).fbRef = s.fbRef ∧ (s.setBankAt n k b).trimFirst = s.trimFirst ∧ (s.setBankAt n k b).canTrim = s.canTrim ∧
    (s.setBankAt n k b).started = s.started ∧ (s.setBankAt n k b).fallow = s.fallow ∧ (s.setBankAt n k b).railOut = s.railOut ∧
    (s.setBankAt n k b).pocCuts = s.pocCuts ∧ (s.setBankAt n k b).lcReq = s.lcReq ∧ (s.setBankAt n k b).keyHash = s.keyHash ∧
    (s.setBankAt n k b).keyFuse = s.keyFuse ∧ (s.setBankAt n k b).svnFuse = s.svnFuse ∧ (s.setBankAt n k b).gardTimer = s.gardTimer ∧
    (s.setBankAt n k b).gard = s.gard ∧ (s.setBankAt n k b).ticking = s.ticking ∧ (s.setBankAt n k b).switching = s.switching ∧
    (s.setBankAt n k b).edgeHeld = s.edgeHeld ∧ (s.setBankAt n k b).rampAll = s.rampAll ∧ (s.setBankAt n k b).plan = s.plan ∧
    (s.setBankAt n k b).outs = s.outs ∧ (s.setBankAt n k b).fresh = s.fresh ∧ (s.setBankAt n k b).now = s.now ∧
    (s.setBankAt n k b).oldRoutes = s.oldRoutes ∧
    (s.setBankAt n k b).xspi = s.xspi ∧
    (s.setBankAt n k b).selPlan = s.selPlan ∧
    (s.setBankAt n k b).onXB = s.onXB ∧
    (s.setBankAt n k b).hot = s.hot ∧
    (s.setBankAt n k b).edgeAt = s.edgeAt ∧ (s.setBankAt n k b).pending = s.pending := by
  and_intros <;> rfl

@[simp] theorem State.setBank_fields (s : State) (n : Dealer) (b : Bank) :
    (s.setBank n b).regs = s.regs ∧ (s.setBank n b).mem = s.mem ∧ (s.setBank n b).tmem = s.tmem ∧ (s.setBank n b).tEpoch = s.tEpoch ∧
    (s.setBank n b).tZero = s.tZero ∧ (s.setBank n b).tbad = s.tbad ∧ (s.setBank n b).syn = s.syn ∧ (s.setBank n b).evAcc = s.evAcc ∧
    (s.setBank n b).net = s.net ∧ (s.setBank n b).netOld = s.netOld ∧ (s.setBank n b).recorded = s.recorded ∧
    (s.setBank n b).rpt = s.rpt ∧ (s.setBank n b).mrow = s.mrow ∧ (s.setBank n b).hands = s.hands ∧ (s.setBank n b).handSyn = s.handSyn ∧
    (s.setBank n b).hstage = s.hstage ∧ (s.setBank n b).ctus = s.ctus ∧ (s.setBank n b).tags = s.tags ∧
    (s.setBank n b).closing = s.closing ∧ (s.setBank n b).raised = s.raised ∧ (s.setBank n b).ctlStage = s.ctlStage ∧
    (s.setBank n b).eiPend = s.eiPend ∧ (s.setBank n b).locks = s.locks ∧ (s.setBank n b).ledgerDirty = s.ledgerDirty ∧
    (s.setBank n b).ntcLost = s.ntcLost ∧ (s.setBank n b).weedAt = s.weedAt ∧ (s.setBank n b).weedDone = s.weedDone ∧
    (s.setBank n b).coldRetry = s.coldRetry ∧ (s.setBank n b).scrubAt = s.scrubAt ∧ (s.setBank n b).rsvRows = s.rsvRows ∧
    (s.setBank n b).ctxs = s.ctxs ∧ (s.setBank n b).camPend = s.camPend ∧ (s.setBank n b).camPulse = s.camPulse ∧
    (s.setBank n b).fsync = s.fsync ∧ (s.setBank n b).pipes = s.pipes ∧ (s.setBank n b).icons = s.icons ∧
    (s.setBank n b).iconSyn = s.iconSyn ∧ (s.setBank n b).tells = s.tells ∧ (s.setBank n b).dboxes = s.dboxes ∧
    (s.setBank n b).notices = s.notices ∧ (s.setBank n b).overlayOff = s.overlayOff ∧ (s.setBank n b).full = s.full ∧
    (s.setBank n b).lacks = s.lacks ∧ (s.setBank n b).warm = s.warm ∧ (s.setBank n b).resetAt = s.resetAt ∧
    (s.setBank n b).seats = s.seats ∧ (s.setBank n b).pcie = s.pcie ∧ (s.setBank n b).canBad = s.canBad ∧
    (s.setBank n b).pxActive = s.pxActive ∧ (s.setBank n b).mainRead = s.mainRead ∧ (s.setBank n b).sectsDone = s.sectsDone ∧
    (s.setBank n b).esp = s.esp ∧ (s.setBank n b).inReset = s.inReset ∧ (s.setBank n b).xtalOff = s.xtalOff ∧
    (s.setBank n b).fbRef = s.fbRef ∧ (s.setBank n b).trimFirst = s.trimFirst ∧ (s.setBank n b).canTrim = s.canTrim ∧
    (s.setBank n b).started = s.started ∧ (s.setBank n b).fallow = s.fallow ∧ (s.setBank n b).railOut = s.railOut ∧
    (s.setBank n b).pocCuts = s.pocCuts ∧ (s.setBank n b).lcReq = s.lcReq ∧ (s.setBank n b).keyHash = s.keyHash ∧
    (s.setBank n b).keyFuse = s.keyFuse ∧ (s.setBank n b).svnFuse = s.svnFuse ∧ (s.setBank n b).gardTimer = s.gardTimer ∧
    (s.setBank n b).gard = s.gard ∧ (s.setBank n b).ticking = s.ticking ∧ (s.setBank n b).switching = s.switching ∧
    (s.setBank n b).edgeHeld = s.edgeHeld ∧ (s.setBank n b).rampAll = s.rampAll ∧ (s.setBank n b).plan = s.plan ∧
    (s.setBank n b).outs = s.outs ∧ (s.setBank n b).fresh = s.fresh ∧ (s.setBank n b).now = s.now ∧ (s.setBank n b).oldRoutes = s.oldRoutes ∧
    (s.setBank n b).xspi = s.xspi ∧
    (s.setBank n b).selPlan = s.selPlan ∧
    (s.setBank n b).onXB = s.onXB ∧
    (s.setBank n b).hot = s.hot ∧
    (s.setBank n b).edgeAt = s.edgeAt ∧
    (s.setBank n b).pending = s.pending := by
  and_intros <;> rfl

@[simp] theorem State.charge_fields (s : State) (n : Dealer) (k : Nat) :
    (s.charge n k).regs = s.regs ∧ (s.charge n k).mem = s.mem ∧ (s.charge n k).tmem = s.tmem ∧ (s.charge n k).tEpoch = s.tEpoch ∧
    (s.charge n k).tZero = s.tZero ∧ (s.charge n k).tbad = s.tbad ∧ (s.charge n k).syn = s.syn ∧ (s.charge n k).evAcc = s.evAcc ∧
    (s.charge n k).net = s.net ∧ (s.charge n k).netOld = s.netOld ∧ (s.charge n k).recorded = s.recorded ∧ (s.charge n k).rpt = s.rpt ∧
    (s.charge n k).mrow = s.mrow ∧ (s.charge n k).hands = s.hands ∧ (s.charge n k).handSyn = s.handSyn ∧
    (s.charge n k).hstage = s.hstage ∧ (s.charge n k).ctus = s.ctus ∧ (s.charge n k).tags = s.tags ∧ (s.charge n k).closing = s.closing ∧
    (s.charge n k).raised = s.raised ∧ (s.charge n k).ctlStage = s.ctlStage ∧ (s.charge n k).eiPend = s.eiPend ∧
    (s.charge n k).locks = s.locks ∧ (s.charge n k).ledgerDirty = s.ledgerDirty ∧ (s.charge n k).ntcLost = s.ntcLost ∧
    (s.charge n k).weedAt = s.weedAt ∧ (s.charge n k).weedDone = s.weedDone ∧ (s.charge n k).coldRetry = s.coldRetry ∧
    (s.charge n k).scrubAt = s.scrubAt ∧ (s.charge n k).rsvRows = s.rsvRows ∧ (s.charge n k).ctxs = s.ctxs ∧
    (s.charge n k).camPend = s.camPend ∧ (s.charge n k).camPulse = s.camPulse ∧ (s.charge n k).fsync = s.fsync ∧
    (s.charge n k).pipes = s.pipes ∧ (s.charge n k).icons = s.icons ∧ (s.charge n k).iconSyn = s.iconSyn ∧
    (s.charge n k).tells = s.tells ∧ (s.charge n k).dboxes = s.dboxes ∧ (s.charge n k).notices = s.notices ∧
    (s.charge n k).overlayOff = s.overlayOff ∧ (s.charge n k).full = s.full ∧ (s.charge n k).lacks = s.lacks ∧
    (s.charge n k).warm = s.warm ∧ (s.charge n k).resetAt = s.resetAt ∧ (s.charge n k).seats = s.seats ∧ (s.charge n k).pcie = s.pcie ∧
    (s.charge n k).canBad = s.canBad ∧ (s.charge n k).pxActive = s.pxActive ∧ (s.charge n k).mainRead = s.mainRead ∧
    (s.charge n k).sectsDone = s.sectsDone ∧ (s.charge n k).esp = s.esp ∧ (s.charge n k).inReset = s.inReset ∧
    (s.charge n k).xtalOff = s.xtalOff ∧ (s.charge n k).fbRef = s.fbRef ∧ (s.charge n k).trimFirst = s.trimFirst ∧
    (s.charge n k).canTrim = s.canTrim ∧ (s.charge n k).started = s.started ∧ (s.charge n k).fallow = s.fallow ∧
    (s.charge n k).railOut = s.railOut ∧ (s.charge n k).pocCuts = s.pocCuts ∧ (s.charge n k).lcReq = s.lcReq ∧
    (s.charge n k).keyHash = s.keyHash ∧ (s.charge n k).keyFuse = s.keyFuse ∧ (s.charge n k).svnFuse = s.svnFuse ∧
    (s.charge n k).gardTimer = s.gardTimer ∧ (s.charge n k).gard = s.gard ∧ (s.charge n k).ticking = s.ticking ∧
    (s.charge n k).switching = s.switching ∧ (s.charge n k).edgeHeld = s.edgeHeld ∧ (s.charge n k).rampAll = s.rampAll ∧
    (s.charge n k).plan = s.plan ∧ (s.charge n k).outs = s.outs ∧ (s.charge n k).fresh = s.fresh ∧ (s.charge n k).now = s.now ∧
    (s.charge n k).oldRoutes = s.oldRoutes ∧
    (s.charge n k).xspi = s.xspi ∧
    (s.charge n k).selPlan = s.selPlan ∧
    (s.charge n k).onXB = s.onXB ∧
    (s.charge n k).hot = s.hot ∧
    (s.charge n k).edgeAt = s.edgeAt ∧ (s.charge n k).pending = s.pending := by
  and_intros <;> rfl

@[simp] theorem State.report_fields (s : State) (r : Report) :
    (s.report r).regs = s.regs ∧ (s.report r).mem = s.mem ∧ (s.report r).tmem = s.tmem ∧ (s.report r).tEpoch = s.tEpoch ∧
    (s.report r).tZero = s.tZero ∧ (s.report r).tbad = s.tbad ∧ (s.report r).syn = s.syn ∧ (s.report r).dealers = s.dealers ∧
    (s.report r).evAcc = s.evAcc ∧ (s.report r).net = s.net ∧ (s.report r).netOld = s.netOld ∧ (s.report r).recorded = s.recorded ∧
    (s.report r).mrow = s.mrow ∧ (s.report r).hands = s.hands ∧ (s.report r).handSyn = s.handSyn ∧ (s.report r).hstage = s.hstage ∧
    (s.report r).ctus = s.ctus ∧ (s.report r).tags = s.tags ∧ (s.report r).closing = s.closing ∧ (s.report r).raised = s.raised ∧
    (s.report r).ctlStage = s.ctlStage ∧ (s.report r).eiPend = s.eiPend ∧ (s.report r).locks = s.locks ∧
    (s.report r).ledgerDirty = s.ledgerDirty ∧ (s.report r).ntcLost = s.ntcLost ∧ (s.report r).weedAt = s.weedAt ∧
    (s.report r).weedDone = s.weedDone ∧ (s.report r).coldRetry = s.coldRetry ∧ (s.report r).scrubAt = s.scrubAt ∧
    (s.report r).rsvRows = s.rsvRows ∧ (s.report r).ctxs = s.ctxs ∧ (s.report r).camPend = s.camPend ∧
    (s.report r).camPulse = s.camPulse ∧ (s.report r).fsync = s.fsync ∧ (s.report r).pipes = s.pipes ∧ (s.report r).icons = s.icons ∧
    (s.report r).iconSyn = s.iconSyn ∧ (s.report r).tells = s.tells ∧ (s.report r).dboxes = s.dboxes ∧ (s.report r).notices = s.notices ∧
    (s.report r).overlayOff = s.overlayOff ∧ (s.report r).full = s.full ∧ (s.report r).lacks = s.lacks ∧ (s.report r).warm = s.warm ∧
    (s.report r).resetAt = s.resetAt ∧ (s.report r).seats = s.seats ∧ (s.report r).pcie = s.pcie ∧ (s.report r).canBad = s.canBad ∧
    (s.report r).pxActive = s.pxActive ∧ (s.report r).mainRead = s.mainRead ∧ (s.report r).sectsDone = s.sectsDone ∧
    (s.report r).esp = s.esp ∧ (s.report r).inReset = s.inReset ∧ (s.report r).xtalOff = s.xtalOff ∧ (s.report r).fbRef = s.fbRef ∧
    (s.report r).trimFirst = s.trimFirst ∧ (s.report r).canTrim = s.canTrim ∧ (s.report r).started = s.started ∧
    (s.report r).fallow = s.fallow ∧ (s.report r).railOut = s.railOut ∧ (s.report r).pocCuts = s.pocCuts ∧ (s.report r).lcReq = s.lcReq ∧
    (s.report r).keyHash = s.keyHash ∧ (s.report r).keyFuse = s.keyFuse ∧ (s.report r).svnFuse = s.svnFuse ∧
    (s.report r).gardTimer = s.gardTimer ∧ (s.report r).gard = s.gard ∧ (s.report r).ticking = s.ticking ∧
    (s.report r).switching = s.switching ∧ (s.report r).edgeHeld = s.edgeHeld ∧ (s.report r).rampAll = s.rampAll ∧
    (s.report r).plan = s.plan ∧ (s.report r).outs = s.outs ∧ (s.report r).fresh = s.fresh ∧ (s.report r).now = s.now ∧
    (s.report r).oldRoutes = s.oldRoutes ∧
    (s.report r).xspi = s.xspi ∧
    (s.report r).selPlan = s.selPlan ∧
    (s.report r).onXB = s.onXB ∧
    (s.report r).hot = s.hot ∧
    (s.report r).edgeAt = s.edgeAt ∧ (s.report r).pending = s.pending := by
  and_intros <;> rfl

@[simp] theorem State.setByte_fields (s : State) (a : Nat) (b : Byte) :
    (s.setByte a b).regs = s.regs ∧ (s.setByte a b).tmem = s.tmem ∧ (s.setByte a b).tEpoch = s.tEpoch ∧ (s.setByte a b).tZero = s.tZero ∧
    (s.setByte a b).tbad = s.tbad ∧ (s.setByte a b).syn = s.syn ∧ (s.setByte a b).dealers = s.dealers ∧ (s.setByte a b).evAcc = s.evAcc ∧
    (s.setByte a b).net = s.net ∧ (s.setByte a b).netOld = s.netOld ∧ (s.setByte a b).recorded = s.recorded ∧
    (s.setByte a b).rpt = s.rpt ∧ (s.setByte a b).mrow = s.mrow ∧ (s.setByte a b).hands = s.hands ∧ (s.setByte a b).handSyn = s.handSyn ∧
    (s.setByte a b).hstage = s.hstage ∧ (s.setByte a b).ctus = s.ctus ∧ (s.setByte a b).tags = s.tags ∧
    (s.setByte a b).closing = s.closing ∧ (s.setByte a b).raised = s.raised ∧ (s.setByte a b).ctlStage = s.ctlStage ∧
    (s.setByte a b).eiPend = s.eiPend ∧ (s.setByte a b).locks = s.locks ∧ (s.setByte a b).ledgerDirty = s.ledgerDirty ∧
    (s.setByte a b).ntcLost = s.ntcLost ∧ (s.setByte a b).weedAt = s.weedAt ∧ (s.setByte a b).weedDone = s.weedDone ∧
    (s.setByte a b).coldRetry = s.coldRetry ∧ (s.setByte a b).scrubAt = s.scrubAt ∧ (s.setByte a b).rsvRows = s.rsvRows ∧
    (s.setByte a b).ctxs = s.ctxs ∧ (s.setByte a b).camPend = s.camPend ∧ (s.setByte a b).camPulse = s.camPulse ∧
    (s.setByte a b).fsync = s.fsync ∧ (s.setByte a b).pipes = s.pipes ∧ (s.setByte a b).icons = s.icons ∧
    (s.setByte a b).iconSyn = s.iconSyn ∧ (s.setByte a b).tells = s.tells ∧ (s.setByte a b).dboxes = s.dboxes ∧
    (s.setByte a b).notices = s.notices ∧ (s.setByte a b).overlayOff = s.overlayOff ∧ (s.setByte a b).full = s.full ∧
    (s.setByte a b).lacks = s.lacks ∧ (s.setByte a b).warm = s.warm ∧ (s.setByte a b).resetAt = s.resetAt ∧
    (s.setByte a b).seats = s.seats ∧ (s.setByte a b).pcie = s.pcie ∧ (s.setByte a b).canBad = s.canBad ∧
    (s.setByte a b).pxActive = s.pxActive ∧ (s.setByte a b).mainRead = s.mainRead ∧ (s.setByte a b).sectsDone = s.sectsDone ∧
    (s.setByte a b).esp = s.esp ∧ (s.setByte a b).inReset = s.inReset ∧ (s.setByte a b).xtalOff = s.xtalOff ∧
    (s.setByte a b).fbRef = s.fbRef ∧ (s.setByte a b).trimFirst = s.trimFirst ∧ (s.setByte a b).canTrim = s.canTrim ∧
    (s.setByte a b).started = s.started ∧ (s.setByte a b).fallow = s.fallow ∧ (s.setByte a b).railOut = s.railOut ∧
    (s.setByte a b).pocCuts = s.pocCuts ∧ (s.setByte a b).lcReq = s.lcReq ∧ (s.setByte a b).keyHash = s.keyHash ∧
    (s.setByte a b).keyFuse = s.keyFuse ∧ (s.setByte a b).svnFuse = s.svnFuse ∧ (s.setByte a b).gardTimer = s.gardTimer ∧
    (s.setByte a b).gard = s.gard ∧ (s.setByte a b).ticking = s.ticking ∧ (s.setByte a b).switching = s.switching ∧
    (s.setByte a b).edgeHeld = s.edgeHeld ∧ (s.setByte a b).rampAll = s.rampAll ∧ (s.setByte a b).plan = s.plan ∧
    (s.setByte a b).outs = s.outs ∧ (s.setByte a b).fresh = s.fresh ∧ (s.setByte a b).now = s.now ∧ (s.setByte a b).oldRoutes = s.oldRoutes ∧
    (s.setByte a b).xspi = s.xspi ∧
    (s.setByte a b).selPlan = s.selPlan ∧
    (s.setByte a b).onXB = s.onXB ∧
    (s.setByte a b).hot = s.hot ∧
    (s.setByte a b).edgeAt = s.edgeAt ∧
    (s.setByte a b).pending = s.pending := by
  and_intros <;> rfl

@[simp] theorem State.setSyn_fields (s : State) (k : Nat) (v : BitVec 16) :
    (s.setSyn k v).regs = s.regs ∧ (s.setSyn k v).mem = s.mem ∧ (s.setSyn k v).tmem = s.tmem ∧ (s.setSyn k v).tEpoch = s.tEpoch ∧
    (s.setSyn k v).tZero = s.tZero ∧ (s.setSyn k v).tbad = s.tbad ∧ (s.setSyn k v).dealers = s.dealers ∧ (s.setSyn k v).evAcc = s.evAcc ∧
    (s.setSyn k v).net = s.net ∧ (s.setSyn k v).netOld = s.netOld ∧ (s.setSyn k v).recorded = s.recorded ∧ (s.setSyn k v).rpt = s.rpt ∧
    (s.setSyn k v).mrow = s.mrow ∧ (s.setSyn k v).hands = s.hands ∧ (s.setSyn k v).handSyn = s.handSyn ∧
    (s.setSyn k v).hstage = s.hstage ∧ (s.setSyn k v).ctus = s.ctus ∧ (s.setSyn k v).tags = s.tags ∧ (s.setSyn k v).closing = s.closing ∧
    (s.setSyn k v).raised = s.raised ∧ (s.setSyn k v).ctlStage = s.ctlStage ∧ (s.setSyn k v).eiPend = s.eiPend ∧
    (s.setSyn k v).locks = s.locks ∧ (s.setSyn k v).ledgerDirty = s.ledgerDirty ∧ (s.setSyn k v).ntcLost = s.ntcLost ∧
    (s.setSyn k v).weedAt = s.weedAt ∧ (s.setSyn k v).weedDone = s.weedDone ∧ (s.setSyn k v).coldRetry = s.coldRetry ∧
    (s.setSyn k v).scrubAt = s.scrubAt ∧ (s.setSyn k v).rsvRows = s.rsvRows ∧ (s.setSyn k v).ctxs = s.ctxs ∧
    (s.setSyn k v).camPend = s.camPend ∧ (s.setSyn k v).camPulse = s.camPulse ∧ (s.setSyn k v).fsync = s.fsync ∧
    (s.setSyn k v).pipes = s.pipes ∧ (s.setSyn k v).icons = s.icons ∧ (s.setSyn k v).iconSyn = s.iconSyn ∧
    (s.setSyn k v).tells = s.tells ∧ (s.setSyn k v).dboxes = s.dboxes ∧ (s.setSyn k v).notices = s.notices ∧
    (s.setSyn k v).overlayOff = s.overlayOff ∧ (s.setSyn k v).full = s.full ∧ (s.setSyn k v).lacks = s.lacks ∧
    (s.setSyn k v).warm = s.warm ∧ (s.setSyn k v).resetAt = s.resetAt ∧ (s.setSyn k v).seats = s.seats ∧ (s.setSyn k v).pcie = s.pcie ∧
    (s.setSyn k v).canBad = s.canBad ∧ (s.setSyn k v).pxActive = s.pxActive ∧ (s.setSyn k v).mainRead = s.mainRead ∧
    (s.setSyn k v).sectsDone = s.sectsDone ∧ (s.setSyn k v).esp = s.esp ∧ (s.setSyn k v).inReset = s.inReset ∧
    (s.setSyn k v).xtalOff = s.xtalOff ∧ (s.setSyn k v).fbRef = s.fbRef ∧ (s.setSyn k v).trimFirst = s.trimFirst ∧
    (s.setSyn k v).canTrim = s.canTrim ∧ (s.setSyn k v).started = s.started ∧ (s.setSyn k v).fallow = s.fallow ∧
    (s.setSyn k v).railOut = s.railOut ∧ (s.setSyn k v).pocCuts = s.pocCuts ∧ (s.setSyn k v).lcReq = s.lcReq ∧
    (s.setSyn k v).keyHash = s.keyHash ∧ (s.setSyn k v).keyFuse = s.keyFuse ∧ (s.setSyn k v).svnFuse = s.svnFuse ∧
    (s.setSyn k v).gardTimer = s.gardTimer ∧ (s.setSyn k v).gard = s.gard ∧ (s.setSyn k v).ticking = s.ticking ∧
    (s.setSyn k v).switching = s.switching ∧ (s.setSyn k v).edgeHeld = s.edgeHeld ∧ (s.setSyn k v).rampAll = s.rampAll ∧
    (s.setSyn k v).plan = s.plan ∧ (s.setSyn k v).outs = s.outs ∧ (s.setSyn k v).fresh = s.fresh ∧ (s.setSyn k v).now = s.now ∧
    (s.setSyn k v).oldRoutes = s.oldRoutes ∧
    (s.setSyn k v).xspi = s.xspi ∧
    (s.setSyn k v).selPlan = s.selPlan ∧
    (s.setSyn k v).onXB = s.onXB ∧
    (s.setSyn k v).hot = s.hot ∧
    (s.setSyn k v).edgeAt = s.edgeAt ∧ (s.setSyn k v).pending = s.pending := by
  and_intros <;> rfl

@[simp] theorem State.setSeat_fields (s : State) (k : Nat) (r : SeatRec) :
    (s.setSeat k r).regs = s.regs ∧ (s.setSeat k r).mem = s.mem ∧ (s.setSeat k r).tmem = s.tmem ∧ (s.setSeat k r).tEpoch = s.tEpoch ∧
    (s.setSeat k r).tZero = s.tZero ∧ (s.setSeat k r).tbad = s.tbad ∧ (s.setSeat k r).syn = s.syn ∧ (s.setSeat k r).dealers = s.dealers ∧
    (s.setSeat k r).evAcc = s.evAcc ∧ (s.setSeat k r).net = s.net ∧ (s.setSeat k r).netOld = s.netOld ∧
    (s.setSeat k r).recorded = s.recorded ∧ (s.setSeat k r).rpt = s.rpt ∧ (s.setSeat k r).mrow = s.mrow ∧
    (s.setSeat k r).hands = s.hands ∧ (s.setSeat k r).handSyn = s.handSyn ∧ (s.setSeat k r).hstage = s.hstage ∧
    (s.setSeat k r).ctus = s.ctus ∧ (s.setSeat k r).tags = s.tags ∧ (s.setSeat k r).closing = s.closing ∧
    (s.setSeat k r).raised = s.raised ∧ (s.setSeat k r).ctlStage = s.ctlStage ∧ (s.setSeat k r).eiPend = s.eiPend ∧
    (s.setSeat k r).locks = s.locks ∧ (s.setSeat k r).ledgerDirty = s.ledgerDirty ∧ (s.setSeat k r).ntcLost = s.ntcLost ∧
    (s.setSeat k r).weedAt = s.weedAt ∧ (s.setSeat k r).weedDone = s.weedDone ∧ (s.setSeat k r).coldRetry = s.coldRetry ∧
    (s.setSeat k r).scrubAt = s.scrubAt ∧ (s.setSeat k r).rsvRows = s.rsvRows ∧ (s.setSeat k r).ctxs = s.ctxs ∧
    (s.setSeat k r).camPend = s.camPend ∧ (s.setSeat k r).camPulse = s.camPulse ∧ (s.setSeat k r).fsync = s.fsync ∧
    (s.setSeat k r).pipes = s.pipes ∧ (s.setSeat k r).icons = s.icons ∧ (s.setSeat k r).iconSyn = s.iconSyn ∧
    (s.setSeat k r).tells = s.tells ∧ (s.setSeat k r).dboxes = s.dboxes ∧ (s.setSeat k r).notices = s.notices ∧
    (s.setSeat k r).overlayOff = s.overlayOff ∧ (s.setSeat k r).full = s.full ∧ (s.setSeat k r).lacks = s.lacks ∧
    (s.setSeat k r).warm = s.warm ∧ (s.setSeat k r).resetAt = s.resetAt ∧ (s.setSeat k r).pcie = s.pcie ∧
    (s.setSeat k r).canBad = s.canBad ∧ (s.setSeat k r).pxActive = s.pxActive ∧ (s.setSeat k r).mainRead = s.mainRead ∧
    (s.setSeat k r).sectsDone = s.sectsDone ∧ (s.setSeat k r).esp = s.esp ∧ (s.setSeat k r).inReset = s.inReset ∧
    (s.setSeat k r).xtalOff = s.xtalOff ∧ (s.setSeat k r).fbRef = s.fbRef ∧ (s.setSeat k r).trimFirst = s.trimFirst ∧
    (s.setSeat k r).canTrim = s.canTrim ∧ (s.setSeat k r).started = s.started ∧ (s.setSeat k r).fallow = s.fallow ∧
    (s.setSeat k r).railOut = s.railOut ∧ (s.setSeat k r).pocCuts = s.pocCuts ∧ (s.setSeat k r).lcReq = s.lcReq ∧
    (s.setSeat k r).keyHash = s.keyHash ∧ (s.setSeat k r).keyFuse = s.keyFuse ∧ (s.setSeat k r).svnFuse = s.svnFuse ∧
    (s.setSeat k r).gardTimer = s.gardTimer ∧ (s.setSeat k r).gard = s.gard ∧ (s.setSeat k r).ticking = s.ticking ∧
    (s.setSeat k r).switching = s.switching ∧ (s.setSeat k r).edgeHeld = s.edgeHeld ∧ (s.setSeat k r).rampAll = s.rampAll ∧
    (s.setSeat k r).plan = s.plan ∧ (s.setSeat k r).outs = s.outs ∧ (s.setSeat k r).fresh = s.fresh ∧ (s.setSeat k r).now = s.now ∧
    (s.setSeat k r).oldRoutes = s.oldRoutes ∧
    (s.setSeat k r).xspi = s.xspi ∧
    (s.setSeat k r).selPlan = s.selPlan ∧
    (s.setSeat k r).onXB = s.onXB ∧
    (s.setSeat k r).hot = s.hot ∧
    (s.setSeat k r).edgeAt = s.edgeAt ∧ (s.setSeat k r).pending = s.pending := by
  and_intros <;> rfl

@[simp] theorem State.setPipe_fields (s : State) (p : Nat) (r : PipeRec) :
    (s.setPipe p r).regs = s.regs ∧ (s.setPipe p r).mem = s.mem ∧ (s.setPipe p r).tmem = s.tmem ∧ (s.setPipe p r).tEpoch = s.tEpoch ∧
    (s.setPipe p r).tZero = s.tZero ∧ (s.setPipe p r).tbad = s.tbad ∧ (s.setPipe p r).syn = s.syn ∧ (s.setPipe p r).dealers = s.dealers ∧
    (s.setPipe p r).evAcc = s.evAcc ∧ (s.setPipe p r).net = s.net ∧ (s.setPipe p r).netOld = s.netOld ∧
    (s.setPipe p r).recorded = s.recorded ∧ (s.setPipe p r).rpt = s.rpt ∧ (s.setPipe p r).mrow = s.mrow ∧
    (s.setPipe p r).hands = s.hands ∧ (s.setPipe p r).handSyn = s.handSyn ∧ (s.setPipe p r).hstage = s.hstage ∧
    (s.setPipe p r).ctus = s.ctus ∧ (s.setPipe p r).tags = s.tags ∧ (s.setPipe p r).closing = s.closing ∧
    (s.setPipe p r).raised = s.raised ∧ (s.setPipe p r).ctlStage = s.ctlStage ∧ (s.setPipe p r).eiPend = s.eiPend ∧
    (s.setPipe p r).locks = s.locks ∧ (s.setPipe p r).ledgerDirty = s.ledgerDirty ∧ (s.setPipe p r).ntcLost = s.ntcLost ∧
    (s.setPipe p r).weedAt = s.weedAt ∧ (s.setPipe p r).weedDone = s.weedDone ∧ (s.setPipe p r).coldRetry = s.coldRetry ∧
    (s.setPipe p r).scrubAt = s.scrubAt ∧ (s.setPipe p r).rsvRows = s.rsvRows ∧ (s.setPipe p r).ctxs = s.ctxs ∧
    (s.setPipe p r).camPend = s.camPend ∧ (s.setPipe p r).camPulse = s.camPulse ∧ (s.setPipe p r).fsync = s.fsync ∧
    (s.setPipe p r).icons = s.icons ∧ (s.setPipe p r).iconSyn = s.iconSyn ∧ (s.setPipe p r).tells = s.tells ∧
    (s.setPipe p r).dboxes = s.dboxes ∧ (s.setPipe p r).notices = s.notices ∧ (s.setPipe p r).overlayOff = s.overlayOff ∧
    (s.setPipe p r).full = s.full ∧ (s.setPipe p r).lacks = s.lacks ∧ (s.setPipe p r).warm = s.warm ∧
    (s.setPipe p r).resetAt = s.resetAt ∧ (s.setPipe p r).seats = s.seats ∧ (s.setPipe p r).pcie = s.pcie ∧
    (s.setPipe p r).canBad = s.canBad ∧ (s.setPipe p r).pxActive = s.pxActive ∧ (s.setPipe p r).mainRead = s.mainRead ∧
    (s.setPipe p r).sectsDone = s.sectsDone ∧ (s.setPipe p r).esp = s.esp ∧ (s.setPipe p r).inReset = s.inReset ∧
    (s.setPipe p r).xtalOff = s.xtalOff ∧ (s.setPipe p r).fbRef = s.fbRef ∧ (s.setPipe p r).trimFirst = s.trimFirst ∧
    (s.setPipe p r).canTrim = s.canTrim ∧ (s.setPipe p r).started = s.started ∧ (s.setPipe p r).fallow = s.fallow ∧
    (s.setPipe p r).railOut = s.railOut ∧ (s.setPipe p r).pocCuts = s.pocCuts ∧ (s.setPipe p r).lcReq = s.lcReq ∧
    (s.setPipe p r).keyHash = s.keyHash ∧ (s.setPipe p r).keyFuse = s.keyFuse ∧ (s.setPipe p r).svnFuse = s.svnFuse ∧
    (s.setPipe p r).gardTimer = s.gardTimer ∧ (s.setPipe p r).gard = s.gard ∧ (s.setPipe p r).ticking = s.ticking ∧
    (s.setPipe p r).switching = s.switching ∧ (s.setPipe p r).edgeHeld = s.edgeHeld ∧ (s.setPipe p r).rampAll = s.rampAll ∧
    (s.setPipe p r).plan = s.plan ∧ (s.setPipe p r).outs = s.outs ∧ (s.setPipe p r).fresh = s.fresh ∧ (s.setPipe p r).now = s.now ∧
    (s.setPipe p r).oldRoutes = s.oldRoutes ∧
    (s.setPipe p r).xspi = s.xspi ∧
    (s.setPipe p r).selPlan = s.selPlan ∧
    (s.setPipe p r).onXB = s.onXB ∧
    (s.setPipe p r).hot = s.hot ∧
    (s.setPipe p r).edgeAt = s.edgeAt ∧ (s.setPipe p r).pending = s.pending := by
  and_intros <;> rfl

@[simp] theorem State.setCtx_fields (s : State) (c i : Nat) (r : CtxRec) :
    (s.setCtx c i r).regs = s.regs ∧ (s.setCtx c i r).mem = s.mem ∧ (s.setCtx c i r).tmem = s.tmem ∧ (s.setCtx c i r).tEpoch = s.tEpoch ∧
    (s.setCtx c i r).tZero = s.tZero ∧ (s.setCtx c i r).tbad = s.tbad ∧ (s.setCtx c i r).syn = s.syn ∧
    (s.setCtx c i r).dealers = s.dealers ∧ (s.setCtx c i r).evAcc = s.evAcc ∧ (s.setCtx c i r).net = s.net ∧
    (s.setCtx c i r).netOld = s.netOld ∧ (s.setCtx c i r).recorded = s.recorded ∧ (s.setCtx c i r).rpt = s.rpt ∧
    (s.setCtx c i r).mrow = s.mrow ∧ (s.setCtx c i r).hands = s.hands ∧ (s.setCtx c i r).handSyn = s.handSyn ∧
    (s.setCtx c i r).hstage = s.hstage ∧ (s.setCtx c i r).ctus = s.ctus ∧ (s.setCtx c i r).tags = s.tags ∧
    (s.setCtx c i r).closing = s.closing ∧ (s.setCtx c i r).raised = s.raised ∧ (s.setCtx c i r).ctlStage = s.ctlStage ∧
    (s.setCtx c i r).eiPend = s.eiPend ∧ (s.setCtx c i r).locks = s.locks ∧ (s.setCtx c i r).ledgerDirty = s.ledgerDirty ∧
    (s.setCtx c i r).ntcLost = s.ntcLost ∧ (s.setCtx c i r).weedAt = s.weedAt ∧ (s.setCtx c i r).weedDone = s.weedDone ∧
    (s.setCtx c i r).coldRetry = s.coldRetry ∧ (s.setCtx c i r).scrubAt = s.scrubAt ∧ (s.setCtx c i r).rsvRows = s.rsvRows ∧
    (s.setCtx c i r).camPend = s.camPend ∧ (s.setCtx c i r).camPulse = s.camPulse ∧ (s.setCtx c i r).fsync = s.fsync ∧
    (s.setCtx c i r).pipes = s.pipes ∧ (s.setCtx c i r).icons = s.icons ∧ (s.setCtx c i r).iconSyn = s.iconSyn ∧
    (s.setCtx c i r).tells = s.tells ∧ (s.setCtx c i r).dboxes = s.dboxes ∧ (s.setCtx c i r).notices = s.notices ∧
    (s.setCtx c i r).overlayOff = s.overlayOff ∧ (s.setCtx c i r).full = s.full ∧ (s.setCtx c i r).lacks = s.lacks ∧
    (s.setCtx c i r).warm = s.warm ∧ (s.setCtx c i r).resetAt = s.resetAt ∧ (s.setCtx c i r).seats = s.seats ∧
    (s.setCtx c i r).pcie = s.pcie ∧ (s.setCtx c i r).canBad = s.canBad ∧ (s.setCtx c i r).pxActive = s.pxActive ∧
    (s.setCtx c i r).mainRead = s.mainRead ∧ (s.setCtx c i r).sectsDone = s.sectsDone ∧ (s.setCtx c i r).esp = s.esp ∧
    (s.setCtx c i r).inReset = s.inReset ∧ (s.setCtx c i r).xtalOff = s.xtalOff ∧ (s.setCtx c i r).fbRef = s.fbRef ∧
    (s.setCtx c i r).trimFirst = s.trimFirst ∧ (s.setCtx c i r).canTrim = s.canTrim ∧ (s.setCtx c i r).started = s.started ∧
    (s.setCtx c i r).fallow = s.fallow ∧ (s.setCtx c i r).railOut = s.railOut ∧ (s.setCtx c i r).pocCuts = s.pocCuts ∧
    (s.setCtx c i r).lcReq = s.lcReq ∧ (s.setCtx c i r).keyHash = s.keyHash ∧ (s.setCtx c i r).keyFuse = s.keyFuse ∧
    (s.setCtx c i r).svnFuse = s.svnFuse ∧ (s.setCtx c i r).gardTimer = s.gardTimer ∧ (s.setCtx c i r).gard = s.gard ∧
    (s.setCtx c i r).ticking = s.ticking ∧ (s.setCtx c i r).switching = s.switching ∧ (s.setCtx c i r).edgeHeld = s.edgeHeld ∧
    (s.setCtx c i r).rampAll = s.rampAll ∧ (s.setCtx c i r).plan = s.plan ∧ (s.setCtx c i r).outs = s.outs ∧
    (s.setCtx c i r).fresh = s.fresh ∧ (s.setCtx c i r).now = s.now ∧ (s.setCtx c i r).oldRoutes = s.oldRoutes ∧
    (s.setCtx c i r).xspi = s.xspi ∧
    (s.setCtx c i r).selPlan = s.selPlan ∧
    (s.setCtx c i r).onXB = s.onXB ∧
    (s.setCtx c i r).hot = s.hot ∧
    (s.setCtx c i r).edgeAt = s.edgeAt ∧
    (s.setCtx c i r).pending = s.pending := by
  and_intros <;> rfl

@[simp] theorem State.withGard_fields (s : State) (f : GardRec → GardRec) :
    (s.withGard f).regs = s.regs ∧ (s.withGard f).mem = s.mem ∧ (s.withGard f).tmem = s.tmem ∧ (s.withGard f).tEpoch = s.tEpoch ∧
    (s.withGard f).tZero = s.tZero ∧ (s.withGard f).tbad = s.tbad ∧ (s.withGard f).syn = s.syn ∧ (s.withGard f).dealers = s.dealers ∧
    (s.withGard f).evAcc = s.evAcc ∧ (s.withGard f).net = s.net ∧ (s.withGard f).netOld = s.netOld ∧
    (s.withGard f).recorded = s.recorded ∧ (s.withGard f).rpt = s.rpt ∧ (s.withGard f).mrow = s.mrow ∧ (s.withGard f).hands = s.hands ∧
    (s.withGard f).handSyn = s.handSyn ∧ (s.withGard f).hstage = s.hstage ∧ (s.withGard f).ctus = s.ctus ∧ (s.withGard f).tags = s.tags ∧
    (s.withGard f).closing = s.closing ∧ (s.withGard f).raised = s.raised ∧ (s.withGard f).ctlStage = s.ctlStage ∧
    (s.withGard f).eiPend = s.eiPend ∧ (s.withGard f).locks = s.locks ∧ (s.withGard f).ledgerDirty = s.ledgerDirty ∧
    (s.withGard f).ntcLost = s.ntcLost ∧ (s.withGard f).weedAt = s.weedAt ∧ (s.withGard f).weedDone = s.weedDone ∧
    (s.withGard f).coldRetry = s.coldRetry ∧ (s.withGard f).scrubAt = s.scrubAt ∧ (s.withGard f).rsvRows = s.rsvRows ∧
    (s.withGard f).ctxs = s.ctxs ∧ (s.withGard f).camPend = s.camPend ∧ (s.withGard f).camPulse = s.camPulse ∧
    (s.withGard f).fsync = s.fsync ∧ (s.withGard f).pipes = s.pipes ∧ (s.withGard f).icons = s.icons ∧
    (s.withGard f).iconSyn = s.iconSyn ∧ (s.withGard f).tells = s.tells ∧ (s.withGard f).dboxes = s.dboxes ∧
    (s.withGard f).notices = s.notices ∧ (s.withGard f).overlayOff = s.overlayOff ∧ (s.withGard f).full = s.full ∧
    (s.withGard f).lacks = s.lacks ∧ (s.withGard f).warm = s.warm ∧ (s.withGard f).resetAt = s.resetAt ∧ (s.withGard f).seats = s.seats ∧
    (s.withGard f).pcie = s.pcie ∧ (s.withGard f).canBad = s.canBad ∧ (s.withGard f).pxActive = s.pxActive ∧
    (s.withGard f).mainRead = s.mainRead ∧ (s.withGard f).sectsDone = s.sectsDone ∧ (s.withGard f).esp = s.esp ∧
    (s.withGard f).inReset = s.inReset ∧ (s.withGard f).xtalOff = s.xtalOff ∧ (s.withGard f).fbRef = s.fbRef ∧
    (s.withGard f).trimFirst = s.trimFirst ∧ (s.withGard f).canTrim = s.canTrim ∧ (s.withGard f).started = s.started ∧
    (s.withGard f).fallow = s.fallow ∧ (s.withGard f).railOut = s.railOut ∧ (s.withGard f).pocCuts = s.pocCuts ∧
    (s.withGard f).lcReq = s.lcReq ∧ (s.withGard f).keyHash = s.keyHash ∧ (s.withGard f).keyFuse = s.keyFuse ∧
    (s.withGard f).svnFuse = s.svnFuse ∧ (s.withGard f).gardTimer = s.gardTimer ∧ (s.withGard f).ticking = s.ticking ∧
    (s.withGard f).switching = s.switching ∧ (s.withGard f).edgeHeld = s.edgeHeld ∧ (s.withGard f).rampAll = s.rampAll ∧
    (s.withGard f).plan = s.plan ∧ (s.withGard f).outs = s.outs ∧ (s.withGard f).fresh = s.fresh ∧ (s.withGard f).now = s.now ∧
    (s.withGard f).oldRoutes = s.oldRoutes ∧
    (s.withGard f).xspi = s.xspi ∧
    (s.withGard f).selPlan = s.selPlan ∧
    (s.withGard f).onXB = s.onXB ∧
    (s.withGard f).hot = s.hot ∧
    (s.withGard f).edgeAt = s.edgeAt ∧ (s.withGard f).pending = s.pending := by
  and_intros <;> rfl

end Sys2Proof.Machine
end

