-- ==== Sys2Proof/Laws/StringsEv.lean ====
section
/-!
SUPPORT. What the operations of Machine/Strings.lean respect.
-/
namespace Sys2Proof.Machine

open Sys2Proof

@[simp] theorem State.advanceReg_evolves {z s : State} (n : Dealer) (r : Nat) (down : Bool) (k : Nat) (h : z.Evolves s) :
    z.Evolves (State.advanceReg s n r down k) := by
  simp (maxDischargeDepth := 40) [State.advanceReg, *]

@[simp] theorem State.elemLoad_evolves {z s : State} (n : Dealer) (sg : Nat) (r : Nat) (k : Nat) (h : z.Evolves s) :
    z.Evolves (State.elemLoad s n sg r k).2.2 := by
  simp +contextual (maxDischargeDepth := 40) [State.elemLoad, snd_ite, *]

@[simp] theorem State.elemStore_evolves {z s : State} (n : Dealer) (sg : Nat) (k : Nat) (v : Nat) (h : z.Evolves s) :
    z.Evolves (State.elemStore s n sg k v).2 := by
  simp +contextual (maxDischargeDepth := 40) [State.elemStore, snd_ite, *]

/-- What the end of an iteration respects. -/
def Iter.Ok (z : State) : Iter → Prop
  | .cut t => z.Evolves t
  | .done t _ => z.Evolves t
  | _ => True

@[simp] theorem Iter.ok_trap (z : State) (t : Trap) : (Iter.trap t).Ok z ↔ True := Iff.rfl
@[simp] theorem Iter.ok_cut (z t : State) : (Iter.cut t).Ok z ↔ z.Evolves t := Iff.rfl
@[simp] theorem Iter.ok_empty (z : State) : Iter.empty.Ok z ↔ True := Iff.rfl
@[simp] theorem Iter.ok_done (z t : State) (e : Bool) : (Iter.done t e).Ok z ↔ z.Evolves t := Iff.rfl

/-- A member of the class each of whose iterations is sound. -/
def StrOp.Ok (x : StrOp) : Prop := ∀ z n op s, z.Evolves s → (x.iter n op s).Ok z

theorem strBmove_ok : strBmove.Ok := by
  intro z n op s h
  show (iterBmove n op s).Ok z
  unfold iterBmove
  repeat' (first
    | (simp +contextual (maxDischargeDepth := 40) [snd_ite, *]; done)
    | split
    | dsimp only
    | (intro _))

theorem strBfill_ok : strBfill.Ok := by
  intro z n op s h
  show (iterBfill n op s).Ok z
  unfold iterBfill
  repeat' (first
    | (simp +contextual (maxDischargeDepth := 40) [snd_ite, *]; done)
    | split
    | dsimp only
    | (intro _))

theorem strBcomp_ok : strBcomp.Ok := by
  intro z n op s h
  show (iterBcomp n op s).Ok z
  unfold iterBcomp
  repeat' (first
    | (simp +contextual (maxDischargeDepth := 40) [snd_ite, *]; done)
    | split
    | dsimp only
    | (intro _))

theorem strBseek_ok : strBseek.Ok := by
  intro z n op s h
  show (iterBseek n op s).Ok z
  unfold iterBseek
  repeat' (first
    | (simp +contextual (maxDischargeDepth := 40) [snd_ite, *]; done)
    | split
    | dsimp only
    | (intro _))

theorem strPlmov_ok : strPlmov.Ok := by
  intro z n op s h
  show (iterPlmov n op s).Ok z
  unfold iterPlmov
  repeat' (first
    | (simp +contextual (maxDischargeDepth := 40) [snd_ite, *]; done)
    | split
    | dsimp only
    | (intro _))

theorem strOf_ok {w : Word} {x : StrOp} (h : strOf w = some x) : x.Ok := by
  unfold strOf at h
  split at h
  · cases h
  · split at h
    all_goals first
      | (cases h; done)
      | (obtain rfl := Option.some.inj h
         first | exact strBmove_ok | exact strBfill_ok | exact strBcomp_ok | exact strBseek_ok | exact strPlmov_ok)


theorem runString_evolves {z s : State} (x : StrOp) (hx : x.Ok) (n : Dealer) (op : SOp) (h : z.Evolves s) :
    Leads z (runString x n op s) := by
  unfold runString
  apply runScalar_evolves _ _ _ _ h
  intro t ht
  have := hx z n op t ht
  split <;> simp_all (maxDischargeDepth := 40)

@[simp] theorem execBmove_evolves {z s : State} (n : Dealer) (op : SOp) (h : z.Evolves s) :
    Leads z (execBmove n op s) := runString_evolves _ strBmove_ok _ _ h

@[simp] theorem execBfill_evolves {z s : State} (n : Dealer) (op : SOp) (h : z.Evolves s) :
    Leads z (execBfill n op s) := runString_evolves _ strBfill_ok _ _ h

@[simp] theorem execBcomp_evolves {z s : State} (n : Dealer) (op : SOp) (h : z.Evolves s) :
    Leads z (execBcomp n op s) := runString_evolves _ strBcomp_ok _ _ h

@[simp] theorem execBseek_evolves {z s : State} (n : Dealer) (op : SOp) (h : z.Evolves s) :
    Leads z (execBseek n op s) := runString_evolves _ strBseek_ok _ _ h

@[simp] theorem execPlmov_evolves {z s : State} (n : Dealer) (op : SOp) (h : z.Evolves s) :
    Leads z (execPlmov n op s) := runString_evolves _ strPlmov_ok _ _ h

@[simp] theorem State.repOut_evolves {z s : State} (n : Dealer) (h : z.Evolves s) :
    z.Evolves (State.repOut s n) := by
  simp (maxDischargeDepth := 40) [State.repOut, *]

theorem repLoop_evolves {z s : State} (x : StrOp) (hx : x.Ok) (n : Dealer) (op : SOp) (k : Nat) (h : z.Evolves s) :
    z.Evolves (repLoop x n op k s) := by
  induction k generalizing s with
  | zero => unfold repLoop; simp [h]
  | succ k ih =>
    unfold repLoop
    have := hx z n op s h
    split
    · simp [h]
    · split
      · simp [h]
      · simp_all
      · simp [h]
      · rename_i t err heq
        have ht : z.Evolves t := by simp_all
        dsimp only
        repeat' split
        all_goals first | exact ih (by simp [ht]) | simp [ht]

@[simp] theorem execRep_evolves {z s : State} (n : Dealer) (op : SOp) (next : Word) (h : z.Evolves s) :
    Leads z (execRep n op next s) := by
  unfold execRep
  dsimp only
  repeat' split
  all_goals first
    | (simp (maxDischargeDepth := 40) [h]; done)
    | (rw [leads_next]; exact repLoop_evolves _ (strOf_ok ‹_›) _ _ _ (State.charge_evolves _ _ h))

end Sys2Proof.Machine
end

