-- ==== Sys2Proof/Tests/Slice0.lean ====
section
/-!
SUPPORT. The model's own tests: an ill-formed command for each check of `Instr.wf`; states and operands that meet the hypotheses of the
statements, clause by clause; and single commands with the results that the specification works out.
-/
namespace Sys2Proof.Tests

open Sys2Proof Sys2Proof.Machine

set_option Elab.async false
set_option maxRecDepth 4000

/- Small states and operands. -/

/-- Reset with the fields listed set. -/
abbrev fields (l : List (Fld × Nat)) : State := State.reset.fsets l

/-- Dealer 0 past its first deal start. -/
abbrev live (s : State) : State := s.setDl 0 { s.dl 0 with live := true }

/-- Dealer 0 at a bank of level 0, which is active. -/
abbrev core (b : Bank) (s : State) : State := live ((s.fset (LVLSTAT.ACTIVE 0) 1).setBankAt 0 0 b)

/-- A word of the scalar formats that name D, A and B, with the bits below. -/
def rg (d a b : Nat) (low : Nat := 0) : SOp := { bits := BitVec.ofNat 23 (d * 2 ^ 18 + a * 2 ^ 13 + b * 2 ^ 8 + low) }

/-- A word of the immediate and memory formats: D, A and the low 13 bits. -/
def im (d a low : Nat) : SOp := { bits := BitVec.ofNat 23 (d * 2 ^ 18 + a * 2 ^ 13 + low) }

/-- The registers W1 to W4 as given, the others 0. -/
def ws (a b c d : Word) : Vector Word 32 := ((((Vector.replicate 32 0).set 1 a).set 2 b).set 3 c).set 4 d

/-- A segment descriptor: base, word 1 with its rights, limit. -/
def seg (base hi limit : Nat) : Desc := BitVec.ofNat 128 (base % 2 ^ 32 + 2 ^ 32 * (hi + base / 2 ^ 32) + 2 ^ 64 * limit)

/-- Present, readable, writable DRAM; the same for scratch and for code. -/
def dramSeg : Desc := seg 0x1000 0x80180000 0xFFFF
def scratchSeg : Desc := seg 0x4000040000 0x80190000 0xFFFF
def codeSeg : Desc := seg 0x200 0x800C0000 0xFFF

/-- The state a command leads to. -/
def after (i : Instr) (s : State) : State := match exec i s with | .next t => t | _ => State.reset

/-- A scalar level: pc 0x100, W1 to W4, SG1 in DRAM, SG2 in scratch, SG3 code, SG4 absent. -/
def plain : Bank :=
  { Bank.zero with
    w := ws 0xFFFFFFFF 1 7 0x80000000, pc := 0x100, xvec := 0x2000,
    sg := (((Vector.replicate 8 0).set 1 dramSeg).set 2 scratchSeg).set 3 codeSeg }

/-- The link-up tokens held, as the release of the reset leaves them (R378). -/
def links : List (Fld × Nat) := (rangeFrom 0 24).map (fun r => (TRL_RTR.TOKEN r, 255))

/-- The way of Dealer 0, at router 0, to the register hub at router 12: south twice (R353, R369). -/
def hubWay : List (Fld × Nat) := [(TRL_RTE.ACTIVE 0 16, 2), (TRL_RTE.ACTIVE 6 16, 2)]

/-- DRAM trained, every stripe of it behind the port at router 0 (R354), bank 1 owned by Dealer 0, its level 0 active, the links up and
Dealer 0 on its way to the hub. -/
def trained : State :=
  fields (links ++ hubWay ++ [(DRAM_STAT.TRAIN, 2), (TRL_DMAP.MAP, 0), (BANK_OWNER.OWNER 1, 5), (LVLSTAT.ACTIVE 0, 1)])

/-- Dealer 0 at a scalar instruction of an unprivileged level, and of a privileged one. -/
def at0 : State := core plain trained
def priv0 : State := core plain (trained.fsets [(LVLPRIV.PRIV 0, 1)])

theorem ready_at0 (op : SOp) : at0.Ready 0 op := by
  refine ⟨by decide +kernel, ?_⟩
  have h : at0.pc 0 = 0x100 := by decide +kernel
  have : op.extN ≤ 1 := by unfold SOp.extN b2n; split <;> omega
  unfold State.nextPc; omega

theorem ready_priv0 (op : SOp) : priv0.Ready 0 op := by
  refine ⟨by decide +kernel, ?_⟩
  have h : priv0.pc 0 = 0x100 := by decide +kernel
  have : op.extN ≤ 1 := by unfold SOp.extN b2n; split <;> omega
  unfold State.nextPc; omega

/- Scalar arithmetic. -/

theorem witness_IntegerAddSubtract :
    (at0.Ready 0 (rg 31 1 2) ∧ wordReg (rg 31 1 2)) ∧ (at0.Ready 0 (im 31 1 0x1FFF) ∧ wordImm (im 31 1 0x1FFF)) ∧
      (at0.Ready 0 (im 0 1 5) ∧ wordImm (im 0 1 5) ∧ (im 0 1 5).d = 0) :=
  ⟨⟨ready_at0 _, rfl, by decide⟩, ⟨ready_at0 _, .inl rfl⟩, ready_at0 _, .inl rfl, by decide⟩

theorem witness_IntegerLogic :
    (at0.Ready 0 (rg 0 1 2) ∧ wordReg (rg 0 1 2)) ∧ (at0.Ready 0 { im 31 1 0 with ext := some 0xFFFFFFFF } ∧ wordImm { im 31 1 0 with ext := some 0xFFFFFFFF }) :=
  ⟨⟨ready_at0 _, rfl, by decide⟩, ready_at0 _, .inr (by decide)⟩

theorem witness_IntegerShifts :
    (at0.Ready 0 (rg 3 1 2) ∧ wordReg (rg 3 1 2)) ∧ (at0.Ready 0 (im 3 1 0) ∧ wordImm (im 3 1 0) ∧ (im 3 1 0).imm false ≤ 63) ∧
      ((im 3 1 63).imm false ≤ 63 ∧ wordImm (im 3 1 63)) :=
  ⟨⟨ready_at0 _, rfl, by decide⟩, ⟨ready_at0 _, .inl rfl, by decide⟩, by decide, .inl rfl⟩

theorem witness_IntegerMultiply :
    at0.Ready 0 (rg 30 1 2) ∧ wordReg (rg 30 1 2) ∧ (rg 30 1 2).d % 2 = 0 ∧ wordReg (rg 0 1 2) ∧ (rg 0 1 2).d % 2 = 0 ∧
      wordReg (rg 31 1 2) ∧ (rg 31 1 2).d % 2 = 1 :=
  ⟨ready_at0 _, ⟨rfl, by decide⟩, by decide, ⟨rfl, by decide⟩, by decide, ⟨rfl, by decide⟩, by decide⟩

theorem witness_IntegerDivide :
    at0.Ready 0 (rg 3 4 1) ∧ wordReg (rg 3 4 1) ∧ at0.rdW 0 (rg 3 4 1).b ≠ 0 ∧
    wordReg (rg 3 4 0) ∧ at0.rdW 0 (rg 3 4 0).b = 0 := ⟨ready_at0 _, ⟨rfl, by decide⟩, by decide +kernel, ⟨rfl, by decide⟩, by decide +kernel⟩

theorem witness_MovesToW :
    (wordReg (rg 31 1 2) ∧ wordImm (im 31 1 5) ∧ wordImm (im 31 0 5) ∧ (im 31 0 5).a = 0) ∧
      ((im 31 15 0).ext = none ∧ (im 31 15 0).fld 0 13 = 0 ∧ (im 31 15 0).a ≤ 15) ∧
      (wordReg (rg 31 7 3) ∧ (rg 31 7 3).a ≤ 7 ∧ (rg 31 7 3).b ≤ 3) ∧ (wordReg (rg 31 0 7) ∧ (rg 31 0 7).a = 0 ∧ (rg 31 0 7).b ≤ 7) ∧
      ((im 31 1 0x3FF).ext = none ∧ (im 31 1 0x3FF).sg = 0) ∧ ∀ op, at0.Ready 0 op :=
  ⟨⟨⟨rfl, by decide⟩, .inl rfl, .inl rfl, by decide⟩, ⟨rfl, by decide, by decide⟩, ⟨⟨rfl, by decide⟩, by decide, by decide⟩,
    ⟨⟨rfl, by decide⟩, by decide, by decide⟩, ⟨rfl, by decide⟩, ready_at0⟩

/-- The segment descriptor in W4 to W7 of Dealer 0. -/
def desc0 : State := core { plain with w := (((plain.w.set 4 0x1000).set 5 0x80180000).set 6 0xFFF).set 7 0 } (trained.fsets [(LVLPRIV.PRIV 0, 1)])

theorem witness_MovesToOtherRegisters :
    (∀ op, at0.Ready 0 op) ∧ ((rg 30 15 0 0x40).fld 0 6 = 0 ∧ (rg 30 15 0 0x40).fmt = 1 ∧ (rg 30 15 0 0x40).b = 0 ∧ (rg 30 15 0 0x40).a ≤ 15 ∧
        (rg 30 15 0 0x40).d % 2 = 0) ∧
      ((rg 15 30 0 0x40).fld 0 6 = 0 ∧ (rg 15 30 0 0x40).fmt ≤ 1 ∧ (rg 15 30 0 0x40).b = 0 ∧ (rg 15 30 0 0x40).d ≤ 15 ∧ (rg 15 30 0 0x40).a % 2 = 0) ∧
      ((im 15 31 0).fld 0 13 = 0 ∧ (im 15 31 0).d ≤ 15) ∧
      (desc0.Ready 0 (im 7 4 0) ∧ (im 7 4 0).fld 0 13 = 0 ∧ (im 7 4 0).d ≤ 7 ∧ (im 7 4 0).a % 4 = 0 ∧ desc0.priv 0 = true ∧
        let x : Desc := desc0.rdW 0 7 ++ desc0.rdW 0 6 ++ desc0.rdW 0 5 ++ desc0.rdW 0 4
        Desc.reserved x = false ∧ (Desc.present x && Desc.wra x && Desc.space x == spCODE) = false ∧ Desc.beyond x = false) := by
  refine ⟨ready_at0, by decide, by decide, by decide, ⟨by decide +kernel, by decide +kernel⟩, ?_⟩
  decide +kernel

theorem witness_MoveToSpecial :
    (∀ op, priv0.Ready 0 op) ∧ (∀ d ∈ [0, 1, 3, 4, 5, 6], (im d 3 0).ext = none ∧ (im d 3 0).fld 0 13 = 0 ∧ (im d 3 0).d = d) ∧ priv0.priv 0 = true ∧
      (let v := priv0.rdW 0 3; v.extractLsb' 16 16 = 0 ∧ v.extractLsb' 5 6 = 0 ∧ v.extractLsb' 24 8 = 0) ∧
      (let v := priv0.rdW 0 0; v.extractLsb' 18 14 = 0 ∧ v.extractLsb' 0 2 = 0 ∧ v.extractLsb' 13 19 = 0 ∧ v.extractLsb' 0 8 ≤ 0x0C) ∧
      (let v := priv0.rdW 0 1; ¬v.extractLsb' 16 16 = 0 ∧ ¬v.extractLsb' 24 8 = 0 ∧ ¬v.extractLsb' 18 14 = 0 ∧ ¬v.extractLsb' 13 19 = 0) :=
  ⟨ready_priv0, by decide, by decide +kernel, by decide +kernel, by decide +kernel, by decide +kernel⟩

theorem witness_FloatToF :
    (∀ op, at0.Ready 0 op) ∧ (let op := rg 15 15 15 0x40; op.ext = none ∧ op.fld 0 1 = 0 ∧ op.fmt ≤ 1 ∧ op.d ≤ 15 ∧ op.c = 0 ∧ op.a ≤ 15 ∧ op.b ≤ 15) ∧
      (let op := rg 15 15 15 30; op.ext = none ∧ op.fld 0 1 = 0 ∧ op.fmt ≤ 1 ∧ op.d ≤ 15 ∧ op.c ≤ 15 ∧ op.a ≤ 15 ∧ op.b ≤ 15) ∧
      (let op := rg 15 15 0 0x40; op.ext = none ∧ op.fld 0 1 = 0 ∧ op.fmt ≤ 1 ∧ op.d ≤ 15 ∧ op.c = 0 ∧ op.b = 0 ∧ op.a ≤ 15) ∧
      (let op := rg 15 31 0; op.ext = none ∧ op.fld 0 1 = 0 ∧ op.fmt ≤ 1 ∧ op.d ≤ 15 ∧ op.c = 0 ∧ op.b = 0) :=
  ⟨ready_at0, by decide, by decide, by decide, by decide⟩

theorem witness_FloatToW :
    (∀ op, at0.Ready 0 op) ∧ (let op := rg 31 15 15 0x40; op.ext = none ∧ op.fld 0 1 = 0 ∧ op.fmt ≤ 1 ∧ op.c = 0 ∧ op.a ≤ 15 ∧ op.b ≤ 15) ∧
      (let op := rg 31 15 0; op.ext = none ∧ op.fld 0 1 = 0 ∧ op.fmt ≤ 1 ∧ op.c = 0 ∧ op.a ≤ 15 ∧ op.b = 0) :=
  ⟨ready_at0, by decide, by decide⟩

theorem test_add_wraps : (after (.add 0 (rg 5 1 2)) at0).rdW 0 5 = 0 ∧ stC ((after (.add 0 (rg 5 1 2)) at0).st 0) = true := by decide +kernel
theorem test_sub_borrows : (after (.sub 0 (rg 5 2 1)) at0).rdW 0 5 = 2 ∧ stC ((after (.sub 0 (rg 5 2 1)) at0).st 0) = true := by decide +kernel
theorem test_shift_whole_width : (after (.shrs 0 (rg 5 4 1)) at0).rdW 0 5 = 0xFFFFFFFF := by decide +kernel
theorem test_multiply_signed : (after (.mulws 0 (rg 6 1 4)) at0).rdW 0 6 = 0x80000000 ∧ (after (.mulws 0 (rg 6 1 4)) at0).rdW 0 7 = 0 := by decide +kernel
theorem test_divide_most_negative : (after (.divs 0 (rg 5 4 1)) at0).rdW 0 5 = 0x80000000 ∧ (after (.rems 0 (rg 5 4 1)) at0).rdW 0 5 = 0 := by decide +kernel
theorem test_divide_by_zero : (after (.divu 0 (rg 5 4 9)) at0).pc 0 = 0x2000 ∧ ((after (.divu 0 (rg 5 4 9)) at0).bank 0).xinfo = 0x80000000 := by decide +kernel
theorem test_movi_extends : (after (.movi 0 (im 5 0 0x1FFF)) at0).rdW 0 5 = 0xFFFFFFFF := by decide +kernel

/- Memory and transfers. -/

theorem clean_of_empty {s : State} (h : s.syn = []) (a : Nat) : s.wordSyn a = 0 := by
  unfold State.wordSyn; rw [h]; rfl

theorem outside_copy {s : State} (h : s.fget LOAD_COPY.SIZE = 0) (a : Nat) : s.inImageCopy a = false := by
  unfold State.inImageCopy; rw [h]; simp

/-- Every local port of every router is open. -/
abbrev portsOpen (s : State) : Prop := ∀ r : Fin 24, ∀ l : Fin 4, s.portTurns (r.val, l.val) = none

theorem agent_port_exists {s : State} {ag : Agent} {q : Nat × Nat} (h : s.agentPort ag = some q) : q.1 < 24 ∧ q.2 < 4 := by
  have host (c : Nat) : (hostPort c).1 < 24 ∧ (hostPort c).2 < 4 := by
    rcases c with _ | _ | _ | c <;> simp [hostPort]
  have dealer (n : Dealer) : (dealerAt n.val).1 < 24 ∧ (dealerAt n.val).2 < 4 := by revert n; decide
  have tile (t : Fin 64) : tileRouter t.val < 24 ∧ tilePort t.val < 4 := by revert t; decide
  cases ag <;> simp only [State.agentPort, Option.some.injEq, reduceCtorEq] at h <;> subst h
  all_goals first | exact dealer _ | exact tile _ | exact host _ | exact ⟨by decide, by decide⟩ | skip
  all_goals split <;> exact ⟨by decide, by decide⟩

/-- The agent's tables lead to every DRAM port, and a tag of its port is free. -/
abbrev routesToDram (s : State) (ag : Agent) : Prop := s.tagless ag = false ∧ ∀ i : Fin 8, s.wayTo ag (s.servedAt (512 * i.val)) = none

theorem served_dram {s : State} {a : Nat} (h : regionOf a = .dram) : s.servedAt a = s.servedAt (512 * (a / 512 % 8)) := by
  have h' : regionOf (512 * (a / 512 % 8)) = .dram := by unfold regionOf; rw [if_pos (by omega)]
  have e : 512 * (a / 512 % 8) / 512 % 8 = a / 512 % 8 := by omega
  unfold State.servedAt; rw [h, h']; simp only [e]

theorem path_dram {s : State} {ag : Agent} {a : Nat} (o : portsOpen s) (w : routesToDram s ag) (h : regionOf a = .dram) :
    s.pathTurns ag a = none := by
  have mine : s.ownTurns ag = none := by
    have : ((s.agentPort ag).bind s.portTurns) = none := by
      cases e : s.agentPort ag with
      | none => rfl
      | some q => exact o ⟨q.1, (agent_port_exists e).1⟩ ⟨q.2, (agent_port_exists e).2⟩
    unfold State.ownTurns; rw [this]; cases ag <;> rfl
  have way : s.wayTo ag (s.servedAt a) = none := by
    rw [served_dram h]; exact w.2 ⟨a / 512 % 8, Nat.mod_lt _ (by decide)⟩
  have served : s.portTurns (s.servedAt a) = none := by
    unfold State.servedAt; rw [h]
    have hp : natBits (s.fget TRL_DMAP.MAP) (3 * (a / 512 % 8)) 3 < 8 := Nat.mod_lt _ (by decide)
    dsimp only
    split
    · exact o ⟨6 * natBits (s.fget TRL_DMAP.MAP) (3 * (a / 512 % 8)) 3, by omega⟩ 0
    · exact o ⟨6 * (natBits (s.fget TRL_DMAP.MAP) (3 * (a / 512 % 8)) 3 - 4) + 5, by omega⟩ 0
  have off : s.offTrellis ag a = false := by unfold State.offTrellis; rw [h]; cases ag <;> rfl
  simp [State.pathTurns, off, mine, served, w.1, way]

/-- A Dealer's access to a store it owns never meets the Trellis. -/
theorem path_store {s : State} {n : Dealer} {a b : Nat} (h : regionOf a = .store b) (b32 : b < 32) (t : s.storeStatus b (.dealer n) = 0) :
    s.pathTurns (.dealer n) a = none := by
  have own : (s.storeOwner b == 5 + n.val) = true := by
    unfold State.storeStatus at t
    rw [if_neg (by omega)] at t
    cases e : s.ownerAdmits (s.storeOwner b) (.dealer n) with
    | true => exact e
    | false => simp [e, stNOT_OWNER] at t
  simp only [State.pathTurns, State.offTrellis, h, own]
  rfl

/-- An access within DRAM is sound when it is trained, not in self refresh, holds no image copy and no error, and the links are up. -/
theorem sound_dram {s : State} {n : Dealer} {a k : Nat} (t : s.fget DRAM_STAT.TRAIN = 2) (r : s.fget DRAM_STAT.SREF = 0)
    (c : s.fget LOAD_COPY.SIZE = 0) (e : s.syn = []) (o : portsOpen s) (w : routesToDram s (.dealer n)) (h : a + k ≤ 2 ^ 37) (p : 0 < k) :
    s.Sound n a k := by
  have ra (i : Nat) (hi : i < k) : regionOf (a + i) = .dram := by unfold regionOf; rw [if_pos (by omega)]
  have r0 : regionOf a = .dram := ra 0 p
  have rb : regionOf (a + k - 1) = .dram := by unfold regionOf; rw [if_pos (by omega)]
  exact ⟨by rw [r0, rb], .inl ⟨r0, t, r, outside_copy c a, outside_copy c _⟩, fun i hi => path_dram o w (ra i hi), fun i _ => clean_of_empty e _⟩

/-- An access within a bank is sound when Dealer n owns it, it is not weeded, and no error is in it. -/
theorem soundSpan_bank {s : State} {n : Dealer} (b : Fin 32) {o k : Nat} (t : s.storeStatus b (.dealer n) = 0) (w : s.fget (BANK_STAT.WEED b) = 0)
    (e : s.syn = []) (h : o + k ≤ 0x40000) : s.SoundSpan n (storeBase b + o) k := by
  intro i z hz _ hk
  have region (x : Nat) (hx : x < 0x40000) : regionOf (storeBase b + x) = .store b := by
    have := b.isLt
    have e : storeBase b + x = 0x4000000000 + 0x40000 * b + x := by unfold storeBase; rw [if_pos this]
    rw [e]; unfold regionOf
    rw [if_neg (by omega), if_pos (by omega)]
    congr 1; omega
  have ra := region (o + i) (by omega)
  have rb := region (o + i + z - 1) (by omega)
  rw [show storeBase b + o + i = storeBase b + (o + i) by omega]
  refine ⟨?_, .inr ⟨b, ra, t, fun _ => w⟩, fun j hj => ?_, fun _ _ => clean_of_empty e _⟩
  · rw [ra, show storeBase b + (o + i) + z - 1 = storeBase b + (o + i + z - 1) by omega, rb]
  · rw [show storeBase b + (o + i) + j = storeBase b + (o + i + j) by omega]
    exact path_store (region (o + i + j) (by omega)) b.isLt t

theorem sound_at0 {a k : Nat} (h : a + k ≤ 2 ^ 37) (p : 0 < k) : at0.Sound 0 a k :=
  sound_dram (by decide +kernel) (by decide +kernel) (by decide +kernel) (by decide +kernel) (by decide +kernel) (by decide +kernel) h p

/-- The address W3 + 0xFFF8 − 7 of SG1: the last eight bytes of the segment. -/
def last8 (d : Nat) : SOp := { im d 3 0x400 with ext := some 0xFFF1 }

theorem admits_last8 (d : Nat) (k : Nat) (h : k ≤ 8) (p : 0 < k) (rd wr : Bool) : Segment.Admits (at0.rdSG 0 (last8 6).sg) (at0.memOffset 0 (last8 6)) k rd wr := by
  have l : Desc.limit (at0.rdSG 0 (last8 6).sg) = 0xFFFF := by decide +kernel
  have o : at0.memOffset 0 (last8 6) = 0xFFF8 := by decide +kernel
  exact ⟨by decide +kernel, fun _ => by decide +kernel, fun _ => by decide +kernel, by omega, by omega⟩

theorem witness_Loads :
    at0.Ready 0 (last8 6) ∧ wordMem (last8 6) ∧ (last8 6).d % 2 = 0 ∧ (last8 6).d ≤ 15 ∧
      (∀ k ∈ [1, 2, 4, 8], Segment.Admits (at0.rdSG 0 (last8 6).sg) (at0.memOffset 0 (last8 6)) k true false ∧
        at0.Loads 0 (at0.rdSG 0 (last8 6).sg) (at0.memOffset 0 (last8 6)) k) ∧
      (let op := im 6 3 0xC00; at0.Ready 0 op ∧ wordMem op ∧ Segment.Admits (at0.rdSG 0 op.sg) (at0.memOffset 0 op) 4 true false ∧
        at0.Loads 0 (at0.rdSG 0 op.sg) (at0.memOffset 0 op) 4) := by
  have a : descAddr 0 (at0.rdSG 0 (last8 6).sg) (at0.memOffset 0 (last8 6)) = 0x10FF8 := by decide +kernel
  refine ⟨ready_at0 _, .inr (by decide), by decide, by decide, ?_, ready_at0 _, .inl rfl, ?_, ?_⟩
  · intro k hk
    have : 0 < k ∧ k ≤ 8 := by simp at hk; omega
    refine ⟨admits_last8 6 k this.2 this.1 _ _, .inr ⟨.inl (by decide +kernel), ?_⟩⟩
    rw [a]; exact sound_at0 (by omega) this.1
  · exact ⟨by decide +kernel, fun _ => by decide +kernel, fun h => absurd h (by decide), by decide +kernel, by decide +kernel⟩
  · exact .inl ⟨by decide +kernel, fun _ _ => clean_of_empty (by decide +kernel) _⟩

theorem witness_Stores :
    at0.Ready 0 (last8 6) ∧ wordMem (last8 6) ∧ (last8 6).d % 2 = 0 ∧ (last8 6).d ≤ 15 ∧ Desc.space (at0.rdSG 0 (last8 6).sg) = spDRAM ∧
      ∀ k ∈ [1, 2, 4, 8], Segment.Admits (at0.rdSG 0 (last8 6).sg) (at0.memOffset 0 (last8 6)) k false true ∧
        at0.Sound 0 (descAddr 0 (at0.rdSG 0 (last8 6).sg) (at0.memOffset 0 (last8 6))) k := by
  have a : descAddr 0 (at0.rdSG 0 (last8 6).sg) (at0.memOffset 0 (last8 6)) = 0x10FF8 := by decide +kernel
  refine ⟨ready_at0 _, .inr (by decide), by decide, by decide, by decide +kernel, fun k hk => ?_⟩
  have : 0 < k ∧ k ≤ 8 := by simp at hk; omega
  exact ⟨admits_last8 6 k this.2 this.1 _ _, by rw [a]; exact sound_at0 (by omega) this.1⟩

theorem witness_FetchAndAdd :
    at0.Ready 0 (last8 6) ∧ wordMem (last8 6) ∧ Segment.Admits (at0.rdSG 0 (last8 6).sg) (at0.memOffset 0 (last8 6)) 4 true true ∧
      Desc.space (at0.rdSG 0 (last8 6).sg) = spDRAM ∧ at0.Sound 0 (descAddr 0 (at0.rdSG 0 (last8 6).sg) (at0.memOffset 0 (last8 6))) 4 ∧
      at0.memOffset 0 (last8 6) % 4 = 0 ∧ descAddr 0 (at0.rdSG 0 (last8 6).sg) (at0.memOffset 0 (last8 6)) % 4 = 0 := by
  have a : descAddr 0 (at0.rdSG 0 (last8 6).sg) (at0.memOffset 0 (last8 6)) = 0x10FF8 := by decide +kernel
  exact ⟨ready_at0 _, .inr (by decide), admits_last8 6 4 (by omega) (by omega) _ _, by decide +kernel, by rw [a]; exact sound_at0 (by omega) (by omega),
    by decide +kernel, by rw [a]⟩

/-- Dealer 0 at a HANDLER level 6, its level area at the start of bank 1. -/
def handler0 : State :=
  live ((trained.fsets [(LVLSTAT.CUR 0, 6), (LVLSTAT.ACTIVE 0, 65), (LVLCFG.KIND 0, 0x1003), (LBASE.BANK 0, 1)]).setBankAt 0 6 plain)

theorem sound_handler0 {o k : Nat} (h : o + k ≤ 0x40000) : handler0.SoundSpan 0 (storeBase 1 + o) k :=
  soundSpan_bank 1 (by decide +kernel) (by decide +kernel) (by decide +kernel) h

theorem witness_LazyFill :
    at0.levelKind 0 (at0.lvl 0).val ≠ 1 ∧ handler0.levelKind 0 (handler0.lvl 0).val = 1 ∧
      (∀ g, g < 2 → natBit ((handler0.dl 0).filled.get (handler0.lvl 0)) g = false) ∧
      (∀ i, i < 16 → handler0.Sound 0 (handler0.lazyF 0 6 + 8 * i) 8) ∧ (∀ i, i < 16 → handler0.Sound 0 (handler0.lazyPD 0 6 + 4 * i) 4) := by
  have f : handler0.lazyF 0 6 = storeBase 1 + 0xC80 := by decide +kernel
  have p : handler0.lazyPD 0 6 = storeBase 1 + 0xD00 := by decide +kernel
  refine ⟨by decide +kernel, by decide +kernel, by decide +kernel, fun i hi => ?_, fun i hi => ?_⟩
  · rw [f]; exact sound_handler0 (o := 0xC80) (k := 128) (by omega) (8 * i) 8 (by omega) (by omega) (by omega)
  · rw [p]; exact sound_handler0 (o := 0xD00) (k := 64) (by omega) (4 * i) 4 (by omega) (by omega) (by omega)

theorem witness_SegmentChecks :
    at0.executes 0 ∧ (wordMem (im 6 3 0x1000) ∧ Desc.present (at0.rdSG 0 (im 6 3 0x1000).sg) = false) ∧
      (let x := at0.rdSG 0 (im 6 3 0xC00).sg; wordMem (im 6 3 0xC00) ∧ Desc.present x = true ∧ Desc.wra x = false ∧ Desc.space x ∈ [spPLANE, spDEVICE, spCODE]) ∧
      (let op := { im 6 3 0x400 with ext := some 0xFFF2 }; let x := at0.rdSG 0 op.sg
       wordMem op ∧ Desc.present x = true ∧ Desc.rda x = true ∧ Desc.wra x = true ∧ (Desc.limit x : Int) < at0.memOffset 0 op + 8 - 1 ∧ op.d % 2 = 0 ∧ op.d ≤ 15) ∧
      (let op := { im 6 3 0x400 with ext := some 0xFFF5 }; let x := at0.rdSG 0 op.sg
       wordMem op ∧ Desc.space x = spDRAM ∧ at0.memOffset 0 op % 4 = 0 ∧ Desc.present x = true ∧ (Desc.limit x : Int) = at0.memOffset 0 op + 4 - 1) ∧
      (let op := im 6 0 0x7FF; let x := at0.rdSG 0 op.sg; wordMem op ∧ Desc.present x = true ∧ at0.memOffset 0 op < 0 ∧ at0.memOffset 0 op % 4 ≠ 0) := by
  refine ⟨by decide +kernel, ⟨.inl rfl, by decide +kernel⟩, ⟨.inl rfl, by decide +kernel⟩, ⟨.inr (by decide), by decide +kernel⟩,
    ⟨.inr (by decide), by decide +kernel⟩, .inl rfl, by decide +kernel⟩

/-- As `at0`, before DRAM is trained; the same where no tag of Dealer 0's port is free. -/
def cold0 : State := core plain (fields (links ++ [(TRL_DMAP.MAP, 0), (BANK_OWNER.OWNER 1, 5)]))
def tagless0 : State := { core plain (trained.fsets [(TRL_TAG.V 2, 1), (TRL_TAG.BASE 2, 1)]) with tags := [(1, { ag := .dealer 0 })] }

/-- `at0` with SG1 two bytes on; and with SG1, as SCRATCH, at a register that takes no W4, which no SGLD would load. -/
def skewed0 : State := core { plain with sg := plain.sg.set 1 (seg 0x1002 0x80180000 0xFFFF) } trained
def regs0 : State := core { plain with sg := plain.sg.set 1 (seg 0x5000030000 0x80190000 0xFFFF) } trained

/-- What the operand of a memory word needs to be admitted, as a test. -/
def admitted (s : State) (op : SOp) (k : Nat) : Bool :=
  let x := s.rdSG 0 op.sg
  Desc.present x && Desc.rda x && Desc.wra x && decide (0 ≤ s.memOffset 0 op) && decide (s.memOffset 0 op + k - 1 ≤ Desc.limit x)

theorem witness_AccessErrors :
    (∀ op, at0.Ready 0 op) ∧ (∀ s ∈ [cold0, tagless0, skewed0, regs0], s.executes 0) ∧
      (let op := last8 6
       wordMem op ∧ op.d % 2 = 0 ∧ op.d ≤ 15 ∧ (∀ s ∈ [cold0, tagless0], s.nextPc 0 op ≤ 0x3FFFC ∧ Desc.space (s.rdSG 0 op.sg) = spDRAM ∧ s.memOffset 0 op % 4 = 0 ∧
         (Desc.base (s.rdSG 0 op.sg) + (s.memOffset 0 op).toNat) % 512 = 504 ∧ ∀ k ∈ [1, 2, 4, 8], admitted s op k = true) ∧
       (∀ k ∈ [1, 2, 4, 8], let at_ (s : State) := (s.rdSG 0 op.sg, (s.memOffset 0 op).toNat)
         cold0.segWaits 0 (at_ cold0).1 (at_ cold0).2 k = false ∧ (cold0.segRead 0 (at_ cold0).1 (at_ cold0).2 k).1 ≠ stOK ∧
         (cold0.segWrite 0 (at_ cold0).1 (at_ cold0).2 k 5).1 ≠ stOK ∧ tagless0.segWaits 0 (at_ tagless0).1 (at_ tagless0).2 k = true)) ∧
      (let op := im 4 0 0x400
       let r := regs0.segRead 0 (regs0.rdSG 0 op.sg) (regs0.memOffset 0 op).toNat 4
       regs0.nextPc 0 op ≤ 0x3FFFC ∧ wordMem op ∧ admitted regs0 op 4 = true ∧ Desc.space (regs0.rdSG 0 op.sg) = spSCRATCH ∧ regs0.memOffset 0 op % 4 = 0 ∧
         regs0.segWaits 0 (regs0.rdSG 0 op.sg) (regs0.memOffset 0 op).toNat 4 = false ∧ r.1 = stOK ∧
         (r.2.2.segWrite 0 (regs0.rdSG 0 op.sg) (regs0.memOffset 0 op).toNat 4 (r.2.1 + (regs0.rdW 0 op.d).toNat)).1 ≠ stOK) ∧
      (let op := im 6 0 0x400
       skewed0.nextPc 0 op ≤ 0x3FFFC ∧ wordMem op ∧ admitted skewed0 op 4 = true ∧ Desc.space (skewed0.rdSG 0 op.sg) = spDRAM ∧ skewed0.memOffset 0 op % 4 = 0 ∧
         (Desc.base (skewed0.rdSG 0 op.sg) + (skewed0.memOffset 0 op).toNat) % 4 ≠ 0) := by
  refine ⟨ready_at0, by decide +kernel, ⟨.inr (by decide), by decide +kernel⟩, ⟨by decide +kernel, .inl rfl, by decide +kernel⟩, by decide +kernel, .inl rfl, by decide +kernel⟩

/-- At the last word of the deal store. -/
def end0 : State := core { plain with pc := 0x3FFFC } trained

theorem witness_Transfers :
    at0.executes 0 ∧ end0.executes 0 ∧
      (let rel (s : State) (op : SOp) : Int := s.pc 0 + 4 * (BitVec.ofNat 19 (op.fld 0 19)).toInt
       let op : SOp := { bits := BitVec.ofNat 23 (2 ^ 19 - 64) }
       op.fld 19 4 = 0 ∧ rel at0 op = 0 ∧ rel end0 { bits := 1 } = 0x40000 ∧ rel end0 { bits := 0 } = 0x3FFFC) ∧
      ((BitVec.ofNat 23 (2 ^ 19)).toNat / 2 ^ 19 % 16 = 1 ∧ stZ (at0.st 0) = false ∧ at0.pc 0 + 4 ≤ 0x3FFFC) ∧
      (let op := im 0 5 0; op.d = 0 ∧ op.sub = 0 ∧ ((at0.rdW 0 op.a).toNat : Int) = 0) ∧
      (let op := im 31 3 0; op.sub = 0 ∧ ((at0.rdW 0 op.a).toNat : Int) % 4 ≠ 0) ∧ (let op := im 31 5 0; op.sub = 0 ∧ ((at0.rdW 0 op.a).toNat : Int) % 4 = 0) ∧
      ((im 0 0 0).bits = 0) ∧
      (let op := im 3 0 (1 + 8 * 3); op.a = 0 ∧ op.sub < 32 ∧ Desc.present (at0.rdSG 0 (op.sub % 8)) = true ∧
        (at0.rdW 0 op.d).toNat + 2 ^ (op.sub / 8) - 1 ≤ Desc.limit (at0.rdSG 0 (op.sub % 8))) ∧
      (let op := rg 2 1 3; op.fld 0 8 = 0 ∧ (at0.rdW 0 op.a).toInt ≤ (at0.rdW 0 op.d).toInt ∧ (at0.rdW 0 op.d).toInt ≤ (at0.rdW 0 op.b).toInt) := by
  decide +kernel

/-- A string word: size code, register, SGs, SGd. -/
def str (size dn r ss sd : Nat) : SOp := { bits := BitVec.ofNat 23 (size * 2 ^ 21 + dn * 2 ^ 20 + r * 2 ^ 17 + ss * 2 ^ 14 + sd * 2 ^ 11) }

/-- `at0` with a window that names W1 of level 7. -/
def above0 : State := at0.setDl 0 { at0.dl 0 with win := 0x701 }

/-- The word of each format with the lowest reserved bit set, or a field at the first value out of its range. -/
theorem witness_ScalarTraps_ill :
    at0.executes 0 ∧ ¬wordReg (rg 1 2 3 1) ∧ ¬(wordReg (rg 1 2 3) ∧ (rg 1 2 3).d % 2 = 0) ∧ ¬(rg 16 0 0).d ≤ 15 ∧ ¬(rg 0 16 0).a ≤ 15 ∧ ¬(rg 0 0 16).b ≤ 15 ∧
      ¬(rg 0 0 0 32).c ≤ 15 ∧ ¬(rg 0 0 0 0x80).fmt ≤ 1 ∧ (rg 1 0 0 0x40).fmt = 1 ∧ ¬(rg 1 0 0 0x40).d % 2 = 0 ∧ ¬(rg 0 1 0 0x40).a % 2 = 0 ∧ ¬(rg 0 0 8).b ≤ 7 ∧ ¬(rg 0 8 0).a ≤ 7 ∧
      ¬(rg 0 0 4).b ≤ 3 ∧ ¬(rg 2 0 0).d ∈ [0, 1, 3, 4, 5, 6] ∧ ¬(rg 7 0 0).d ∈ [0, 1, 3, 4, 5, 6] ∧ ¬(rg 8 0 0).d ≤ 7 ∧ ¬(rg 0 1 0).a % 4 = 0 ∧ ¬wordImm { im 1 2 1 with ext := some 0 } ∧
      ¬(im 1 2 64).imm false ≤ 63 ∧ ¬wordMem { im 1 2 1 with ext := some 0 } ∧ ¬(im 0 0 0x400).sg = 0 ∧ ¬(im 0 0 32).sub < 32 ∧ ¬wordPlain { bits := 1 } ∧ ¬(im 0 0 3).sub ≤ 2 ∧
      ¬(SOp.fld { bits := 4 } 0 3 ≤ 3) ∧ ¬(1 ≤ SOp.fld { bits := 0 } 0 3) ∧ (at0.lvl 0).val = 0 ∧ (handler0.executes 0 ∧ ¬(handler0.lvl 0).val = 0) ∧
      ¬(str 0 0 1 0 0).fld 17 3 = 0 ∧ ¬(str 0 0 0 1 0).fld 14 3 = 0 ∧ ¬({ bits := 1 } : SOp).fld 0 9 = 0 ∧ ¬(str 1 0 0 0 0).fld 21 2 = 0 ∧
      ¬(2 ^ (str 3 0 5 0 1).fld 21 2 = 8 → (str 3 0 5 0 1).fld 17 3 % 2 = 0) := by
  unfold wordReg wordImm wordMem wordPlain
  refine ⟨by decide +kernel, by decide, by decide, by decide, by decide, by decide, by decide, by decide, by decide, by decide, by decide, by decide, by decide, by decide,
    by decide, by decide, by decide, by decide, by decide, by decide, by decide, by decide, by decide, by decide, by decide, by decide +kernel⟩

/-- At the last word of the deal store, words of each format that run on. -/
theorem witness_ScalarTraps_last :
    end0.executes 0 ∧ (∀ op : SOp, 0x3FFFC < end0.nextPc 0 op) ∧
      (wordReg (rg 2 2 3) ∧ (rg 2 2 3).d % 2 = 0 ∧ (rg 2 2 3).fmt ≤ 1 ∧ (rg 2 2 3).d ≤ 7 ∧ (rg 2 2 3).a ≤ 7 ∧ (rg 2 2 3).b ≤ 3) ∧
      ((rg 0 0 0).fld 0 13 = 0 ∧ (rg 0 0 0).d ∈ [0, 1, 3, 4, 5, 6] ∧ ((rg 0 0 0).d = 6 → end0.priv 0 = true)) ∧ (wordImm (im 0 0 63) ∧ (im 0 0 63).imm false ≤ 63) ∧
      (wordMem (last8 6) ∧ (last8 6).d % 2 = 0 ∧ (last8 6).d ≤ 15 ∧ admitted end0 (last8 6) 8 = true ∧ Desc.space (end0.rdSG 0 (last8 6).sg) = spDRAM ∧ end0.memOffset 0 (last8 6) % 4 = 0) ∧
      condHolds (end0.st 0) ((rg 0 0 0 (2 ^ 19)).fld 19 4) = false ∧ wordPlain { bits := 0 } ∧ (end0.lvl 0).val = 0 ∧ end0.fget (DEAL_STAT.PHASE 0) < SOp.fld { bits := 3 } 0 3 ∧
      ((str 3 1 6 0 0).fld 14 3 = 0 ∧ (str 3 1 6 0 0).fld 0 11 = 0 ∧ (str 3 1 6 0 0).fld 17 3 % 2 = 0) ∧ (str 0 0 0 0 0).fld 21 2 = 0 := by
  unfold wordReg wordImm wordMem wordPlain
  refine ⟨by decide +kernel, fun op => ?_, by decide +kernel, by decide +kernel, by decide +kernel, by decide +kernel, by decide +kernel⟩
  have h : end0.pc 0 = 0x3FFFC := by decide +kernel
  unfold State.nextPc; omega

/-- A level that is not privileged at each privileged word, and a window above the level; a divisor of 0; BCHK; an opcode without a meaning. -/
theorem witness_ScalarTraps :
    at0.executes 0 ∧ at0.priv 0 = false ∧ (above0.executes 0 ∧ above0.lvl 0 < Fin.ofNat 8 ((above0.dl 0).win.extractLsb' 8 3).toNat ∧ (above0.dl 0).win.extractLsb' 0 8 = 1) ∧
      (wordReg (rg 1 2 9) ∧ at0.nextPc 0 (rg 1 2 9) ≤ 0x3FFFC ∧ at0.rdW 0 (rg 1 2 9).b = 0) ∧
      ((im 6 1 0).ext = none ∧ (im 6 1 0).fld 0 13 = 0 ∧ (im 6 1 0).d = 6) ∧
      ((im 7 8 0).fld 0 13 = 0 ∧ (im 7 8 0).d ≤ 7 ∧ (im 7 8 0).a % 4 = 0 ∧ Desc.reserved (at0.descOfW 0 (im 7 8 0).a) = false) ∧
      ((im 31 0 2).a = 0 ∧ (im 31 0 2).sub ≤ 2 ∧ (im 0 31 1).d = 0 ∧ (im 0 31 1).sub < 2 ∧ (at0.dl 0).win.extractLsb' 0 8 = 0) ∧
      (let op := im 1 0 1; op.a = 0 ∧ op.sub < 32 ∧ Desc.limit (at0.rdSG 0 (op.sub % 8)) < (at0.rdW 0 op.d).toNat + 2 ^ (op.sub / 8) - 1 ∧ at0.pc 0 + 4 ≤ 0x3FFFC) ∧
      (let op := rg 4 1 3; op.fld 0 8 = 0 ∧ ¬((at0.rdW 0 op.a).toInt ≤ (at0.rdW 0 op.d).toInt ∧ (at0.rdW 0 op.d).toInt ≤ (at0.rdW 0 op.b).toInt)) ∧
      (let w : Word := 0x0A800000; opcodeDefined w = false ∧ w.extractLsb' 30 2 ≠ 3) := by
  unfold wordReg
  decide +kernel

theorem test_store_then_load : (after (.ldh 0 (last8 5)) (after (.stw 0 (last8 4)) (core { plain with w := plain.w.set 4 0x1234FEDC } trained))).rdW 0 5 = 0xFFFFFEDC := by
  decide +kernel
theorem test_call_links : (after (.call 0 { bits := BitVec.ofNat 23 (2 ^ 19 - 64) }) at0).rdW 0 31 = 0x104 ∧ (after (.call 0 { bits := BitVec.ofNat 23 (2 ^ 19 - 64) }) at0).pc 0 = 0 := by
  decide +kernel
theorem test_load_not_ready : (after (.ldw 0 (last8 5)) cold0).rdW 0 5 = 0xFFFFFFFF ∧ (after (.ldw 0 (last8 5)) cold0).fget (ACCSTAT.STATUS 0) = 3 := by decide +kernel

/- Strings. -/

/-- CT 2, OS and OD at the last element of 8 bytes of SG1, and at the start of a run of two. -/
def strings0 : State := core { plain with w := ((plain.w.set 12 2).set 13 0xFFF8).set 14 0xFFF0 } trained

theorem strings_admit {x : Desc} (h : x = dramSeg) {o k : Nat} (l : o + k ≤ 0x10000) (rd wr : Bool) : Segment.Admits x o k rd wr := by
  subst h
  have : Desc.limit dramSeg = 0xFFFF := by decide
  exact ⟨by decide, fun _ => by decide, fun _ => by decide, by omega, by omega⟩

theorem witness_StringElements :
    strings0.Ready 0 (str 3 1 0 1 1) ∧ (let op := str 3 1 0 1 1; op.ext = none ∧ op.fld 17 3 = 0 ∧ op.fld 0 11 = 0 ∧ op.fld 0 9 = 0 ∧ 2 ^ op.fld 21 2 = 8) ∧
      (let op := str 3 0 6 0 1; op.fld 14 3 = 0 ∧ op.fld 0 11 = 0 ∧ op.fld 0 9 = 0 ∧ op.fld 17 3 % 2 = 0) ∧
      strings0.rdSG 0 1 = dramSeg ∧ (strings0.rdW 0 13).toNat = 0xFFF8 ∧ (strings0.rdW 0 14).toNat = 0xFFF0 ∧ Desc.space dramSeg = spDRAM ∧
      Segment.Admits (strings0.rdSG 0 1) (0xFFF8 : Nat) 8 true false ∧ Segment.Admits (strings0.rdSG 0 1) (0xFFF0 : Nat) 8 true true ∧
      strings0.Sound 0 (descAddr 0 (strings0.rdSG 0 1) (0xFFF8 : Nat)) 8 ∧ strings0.Sound 0 (descAddr 0 (strings0.rdSG 0 1) (0xFFF0 : Nat)) 8 := by
  have d : strings0.rdSG 0 1 = dramSeg := by decide +kernel
  refine ⟨⟨by decide +kernel, by decide +kernel⟩, by decide, by decide, d, by decide +kernel, by decide +kernel, by decide, strings_admit d (by omega) _ _,
    strings_admit d (by omega) _ _, ?_, ?_⟩ <;> rw [d]
  · exact sound_dram (a := 0x10FF8) (by decide +kernel) (by decide +kernel) (by decide +kernel) (by decide +kernel) (by decide +kernel) (by decide +kernel) (by omega) (by omega)
  · exact sound_dram (a := 0x10FF0) (by decide +kernel) (by decide +kernel) (by decide +kernel) (by decide +kernel) (by decide +kernel) (by decide +kernel) (by omega) (by omega)

/-- `strings0` before DRAM is trained. -/
def stringsCold : State := core { plain with w := (plain.w.set 13 0xFFF8).set 14 0xFFF0 } (fields (links ++ [(TRL_DMAP.MAP, 0), (BANK_OWNER.OWNER 1, 5)]))

/-- A string word of 8 byte elements fails at its first access, and at its second. -/
theorem witness_AccessErrors_strings :
    stringsCold.Ready 0 (str 3 0 0 1 1) ∧
      (let op := str 3 0 0 1 1; op.ext = none ∧ op.fld 17 3 = 0 ∧ op.fld 0 11 = 0 ∧ 2 ^ op.fld 21 2 = 8) ∧
      (let op := str 3 0 6 0 1; op.fld 14 3 = 0 ∧ op.fld 0 11 = 0 ∧ op.fld 17 3 % 2 = 0) ∧
      (let s := stringsCold
       s.rdSG 0 1 = dramSeg ∧ (s.rdW 0 13).toNat = 0xFFF8 ∧ (s.rdW 0 14).toNat = 0xFFF0 ∧ s.segWaits 0 dramSeg 0xFFF8 8 = false ∧
         s.segWaits 0 dramSeg 0xFFF0 8 = false) ∧
      (stringsCold.segRead 0 dramSeg 0xFFF8 8).1 ≠ stOK ∧ (stringsCold.segRead 0 dramSeg 0xFFF0 8).1 ≠ stOK ∧ (stringsCold.segWrite 0 dramSeg 0xFFF0 8 5).1 ≠ stOK ∧
      (let r := stringsCold.segRead 0 scratchSeg 0xFFF8 8
       stringsCold.rdSG 0 2 = scratchSeg ∧ stringsCold.segWaits 0 scratchSeg 0xFFF8 8 = false ∧ r.1 = stOK ∧ (r.2.2.segRead 0 dramSeg 0xFFF0 8).1 ≠ stOK ∧
         (r.2.2.segWrite 0 dramSeg 0xFFF0 8 r.2.1).1 ≠ stOK) := by
  exact ⟨⟨by decide +kernel, by decide +kernel⟩, by decide +kernel⟩

theorem witness_Repeats :
    strings0.executes 0 ∧ strings0.pc 0 + 8 ≤ 0x3FFFC ∧
      (let w : Word := BitVec.ofNat 32 (0x112 * 2 ^ 23 + 3 * 2 ^ 21 + 1 * 2 ^ 11)
       let op := SOp.ofWord w
       w.extractLsb' 23 9 = 0x112 ∧ op.fld 20 1 = 0 ∧ op.fld 14 3 = 0 ∧ op.fld 0 11 = 0 ∧ op.fld 17 3 % 2 = 0 ∧ op.fld 21 2 = 3 ∧ op.fld 11 3 = 1) ∧
      at0.rdW 0 12 = 0 ∧ 0 < (strings0.rdW 0 12).toNat ∧ Segment.Admits (strings0.rdSG 0 1) (0xFFF0 : Nat) 16 false true ∧
      (∀ i, i < 2 → strings0.Sound 0 (descAddr 0 (strings0.rdSG 0 1) (0xFFF0 : Nat) + 8 * i) 8) ∧ strings0.interrupts 0 = false ∧
      (0x8B000000 : Word).extractLsb' 29 3 = 4 ∧ 0x15 < ((0x8B000000 : Word).extractLsb' 23 6).toNat := by
  have d : strings0.rdSG 0 1 = dramSeg := by decide +kernel
  refine ⟨by decide +kernel, by decide +kernel, by decide, by decide +kernel, by decide +kernel, strings_admit d (by omega) _ _, fun i hi => ?_, by decide +kernel,
    by decide⟩
  rw [d]
  have a : descAddr 0 dramSeg (0xFFF0 : Nat) = 0x10FF0 := by decide
  exact sound_dram (by decide +kernel) (by decide +kernel) (by decide +kernel) (by decide +kernel) (by decide +kernel) (by decide +kernel) (by omega) (by omega)

/-- A BSEEK of single bytes: STOP, the data register, SGd. -/
def seek (stop r sd : Nat) : Word := BitVec.ofNat 32 (0x114 * 2 ^ 23 + r * 2 ^ 17 + sd * 2 ^ 11 + stop * 2 ^ 9)

/-- A state with CT as given. -/
def counts0 (ct : Word) (s : State) : State := s.setBank 0 { s.bank 0 with w := (s.bank 0).w.set 12 ct }

/-- The state after an iteration that ends without an access error. -/
def iterated (x : StrOp) (op : SOp) (s : State) : State := match x.iter 0 op s with | .done u false => u | _ => State.reset

/-- How an iteration ends: trap, cut, empty, with an access error, without. -/
def iterEnd (x : StrOp) (op : SOp) (s : State) : Nat :=
  match x.iter 0 op s with | .trap _ => 0 | .cut _ => 1 | .empty => 2 | .done _ true => 3 | .done _ false => 4

theorem done_of_iterEnd {x : StrOp} {op : SOp} {s : State} (h : iterEnd x op s = 4) : x.iter 0 op s = .done (iterated x op s) false := by
  unfold iterEnd at h; unfold iterated
  split at h <;> simp_all

theorem undisturbed_of {s : State} (h : s.interrupts 0 = false ∧ s.inTask 0 = false) : s.Undisturbed 0 :=
  ⟨h.1, fun t => absurd (h.2.symm.trans t) (by decide)⟩

/-- Each way a REP ends: by an absent segment, a tag wanting, an empty quadrant set, an access error, STOP, CT; and in its second iteration. -/
theorem witness_Repeats_ends :
    (strOf (seek 0 0 3)).map StrOp.opc = some 0x14 ∧ (∀ st, st < 3 → strBseek.reserved (SOp.ofWord (seek st 0 3)) = false ∧ (SOp.ofWord (seek st 0 3)).fld 9 2 = st) ∧
      (strOf 0x8A800000).map StrOp.opc = some 0x15 ∧ strPlmov.reserved (SOp.ofWord 0x8A800000) = false ∧
      (∀ s ∈ [at0, tagless0, cold0], (counts0 2 s).executes 0 ∧ ((counts0 2 s).charge 0 1).rdW 0 12 = 2) ∧
      iterEnd strBseek (SOp.ofWord (seek 0 0 4)) ((counts0 2 at0).charge 0 1) = 0 ∧ iterEnd strBseek (SOp.ofWord (seek 0 0 1)) ((counts0 2 tagless0).charge 0 1) = 1 ∧
      iterEnd strPlmov (SOp.ofWord 0x8A800000) ((counts0 2 at0).charge 0 1) = 2 ∧ iterEnd strBseek (SOp.ofWord (seek 0 0 1)) ((counts0 2 cold0).charge 0 1) = 3 ∧
      (∀ p ∈ [(1, 0, true), (2, 0, false), (1, 1, false), (2, 1, true)], let op := SOp.ofWord (seek p.1 p.2.1 3)
        let s := (counts0 2 at0).charge 0 1
        let u := (iterated strBseek op s).counted 0
        iterEnd strBseek op s = 4 ∧ (decide (op.fld 9 2 = 1) && stZ (u.st 0) || decide (op.fld 9 2 = 2) && !stZ (u.st 0)) = p.2.2) ∧
      (let op := SOp.ofWord (seek 0 0 3)
       let s := (counts0 2 at0).charge 0 1
       let u := (iterated strBseek op s).counted 0
       Iterated strBseek 0 op 1 s u ∧ u.rdW 0 12 = 1 ∧ iterEnd strBseek op u = 4 ∧ ((iterated strBseek op u).counted 0).rdW 0 12 = 0) := by
  refine ⟨by decide, by decide, by decide, by decide, by decide +kernel, by decide +kernel, by decide +kernel, by decide +kernel, by decide +kernel, by decide +kernel, ?_⟩
  exact ⟨⟨_, done_of_iterEnd (by decide +kernel), fun h => absurd h.2 (by decide), undisturbed_of (by decide +kernel), rfl⟩, by decide +kernel⟩

/- Levels and tasks. -/

/-- Dealer 0 at the privileged HANDLER level 6 with WIN as given; `b` is level 6's bank, W3 holds `v`. -/
def window0 (win v : Word) : State :=
  let s := (handler0.fsets [(LVLPRIV.PRIV 0, 64)]).setBankAt 0 6 { plain with w := plain.w.set 3 v }
  s.setDl 0 { s.dl 0 with win := win, stage := (((s.dl 0).stage.set 0 0x1000).set 1 0x80180000).set 2 0xFFF }

theorem witness_Window :
    (∀ p ∈ [(0x677, 0x600), (0x600, 0x77), (0x61F, 5), (0x63F, 5), (0x64F, 5), (0x472, 0x3FFFC), (0x66E, 7), (0x66F, 0), (0x670, 0x1F), (0x671, 0x3FFFF),
        (0x673, 0x3FFFC), (0x674, 0x0C), (0x675, 0xFFFFFFFF), (0x676, 0), (0x41F, 5), (0x43F, 5), (0x44F, 5), (0x46F, 0)],
      let s := window0 (BitVec.ofNat 32 p.1) (BitVec.ofNat 32 p.2)
      let v := s.rdW 0 3
      let i := ((s.dl 0).win.extractLsb' 0 8).toNat
      let staged : Desc := v ++ (s.dl 0).stage.get 2 ++ (s.dl 0).stage.get 1 ++ (s.dl 0).stage.get 0
      s.executes 0 ∧ s.nextPc 0 (im 0 3 0) ≤ 0x3FFFC ∧ s.priv 0 = true ∧ i ≤ 0x77 ∧ ((s.dl 0).win.extractLsb' 8 3).toNat ≤ (s.lvl 0).val ∧
      (p.1 = 0x472 → v ≤ 0x3FFFC ∧ v.toNat % 4 = 0) ∧ (p.2 = 0x77 → v.extractLsb' 11 21 = 0 ∧ (v.extractLsb' 0 8).toNat ≤ 0x77) ∧
      (i = 0x70 → v.extractLsb' 16 16 = 0 ∧ v.extractLsb' 5 6 = 0) ∧ (i = 0x71 → v.extractLsb' 24 8 = 0) ∧
      (i = 0x73 ∨ i = 0x76 → v.extractLsb' 18 14 = 0 ∧ v.extractLsb' 0 2 = 0) ∧ (i = 0x74 → v.extractLsb' 13 19 = 0 ∧ v.extractLsb' 0 8 ≤ 0x0C) ∧
      (i = 0x6F → Desc.reserved staged = false ∧ (Desc.present staged && Desc.wra staged && Desc.space staged == spCODE) = false ∧ Desc.beyond staged = false)) ∧
      ((im 31 0 2).a = 0 ∧ (im 31 0 2).sub = 2) ∧ ((im 0 3 2).d = 0 ∧ (im 0 3 2).sub = 2) ∧ ((im 31 0 1).a = 0 ∧ (im 31 0 1).sub < 2) ∧
      ((im 0 3 1).d = 0 ∧ (im 0 3 1).sub < 2) := by
  decide +kernel

theorem test_window_reads_pc : (after (.wget 0 (im 31 0 1)) (window0 0x672 0)).rdW 0 31 = 0x100 ∧ ((after (.wget 0 (im 31 0 1)) (window0 0x672 0)).dl 0).win = 0x673 := by
  decide +kernel

/-- A privileged level with a pool of areas in bank 1; SFL and the chain of level 0 hold the area given. -/
def pool0 (free chain : Nat) : State :=
  handler0.fsets [(LVLPRIV.PRIV 0, 64), (SPOOL.COUNT 0, 1), (SPOOL.BANK 0, 1), (SPOOL.FIRST 0, 0x80), (SFL.VALID 0, free), (SFL.AREA 0, 1), (SAH.VALID 0 0, chain), (SAH.AREA 0 0, 1)]

theorem ready_pool0 (p : Nat × Nat) (h : p ∈ [(1, 0), (0, 0), (0, 1)]) : (pool0 p.1 p.2).Ready 0 { bits := 0 } ∧ (pool0 p.1 p.2).priv 0 = true := by
  simp at h
  rcases h with rfl | rfl | rfl <;> exact ⟨⟨by decide +kernel, by decide +kernel⟩, by decide +kernel⟩

/-- As `pool0`, with an XPC to return to and EMBUSY as given. -/
def busy0 (busy : Nat) : State := ((pool0 0 0).fset (LVLSTAT.EMBUSY 0) (64 * busy)).setBankAt 0 6 { plain with xpc := 0x3FFFC }

theorem witness_EmergencyArea :
    let busy := bitFld (LVLSTAT.EMBUSY 0).off ((LVLSTAT.EMBUSY 0).lo + 6)
    (∀ x, x < 2 → (busy0 x).Ready 0 { bits := 0 } ∧ (busy0 x).fget busy = x ∧ ((busy0 x).bank 0).xpc.toNat ≤ 0x3FFFC ∧ ((busy0 x).bank 0).xpc.toNat % 4 = 0 ∧
      (busy0 x).SoundSpan 0 ((busy0 x).areaAddr 0 (0x200 * ((busy0 x).lvl 0).val)) 0x54) ∧
      (busy0 0).priv 0 = true ∧ (busy0 0).fget (SFL.VALID 0) = 0 := by
  refine ⟨fun x hx => ?_, by decide +kernel, by decide +kernel⟩
  obtain rfl | rfl : x = 0 ∨ x = 1 := by omega
  all_goals refine ⟨⟨by decide +kernel, by decide +kernel⟩, by decide +kernel, by decide +kernel, by decide +kernel, ?_⟩
  · rw [show (busy0 0).areaAddr 0 (0x200 * ((busy0 0).lvl 0).val) = storeBase (1 : Fin 32) + 0xC00 by decide +kernel]
    exact soundSpan_bank 1 (by decide +kernel) (by decide +kernel) (by decide +kernel) (by omega)
  · rw [show (busy0 1).areaAddr 0 (0x200 * ((busy0 1).lvl 0).val) = storeBase (1 : Fin 32) + 0xC00 by decide +kernel]
    exact soundSpan_bank 1 (by decide +kernel) (by decide +kernel) (by decide +kernel) (by omega)

/-- The chain of level 0 holds area 1, saved by SAVEL or SAVEU (kind 1 or 2). -/
def saved0 (kind : BitVec 8) : State := { pool0 0 1 with mem := [(0x4000048104, kind)] }

theorem witness_SaveAreas :
    ((pool0 1 0).Ready 0 { bits := 0 } ∧ (pool0 1 0).fget (SFL.VALID 0) = 1 ∧ (pool0 1 0).fget (SFL.AREA 0) ≤ (pool0 1 0).fget (SPOOL.COUNT 0) ∧
      (pool0 1 0).SoundSpan 0 ((pool0 1 0).saveArea 0 1) 256) ∧
      ((pool0 0 0).Ready 0 { bits := 0 } ∧ (pool0 0 0).fget (SAH.VALID 0 0) = 0) ∧
      ∀ k ∈ [1, 2], (saved0 k).Ready 0 { bits := 0 } ∧ (saved0 k).priv 0 = true ∧ (saved0 k).fget (SAH.VALID 0 0) = 1 ∧
        (saved0 k).fget (SAH.AREA 0 0) ≤ (saved0 k).fget (SPOOL.COUNT 0) ∧ (saved0 k).SoundSpan 0 ((saved0 k).saveArea 0 1) 256 ∧
        ((saved0 k).wordAt ((saved0 k).saveArea 0 1 + 4)).extractLsb' 0 4 = k.setWidth 4 ∧
        (((saved0 k).wordAt ((saved0 k).saveArea 0 1 + 4)).extractLsb' 8 3).toNat = 0 ∧ ((saved0 k).lvl 0).val ≠ 0 := by
  refine ⟨⟨(ready_pool0 (1, 0) (by simp)).1, by decide +kernel, by decide +kernel, ?_⟩, ⟨(ready_pool0 (0, 0) (by simp)).1, by decide +kernel⟩, fun k hk => ?_⟩
  · rw [show (pool0 1 0).saveArea 0 1 = storeBase (1 : Fin 32) + 0x8100 by decide +kernel]
    exact soundSpan_bank 1 (by decide +kernel) (by decide +kernel) (by decide +kernel) (by omega)
  · simp at hk
    rcases hk with rfl | rfl
    all_goals refine ⟨⟨by decide +kernel, by decide +kernel⟩, by decide +kernel, by decide +kernel, by decide +kernel, ?_, by decide +kernel, by decide +kernel, by decide +kernel⟩
    · rw [show (saved0 1#8).saveArea 0 1 = storeBase (1 : Fin 32) + 0x8100 by decide +kernel]
      exact soundSpan_bank 1 (by decide +kernel) (by decide +kernel) (by decide +kernel) (by omega)
    · rw [show (saved0 2#8).saveArea 0 1 = storeBase (1 : Fin 32) + 0x8100 by decide +kernel]
      exact soundSpan_bank 1 (by decide +kernel) (by decide +kernel) (by decide +kernel) (by omega)

theorem test_savel_links : (after (.savel 0 { bits := 0 }) (pool0 1 0)).fget (SAH.VALID 0 0) = 1 ∧ (after (.savel 0 { bits := 0 }) (pool0 1 0)).fget (SFL.VALID 0) = 0 := by
  decide +kernel

/-- Where no source is pending, no level is offered an event. -/
theorem no_offers {s : State} {n : Dealer} (h : ∀ e, e < 320 → s.fget (bitFld (EVT_PEND.reg 0) e) = 0) (k e : Nat) : ¬s.Offers n k e := by
  intro o
  have := o.pending
  rw [h e o.source] at this
  exact absurd this (by decide)

/-- Level 6 of Dealer 0 in use, with an event for it when `k` is 1 that waits while level 0 runs. -/
def levels0 (cur active : Nat) (evs : List (Fld × Nat)) : State :=
  let s := (trained.fsets ([(LVLSTAT.CUR 0, cur), (LVLSTAT.ACTIVE 0, active), (LVLCFG.KIND 0, 0x1003), (LBASE.BANK 0, 1), (LVEC.VEC 0 6, 0x40)] ++ evs)).setBankAt 0 6 plain
  s.setDl 0 { s.dl 0 with live := true }

/-- Event 319 goes to level 6 of Dealer 0 and is pending. -/
def event0 : State := levels0 0 1 [(EVT_ROUTE.KIND 319, 1), (EVT_ROUTE.LEVEL 319, 6), (EVT_CAP.CAP 319, 1), (bitFld (EVT_PEND.reg 0) 319, 1)]

theorem witness_HandlerLevels :
    (event0.executes 0 ∧ (event0.dl 0).live = true ∧ event0.fget (bitOf (LVLSTAT.ACTIVE 0) 7) = 0 ∧ event0.levelKind 0 6 = 1 ∧
      event0.fget (bitOf (LVLSTAT.ACTIVE 0) 6) = 0 ∧ (event0.lvl 0).val < 6 ∧ event0.NoneAbove 0 6 ∧ event0.Offers 0 6 319 ∧ ∀ i, i < 319 → ¬event0.Offers 0 6 i) ∧
      (let s := levels0 6 65 []
       s.executes 0 ∧ (s.dl 0).live = true ∧ s.fget (bitOf (LVLSTAT.ACTIVE 0) 7) = 0 ∧ s.levelKind 0 (s.lvl 0).val = 1 ∧ (s.dl 0).msp = (s.dl 0).mspRec.get (s.lvl 0) ∧
         natBit ((s.dl 0).filled.get (s.lvl 0)) 0 = false ∧ natBit ((s.dl 0).filled.get (s.lvl 0)) 1 = false ∧ (∀ i e, ¬s.Offers 0 i e) ∧
         (∀ i, i < 8 → s.fget (TASKSTAT.READY 0 i) = 0) ∧ s.fget (bitOf (LVLSTAT.ACTIVE 0) 0) = 1 ∧
         ∀ i, 0 < i → i < 8 → i ≠ 6 → s.fget (bitOf (LVLSTAT.ACTIVE 0) i) = 0) ∧
      (let s := (levels0 6 65 []).setDl 0 { (levels0 6 65 []).dl 0 with filled := ((levels0 6 65 []).dl 0).filled.set 6 3 }
       natBit ((s.dl 0).filled.get 6) 0 = true ∧ s.SoundSpan 0 (s.lazyF 0 6) 128 ∧ s.SoundSpan 0 (s.lazyPD 0 6) 64) := by
  refine ⟨⟨by decide +kernel, by decide +kernel, by decide +kernel, by decide +kernel, by decide +kernel, by decide +kernel, ?_, ?_, ?_⟩, ?_, ?_⟩
  · intro k h1 h2; omega
  · exact ⟨by omega, by decide +kernel, by decide +kernel, by decide +kernel, fun h => absurd h (by decide +kernel)⟩
  · intro i hi o
    have h : ∀ e, e < 319 → event0.fget (bitFld (EVT_PEND.reg 0) e) = 0 := by decide +kernel
    have := o.pending
    rw [h i hi] at this
    exact absurd this (by decide)
  · refine ⟨by decide +kernel, by decide +kernel, by decide +kernel, by decide +kernel, by decide +kernel, by decide +kernel, by decide +kernel, no_offers (by decide +kernel),
      by decide +kernel, by decide +kernel, ?_⟩
    have : ∀ i, i < 8 → 0 < i → i ≠ 6 → (levels0 6 65 []).fget (bitOf (LVLSTAT.ACTIVE 0) i) = 0 := by decide +kernel
    exact fun i a b c => this i b a c
  · refine ⟨by decide +kernel, ?_, ?_⟩
    · show State.SoundSpan _ 0 (storeBase (1 : Fin 32) + 0xC80) 128
      exact soundSpan_bank 1 (by decide +kernel) (by decide +kernel) (by decide +kernel) (by omega)
    · show State.SoundSpan _ 0 (storeBase (1 : Fin 32) + 0xD00) 64
      exact soundSpan_bank 1 (by decide +kernel) (by decide +kernel) (by decide +kernel) (by omega)

theorem test_level_entry : (after (.levelEntry 0) event0).fget (LVLSTAT.CUR 0) = 6 ∧ (after (.levelEntry 0) event0).pc 0 = 0x100 ∧ (after (.levelEntry 0) event0).rdW 0 1 = 319 := by
  decide +kernel

/-- Level 6 a TASK level at task 2, the tasks of `ready` ready. -/
def tasks0 (ready : Nat) : State :=
  let s := levels0 6 65 [(LVLCFG.KIND 0, 0x2003), (TASKSTAT.RES 0 6, 2), (TASKSTAT.READY 0 6, ready)]
  s

theorem sound_tasks0 (r : Nat) (h : r ∈ [4, 6]) (j : Nat) (hj : j < 8) : (tasks0 r).SoundSpan 0 ((tasks0 r).tcb 0 6 j) 0x14C := by
  have e : (tasks0 r).tcb 0 6 j = storeBase (1 : Fin 32) + (0x1000 + 0x200 * (48 + j)) := by
    unfold State.tcb State.areaAddr
    simp at h
    rcases h with rfl | rfl
    · rw [show (tasks0 4).fget (LBASE.BANK (0 : Dealer).val) = 1 by decide +kernel, show (tasks0 4).fget (LBASE.BLK (0 : Dealer).val) = 0 by decide +kernel]; rfl
    · rw [show (tasks0 6).fget (LBASE.BANK (0 : Dealer).val) = 1 by decide +kernel, show (tasks0 6).fget (LBASE.BLK (0 : Dealer).val) = 0 by decide +kernel]; rfl
  rw [e]
  simp at h
  rcases h with rfl | rfl <;> exact soundSpan_bank 1 (by decide +kernel) (by decide +kernel) (by decide +kernel) (by omega)

theorem witness_TaskLevels :
    (let s := tasks0 6
     s.Ready 0 { bits := 0 } ∧ (s.dl 0).msp = (s.dl 0).mspRec.get (s.lvl 0) ∧ s.levelKind 0 6 = 2 ∧ stTRP (s.st 0) = false ∧ s.fget (TASKSTAT.RES 0 6) = 2 ∧
       s.fget (bitOf (TASKSTAT.READY 0 6) 1) = 1 ∧ (∀ i, i < 8 → 1 < i → i ≠ 2 → s.fget (bitOf (TASKSTAT.READY 0 6) i) ≠ 1) ∧
       s.SoundSpan 0 (s.tcb 0 6 2) 0x14C ∧ s.SoundSpan 0 (s.tcb 0 6 1) 0x14C ∧ ∀ e, e < 320 → s.fget (bitFld (EVT_PEND.reg 0) e) = 0) ∧
      (let s := tasks0 4
       s.Ready 0 { bits := 0 } ∧ s.levelKind 0 6 = 2 ∧ s.SoundSpan 0 (s.tcb 0 6 2) 0x14C ∧ (∀ i, i < 8 → i ≠ 2 → s.fget (bitOf (TASKSTAT.READY 0 6) i) ≠ 1) ∧
         (s.dl 0).live = true ∧ (∀ i, i < 8 → i ≠ 6 → s.fget (TASKSTAT.READY 0 i) = 0) ∧ (∀ i, i < 10 → s.reg (EVT_PEND.reg i) = 0) ∧
         s.fget (bitOf (LVLSTAT.ACTIVE 0) 0) = 1 ∧ ∀ i, i < 8 → 0 < i → i ≠ 6 → s.fget (bitOf (LVLSTAT.ACTIVE 0) i) = 0) := by
  refine ⟨⟨⟨by decide +kernel, by decide +kernel⟩, by decide +kernel, by decide +kernel, by decide +kernel, by decide +kernel, by decide +kernel, by decide +kernel,
    sound_tasks0 6 (by simp) 2 (by omega), sound_tasks0 6 (by simp) 1 (by omega), by decide +kernel⟩, ⟨by decide +kernel, by decide +kernel⟩, by decide +kernel,
    sound_tasks0 4 (by simp) 2 (by omega), by decide +kernel, by decide +kernel, by decide +kernel, by decide +kernel, by decide +kernel, by decide +kernel⟩

theorem test_swto_runs_task_1 : (after (.swto 0 { bits := 0 }) (tasks0 6)).fget (TASKSTAT.RES 0 6) = 1 ∧
    (after (.swto 0 { bits := 0 }) (tasks0 6)).wordAt ((tasks0 6).tcb 0 6 2 + 0x144) = 0x104 := by decide +kernel

/-- After its first iteration a REP stops for an event to be entered, and for a task that outranks the running one. -/
theorem witness_Repeats_interrupted :
    let op := SOp.ofWord (seek 0 0 3)
    let first (s : State) : State := (iterated strBseek op (s.charge 0 1)).counted 0
    (let s := counts0 2 (event0.setBankAt 0 0 plain)
     s.executes 0 ∧ iterEnd strBseek op (s.charge 0 1) = 4 ∧ (first s).interrupts 0 = true) ∧
    (let s := counts0 2 (tasks0 12)
     s.executes 0 ∧ iterEnd strBseek op (s.charge 0 1) = 4 ∧ (first s).interrupts 0 = false ∧ (((first s).taskAccept 0).outranks 0).isSome = true) := by
  decide +kernel

/- Events, ticks and deals. -/

theorem witness_EventDelivery :
    ∀ k, k < 5 → (fields [(EVT_ROUTE.KIND 319, k)]).fget (EVT_ROUTE.KIND 319) = k ∧
      (fields [(EVT_ROUTE.KIND 319, k), (bitFld (EVT_PEND.reg 0) 319, 1), (bitFld (SEAT_EVP.reg 0 0) 319, 1)]).fget (bitFld (EVT_PEND.reg 0) 319) = 1 ∧
      (fields [(bitFld (SEAT_EVP.reg 0 0) 319, 1)]).fget (bitFld (SEAT_EVP.reg 0 0) 319) = 1 := by decide +kernel

theorem witness_PhaseAndDend :
    (∀ op, at0.Ready 0 op) ∧ (at0.lvl 0).val = 0 ∧ (let op : SOp := { bits := 3 }; op.fld 3 20 = 0 ∧ op.fld 0 3 = 3 ∧ at0.fget (DEAL_STAT.PHASE 0) < 3) ∧
      (let op : SOp := { bits := 4 }; op.fld 3 20 = 0 ∧ 4 ≤ op.fld 0 3) ∧
      (let s := live (trained.fset (LVLSTAT.ACTIVE 0) 1)
       (s.executes 0 ∧ s.nextPc 0 { bits := 0 } ≤ 0x3FFFC) ∧ (s.lvl 0).val = 0 ∧ (s.dl 0).msp = 0 ∧ (∀ k e, ¬s.Offers 0 k e) ∧ s.fget (LVLSTAT.ACTIVE 0) = 1 ∧
         (∀ j, j < 8 → s.fget (TASKSTAT.READY 0 j) = 0) ∧ s.fget (EVT_ROUTE.KIND 69) ≠ 1 ∧ s.switching = false) := by
  refine ⟨ready_at0, by decide +kernel, by decide +kernel, by decide, by decide +kernel, by decide +kernel, by decide +kernel, no_offers (by decide +kernel), by decide +kernel,
    by decide +kernel, by decide +kernel, by decide +kernel⟩

/-- The tick machine runs. -/
def ticks0 (l : List (Fld × Nat)) : State := { fields l with ticking := true }

/-- DSP0 ticks, from 100 to 200 cycles apart. -/
def dspTicks0 : State := ticks0 [(TICK_MIN.CYCLES, 100), (TICK_MAX.CYCLES, 200)]

/-- The timer stands in for DSP0, 150 cycles apart. -/
def standIn0 : State := dspTicks0.fsets [(TICK_STAT.ONTIMER, 1), (TICK_NOM.CYCLES, 150)]

theorem witness_TickSources :
    (ticks0 []).ticking = true ∧ (ticks0 [(TICK_CFG.SRC, 1)]).fget TICK_CFG.SRC = 1 ∧
      (¬standIn0.fget TICK_CFG.SRC = 1 ∧ standIn0.fget TICK_STAT.ONTIMER = 1 ∧ standIn0.edgeHeld = false ∧ standIn0.fget TICK_NOM.CYCLES = 150 ∧
        standIn0.fget TICK_MIN.CYCLES = 100) ∧
      (¬dspTicks0.fget TICK_CFG.SRC = 1 ∧ ¬dspTicks0.fget TICK_STAT.ONTIMER = 1 ∧ dspTicks0.edgeHeld = false ∧ dspTicks0.fget TICK_MIN.CYCLES = 100 ∧
        dspTicks0.fget TICK_MAX.CYCLES = 200) ∧
      { dspTicks0 with edgeHeld := true }.edgeHeld = true ∧ (∀ n, (dspTicks0.dl n).restartRun < 3) ∧
      ((fields [(LOAD_STAT.STATE, 1)]).ticking = false ∧ (fields [(LOAD_STAT.STATE, 1)]).fget LOAD_STAT.STATE = 1) := by
  decide +kernel

theorem test_early_frame_start_is_held : (after (.tickEdge 99) dspTicks0).edgeHeld = true ∧ (after (.tickEdge 99) dspTicks0).fget TICK_STAT.HOLDS = 1 ∧
    after (.tickEdge 201) dspTicks0 = dspTicks0 ∧ (after (.tickEdge 200) dspTicks0).fget TICK_LAST.CYCLES = 200 := by decide +kernel

/-- Step 3 and 4 of a tick edge of Dealer 0: variant 0 and the early entry present, START 0x100, RECOVERY 0x200. -/
def deals0 (f : DealerCore → DealerCore) : State :=
  let s := { fields [] with full := true, mem := [(0x4200400001, 1), (0x4200400003, 0x80), (0x4200400005, 2), (0x4200400081, 1), (0x4200400083, 0x80), (0x4200400085, 2)] }
  s.setDl 0 (f (s.dl 0))

/-- An overrun that waits for its cut: level `cur` of Dealer 0 current, L0 active; a tick that ended as `e`. -/
def overrun0 (cur e : Nat) : State :=
  let s := { trained.fsets [(LVLSTAT.ACTIVE 0, if cur = 0 then 1 else 65), (LVLSTAT.CUR 0, cur)] with switching := true }
  s.setDl 0 { s.dl 0 with tickEnd := e, cutDue := true, arrayHeld := 64 }

theorem witness_Deals :
    (∀ p ∈ [(0, 0), (0, 3), (6, 0)], let s := overrun0 p.1 p.2
      s.switching = true ∧ (s.dl 0).halted = false ∧ (s.dl 0).pendMC = none ∧ s.fget (bitOf (LVLSTAT.ACTIVE 0) 0) = 1 ∧
        s.fget (bitOf (LVLSTAT.ACTIVE 0) 7) = 0 ∧ (s.lvl 0).val = p.1 ∧ (s.dl 0).tickEnd = p.2) ∧
      (let s := { deals0 id with switching := true }
       s.switching = true ∧ (∀ m : Dealer, s.fget (bitOf (LVLSTAT.ACTIVE m) 0) = 0 ∧ s.fget (bitOf (LVLSTAT.ACTIVE m) 7) = 0) ∧ s.gard = {} ∧
         s.drives 0 = true ∧ s.full = true ∧ natBit (s.wordData (dealBase 0 + 16 * s.fget (DEAL_COND.COND 0))) 31 = true ∧
         (s.prunedIn (s.region 0)).length ≤ 1 ∧ s.drives 1 = true ∧ natBit (s.wordData (dealBase 1 + 16 * s.fget (DEAL_COND.COND 1))) 31 = false) ∧
      (∀ full ∈ [true, false], ∀ back ∈ [true, false], let s := { deals0 (fun d => { d with startDue := true, recover := back }) with full := full }
       (s.dl 0).startDue = true ∧ s.switching = false ∧ (s.dl 0).halted = false ∧ s.drives 0 = true ∧ s.fget (LVLSTAT.ACTIVE 0) = 0 ∧
         natBit (s.wordData (dealBase 0 + (if s.full then 16 * s.fget (DEAL_COND.COND 0) else 0x80))) 31 = true ∧
         ¬(s.full = true ∧ 2 ≤ (s.prunedIn (s.region 0)).length)) ∧
      (let s := { deals0 (fun d => { d with startDue := true }) with mem := [] }
       (s.dl 0).startDue = true ∧ natBit (s.wordData (dealBase 0 + 16 * s.fget (DEAL_COND.COND 0))) 31 = false) := by
  refine ⟨?_, ?_, ?_, ?_⟩ <;> decide +kernel

theorem test_deal_starts : (after (.dealStart 0) (deals0 (fun d => { d with startDue := true }))).pc 0 = 0x100 ∧
    (after (.dealStart 0) (deals0 (fun d => { d with startDue := true, tickEnd := 2, recover := true }))).pc 0 = 0x200 ∧
    (after (.dealStart 0) (deals0 (fun d => { d with startDue := true, tickEnd := 2, recover := true }))).rdW 0 1 = 2 := by decide +kernel

theorem test_overrun_is_cut : (after (.overrunCut 0) (overrun0 0 3)).fget (LVLSTAT.ACTIVE 0) = 0 ∧ ((after (.overrunCut 0) (overrun0 0 3)).dl 0).tickEnd = 3 ∧
    (after (.overrunCut 0) (overrun0 6 0)).fget (LVLSTAT.CUR 0) = 6 ∧ ((after (.overrunCut 0) (overrun0 6 0)).dl 0).arrayHeld = 64 := by decide +kernel

theorem witness_Ramps :
    (let s := { deals0 (fun d => { d with ramping := true }) with plan := { earlyTiles := 1 } }
     s.switching = false ∧ (s.dl 0).ramping = true ∧ natBit (s.region 0) 0 = true ∧ (s.toRaise 0).find? (fun j => tileQuad j == 0) = some 0) ∧
      (let s := fields [(DEAL_STAT.PHASE 0, 4)]
       (s.dl 0).ramping = false ∧ s.fget (DEAL_STAT.PHASE 0) = 4 ∧ s.switching = false ∧ (s.dl 0).startDue = false) ∧
      (let s := deals0 (fun d => { d with arrayHeld := 1 }); (s.dl 0).arrayHeld = 1 ∧ s.mustHold 0 = false) := by
  decide +kernel

/- The array: one early tile, raised; plane descriptors that cover the widths and both ends of the planes. -/

/-- A descriptor: base plane, width, quadrant set. -/
def pd (base width q : Nat) : Word := BitVec.ofNat 32 (base + 2 ^ 16 * width + 2 ^ 28 * q)

/-- PD0 to PD3 are 8 planes, PD4 and PD5 one (PD4 at P1919, PD5 within PD0), PD6 to PD9 32 planes, PD10 to PD13 16 planes, PD14 all
the planes from P1856, PD15 4 planes. -/
def pds : Vector Word 16 :=
  #v[pd 0 8 1, pd 8 8 1, pd 16 8 1, pd 24 8 1, pd 1919 1 1, pd 0 1 1, pd 32 32 1, pd 64 32 1, pd 96 32 1, pd 128 32 1, pd 160 16 1, pd 176 16 1, pd 192 16 1,
    pd 208 16 1, pd 1856 64 1, pd 224 4 1]

/-- The opcodes of the array instructions, and a customer opcode. -/
def opcodes : List Nat :=
  [0x000, 0x001, 0x002, 0x003, 0x004, 0x005, 0x008, 0x009, 0x00A, 0x040, 0x041, 0x080, 0x081, 0x082, 0x083, 0x088, 0x089, 0x08C, 0x08D, 0x08E, 0x0C0, 0x0C1,
    0x0C2, 0x0C3, 0x0C4, 0x0C5, 0x0C8, 0x0C9, 0x0CA, 0x0CB, 0x0D0, 0x0D1, 0x0D2, 0x0D3, 0x0D4, 0x0D5, 0x0D8, 0x0D9, 0x0DA, 0x0E0, 0x0E1, 0x0E8, 0x0E9, 0x0EA,
    0x0EB, 0x3FF] ++ (List.range 18).map (0x140 + ·) ++ (List.range 18).map (0x160 + ·)

/-- A Dealer before an array instruction. -/
def arrCore (msp : Nat) (fpc : Word) : DealerCore :=
  { DealerCore.zero with banks := Vector.replicate 8 { plain with pd := pds, fpc := fpc }, msp := msp, live := true }

/-- The Dealers before an array instruction, the opcode with its dispatch entry for Dealer 0, the mask stack at a depth. -/
def arr0 (aop : Nat) (msp : Nat := 0) (fpc : Word := 0) : State :=
  { trained with
    dealers := Vector.replicate 4 (arrCore msp fpc), mem := [(0x4200080001 + 8 * aop, 0x80)], raised := 1, plan := { earlyTiles := 1 } }

theorem trained_syn : trained.syn = [] := by decide +kernel

theorem entries : ∀ aop ∈ opcodes, natBit ((arr0 aop).wordData (ctlBase 0 + 0x80000 + 8 * aop)) 15 = true := by decide +kernel

theorem arr0_clean (aop msp : Nat) (fpc : Word) (a : Nat) : (arr0 aop msp fpc).wordSyn a = 0 :=
  clean_of_empty (by unfold arr0; dsimp only; exact trained_syn) a

theorem arr0_dl (aop msp : Nat) (fpc : Word) (n : Dealer) : (arr0 aop msp fpc).dl n = arrCore msp fpc := by
  unfold State.dl arr0; simp [Vector.get]

theorem arr0_bank (aop msp : Nat) (fpc : Word) : (arr0 aop msp fpc).bank 0 = { plain with pd := pds, fpc := fpc } := by
  unfold State.bank State.bankAt; rw [arr0_dl]; unfold arrCore; simp [Vector.get]

theorem arr0_pd (aop msp : Nat) (fpc : Word) (r : Fin 16) : (arr0 aop msp fpc).rdPD 0 r = pds.get r := by
  unfold State.rdPD; rw [arr0_bank, show Fin.ofNat 16 r.val = r from Fin.ext (Nat.mod_eq_of_lt r.isLt)]

theorem arr0_region (aop msp : Nat) (fpc : Word) : (arr0 aop msp fpc).region 0 = 1 := by
  simp only [State.region, State.drives, State.role, State.fbit, State.fget, State.reg, show (arr0 aop msp fpc).regs = trained.regs from rfl]
  decide +kernel

theorem arr0_hold (aop msp : Nat) (fpc : Word) : (arr0 aop msp fpc).mustHold 0 = false := by
  unfold State.mustHold
  rw [arr0_dl, arr0_region]
  show (false || false || (rangeFrom 0 64).any fun t => natBit 1 (tileQuad t) && (!trained.pruned t && (false || natBit 1 t)) && !natBit 1 t) = false
  decide +kernel

theorem arr0_fits : ∀ r : Fin 16, pdReserved (pds.get r) = false ∧ pdBase (pds.get r) + pdWidth (pds.get r) ≤ 1920 := by decide +kernel

/-- A state with the registers of `trained` and the Dealers of `arr0` issues its array instruction. -/
theorem issues_of {s : State} {m : Nat} {f : Word} (r : s.regs = trained.regs) (d : s.dl 0 = arrCore m f) : s.issues 0 := by
  have idle : s.coreIdle 0 = false := by
    unfold State.coreIdle State.role State.lvl State.fbit State.fget State.reg
    rw [d, r]
    show (false || _ || _) = false
    decide +kernel
  unfold State.issues; rw [d]; exact ⟨rfl, rfl, idle, rfl⟩

theorem arr0_issues (aop msp : Nat) (fpc : Word) : (arr0 aop msp fpc).issues 0 := issues_of rfl (arr0_dl aop msp fpc 0)

/-- The checks pass in `arr0` for every opcode, with any of its descriptors. -/
theorem arr0_runs (aop : Nat) (h : aop ∈ opcodes) (op : AOp) (rs : List (Fin 16)) (q : Nat := 1) (hq : q < 2 := by decide) (msp : Nat := 0) (fpc : Word := 0) :
    (arr0 aop msp fpc).ArrayRuns 0 aop op (rs.map (fun r : Fin 16 => (arr0 aop msp fpc).rdPD 0 r)) q := by
  refine ⟨⟨?_, arr0_hold aop msp fpc, arr0_clean aop msp fpc _, entries aop h, ?_⟩, fun p y j _ _ _ => arr0_clean aop msp fpc _, fun w hw => ?_, fun k hk hb => ?_⟩
  · exact arr0_issues aop msp fpc
  · have : (arr0 aop msp fpc).pc 0 = 0x100 := by unfold State.pc; rw [arr0_bank]; rfl
    have : op.extN ≤ 1 := by unfold AOp.extN b2n; split <;> omega
    omega
  · obtain ⟨r, _, rfl⟩ := List.mem_map.mp hw
    rw [arr0_pd]; exact arr0_fits r
  · rw [arr0_region]
    obtain rfl | rfl : q = 0 ∨ q = 1 := by omega
    · unfold natBit at hb; simp at hb
    · exact hb

/-- An operand word: descriptors, IMM7, extension word. -/
def ar (d a b : Fin 16) (imm : BitVec 7 := 0) (ext : Option Word := none) (half : Bool := false) : AOp := { pdd := d, pda := a, pdb := b, imm7 := imm, half := half, ext := ext }

theorem witness_ArrayLogic :
    (∀ aop ∈ [0x000, 0x001, 0x002, 0x003], let s := arr0 aop
      s.ArrayRuns 0 aop (ar 0 1 0) [s.rdPD 0 0, s.rdPD 0 1] 1 ∧ pdWidth (s.rdPD 0 1) = pdWidth (s.rdPD 0 0) ∧ pdQset (s.rdPD 0 0) = 1 ∧ (ar 0 1 0).imm = 0) ∧
      (let s := arr0 0x001; s.ArrayRuns 0 0x001 (ar 14 15 0) [s.rdPD 0 14, s.rdPD 0 15] 1 ∧ pdWidth (s.rdPD 0 15) ≤ pdWidth (s.rdPD 0 14)) ∧
      (let s := arr0 0x004; s.ArrayRuns 0 0x004 (ar 0 1 2 15) [s.rdPD 0 0, s.rdPD 0 1, s.rdPD 0 2] 1 ∧ (ar 0 1 2 15).imm < 16 ∧ pdWidth (s.rdPD 0 2) = pdWidth (s.rdPD 0 0)) ∧
      (let s := arr0 0x005; let op := ar 0 1 2 0 (some 4)
       s.ArrayRuns 0 0x005 op [s.rdPD 0 0, s.rdPD 0 1, s.rdPD 0 2, s.rdPD 0 op.pdc] 1 ∧ op.extW < 16 ∧ op.imm = 0 ∧ pdWidth (s.rdPD 0 op.pdc) = 1) ∧
      (let s := arr0 0x008; s.ArrayRuns 0 0x008 (ar 14 0 0) [s.rdPD 0 14] 1) ∧ (let s := arr0 0x009; s.ArrayRuns 0 0x009 (ar 14 0 0 0 (some 0xFFFFFFFF)) [s.rdPD 0 14] 1) ∧
      (let s := arr0 0x00A; s.ArrayRuns 0 0x00A (ar 14 0 0 31) [s.rdPD 0 14] 1 ∧ (ar 14 0 0 31).imm < 32) := by
  refine ⟨fun aop h => ⟨arr0_runs aop (by revert aop; decide) _ [0, 1], ?_, ?_, rfl⟩, ⟨arr0_runs 1 (by decide) _ [14, 15], by decide +kernel⟩,
    ⟨arr0_runs 4 (by decide) _ [0, 1, 2], by decide +kernel⟩, ⟨arr0_runs 5 (by decide) _ [0, 1, 2, 4], by decide +kernel⟩, arr0_runs 8 (by decide) _ [14],
    arr0_runs 9 (by decide) _ [14], arr0_runs 10 (by decide) _ [14], by decide⟩
  · rw [show (arr0 aop).rdPD 0 1 = _ from arr0_pd aop 0 0 1, show (arr0 aop).rdPD 0 0 = _ from arr0_pd aop 0 0 0]; decide
  · rw [show (arr0 aop).rdPD 0 0 = _ from arr0_pd aop 0 0 0]; decide

theorem witness_ArrayIntegers :
    (∀ aop ∈ [0x0C0, 0x0C2, 0x0C8, 0x0C9, 0x0CA, 0x0CB, 0x0E8, 0x0E9, 0x0EA, 0x0EB], (arr0 aop).ArrayRuns 0 aop (ar 6 7 8) ([6, 7, 8].map fun r : Fin 16 => (arr0 aop).rdPD 0 r) 1) ∧
      (∀ aop ∈ [0x0D0, 0x0D1, 0x0D2, 0x0D3, 0x0D4, 0x0D5], (arr0 aop).ArrayRuns 0 aop (ar 4 6 7) ([4, 6, 7].map fun r : Fin 16 => (arr0 aop).rdPD 0 r) 1) ∧
      (∀ aop ∈ [0x0E0, 0x0E1], (arr0 aop).ArrayRuns 0 aop (ar 14 6 7) ([14, 6, 7].map fun r : Fin 16 => (arr0 aop).rdPD 0 r) 1) ∧
      (∀ aop ∈ [0x0C5, 0x0D8, 0x0D9, 0x0DA], (arr0 aop).ArrayRuns 0 aop (ar 6 7 0) ([6, 7].map fun r : Fin 16 => (arr0 aop).rdPD 0 r) 1) ∧
      (arr0 0x0C4).ArrayRuns 0 0x0C4 (ar 6 7 0 0 (some 0xFFFFFFFF)) ([6, 7].map fun r : Fin 16 => (arr0 0x0C4).rdPD 0 r) 1 ∧
      (∀ aop r, (arr0 aop).rdPD 0 (r : Fin 16) = pds.get r) ∧ (∀ r ∈ [6, 7, 8], pdWidth (pds.get r) = 32 ∧ pdQset (pds.get r) = 1) ∧ pdWidth (pds.get 4) = 1 ∧
      pdWidth (pds.get 14) = 2 * pdWidth (pds.get 6) ∧ (∀ k ∈ [0, 63], (ar 6 7 0 k).imm = k.toNat ∧ (ar 6 7 0 k).imm < 64) :=
  ⟨fun aop h => arr0_runs aop (by revert aop; decide) _ [6, 7, 8], fun aop h => arr0_runs aop (by revert aop; decide) _ [4, 6, 7],
    fun aop h => arr0_runs aop (by revert aop; decide) _ [14, 6, 7], fun aop h => arr0_runs aop (by revert aop; decide) _ [6, 7],
    arr0_runs 0xC4 (by decide) _ [6, 7], fun aop r => arr0_pd aop 0 0 r, by decide, by decide, by decide, by decide⟩

/-- ADDC and SUBB, with a carry plane of its own and with one within d. -/
theorem witness_ArrayIntegers_carry :
    (∀ aop ∈ [0x0C1, 0x0C3], ∀ c ∈ [4, 5], (arr0 aop).ArrayRuns 0 aop (ar 0 1 2 0 (some (BitVec.ofNat 32 c.val))) ([0, 1, 2, c].map fun r : Fin 16 => (arr0 aop).rdPD 0 r) 1) ∧
      (∀ c : Fin 16, (BitVec.ofNat 32 c.val).toNat = c.val ∧ (BitVec.ofNat 32 c.val).toNat < 16) ∧ (∀ aop r, (arr0 aop).rdPD 0 (r : Fin 16) = pds.get r) ∧
      (∀ r ∈ [0, 1, 2], pdWidth (pds.get r) = 8 ∧ pdBase (pds.get r) + pdWidth (pds.get r) ≤ pdBase (pds.get 4)) ∧ (∀ c ∈ [4, 5], pdWidth (pds.get c) = 1) ∧
      (∃ p, pdBase (pds.get 5) ≤ p ∧ p < pdBase (pds.get 5) + pdWidth (pds.get 5) ∧ pdBase (pds.get 0) ≤ p ∧ p < pdBase (pds.get 0) + pdWidth (pds.get 0)) :=
  ⟨fun aop h c _ => arr0_runs aop (by revert aop; decide) _ [0, 1, 2, c], by decide, fun aop r => arr0_pd aop 0 0 r, by decide, by decide, 0, by decide⟩

/-- The planes of `arr0` hold 0: its one listed byte is in a control store. -/
theorem arr0_value (aop msp : Nat) (fpc : Word) (r : Fin 16) (i j : Nat) (hi : i < 512) (hj : j < 512) : (arr0 aop msp fpc).valueAt (pds.get r) i j = 0 := by
  have bit (p : Nat) (hp : p < 1983) : (arr0 aop msp fpc).planeBit p i j = false := by
    have hw := planeVal_clean (s := arr0 aop msp fpc) (fun p y j _ _ _ => arr0_clean aop msp fpc _) (p := p) (y := i) (j := j / 64) hp hi (by omega)
    have byte (a : Nat) (ha : a < 0x4200000000) : (arr0 aop msp fpc).byte a = 0 := by
      show Sparse.get memDefault [(0x4200080001 + 8 * aop, (0x80 : Sys2Proof.Byte))] a = 0
      unfold Sparse.get; rw [if_neg (by omega)]; rfl
    have zero : (arr0 aop msp fpc).wordData (rowWordAddr p i (j / 64)) = 0 := by
      have lt : rowWordAddr p i (j / 64) < 0x4104000000 := by unfold rowWordAddr; omega
      unfold State.wordData
      simp only [State.bytes, natOfBytes]
      simp (disch := omega) only [byte]
      rfl
    unfold State.planeBit
    rw [hw, zero]; simp [natBit]
  have high (w b : Nat) (h : b + w ≤ 1920) : (arr0 aop msp fpc).fieldAt b w i j = 0 := by
    induction w with
    | zero => rfl
    | succ w ih => unfold State.fieldAt; rw [ih (by omega), bit (b + w) (by omega)]; rfl
  exact high _ _ (arr0_fits r).2

theorem witness_ArrayFloats :
    (∀ half, ∀ k ∈ [0, 1, 2, 4, 6, 7], let aop := (if half then 0x160 else 0x140) + k
      let rs : List (Fin 16) := if half then [10, 11, 12] else [6, 7, 8]
      (arr0 aop).ArrayRuns 0 aop (ar 6 7 8 0 none half) (rs.map fun r : Fin 16 => (arr0 aop).rdPD 0 r) 1 ∧ ∀ r ∈ rs, pdWidth (pds.get r) = if half then 16 else 32) ∧
      (∀ half, ∀ k ∈ [8, 9, 10], let aop := (if half then 0x160 else 0x140) + k
        let rs : List (Fin 16) := if half then [4, 11, 12] else [4, 7, 8]
        (arr0 aop).ArrayRuns 0 aop (ar 4 7 8 0 none half) (rs.map fun r : Fin 16 => (arr0 aop).rdPD 0 r) 1) ∧
      (∀ half, ∀ k ∈ [5, 11, 12, 13, 14, 15, 16], let aop := (if half then 0x160 else 0x140) + k
        let rs : List (Fin 16) := if half then [10, 11] else [6, 7]
        (arr0 aop).ArrayRuns 0 aop (ar 6 7 0 0 none half) (rs.map fun r : Fin 16 => (arr0 aop).rdPD 0 r) 1) ∧
      (∀ half, let aop := (if half then 0x160 else 0x140) + 17
        let rs : List (Fin 16) := if half then [6, 10] else [10, 6]
        (arr0 aop).ArrayRuns 0 aop (ar 6 10 0 0 none half) (rs.map fun r : Fin 16 => (arr0 aop).rdPD 0 r) 1) ∧
      (∀ half, let aop := (if half then 0x160 else 0x140) + 3
        let rs : List (Fin 16) := if half then [10, 11, 12, 13] else [6, 7, 8, 9]
        (arr0 aop).ArrayRuns 0 aop (ar 6 7 8 0 (some 15) half) (rs.map fun r : Fin 16 => (arr0 aop).rdPD 0 r) 1) := by
  refine ⟨fun half k h => ⟨arr0_runs _ ?_ _ _, ?_⟩, fun half k h => arr0_runs _ ?_ _ _, fun half k h => arr0_runs _ ?_ _ _, fun half => arr0_runs _ ?_ _ _,
    fun half => arr0_runs _ ?_ _ _⟩
  · revert half k; decide
  · revert half; decide
  · revert half k; decide
  · revert half k; decide
  · revert half; decide
  · revert half; decide

/-- In planes of 0 every quotient is invalid (flag bit 0), every sum is exact: the sets of exceptions that `witness_ArrayFloats`' states give. -/
theorem witness_ArrayFloats_exceptions :
    let s := arr0 0x144 0 8
    let x := s.valueAt (s.rdPD 0 7)
    let y := s.valueAt (s.rdPD 0 8)
    (1 : Nat) &&& ((s.bank 0).fpc.extractLsb' 3 5).toNat ≠ 0 ∧ (0 : Nat) &&& ((s.bank 0).fpc.extractLsb' 3 5).toNat = 0 ∧ stTRP (s.st 0) = false ∧
      (∀ k, k < 5 → (natBit 1 k = true ↔ ∃ p j, p < 512 ∧ j < 512 ∧ s.counts 1 p j = true ∧ natBit (fDiv fmtS (s.rm 0) (s.ftz 0) (x p j) (y p j)).fl k = true)) ∧
      (∀ k, k < 5 → (natBit 0 k = true ↔ ∃ p j, p < 512 ∧ j < 512 ∧ s.counts 1 p j = true ∧ natBit (fAdd fmtS (s.rm 0) (s.ftz 0) false (x p j) (y p j)).fl k = true)) := by
  have d : ∀ p j, p < 512 → j < 512 → (arr0 0x144 0 8).valueAt ((arr0 0x144 0 8).rdPD 0 7) p j = 0 := fun p j hp hj => by
    rw [show (arr0 0x144 0 8).rdPD 0 7 = _ from arr0_pd 0x144 0 8 7]; exact arr0_value _ _ _ _ p j hp hj
  have e : ∀ p j, p < 512 → j < 512 → (arr0 0x144 0 8).valueAt ((arr0 0x144 0 8).rdPD 0 8) p j = 0 := fun p j hp hj => by
    rw [show (arr0 0x144 0 8).rdPD 0 8 = _ from arr0_pd 0x144 0 8 8]; exact arr0_value _ _ _ _ p j hp hj
  have q : (fDiv fmtS ((arr0 0x144 0 8).rm 0) ((arr0 0x144 0 8).ftz 0) 0 0).fl = 1 := by decide +kernel
  have a : (fAdd fmtS ((arr0 0x144 0 8).rm 0) ((arr0 0x144 0 8).ftz 0) false 0 0).fl = 0 := by decide +kernel
  have c : (arr0 0x144 0 8).counts 1 0 0 = true := by decide +kernel
  refine ⟨by decide +kernel, by decide +kernel, by decide +kernel, fun k _ => ⟨fun h => ⟨0, 0, by omega, by omega, c, ?_⟩, ?_⟩, fun k _ => ⟨fun h => ?_, ?_⟩⟩
  · rw [d 0 0 (by omega) (by omega), e 0 0 (by omega) (by omega), q]; exact h
  · rintro ⟨p, j, hp, hj, _, h⟩
    rw [d p j hp hj, e p j hp hj, q] at h; exact h
  · unfold natBit at h; simp at h
  · rintro ⟨p, j, hp, hj, _, h⟩
    rw [d p j hp hj, e p j hp hj, a] at h; exact h

theorem witness_ArrayMasks :
    (∀ msp ∈ [0, 55, 56], (∀ aop ∈ [0x080, 0x081], (arr0 aop msp).ArrayRuns 0 aop (ar 0 4 0) ([4].map fun r : Fin 16 => (arr0 aop msp).rdPD 0 r) 0) ∧
      (∀ aop ∈ [0x082, 0x083], (arr0 aop msp).ArrayRuns 0 aop (ar 0 0 0) [] 0) ∧ ∀ aop, ((arr0 aop msp).dl 0).msp = msp) ∧ pdWidth (pds.get 4) = 1 :=
  ⟨fun msp _ => ⟨fun aop h => arr0_runs aop (by revert aop; decide) _ [4] 0 (by decide) msp, fun aop h => arr0_runs aop (by revert aop; decide) _ [] 0 (by decide) msp,
    fun aop => by rw [arr0_dl]; rfl⟩, by decide⟩

theorem witness_ArrayReductions :
    (∀ aop ∈ [0x088, 0x089], (arr0 aop).ArrayRuns 0 aop (ar 0 14 0 31) ([14].map fun r : Fin 16 => (arr0 aop).rdPD 0 r) 1) ∧
      (arr0 0x08C).ArrayRuns 0 0x08C (ar 4 0 0 6) ([4].map fun r : Fin 16 => (arr0 0x08C).rdPD 0 r) 1 ∧ (arr0 0x08D).ArrayRuns 0 0x08D (ar 0 0 0 127) [] 0 ∧
      (arr0 0x08E).ArrayRuns 0 0x08E (ar 0 0 0 31) [] 0 ∧ (ar 0 14 0 31).imm < 32 ∧ (ar 4 0 0 6).imm < 7 ∧ pdQset (pds.get 14) ≠ 0 ∧ pdWidth (pds.get 4) = 1 :=
  ⟨fun aop h => arr0_runs aop (by revert aop; decide) _ [14], arr0_runs 0x8C (by decide) _ [4], arr0_runs 0x8D (by decide) _ [] 0, arr0_runs 0x8E (by decide) _ [] 0,
    by decide⟩

/-- In planes of 0 no flag is set: the value 0 of FLGANY. -/
theorem witness_ArrayReductions_flags : ∀ k, k < 7 →
    (natBit 0 k = true ↔ ∃ i j, i < 512 ∧ j < 512 ∧ trained.counts (trained.region 0) i j = true ∧ trained.planeBit (1976 + k) i j = true) := by
  intro k _
  refine ⟨fun h => by unfold natBit at h; simp at h, fun ⟨i, j, _, _, h, _⟩ => ?_⟩
  have c : trained.rampTile (peTile i j) = false := by
    unfold State.rampTile
    rw [show trained.rampAll = false by decide +kernel, show trained.plan.earlyTiles = 0 by decide +kernel]
    simp [natBit]
  unfold State.counts at h
  rw [c] at h
  simp at h

theorem only_quadrant_0 : ∀ k, k < 4 → natBit 1 k = true → k = 0 := by decide

/-- `arr0` at FDIV with the invalid exception enabled, where TRP is set. -/
def trp0 : State :=
  { arr0 0x144 with
    dealers := Vector.replicate 4 { arrCore 0 8 with banks := Vector.replicate 8 { plain with pd := pds, fpc := 8, st := 0x8000 } } }

theorem witness_ArrayFloats_trp : stTRP (trp0.st 0) = true ∧ (trp0.bank 0).fpc = 8 ∧ trp0.mem = (arr0 0x144 0 8).mem ∧ trp0.syn = (arr0 0x144 0 8).syn ∧
    (∀ r ∈ ([6, 7, 8] : List (Fin 16)), trp0.rdPD 0 r = pds.get r) ∧ trp0.ArrayRuns 0 0x144 (ar 6 7 8) ([6, 7, 8].map pds.get) 1 := by
  have clean (a : Nat) : trp0.wordSyn a = 0 := clean_of_empty (by unfold trp0 arr0; dsimp only; exact trained_syn) a
  refine ⟨by decide +kernel, by decide +kernel, by unfold trp0 arr0; dsimp only, by unfold trp0 arr0; dsimp only, by decide +kernel, ⟨by decide +kernel, by decide +kernel, clean _, by decide +kernel, by decide +kernel⟩, fun p y j _ _ _ => clean _, fun w hw => ?_, ?_⟩
  · simp only [List.mem_map] at hw; obtain ⟨r, _, rfl⟩ := hw; exact arr0_fits r
  · exact fun k hk hb => by rw [only_quadrant_0 k hk hb]; decide +kernel

/-- An XMOVE under an array mode and an edge mode of the south side, every tile raised. -/
def move0 (mode edge : Nat) : State :=
  { arr0 0x040 with
    regs := (trained.fsets [(ARRAY_MODE.MODE, mode), (ARRAY_EDGE.SOUTH 0, edge)]).regs, rampAll := true, raised := 2 ^ 64 - 1 }

theorem move0_ready : ∀ p ∈ [(0, 0), (0, 1), (0, 2), (2, 0)], (move0 p.1 p.2).mustHold 0 = false ∧
    natBit ((move0 p.1 p.2).region 0) 0 = true ∧ (move0 p.1 p.2).coreIdle 0 = false := by decide +kernel

theorem move0_clean (m e a : Nat) : (move0 m e).wordSyn a = 0 :=
  clean_of_empty (by unfold move0 arr0; dsimp only; exact trained_syn) a

theorem move0_entry (m e : Nat) : natBit ((move0 m e).wordData (ctlBase 0 + 0x80000 + 8 * 0x040)) 15 = true := by
  have h : (move0 m e).mem = (arr0 0x040).mem := by simp only [move0]
  have := entries 0x040 (by decide)
  unfold State.wordData at *
  simp only [State.bytes, State.byte] at *
  rw [h]; exact this

theorem move0_runs (m e : Nat) (h : (m, e) ∈ [(0, 0), (0, 1), (0, 2), (2, 0)]) (op : AOp) (x : op.extN = 1) :
    (move0 m e).ArrayRuns 0 0x040 op [pds.get 0, pds.get 1] 1 := by
  obtain ⟨b, c, idle⟩ := move0_ready (m, e) h
  have bank : (move0 m e).dl 0 = arrCore 0 0 := by unfold State.dl move0 arr0; simp [Vector.get]
  have pc (k : Fin 8) : ((move0 m e).bankAt 0 k).pc = 0x100 := by unfold State.bankAt; rw [bank]; unfold arrCore; simp [Vector.get, plain]
  refine ⟨⟨by unfold State.issues; rw [bank]; exact ⟨rfl, rfl, idle, rfl⟩, b, move0_clean m e _, by simp only [move0_entry], ?_⟩, fun p y j _ _ _ => move0_clean m e _, fun w hw => ?_, fun k hk hb => ?_⟩
  · unfold State.pc State.bank; rw [pc, x]; decide
  · simp at hw
    rcases hw with rfl | rfl <;> exact arr0_fits _
  · rw [only_quadrant_0 k hk hb]; exact c

theorem witness_ArrayMovement :
    (∀ m e, (m, e) ∈ [(0, 0), (0, 1), (0, 2), (2, 0)] → (∀ dist ∈ [0, 1, 511], (move0 m e).ArrayRuns 0 0x040 (ar 0 1 0 0 (some dist)) [pds.get 0, pds.get 1] 1)) ∧
      (∀ p ∈ [(0, 0), (0, 1), (0, 2), (2, 0)], let s := move0 p.1 p.2
        (∀ i, i < 64 → s.rampTile i = true) ∧ s.rdPD 0 0 = pds.get 0 ∧ s.rdPD 0 1 = pds.get 1 ∧ s.fget (ARRAY_EDGE.SOUTH 0) = p.2) ∧
      (move0 0 0).region 0 = 1 ∧ regionRect 1 = (0, 256, 0, 256) ∧ (move0 2 0).region 0 = 15 ∧ natBit 1 (peQuad 256 0) = false ∧
      (∀ aop ∈ [0x041], ∀ imm ∈ [0, 15, 16, 31], (arr0 aop).ArrayRuns 0 aop (ar 0 1 0 imm) ([0, 1].map fun r : Fin 16 => (arr0 aop).rdPD 0 r) 1 ∧ (ar 0 1 0 imm).imm < 32) := by
  refine ⟨fun m e h dist _ => move0_runs m e h _ rfl, by decide +kernel, by decide +kernel, by decide, by decide +kernel, by decide, fun aop h imm hi => ⟨arr0_runs aop ?_ _ [0, 1], ?_⟩⟩
  · revert aop; decide
  · revert imm; decide

/-- `arr0` at SHUF with the second word of line 0 of hand 0 in error, and its last word. -/
def shuf0 : State := { arr0 0x041 with handSyn := [(1, 3), (5, 1)] }

theorem witness_ArrayMovement_shuf :
    (∀ r ∈ ([0, 1] : List (Fin 16)), shuf0.rdPD 0 r = pds.get r) ∧ shuf0.ArrayRuns 0 0x041 (ar 0 1 0) ([0, 1].map pds.get) 1 ∧ (ar 0 1 0).imm = 0 ∧
      ∀ p ∈ shuf0.handSyn, p.1 / 384 % 16 = 0 % 16 ∧ natBit 1 (tileQuad (p.1 / 6144)) = true ∧ decodeSyn p.2.toNat ≠ .clean := by
  have clean (a : Nat) : shuf0.wordSyn a = 0 := clean_of_empty (by unfold shuf0 arr0; dsimp only; exact trained_syn) a
  refine ⟨by decide +kernel, ⟨⟨by decide +kernel, by decide +kernel, clean _, by decide +kernel, by decide +kernel⟩, fun p y j _ _ _ => clean _, fun w hw => ?_, ?_⟩, rfl, by decide +kernel⟩
  · simp only [List.mem_map] at hw; obtain ⟨r, _, rfl⟩ := hw; exact arr0_fits r
  · exact fun k hk hb => by rw [only_quadrant_0 k hk hb]; decide +kernel

/-- PLMOV of plane P1919 with PD2, OS and OD as given. -/
def plmov0 (os od : Word) (q : Nat := 1) : State := core { plain with pd := pds.set 2 (pd 16 8 q), w := (plain.w.set 13 os).set 14 od } trained

theorem witness_ArrayMovement_plmov :
    (∀ p ∈ [(0, 1919), (1919, 0), (1920, 0), (0, 1920)], let s := plmov0 (BitVec.ofNat 32 p.1) (BitVec.ofNat 32 p.2)
      s.executes 0 ∧ s.nextPc 0 (str 0 1 0 0 0) ≤ 0x3FFFC ∧ (s.rdW 0 13).toNat = p.1 ∧ (s.rdW 0 14).toNat = p.2 ∧ s.syn = [] ∧ s.region 0 = 1) ∧
      (let op : SOp := { bits := BitVec.ofNat 23 (2 ^ 20 + 2 * 2 ^ 16) }
       op.ext = none ∧ op.fld 21 2 = 0 ∧ op.fld 0 16 = 0 ∧ ∀ q, q < 3 → (((plmov0 0 0 q).rdPD 0 (op.fld 16 4)).extractLsb' 28 4).toNat = q ∧
         (natBit q 1 = true ↔ q = 2)) := by
  decide +kernel

theorem witness_ArrayDispatch :
    (let s := (arr0 0x008).setDl 0 { (arr0 0x008).dl 0 with lowering := true }; s.issues 0 ∧ s.mustHold 0 = true) ∧
      (∀ aop ∈ opcodes, let s := arr0 (aop + 1); s.issues 0 ∧ s.mustHold 0 = false ∧ s.wordSyn (ctlBase 0 + 0x80000 + 8 * aop) = 0 ∧
        natBit (s.wordData (ctlBase 0 + 0x80000 + 8 * aop)) 15 = false) ∧
      (let s := arr0 0x008; s.issues 0 ∧ s.mustHold 0 = false ∧ natBit (s.wordData (ctlBase 0 + 0x80000 + 8 * 0x008)) 15 = true ∧
        pdReserved (s.rdPD 0 0) = false) ∧
      (let w := pd 1900 64 1; pdReserved w = false ∧ 1920 < pdBase w + pdWidth w) ∧ (let w := pd 0 8 2; pdReserved w = false ∧ pdBase w + pdWidth w ≤ 1920 ∧
        natBit (pdQset w) 1 = true ∧ natBit ((arr0 0x008).region 0) 1 = false) := by
  refine ⟨by decide +kernel, fun aop h => ⟨?_, arr0_hold _ 0 0, arr0_clean _ 0 0 _, ?_⟩, by decide +kernel, by decide +kernel, by decide +kernel⟩
  · exact arr0_issues _ 0 0
  · have : ∀ aop ∈ opcodes, natBit ((arr0 (aop + 1)).wordData (ctlBase 0 + 0x80000 + 8 * aop)) 15 = false := by decide +kernel
    exact this aop h

/-- The routine of R115's example: the dispatch entry of opcode 0x380 names it, and it reads the base plane of a and writes it to d. -/
def custom0 : State :=
  let routine := 6 + 2 ^ 37 + 0xC * 2 ^ 39 + 3 * 2 ^ 64 + 2 * 2 ^ 80
  let s := { arr0 0x380 with mem := [] }
  (((s.putWord (ctlBase 0 + 0x80000 + 8 * 0x380) (2 ^ 15 + 3 * 2 ^ 16 + 63 * 2 ^ 24)).putWord (ctlBase 0) (routine % 2 ^ 64)).putWord (ctlBase 0 + 8) (routine / 2 ^ 64)).putWord (ctlBase 0 + 16)
    (2 ^ 16 * microParity routine 9)

theorem witness_ArrayDispatch_customer :
    let s := custom0
    let x := s.wordData (ctlBase 0 + 0x80000 + 8 * (0x380 + (0 : Fin 128).val))
    let routine := 6 + 2 ^ 37 + 0xC * 2 ^ 39 + 3 * 2 ^ 64 + 2 * 2 ^ 80
    (s.issues 0 ∧ s.mustHold 0 = false ∧ s.syn = [] ∧ natBit x 15 = true ∧ s.pc 0 + 4 ≤ 0x3FFFC ∧ s.region 0 = 1 ∧
      ∀ r : Fin 16, pdReserved (s.rdPD 0 r) = false ∧ pdBase (s.rdPD 0 r) + pdWidth (s.rdPD 0 r) ≤ 1920) ∧
      x / 2 ^ 16 % 2 ^ 7 = 3 ∧ pdWidth (s.rdPD 0 14) ≤ x / 2 ^ 24 % 64 + 1 ∧ s.microword 0 (x % 2 ^ 14) = routine ∧ s.microPar 0 (x % 2 ^ 14) = microParity routine 9 := by
  decide +kernel

/-- Dealer 0 with a machine check that waits. -/
def check0 (m : MCheck) (again : Option MCheck) (reload : Bool) (l : List (Fld × Nat)) : State :=
  let s := fields l
  s.setDl 0 { s.dl 0 with pendMC := some m, again := again, reload := reload }

theorem witness_MachineChecks :
    (∀ c, 1 ≤ c → c ≤ 10 → ∀ a ∈ [none, some { cause := 1 }], let m : MCheck := { cause := c, aop := 0x37F }; let s := check0 m a false []
      (s.dl 0).halted = false ∧ (s.dl 0).pendMC = some m ∧ (s.dl 0).reload = false ∧ (s.dl 0).again = a ∧ m.aop < 0x380 ∧ s.fget (bitOf (LVLSTAT.ACTIVE 0) 7) = 0) ∧
      (∀ c ∈ [1, 3], let m : MCheck := { cause := c, aop := 1023, addr := 2 ^ 14 - 1 }
        (let s := { check0 m none true [(LVLSTAT.CUR 0, 7)] with sectsDone := 1 }
         (BitVec.ofNat 144 (s.imageWord m)).toNat = s.imageWord m ∧
         (s.dl 0).halted = false ∧ (s.dl 0).pendMC = some m ∧ (s.dl 0).reload = true ∧ s.fget (LVLSTAT.CUR 0) = 7 ∧ s.fget (MCCAUSE.LEVEL 0) < 8 ∧ s.copyHolds = true) ∧
        (let s := check0 m none true [(LVLSTAT.CUR 0, 7)]
         (s.dl 0).pendMC = some m ∧ (s.dl 0).reload = true ∧ s.fget (LVLSTAT.CUR 0) = 7 ∧ s.copyHolds = false ∧ (s.loadedBlock false (m.addr / 64)).length = 64)) ∧
      (State.reset.storeWriter .loader 0 = true ∧ (fields [(LVLSTAT.ACTIVE 0, 1)]).storeWriter .loader 0 = false ∧ (0x80000 + 8 * 0x3FF < 0x82000) ∧ 0x7FFF0 < 0x80000 ∧ 0x7FFF0 % 32 = 16 ∧ 0x7FFF8 % 32 = 24) := by
  refine ⟨?_, by decide +kernel, by decide +kernel⟩
  have : ∀ c, c < 11 → 1 ≤ c → ∀ a ∈ [none, some { cause := 1 }], let m : MCheck := { cause := c, aop := 0x37F }; let s := check0 m a false []
      (s.dl 0).halted = false ∧ (s.dl 0).pendMC = some m ∧ (s.dl 0).reload = false ∧ (s.dl 0).again = a ∧ m.aop < 0x380 ∧ s.fget (bitOf (LVLSTAT.ACTIVE 0) 7) = 0 := by decide +kernel
  exact fun c h1 h2 => this c (by omega) h1

/- Registers, hands and corner turns. -/

/-- What R9 and R10 refuse. -/
def wouldRefuse (off : Nat) (v : Word) (s : State) (g : RegGroup) : Bool :=
  (List.range 32).any (fun i => v.getLsbD i && g.fields.all (fun f => decide (i < f.lo) || decide (f.lo + f.wid ≤ i))) ||
    g.fields.any (fun f => [Acc.rw, .w1c, .wo].contains f.acc && (f.ok != [] && f.ok.all (fun p => decide (v.toNat / 2 ^ f.lo % 2 ^ f.wid < p.1) || decide (p.2 < v.toNat / 2 ^ f.lo % 2 ^ f.wid)))) ||
    g.fields.any (fun f => f.acc == .rwl && (if s.locked off then v.toNat / 2 ^ f.lo % 2 ^ f.wid != s.fget ⟨off, f.lo, f.wid⟩
      else f.ok != [] && f.ok.all (fun p => decide (v.toNat / 2 ^ f.lo % 2 ^ f.wid < p.1) || decide (p.2 < v.toNat / 2 ^ f.lo % 2 ^ f.wid)))) ||
    (!s.locked off && s.crossReserved off v.toNat)

/-- `trained` with one of the hindrances of Dealer 0's way to the hub: no tag free, its port's crossing down, its port absorbed. -/
def hub0 (l : List (Fld × Nat)) (held : Bool := false) : State :=
  let s := trained.fsets l
  if held then { s with tags := [(1, { ag := .dealer 0 })] } else s

/-- A register of every block, a write of it that is taken and one that is refused; the ways on which no write reaches it. -/
theorem witness_RegisterWrites :
    (∀ p ∈ [(TICK_NOM.reg, 0, 0x80000000), (CLK_PLLF.reg 5, 0xA0000000, 0xF0000000), (GARD_STAT.reg, 0, 0x800), (EVT_ROUTE.reg 0, 0x21, 5), (0x40030, 0xFFFFFFFF, 0),
        (LVLPRIV.reg 0, 0xFF, 0x100), (BANK_COLL.reg 0, 1, 0), (COLD_CFG.reg, 0, 0xFFFFFFFF), (TRL_TAG.reg 95, 0, 0x78000000), (DRAM_SCRUB.reg, 0, 0),
        (DSP_FSOFF.reg 5, 0, 0xFFFFFFFF), (CAM_SYNC.reg 7, 0, 0xFFFFFFFF), (TELL_DEF_W0.reg 0, 0, 0xFFFFFFFF), (PAD_MUX.reg 0, 0, 0xFFFFFFFF), (ESP_FCLK.reg, 0, 0xFFFFFFFF),
        (ARRAY_PRUNE_LO.reg, 0, 0)],
      ∃ g, regGroupAt p.1 = some g ∧ p.1 % 4 = 0 ∧ trained.reachesRegs (.dealer 0) p.1 = true ∧ wouldRefuse p.1 (BitVec.ofNat 32 p.2.1) trained g = false ∧
        (p.2.2 ≠ 0 → wouldRefuse p.1 (BitVec.ofNat 32 p.2.2) trained g = true)) ∧
      (∃ g, regGroupAt 0x30000 = some g ∧ wouldRefuse 0x30000 0x21 { trained with locks := 8 } g = true ∧ wouldRefuse 0x30000 0 { trained with locks := 8 } g = false) ∧
      regGroupAt 0x30500 = none ∧ 0x30001 % 4 ≠ 0 ∧ trained.reachesRegs (.seat 0) 0x30000 = false ∧ (trained.priv 0 = false) ∧
      trained.pathTurns (.dealer 0) hubAddr = none ∧ (hub0 [(TRL_TAG.V 2, 1), (TRL_TAG.BASE 2, 1)] true).pathTurns (.dealer 0) hubAddr = some .waits ∧
      (hub0 [(TRL_RTR.TOKEN 0, 0)]).pathTurns (.dealer 0) hubAddr = some .down ∧ (hub0 [(TRL_RTR.STATE 12, 3)]).pathTurns (.dealer 0) hubAddr = some (.absorbed 6) ∧
      ((fields [(SEAT_CFG.EN 0, 1)]).pcieSeat 0 = true ∧ (fields [(SEAT_CFG.EN 0, 1)]).bar0Open 0 = false ∧ State.reset.pcieSeat 3 = false) ∧ (SEAT_CFG.reg 3 ≤ SEAT_CMDIDX.reg 3 ∧ SEAT_CMDIDX.reg 3 < SEAT_CFG.reg 3 + 0x10000) := by
  have some_of (o : Nat) (P : RegGroup → Bool) (h : (regGroupAt o).map P = some true) : ∃ g, regGroupAt o = some g ∧ P g = true := by
    cases e : regGroupAt o with
    | none => rw [e] at h; exact absurd h (by simp)
    | some g => rw [e] at h; exact ⟨g, rfl, by simpa using h⟩
  refine ⟨fun p hp => ?_, ?_, by decide +kernel, by decide, by decide +kernel, by decide +kernel, by decide +kernel, by decide +kernel, by decide +kernel, by decide +kernel, by decide +kernel,
    by decide⟩
  · obtain ⟨g, hg, h⟩ := some_of p.1 (fun g => p.1 % 4 == 0 && trained.reachesRegs (.dealer 0) p.1 && !wouldRefuse p.1 (BitVec.ofNat 32 p.2.1) trained g &&
      (p.2.2 == 0 || wouldRefuse p.1 (BitVec.ofNat 32 p.2.2) trained g)) (by revert p; decide +kernel)
    simp at h
    exact ⟨g, hg, h.1.1.1, h.1.1.2, h.1.2, fun n => h.2.resolve_left n⟩
  · obtain ⟨g, hg, hw⟩ := some_of 0x30000 (fun g => wouldRefuse 0x30000 0x21 { trained with locks := 8 } g && !wouldRefuse 0x30000 0 { trained with locks := 8 } g) (by decide +kernel)
    simp at hw
    exact ⟨g, hg, hw.1, hw.2⟩

theorem test_register_write_refused : (after (.registerWrite (.dealer 0) 0x30000 5) trained).fget EVT_MERGE.COUNT = 1 ∧
    (after (.registerWrite (.dealer 0) 0x30000 0x21) trained).fget (EVT_ROUTE.LEVEL 0) = 1 ∧
    (after (.registerWrite (.dealer 0) 0x30000 0x21) State.reset).fget (EVT_ROUTE.LEVEL 0) = 0 := by decide +kernel

/-- ARRAY_HSEL at word 11 of line 63 of hand 15 of tile 0, and a transfer's registers of tile 0. -/
def hands0 (word : Nat) : State :=
  trained.fsets [(ARRAY_HSEL.HAND, 15), (ARRAY_HSEL.LINE, 63), (ARRAY_HSEL.WORD, word), (CTU_ROWS.ROW0 0, 60), (CTU_ROWS.COUNT 0, 4), (CTU_PLANES.NPL 0, 8), (CTU_PLANES.PBASE 0, 1912),
    (CTU_PLANES.EW 0, 3)]

theorem witness_HandsAndCornerTurns :
    ((0xBFFFF : Word).toNat / 2 ^ 16 ≤ 11 ∧ 11 < (0xC0000 : Word).toNat / 2 ^ 16) ∧ ((hands0 0).drivesTile (.seat 0) 0 = false ∧ (hands0 0).drivesTile (.dealer 0) 0 = true ∧
        (hands0 0).reachesRegs (.seat 0) ARRAY_HDATA.reg = false ∧ (hands0 0).reachesRegs (.dealer 0) ARRAY_HDATA.reg = true) ∧
      (hands0 0).pathTurns (.dealer 0) hubAddr = none ∧
      (hands0 10).fget ARRAY_HSEL.WORD = 10 ∧ (hands0 11).fget ARRAY_HSEL.WORD = 11 ∧ (hands0 11).fget ARRAY_HSEL.TILE = 0 ∧
      ((hands0 0).pruned 0 = false ∧ (hands0 0).fget (CTU_STAT.BUSY 0) = 0 ∧ (hands0 0).fget (CTU_ROWS.COUNT 0) ≠ 0 ∧ (hands0 0).fget (CTU_PLANES.NPL 0) ≠ 0 ∧
        (hands0 0).fget (CTU_ROWS.ROW0 0) + (hands0 0).fget (CTU_ROWS.COUNT 0) ≤ 64 ∧ (hands0 0).fget (CTU_PLANES.PBASE 0) + (hands0 0).fget (CTU_PLANES.NPL 0) ≤ 1920 ∧
        (hands0 0).fget (CTU_PLANES.NPL 0) ≤ 2 ^ (hands0 0).fget (CTU_PLANES.EW 0)) ∧
      (let s := (hands0 0).fset (CTU_ROWS.COUNT 0) 5; 64 < s.fget (CTU_ROWS.ROW0 0) + s.fget (CTU_ROWS.COUNT 0)) ∧
      (let s := (hands0 0).fset ARRAY_PRUNE_LO.PRUNED 1; s.pruned 0 = true) ∧
      (let r : CtuRec := { out := true, corner := false, e := 8, npl := 8, pbase := 0, row0 := 0, count := 1, todo := [], flight := [], got := [], status := 0, poison := false }
       ({ hands0 0 with ctus := [(0, r)] } : State).ctu 0 = some r) := by
  decide +kernel

/-- The word 11 that leaves line 63 a permutation, and one that does not. -/
theorem witness_HandsAndCornerTurns_lines :
    let formed (v : Nat) : HandLine := BitVec.ofNat 384 ((identityLine.toNat % 2 ^ 352) + 2 ^ 352 * v)
    (∀ x, x < 64 → ∃ c, c < 64 ∧ ((formed (identityLine.toNat / 2 ^ 352)).extractLsb' (6 * c) 6).toNat = x) ∧
      ¬(∀ x, x < 64 → ∃ c, c < 64 ∧ ((formed 0).extractLsb' (6 * c) 6).toNat = x) := by
  refine ⟨by decide +kernel, fun h => ?_⟩
  have : ∀ c, c < 64 → ((BitVec.ofNat 384 ((identityLine.toNat % 2 ^ 352) + 2 ^ 352 * 0) : HandLine).extractLsb' (6 * c) 6).toNat ≠ 63 := by decide +kernel
  obtain ⟨c, hc, e⟩ := h 63 (by omega)
  exact this c hc e

/- Stores. -/

theorem witness_StoreAccesses :
    (let s := trained; let a := storeBase 1 + 0x3FFF8
     regionOf (a + 8 - 1) = regionOf a ∧ regionOf a = .store 1 ∧ s.fget (BANK_STAT.WEED 1) = 0 ∧ s.storeStatus 1 (.dealer 0) = 0 ∧ s.storeStatus 1 (.ctu 0) = 0 ∧ s.syn = [] ∧
       s.ownerAdmits (s.storeOwner 1) (.seat 0) = false ∧ s.ownerAdmits (s.storeOwner 2) (.dealer 0) = false ∧ regionOf (storeBase 2) = .store 2 ∧ s.fget (BANK_STAT.WEED 2) = 0 ∧
       s.fget (BANK_COLL.MASK 1) = 0) ∧
      (trained.fset (BANK_COLL.MASK 1) 1).fget (BANK_COLL.MASK 1) = 1 ∧
      (let a := 2 ^ 37 - 8
       let s := trained.fsets [(SEAT_SEG_W0.BASE_LO 3 15, 2 ^ 32 - 8), (SEAT_SEG_W1.BASE_HI 3 15, 31), (SEAT_SEG_W1.PRESENT 3 15, 1), (SEAT_SEG_W1.RDA 3 15, 1),
         (SEAT_SEG_W1.WRA 3 15, 1), (SEAT_SEG_W2.LIMIT 3 15, 7)]
       regionOf (a + 8 - 1) = regionOf a ∧ regionOf a = .dram ∧ s.fget DRAM_STAT.TRAIN = 2 ∧ s.fget DRAM_STAT.SREF = 0 ∧ s.inImageCopy a = false ∧
         s.inImageCopy (a + 8 - 1) = false ∧ (∀ x ∈ [a, a + 8 - 1], s.seatGranted 3 x false = true ∧ s.seatGranted 3 x true = true) ∧ s.seatGranted 2 a false = false ∧ s.syn = []) ∧
      (let s := trained.fsets [(BANK_STAT.WEED 1, 2), (BANK_STAT.SV 32, 1), (BANK_STAT.SERVES 32, 1)]
       s.fget (BANK_STAT.WEED 1) ∈ [2, 3, 4] ∧ s.storeStatus 1 (.ctu 0) = 0 ∧ s.storeStatus 1 (.dealer 0) = 0 ∧ s.fget (BANK_COLL.MASK 32) = 0) ∧
      State.reset.fget DRAM_STAT.TRAIN ≠ 2 := by
  decide +kernel

theorem test_collision : (after (.storePortAAccess (.ctu 0) ⟨0x4000040000, 8, some 1⟩ (some (0, 0, ⟨0x4000040000, 8, some 2⟩))) trained).byte 0x4000040000 = 2 ∧
    (after (.storePortAAccess (.ctu 0) ⟨0x4000040000, 8, some 1⟩ (some (0, 0, ⟨0x4000040000, 8, some 2⟩))) trained).outs.length = 2 := by decide +kernel

/-- The way of Dealer 3 and of the Gardener, at router 23, to the hub: west along the last row, then north. -/
def hubWay3 : List (Fld × Nat) := [19, 20, 21, 22, 23].map (fun r => (TRL_RTE.ACTIVE r 16, 3))

/-- Bank 31 of Dealer 3, granted to owner 9 alone, its level areas in another bank. -/
def handover0 : State := fields <| links ++ hubWay3 ++ [(BANK_OWNER.OWNER 31, 8), (BANK_GRANT.GRANT 31, 0x200), (BANK_OWNER.OWNER 0, 8), (BANK_GRANT.GRANT 0, 0x3FF)]

theorem witness_BankHandovers :
    handover0.fget (BANK_OWNER.OWNER 31) = 5 + (3 : Dealer).val ∧ natBit (handover0.fget (BANK_GRANT.GRANT 31)) (9 : BitVec 4).toNat = true ∧
      natBit (handover0.fget (BANK_GRANT.GRANT 31)) (0 : BitVec 4).toNat = false ∧
      (¬∃ n, n < 4 ∧ (handover0.fget (LBASE.BANK n) = 31 ∨ (handover0.fget (SPOOL.BANK n) = 31 ∧ handover0.reg (SPOOL.reg n) ≠ 0))) ∧
      (∃ n, n < 4 ∧ handover0.fget (LBASE.BANK n) = 0) ∧ handover0.pathTurns (.dealer 3) hubAddr = none ∧ handover0.pathTurns .gardener hubAddr = none ∧ handover0.fget (BANK_STAT.WEED 31) = 0 ∧
      ¬(Agent.seat 0 = .gardener ∨ (∃ n : Dealer, Agent.seat 0 = .dealer n ∧ handover0.fget (BANK_OWNER.OWNER 31) = 5 + n.val) ∨
        ∃ k : Fin 4, Agent.seat 0 = .seat k ∧ handover0.fget (BANK_OWNER.OWNER 31) = 1 + k.val) ∧ 9 < (10 : BitVec 4).toNat := by
  refine ⟨by decide +kernel, by decide +kernel, by decide +kernel, ?_, ⟨0, by omega, by decide +kernel⟩, by decide +kernel, by decide +kernel, by decide +kernel, ?_, by decide⟩
  · have : ∀ n, n < 4 → handover0.fget (LBASE.BANK n) = 0 ∧ handover0.reg (SPOOL.reg n) = 0 := by decide +kernel
    rintro ⟨n, hn, h | h⟩
    · rw [(this n hn).1] at h; exact absurd h (by decide)
    · exact h.2 (this n hn).2
  · rintro (h | ⟨n, h, _⟩ | ⟨k, _, h⟩)
    · exact absurd h (by decide)
    · exact absurd h (by simp)
    · rw [show handover0.fget (BANK_OWNER.OWNER 31) = 8 by decide +kernel] at h
      omega

theorem test_bank_cleared : (after (.bankHandoverClear (.dealer 3) 31 9) { handover0 with mem := [(0x40007FFFFF, 7)] }).mem = [] := by decide +kernel

/-- The device fallow with bank 31 weeded: the step, the next word, the nursery's service. -/
def weed0 (step at_ serves : Nat) : State :=
  { fields [(BANK_STAT.WEED 31, step), (BANK_STAT.SV 32, serves), (BANK_STAT.SERVES 32, 31 * serves)] with fallow := true, weedAt := at_ }

theorem witness_Weeding :
    State.reset.weedWindow 31 = false ∧
      (∀ p ∈ [(1, 32767, 0), (2, 32767, 1), (1, 32768, 0), (3, 32768, 1)], let s := weed0 p.1 p.2.1 p.2.2
        s.weedWindow 31 = true ∧ s.fget (BANK_STAT.WEED 31) = p.1 ∧ s.weedAt = p.2.1 ∧ s.gard.graft = none ∧ s.syn = []) ∧
      (let cell := storeBase 31 + 8 * 32767
       let spare := storeBase 32 + 8 * 32767
       let s := { weed0 3 32767 1 with syn := [(spare / 8, foldSyn cell spare)] }
       s.weedWindow 31 = true ∧ s.fget (BANK_STAT.WEED 31) = 3 ∧ s.weedAt = 32767 ∧ s.wordSyn spare = foldSyn cell spare) := by
  decide +kernel

theorem witness_ColdFrame :
    (fields []).inReset = 1 ∧ (let s := { fields [] with inReset := 0 }; s.inReset ≠ 1 ∧ s.fget COLD_STAT.WIPING = 0) ∧
      (let s := { fields [(COLD_STAT.WIPING, 1)] with inReset := 0 }; s.fget COLD_STAT.WIPING = 1 ∧ s.coldRetry = false ∧ ({ s with coldRetry := true } : State).coldRetry = true) := by
  decide +kernel

theorem test_tamper_wipes : (after (.tamperInput 1 1000 [] [] []) { fields [] with inReset := 0, mem := [(0x4001000000, 1), (0x4001040000, 2)] }).mem = [(0x4001040000, 2)] ∧
    (after (.tamperInput 1 1000 [] [] []) { fields [] with inReset := 0 }).fget COLD_STAT.CAUSE = 2 := by decide +kernel

/-- The device fallow, DRAM trained. -/
def fallow0 : State := { trained with fallow := true }

theorem witness_BackgroundWork :
    (fields [(DRAM_STAT.TRAIN, 1)]).fget DRAM_STAT.TRAIN = 1 ∧
      (fallow0.fallow = true ∧ fallow0.fget DRAM_STAT.TRAIN = 2 ∧ fallow0.fget DRAM_STAT.SREF = 0 ∧ fallow0.scrubAt + 1 < 2 ^ 30 ∧ fallow0.syn = []) ∧ trained.fallow = false ∧
      trained.fget DRAM_STAT.RSV = 0 ∧
      (let s := fields [(DEAL_STAT.PHASE 0, 4)]
       s.pruned (0 : Fin 64) = false ∧ s.tileQuiet (0 : Fin 64) = true ∧ s.gardState ≠ gardHALTED ∧ s.gard.tests.find? (fun a => tileOfAddr a == 0) = none ∧
         Sparse.get 0 s.gard.scrubPos 0 + 1 < columnWords ∧ s.syn = [] ∧
         ({ s with gard := { tests := [0x4100000000] } } : State).gard.tests.find? (fun a => tileOfAddr a == 0) = some 0x4100000000 ∧
         (let c : ColCopy := ⟨0, 63, 1, 131071⟩
          ({ s with gard := { copies := [c] } } : State).gard.copies.find? (fun x => x.tile == 0) = some c ∧ c.prog < columnWords)) := by
  decide +kernel

/- Cameras, displays and tell-tales. -/

/-- Every stripe of DRAM behind the port at router 11, where cameras 4 to 7 and pipes 3 to 5 stand (R353, R354). -/
def stripes11 : Fld × Nat := (TRL_DMAP.MAP, 0xB6DB6D)

/-- Camera port 7 with context 1 on channel 15: RAW10, 2 × 1 pixels, a ring at 0x1000. -/
def camera0 (f : CtxRec) : State :=
  { fields (links ++ [(DRAM_STAT.TRAIN, 2), stripes11, (CAM_CFG.EN 7, 1), (CAM_CTX_FMT.EN 7 1, 1), (CAM_CTX_FMT.VC 7 1, 15), (CAM_CTX_FMT.DT 7 1, 0x2B), (CAM_CTX_SIZE.WIDTH 7 1, 2), (CAM_CTX_SIZE.HEIGHT 7 1, 1),
      (CAM_CTX_RING.BASE 7 1, 1), (CAM_SYNC.EN 7, 1)]) with
    ctxs := [(15, f)] }

def frame0 (lines bad : Nat) : OpenFrame := { slot := 0, fnum := 9, lines := lines, bad := bad, pulse := none }

theorem witness_Cameras :
    (camera0 {}).camOn 7 = true ∧ (camera0 {}).ctxsOf 7 0 = [] ∧ (camera0 {}).ctxsOf 7 15 = [(1 : Fin 2).val] ∧ (camera0 { fresh := true }).ctx 7 1 = { fresh := true } ∧
      (let s := camera0 { opn := some (frame0 0 0) }
       (s.ctx 7 1).opn = some (frame0 0 0) ∧ s.fget (CAM_CTX_FMT.DT 7 1) = (0x2B : BitVec 6).toNat ∧ [(0x3FF : BitVec 24), 1].length = s.fget (CAM_CTX_SIZE.WIDTH 7 1) ∧
         (frame0 0 0).lines < s.fget (CAM_CTX_SIZE.HEIGHT 7 1) ∧ s.camHeld 7 1 + 2 * 2 ≤ 65536) ∧
      (let s := camera0 { opn := some (frame0 1 0) }; (s.ctx 7 1).opn = some (frame0 1 0) ∧ (frame0 1 0).lines = s.fget (CAM_CTX_SIZE.HEIGHT 7 1) ∧ (frame0 1 0).pulse = none) ∧
      (let s := camera0 { opn := some (frame0 1 2) }; (s.ctx 7 1).opn = some (frame0 1 2) ∧ (frame0 1 2).bad ≠ 0) ∧ (camera0 {}).fget (CAM_SYNC.EN 7) = 1 := by
  decide +kernel

/-- A line on its way to row 0 of slot 3. -/
def line0 : State := { camera0 { fresh := true } with camPend := [{ cam := 7, ctx := 1, slot := 3, row := 0, px := [5, 6] }] }

theorem witness_Cameras_line :
    line0.camPend = [{ cam := 7, ctx := 1, slot := 3, row := 0, px := [5, 6] }] ∧ line0.fget DRAM_STAT.TRAIN = 2 ∧ line0.fget DRAM_STAT.SREF = 0 ∧
      line0.tagless (.camera 7) = false ∧
      (let s := { line0.fsets [(TRL_TAG.V 46, 1), (TRL_TAG.BASE 46, 9)] with tags := [(9, { ag := .camera 7 })] }; s.tagless (.camera 7) = true) ∧
      (let pitch := (2 * line0.fget (CAM_CTX_SIZE.WIDTH 7 1) + 127) / 128 * 128
       let a := 4096 * line0.fget (CAM_CTX_RING.BASE 7 1) + 3 * ((pitch * line0.fget (CAM_CTX_SIZE.HEIGHT 7 1) + 4095) / 4096 * 4096) + 0 * pitch
       ∀ x, a ≤ x → x < a + pitch → regionOf x = .dram ∧ line0.inImageCopy x = false ∧ line0.pathTurns (.camera 7) x = none) := by
  refine ⟨by decide +kernel, by decide +kernel, by decide +kernel, by decide +kernel, by decide +kernel, ?_⟩
  have h : line0.fget (CAM_CTX_SIZE.WIDTH 7 1) = 2 ∧ line0.fget (CAM_CTX_SIZE.HEIGHT 7 1) = 1 ∧ line0.fget (CAM_CTX_RING.BASE 7 1) = 1 := by decide +kernel
  rw [h.1, h.2.1, h.2.2]
  have d (x : Nat) (hx : x < 2 ^ 37) : regionOf x = .dram := region_dram hx
  exact fun x _ hx => ⟨d x (by omega), outside_copy (by decide +kernel) x, path_dram (by decide +kernel) (by decide +kernel) (d x (by omega))⟩

/-- A YUV 4:2:2 line: Y below U in an even column and below V in an odd one. -/
theorem test_camera_yuv : ((after (.csi2LongPacket 7 15 0x1E [0x030201, 0x060504] true false)
    ((camera0 { opn := some (frame0 0 0) }).fset (CAM_CTX_FMT.DT 7 1) 0x1E)).camPend.map (fun l => l.px)) = [[0x0201, 0x0604]] := by decide +kernel

theorem test_camera_line_padded : (after (.cameraLineWritten 7 1) { line0 with mem := [(0x4040, 9)] }).mem = [(0x4000, 5), (0x4002, 6)] := by decide +kernel

/-- Pipe 5 with a layer 15 of Dealer 3 over all bands, 2 × 64 pixels, the buffer in DRAM. -/
def display0 (l : List (Fld × Nat)) : State :=
  { fields (links ++ hubWay3 ++ [(DRAM_STAT.TRAIN, 2), stripes11, (DSP_CFG.KIND 5, 1), (DSP_HTIM.ACTIVE 5, 2), (DSP_VTIM.ACTIVE 5, 64), (DSP_LAYER.EN 5 15, 1), (DSP_LAYER.OWNER 5 15, 3), (DSP_LAYER.LAST 5 15, 63),
      (DSP_FBP.PITCH 5, 1), (DSP_FB.BASE 5 0, 2)] ++ l) with
    full := true, ticking := true, pipes := [(5, { live := true, line := 63, scan := [(0, 0)] })] }

/-- Pipe 3, which its sink reads back, at the last line of a frame whose predecessor's reading is awaited. -/
def due0 : State :=
  let s := fields (links ++ [(DSP_CFG.KIND 3, 2), (DSP_HTIM.ACTIVE 3, 2), (DSP_VTIM.ACTIVE 3, 64), (TELL_RB.EN 3, 1), (DSP_STAT.LINKUP 3, 1)])
  { s with full := true, ticking := true, pipes := [(3, { live := true, line := 63, sink := true, whole := true, last := some { count := 1, r := 2, g := 3, b := 4 } })] }

theorem witness_Displays :
    (let s := display0 []; (∀ l, l < 16 → (0x8000 : Word).getLsbD l = true → s.fget (DSP_LAYER.OWNER 5 l) = 3 ∧ s.full = true ∧ s.fget (DSP_LAYER.EN 5 l) = 1) ∧
      ¬(∀ l, l < 16 → (0xC000 : Word).getLsbD l = true → s.fget (DSP_LAYER.OWNER 5 l) = 3) ∧ s.safeHold = false ∧ s.pipeUsed 5 = true ∧ (s.pipe 5).live = true ∧
      (s.pipe 5).line < s.fget (DSP_VTIM.ACTIVE 5) ∧ (s.pipe 5).boxes = [] ∧ s.layersOf 5 0 ≠ [] ∧ Sparse.get 4 (s.pipe 5).scan 0 = 0 ∧ s.dramStatus (.pipe 5) 0x2000 false = 0 ∧
      s.fget (DSP_CFG.DSC 5) = 0 ∧ s.syn = [] ∧ portsOpen s ∧ routesToDram s (.pipe 5) ∧ s.pathTurns (.dealer 3) hubAddr = none ∧ s.pathTurns .gardener hubAddr = none ∧
      s.readsBack 5 = false ∧ 4096 * s.fget (DSP_FB.BASE 5 0) + 63 * (256 * s.fget (DSP_FBP.PITCH 5)) + 4 * 2 + 8 < 2 ^ 37 ∧
      s.frameDue 5 = true ∧ ({ s with ticking := false } : State).frameDue 5 = false) ∧
      (display0 [(DSP_LAYER.EN 5 15, 0)]).layersOf 5 0 = [] ∧
      (let s := display0 [(DSP_LAYER.EN 5 15, 0), (DSP_CFG.DSC 5, 1)]; s.layersOf 5 0 = [] ∧ s.fget (DSP_CFG.DSC 5) = 1 ∧ s.pipeUsed 5 = true) ∧
      (let s := { fields [(LOAD_STAT.STATE, 4), (SYS_STRAP.BOOTCFG, 14)] with pipes := [(0, { live := true, line := 479 })] }
       s.safeHold = true ∧ s.fget SYS_STRAP.BOOTCFG < 15 ∧ (s.pipe 0).live = true ∧ (s.pipe 0).line < 480) ∧
      (let s := fields [(LOAD_STAT.STATE, 4), (SYS_STRAP.BOOTCFG, 15)]; s.safeHold = true ∧ s.fget SYS_STRAP.BOOTCFG = 15) ∧
      (let s := due0; let r := s.pipe 3
       s.safeHold = false ∧ s.pipeUsed 3 = true ∧ r.live = true ∧ r.line < s.fget (DSP_VTIM.ACTIVE 3) ∧ r.boxes = [] ∧ s.readsBack 3 = true ∧ r.sink = true ∧ r.whole = true ∧
         r.last.isSome = true ∧ r.line + 1 = s.fget (DSP_VTIM.ACTIVE 3) ∧ s.layersOf 3 (r.line / 64) = [] ∧ s.fget (DSP_STAT.LINKUP 3) = 1) ∧
      (display0 [(DSP_STAT.LINKUP 5, 1)]).fget (DSP_STAT.LINKUP 5) = 1 := by
  decide +kernel

theorem test_commit : (after (.dspCommitWrite (.dealer 3) 5 0x8000) (display0 [])).fget (DSP_CMTD.LAYERS 5) = 0x8000 ∧
    (after (.dspCommitWrite (.dealer 2) 5 0x8000) (display0 [])).fget (DSP_CMTD.LAYERS 5) = 0 := by decide +kernel

/-- Tell-tale 255 from seat 3, whose port is SP0, with states 0 to 2, safe state 2. -/
def tell0 (l : List (Fld × Nat)) (f : TellRec := {}) : State :=
  { fields ([(SEAT_CFG.EN 3, 1), (SEAT_CFG.CMDP 3, 3), (TELL_DEF_W0.EN 255, 1), (TELL_DEF_W0.SRC 255, 3), (TELL_DEF_W2.NST 255, 2), (TELL_DEF_W2.SAFE 255, 2)] ++ l) with tells := [(255, f)] }

/-- An entry: state, counter, CRC-8, used. -/
def entry (st cnt crc : Nat) : Word := BitVec.ofNat 32 (255 + 2 ^ 8 * st + 2 ^ 12 * cnt + 2 ^ 16 * crc + 2 ^ 24)

theorem witness_Telltales :
    (trained.pathTurns (.dealer 0) hubAddr = none ∧ handover0.pathTurns .gardener hubAddr = none) ∧
    (let w := entry 2 15 (entryCrc 3 0xF2FF)
     (tell0 []).portTakes 3 = true ∧ (tell0 []).waiting 3 = 0 ∧ (tell0 []).fget GARD_STAT.STATE ≠ 1 ∧
       ringCount ((tell0 []).fget (SEAT_CMPIDX.PI 3)) ((tell0 []).fget (SEAT_CMPIDX.CI 3)) < 64 ∧ w.toNat % 2 ^ 8 = 255 ∧ w.getLsbD 24 = true ∧ w.toNat / 2 ^ 25 = 0 ∧ w.toNat / 2 ^ 16 % 256 = entryCrc 3 w.toNat ∧ w.toNat / 2 ^ 8 % 16 ≤ (tell0 []).fget (TELL_DEF_W2.NST 255) ∧
       (tell0 []).fget (TELL_DEF_W0.EN 255) = 1 ∧ (tell0 []).fget (TELL_DEF_W0.SRC 255) = (3 : Fin 4).val ∧ (tell0 []).fget (TELL_ST.CNTV 255) = 0 ∧ (tell0 []).fget (TELL_ST.SAFE 255) = 0 ∧
       (let s := tell0 [(TELL_ST.CNTV 255, 1), (TELL_ST.CNT 255, 14), (TELL_ST.SAFE 255, 1)]
        s.fget (TELL_ST.CNTV 255) = 1 ∧ w.toNat / 2 ^ 12 % 16 = (s.fget (TELL_ST.CNT 255) + 1) % 16) ∧
       (let s := tell0 [(TELL_ST.CNTV 255, 1), (TELL_ST.CNT 255, 15)]; s.fget (TELL_ST.CNTV 255) = 1 ∧ w.toNat / 2 ^ 12 % 16 ≠ (s.fget (TELL_ST.CNT 255) + 1) % 16)) ∧
      (let w := entry 3 0 (entryCrc 3 0x03FF); w.toNat / 2 ^ 16 % 256 = entryCrc 3 w.toNat ∧ (tell0 []).fget (TELL_DEF_W2.NST 255) < w.toNat / 2 ^ 8 % 16) ∧
      (let w := entry 2 15 (entryCrc 3 0xF2FF + 1); w.toNat / 2 ^ 25 = 0 ∧ w.toNat / 2 ^ 16 % 256 ≠ entryCrc 3 w.toNat) ∧ (0x83000000 : Word).toNat / 2 ^ 25 ≠ 0 ∧
      (∀ p ∈ [(1, false), (0, false), (1, true)], let s := tell0 [(TELL_DEF_W0.TIMEOUT 255, p.1)] { running := true, expired := p.2 }
       (s.tell 255).running = true ∧ s.fget (TELL_DEF_W0.SRC 255) < 4 ∧ s.fget (TELL_ST.SAFE 255) = 0 ∧
         decide ((s.tell 255).expired = true ∨ (s.tell 255).start + 1000000 * s.fget (TELL_DEF_W0.TIMEOUT 255) ≤ s.now) = (p != (1, false))) ∧
      (let q : BoxRec := { key := 255, icon := 0, cola := 0, colb := 0, x := 0, y := 0, w := 1, h := 1, gold := 0 }
       let s := { tell0 [] with pipes := [(5, { boxes := [q], line := 1 })] }
       (s.pipe 5).boxes = [q] ∧ q.ended = false ∧ q.y + q.h ≤ (s.pipe 5).line ∧ q.ue = false ∧ q.notSent = false ∧ q.crc ^^^ 0xFFFFFFFF = q.gold ∧
         q.crc ^^^ 0xFFFFFFFF ≠ ({ q with gold := 1 } : BoxRec).gold) ∧
      (let s := { tell0 [(SEAT_CFG.EN 3, 1), (SEAT_CFG.SAFE 3, 1), (SEAT_NTCIDX.PI 3, 62), (SEAT_NTCIDX.CI 3, 255)] with notices := [{ kind := 1, pipe := 0, id := 0, flags := 0, code := 0, data := 0 }] }
       s.notices ≠ [] ∧ s.fget (SEAT_CFG.EN 3) = 1 ∧ s.fget (SEAT_CFG.SAFE 3) = 1 ∧ ringCount (s.fget (SEAT_NTCIDX.PI 3)) (s.fget (SEAT_NTCIDX.CI 3)) < 64) ∧
      (let own : SinkCrc := { count := 1, r := 2, g := 3, b := 4 }
       let s := { tell0 [(TELL_RB.EN 3, 1), (DSP_CFG.KIND 3, 2)] with pipes := [(3, { sink := true, last := some own })] }
       s.readsBack 3 = true ∧ (s.pipe 3).sink = true ∧ (s.pipe 3).last = some own ∧ { own with r := 5 } ≠ own ∧ (tell0 []).pipe 3 = {}) := by
  decide +kernel

/-- A TELLTALE_SET of one entry. -/
def oneEntry (w : Word) : Vector Word 12 := (Vector.replicate 12 0).set 0 w

theorem test_telltale_set : (after (.telltaleSet 3 ⟨7, oneEntry (entry 2 15 (entryCrc 3 0xF2FF))⟩) (tell0 [])).fget (TELL_SST.STATE 255) = 2 ∧
    (after (.telltaleSet 3 ⟨7, oneEntry (entry 3 0 (entryCrc 3 0x03FF))⟩) (tell0 [])).fget (TELL_ST.SAFE 255) = 1 ∧
    (after (.telltaleSet 3 ⟨7, oneEntry (entry 3 0 (entryCrc 3 0x03FF))⟩) (tell0 [])).fget (SEAT_CMPIDX.PI 3) = 1 := by decide +kernel

/- The Trellis. -/

/-- A request of the loader with tag 2047 at the last 8 bytes of DRAM's 512-byte block 0. -/
def request0 (cmd bef : Nat) (data : List DWord) : Packet :=
  { dest := 0, src := 24, cmd := cmd, qos := 3, count := 1, tag := if cmd = 2 then 0 else 2047, addr := 504, bef := bef, data := data }

/-- The links are up, and the loader's port has tags 2040 to 2047. -/
def meshed0 : State := trained.fsets [(TRL_TAG.V 75, 1), (TRL_TAG.BASE 75, 2040), (TRL_TAG.SIZE 75, 7)]

theorem witness_Trellis_requests :
    (let r := (meshed0.servedAt 504).1; let l := (meshed0.servedAt 504).2
     meshed0.fget (TRL_RTR.STATE r) = 0 ∧ natBit (meshed0.fget (TRL_RTR.ABSP r)) (4 + l) = false ∧ meshed0.portDown r l = false) ∧ meshed0.tags.length < 2047 ∧
      meshed0.way false 0 meshHops 18 = none ∧
      (∀ p ∈ [request0 0 0 [], request0 1 0xFF [7], request0 2 0xFF [7], request0 3 0xFF [7], request0 3 0xF0 [7]], malformed p = false ∧ p.poison = [] ∧
        meshed0.sentBefore p = false ∧ meshed0.targetPort p = some (routerOf p.dest, 0) ∧ p.dest % 8 < 6 ∧ routerOf p.src = 18 ∧
        meshed0.requested .loader p p.cmd (p.cmd != 0) = some p ∧ ({ meshed0 with net := [p] } : State).requested .loader p p.cmd (p.cmd != 0) = some p) ∧
      ((meshed0.agentPort .loader).bind meshed0.portTurns = none) ∧
      (∀ p ∈ [{ request0 0 1 [] with addr := 505 }, { request0 1 0xFF [7] with qos := 4 }], malformed p = true ∧
        meshed0.requested .loader p p.cmd (p.cmd != 0) = some p ∧ meshed0.targetPort p = some (0, 0)) ∧
      meshed0.requested .loader { request0 0 0 [] with tag := 5 } 0 false = none ∧
      (unitReceived (headWord (request0 0 0 [])) false [0, 1, 2]).2 = .ue ∧
      (∀ x wr, 504 ≤ x → x < 504 + 8 → regionOf x = .dram ∧ meshed0.dramStatus .loader x wr = 0 ∧ meshed0.wordSyn x = 0) := by
  refine ⟨by decide +kernel, by decide +kernel, by decide +kernel, by decide +kernel, by decide +kernel, by decide +kernel, by decide +kernel, by decide +kernel,
    fun x wr _ _ => ⟨by unfold regionOf; rw [if_pos (by omega)], ?_, clean_of_empty (by decide +kernel) x⟩⟩
  unfold State.dramStatus
  rw [show meshed0.fget DRAM_STAT.TRAIN = 2 by decide +kernel, show meshed0.fget DRAM_STAT.SREF = 0 by decide +kernel, outside_copy (by decide +kernel)]
  rfl

/-- The port where DRAM's block 0 is served absorbs. -/
def absorbing0 : State := meshed0.fset (TRL_RTR.ABSP (trained.servedAt 504).1) (2 ^ (4 + (trained.servedAt 504).2))

/-- Tag 2047 of Dealer 3's port at router 23, which it holds; the DRAM port at router 5 has its way there. -/
def tagged0 (r : TagRec) : State :=
  { fields [(TRL_TAG.V 94, 1), (TRL_TAG.BASE 94, 2040), (TRL_TAG.SIZE 94, 7), (TRL_RTR.TOKEN 23, 0xF0), (TRL_RTE.ACTIVE 5 29, 2), (TRL_RTE.ACTIVE 11 29, 2), (TRL_RTE.ACTIVE 17 29, 2)] with
    tags := [(2047, r)] }

/-- An answer to tag 2047 from the DRAM port at router 5. -/
def answer0 (cmd : Nat) (data : List DWord) : Packet := { request0 cmd 0 data with dest := 29, src := 5 }

/-- Seat 3's notices of event 319 on its PCIe port 2, vector 63, whose mask bit is 0 when `on` is 1; the hub has its way to the port, east. -/
def seatEvents0 (on : Nat) : State :=
  State.fsets { fields [(EVT_ROUTE.KIND 319, 2), (EVT_ROUTE.SEAT 319, 3), (SEAT_CFG.EN 3, 1), (SEAT_CFG.CMDP 3, 2), (SEAT_STAT.PORTUP 3, 1), (⟨SEAT_EVVEC.reg 3 79, 24, 6⟩, 63),
      (TRL_RTR.TOKEN 17, 0x80), (⟨SEAT_MSIX.reg 3 63 3, 0, 1⟩, on)] with
    pcie := [(2, { msixOn := true, busOn := true })] } ([12, 13, 14, 15, 16].map (fun r => (TRL_RTE.ACTIVE r 21, 1)))

theorem witness_Trellis :
    (absorbing0.fget (TRL_RTR.STATE (absorbing0.servedAt 504).1) = 0 ∧ natBit (absorbing0.fget (TRL_RTR.ABSP (absorbing0.servedAt 504).1)) (4 + (absorbing0.servedAt 504).2) = true ∧
      absorbing0.targetPort (request0 0 0 []) = some (absorbing0.servedAt 504) ∧ absorbing0.way false 0 meshHops 18 = none ∧
      (let s := meshed0.fset (TRL_RTR.STATE 0) 3
       s.requested .loader (request0 0 0 []) 0 false = some (request0 0 0 []) ∧ s.way false 0 meshHops 18 = some (.absorbed (6 : Fin 24)) ∧
         (s.agentPort .loader).bind s.portTurns = none) ∧
      absorbing0.requested .loader (request0 0 0 []) 0 false = some (request0 0 0 []) ∧ (absorbing0.agentPort .loader).bind absorbing0.portTurns = none) ∧
      (∀ on ∈ [0, 1], let s := seatEvents0 on; let p : Packet := { dest := 21, src := 16, cmd := 4, qos := 0, count := 0, tag := 0, evnum := 319 }
       s.fget (EVT_ROUTE.KIND 319) = 2 ∧ s.fget (EVT_ROUTE.SEAT 319) = (3 : Fin 4).val ∧ s.pcieSeat 3 = true ∧ s.fget (SEAT_CFG.NTCP 3) = 0 ∧ s.fget (SEAT_STAT.PORTUP 3) = 1 ∧
         (s.pcieFn 3).busOn = true ∧ s.way (s.sentBefore p) (routerOf p.dest) meshHops (routerOf p.src) = none ∧ routerOf p.dest = (s.seatPort 3).1 ∧
         s.fget ⟨SEAT_EVVEC.reg 3 (319 / 4), 8 * (319 % 4), 6⟩ = 63 ∧ (s.pcieFn 3).msixOn = true ∧ s.vectorMasked 3 63 = (on == 0) ∧ s.inTurn p = true ∧
         s.fget (TRL_RTR.STATE (s.seatPort 3).1) = 0 ∧ natBit (s.fget (TRL_RTR.ABSP (s.seatPort 3).1)) (4 + (s.seatPort 3).2) = false ∧ s.portDown (s.seatPort 3).1 (s.seatPort 3).2 = false) ∧
      (let s := tagged0 { ag := .dealer 3, addr := 2 ^ 44 - 8 }
       s.tagPort 2047 = some (23, 2) ∧ (∀ p ∈ [answer0 5 [7], answer0 6 []], s.way (s.sentBefore p) 23 meshHops (routerOf p.src) = none ∧ routerOf p.dest = 23) ∧ s.tag 2047 = some { ag := .dealer 3, addr := 2 ^ 44 - 8 } ∧ s.fget (TRL_RTR.STATE 23) = 0 ∧ natBit (s.fget (TRL_RTR.ABSP 23)) (4 + 2) = false ∧
         s.portDown 23 2 = false ∧ (let p := { answer0 5 [7] with poison := [false] }; s.inTurn p = true ∧ asRow p 5 true = p) ∧
         (let p := { answer0 6 [] with status := 4 }; s.inTurn p = true ∧ asRow p 6 false = p)) ∧
      ((tagged0 { ag := .dealer 3, timedOut := true }).tag 2047 = some { ag := .dealer 3, timedOut := true }) ∧
      (∀ x ∈ [1, 2], let s := handover0.fset TRL_STAT.SWAP x
       s.fget TRL_STAT.SWAP = x ∧ s.pathTurns .gardener hubAddr = none ∧ s.pathTurns (.dealer 3) hubAddr = none) ∧ (fields []).closing = none ∧
      ({ fields [] with closing := some 23 } : State).closing = some 23 ∧
      (fields [(TRL_RTR.STATE 23, 2)]).fget (TRL_RTR.STATE 23) = 2 ∧ (fields [(TRL_RTR.TOKEN 23, 0x80)]).portDown 23 3 = false ∧
      (let s := { fields [] with recorded := [(95, request0 0 0 [])] }; (4 * 23 + 3, request0 0 0 []) ∈ s.recorded) := by
  decide +kernel

/-- A crossing that drops its token has the request its port had delivered answered by the absorber, and the tag of its own request waits. -/
theorem test_token_drop :
    let s : State := { tagged0 { ag := .dealer 3, addr := 504 } with recorded := [(94, request0 0 0 [])] }
    let t := after (.linkTokenDrop 23 ⟨2, []⟩) s
    t.recorded = [] ∧ t.net.map (fun p => (p.cmd, p.status)) = [(5, 5)] ∧ (t.tag 2047).map (fun r => r.orphan) = some true := by decide +kernel

theorem test_trellis_write : (after (.trellisWr .loader (request0 1 0x0F [0x0807060504030201]) []) meshed0).mem = [(504, 1), (505, 2), (506, 3), (507, 4)] ∧
    ((after (.trellisWr .loader (request0 1 0x0F [0x0807060504030201]) []) meshed0).net.map (fun p => p.cmd)) = [6] := by decide +kernel

/- Seats. -/

/-- The way of the port at router 17 to the hub, west. -/
def hubWay17 : List (Fld × Nat) := [13, 14, 15, 16, 17].map (fun r => (TRL_RTE.ACTIVE r 16, 3))

/-- Seat 3 on a command port, its rings at the indices given, an aperture segment 15 of 64 KiB at DRAM 0x10000, offset 0x20000; DRAM behind the
port at router 17, where PX2 stands too; the endpoints out of Detect, the function of PX2 enabled. -/
def seat0 (cmdp : Nat) (l : List (Fld × Nat) := []) : State :=
  { fields (links ++ hubWay17 ++ [(DRAM_STAT.TRAIN, 2), (TRL_DMAP.MAP, 0xDB6DB6), (SEAT_CFG.EN 3, 1), (SEAT_CFG.CMDP 3, cmdp), (SEAT_STAT.PORTUP 3, 1), (SEAT_SEG_W0.BASE_LO 3 15, 0x10000), (SEAT_SEG_W1.PRESENT 3 15, 1),
    (SEAT_SEG_W1.RDA 3 15, 1), (SEAT_SEG_W1.WRA 3 15, 1), (SEAT_SEG_W2.LIMIT 3 15, 0xFFFF), (SEAT_SEG_W3.APOFF 3 15, 2)] ++ l) with
    pcie := [(2, { memOn := true, busOn := true })], pxActive := 7, inReset := 0 }

/-- Which seats use a command port. -/
theorem only_seat3 (s : State) (P : Fin 4 → Prop) [DecidablePred P] (h : (List.finRange 4).all (fun j => decide (P j) == decide (j = 3)) = true) : ∀ j : Fin 4, P j ↔ j = 3 := by
  intro j
  have := List.all_eq_true.mp h j (List.mem_finRange j)
  by_cases a : P j <;> by_cases b : j = 3 <;> simp_all

/-- Seat 3 on PCIe port 2 once the image is read, its function as given. -/
def endpoint0 (f : PcieFn) (up : Nat := 1) : State := { seat0 2 [(LOAD_STAT.STATE, 1), (SEAT_STAT.PORTUP 3, up)] with pcie := [(2, f)] }

theorem endpoint0_config : ∀ f ∈ [({} : PcieFn), { d3hot := true }], let s := endpoint0 f
    s.fget LOAD_STAT.STATE ≠ 0 ∧ s.fget LOAD_STAT.STATE ≠ 4 ∧ (s.pcieFn 3 = f ∧ s.pxUp 2 = true) ∧
      (List.finRange 4).all (fun j => decide (s.fget (SEAT_CFG.EN j) = 1 ∧ s.fget (SEAT_CFG.CMDP j) = (2 : Fin 3).val) == decide (j = 3)) = true := by
  decide +kernel

theorem witness_HostPorts_config : ∀ f ∈ [({} : PcieFn), { d3hot := true }], let s := endpoint0 f
    s.fget LOAD_STAT.STATE ≠ 0 ∧ s.fget LOAD_STAT.STATE ≠ 4 ∧ (s.pcieFn 3 = f ∧ s.pxUp 2 = true) ∧
      ∀ j : Fin 4, (s.fget (SEAT_CFG.EN j) = 1 ∧ s.fget (SEAT_CFG.CMDP j) = (2 : Fin 3).val) ↔ j = 3 := by
  intro f hf
  obtain ⟨a, b, c, d⟩ := endpoint0_config f hf
  exact ⟨a, b, c, only_seat3 (endpoint0 f) _ d⟩

theorem witness_HostPorts :
    ((seat0 2).fget LOAD_STAT.STATE = 0 ∧ (seat0 2).pxUp 2 = true ∧ (fields []).pxUp 2 = false ∧ (seat0 2 [(LOAD_STAT.STATE, 4)]).fget LOAD_STAT.STATE = 4) ∧
      ((endpoint0 {} 0).pcieSeat 3 = true ∧ (endpoint0 {} 0).bar0Open 3 = false ∧ (endpoint0 {} 0).tagless (.seat 3) = false) ∧
      (∀ c ∈ [2, 4, 8], (seat0 c).pathTurns (.seat 3) hubAddr = none ∧ (seat0 c).safeHold = false) ∧
      (let s := seat0 2 [(SEAT_CMDIDX.CI 3, 200), (SEAT_CMPIDX.PI 3, 10), (SEAT_CMPIDX.CI 3, 250)]
       s.pcieSeat 3 = true ∧ s.bar0Open 3 = true ∧ s.pathTurns (.seat 3) hubAddr = none ∧
       ((8 : BitVec 8).toNat + 256 - s.fget (SEAT_CMDIDX.CI 3)) % 256 = 64 ∧ ((9 : BitVec 8).toNat + 256 - s.fget (SEAT_CMDIDX.CI 3)) % 256 = 65 ∧
         ((250 : BitVec 8).toNat + 256 - s.fget (SEAT_CMPIDX.CI 3)) % 256 = 0 ∧ ((11 : BitVec 8).toNat + 256 - s.fget (SEAT_CMPIDX.CI 3)) % 256 = 17) ∧ (seat0 3).pcieSeat 3 = false ∧
      (∀ j : Fin 4, ((seat0 4).fget (SEAT_CFG.EN j) = 1 ∧ (seat0 4).fget (SEAT_CFG.CMDP j) = 3 + (1 : Fin 2).val) ↔ j = 3) ∧
      (∀ j : Fin 4, ((seat0 8).fget (SEAT_CFG.EN j) = 1 ∧ (seat0 8).fget (SEAT_CFG.CMDP j) = 5 + (3 : Fin 4).val) ↔ j = 3) ∧ (seat0 8).canState 3 = 0 ∧
      (let s := seat0 8 [(SEAT_CMDID.IDE 3, 1), (SEAT_CMDID.ID 3, 2 ^ 29 - 1)]; s.fget (SEAT_CMDID.IDE 3) = 1 ∧ s.fget (SEAT_CMDID.ID 3) = (2 ^ 29 - 1 : BitVec 29).toNat) ∧
      (∀ j : Fin 4, ((seat0 8).fget (SEAT_CFG.EN j) = 1 ∧ (seat0 8).noticeCan j = some (3 : Fin 4).val) ↔ j = 3) ∧
      (∀ j : Fin 4, (seat0 8).noticeCan j = some (3 : Fin 4).val → (seat0 8).fget (SEAT_NTCIDX.PI j) = (seat0 8).fget (SEAT_NTCIDX.CI j)) ∧
      ((seat0 2 [(SEAT_CFG.NTCP 3, 4)]).fget (SEAT_CFG.NTCP 3) = 1 + (3 : Fin 4).val ∧ (seat0 2).fget (SEAT_CFG.CMDP 3) ≠ 5 + (3 : Fin 4).val) := by
  refine ⟨by decide +kernel, by decide +kernel, by decide +kernel, by decide +kernel, by decide +kernel, only_seat3 (seat0 4) _ (by decide +kernel),
    only_seat3 (seat0 8) _ (by decide +kernel), by decide +kernel, by decide +kernel, only_seat3 (seat0 8) _ (by decide +kernel), by decide +kernel, by decide +kernel⟩

/-- DRAM is sound for seat 3 where segment 15 grants it. -/
theorem seat0_granted (x : Nat) (wr : Bool) (lo : 0x10000 ≤ x) (hi : x < 0x20000) :
    regionOf x = .dram ∧ (seat0 2).dramStatus (.seat 3) x wr = 0 ∧ (seat0 2).pathTurns (.seat 3) x = none ∧ (seat0 2).wordSyn x = 0 := by
  have d : regionOf x = .dram := by unfold regionOf; rw [if_pos (by omega)]
  refine ⟨d, ?_, path_dram (by decide +kernel) (by decide +kernel) d, clean_of_empty (by decide +kernel) x⟩
  have g : (seat0 2).seatGranted 3 x wr = true := by
    unfold State.seatGranted
    refine List.any_eq_true.mpr ⟨15, by decide, ?_⟩
    rw [show (seat0 2).segAddr 3 15 0 = 0x10000 by decide +kernel, show (seat0 2).fget (SEAT_SEG_W1.PRESENT 3 15) = 1 by decide +kernel,
      show (seat0 2).fget (SEAT_SEG_W1.WRA 3 15) = 1 by decide +kernel, show (seat0 2).fget (SEAT_SEG_W1.RDA 3 15) = 1 by decide +kernel,
      show (seat0 2).fget (SEAT_SEG_W2.LIMIT 3 15) = 0xFFFF by decide +kernel]
    cases wr <;> simp <;> omega
  unfold State.dramStatus
  rw [show (seat0 2).fget DRAM_STAT.TRAIN = 2 by decide +kernel, show (seat0 2).fget DRAM_STAT.SREF = 0 by decide +kernel, outside_copy (by decide +kernel)]
  simp only [show ((3 : Fin 4).val) = 3 from rfl, g]
  decide

/-- Segment 15 covers its last 4,096 bytes from offset 0x2F000, at 0x1F000, no lower segment does; DRAM is sound there; offset 0x2F001 is past it. -/
theorem witness_HostPorts_aperture :
    (∀ g, g < 15 → (seat0 2).fget (SEAT_SEG_W1.PRESENT 3 g) = 0) ∧
      (let s := seat0 2; let start := 65536 * s.fget (SEAT_SEG_W3.APOFF 3 15)
       s.pcieSeat 3 = true ∧ s.bar0Open 3 = true ∧ s.tagless (.seat 3) = false ∧ s.fget (SEAT_SEG_W1.PRESENT 3 15) = 1 ∧ start ≤ 0x2F000 ∧ 0x2F000 + 4096 - 1 ≤ start + s.fget (SEAT_SEG_W2.LIMIT 3 15) ∧
         ¬0x2F001 + 4096 - 1 ≤ start + s.fget (SEAT_SEG_W2.LIMIT 3 15) ∧ 0x10000 + (0x2F000 - start) = 0x1F000 ∧
         s.fget (SEAT_STAT.PORTUP 3) = 1 ∧ s.fget DRAM_STAT.TRAIN = 2 ∧ s.fget (SEAT_SEG_W1.RDA 3 15) = 1 ∧ s.fget (SEAT_SEG_W1.WRA 3 15) = 1) ∧
      (seat0 2 [(SEAT_SEG_W1.RDA 3 15, 0), (SEAT_SEG_W1.WRA 3 15, 0)]).fget (SEAT_SEG_W1.RDA 3 15) = 0 ∧
      ∀ x wr, 0x1F000 ≤ x → x < 0x1F000 + 4096 → regionOf x = .dram ∧ (seat0 2).dramStatus (.seat 3) x wr = 0 ∧ (seat0 2).pathTurns (.seat 3) x = none ∧ (seat0 2).wordSyn x = 0 := by
  exact ⟨by decide +kernel, by decide +kernel, by decide +kernel, fun x wr a b => seat0_granted x wr (by omega) (by omega)⟩

theorem test_aperture_read : (after (.apertureRead 3 0x20000 2) { seat0 2 with mem := [(0x10001, 9)] }).outs = [.tlp 3 0 [0, 9]] := by decide +kernel

/-- A command in ring entry 0 of seat 3: the 16 words given, from word 0. -/
def command0 (cmdp : Nat) (ws : List Nat) (l : List (Fld × Nat) := []) : State :=
  (seat0 cmdp ([(SEAT_CMDIDX.PI 3, 1)] ++ l)).putBytes (SEAT_CMDRING.reg 3 0 0) (ws.flatMap (fun w => bytesOfNat 4 w))

/-- DRAM_FILL of 16 bytes at offset 0xFFF0 of segment 15, with a pattern; sequence 0x102. -/
def fill0 : List Nat := [0x00120102, 15, 0, 0, 0xFFF0, 16, 0x04030201, 0x08070605]

theorem witness_SeatCommands :
    (let s := command0 2 fill0
     let b := s.getBytes (SEAT_CMDRING.reg 3 0 0) 16
     let field (at_ n : Nat) : Nat := natOfBytes ((b.drop at_).take n)
     s.fget (SEAT_CFG.EN 3) = 1 ∧ ringCount (s.fget (SEAT_CMDIDX.PI 3)) (s.fget (SEAT_CMDIDX.CI 3)) ≠ 0 ∧ ringCount (s.fget (SEAT_CMPIDX.PI 3)) (s.fget (SEAT_CMPIDX.CI 3)) < 64 ∧
       s.fget GARD_STAT.STATE ≠ 1 ∧ s.fget (SEAT_CFG.CMDP 3) < 3 ∧ field 2 1 = 0x12 ∧ field 3 1 = 0 ∧ field 4 4 = 15 ∧ field 8 4 = 0 ∧ field 16 4 = 0xFFF0 ∧ field 20 4 = 16 ∧
       (∀ x ∈ b.drop 32, x = 0) ∧ s.fget (SEAT_SEG_W1.PRESENT 3 15) = 1 ∧ s.fget (SEAT_SEG_W1.WRA 3 15) = 1 ∧ field 16 4 + field 20 4 - 1 ≤ s.fget (SEAT_SEG_W2.LIMIT 3 15) ∧
       s.fget DRAM_STAT.TRAIN = 2 ∧ s.fget (SEAT_JOB_W0.STATE 3 0) ∈ [0, 4, 5]) ∧
      (let s := command0 2 [0x00120102, 15, 0, 0, 0xFFF8, 16]; s.fget (SEAT_SEG_W2.LIMIT 3 15) < 0xFFF8 + 16 - 1) ∧
      (let s := command0 2 fill0 [(SEAT_SEG_W1.WRA 3 15, 0)]; s.fget (SEAT_SEG_W1.WRA 3 15) = 0) ∧
      (let s := command0 2 [0x00130000]; let b := s.getBytes (SEAT_CMDRING.reg 3 0 0) 16; natOfBytes ((b.drop 2).take 1) ∉ [1, 2, 3, 4, 5, 0x10, 0x11, 0x12, 0x18, 0x19, 0x1A]) ∧
      (let s := command0 3 fill0; let b := s.getBytes (SEAT_CMDRING.reg 3 0 0) 16
       3 ≤ s.fget (SEAT_CFG.CMDP 3) ∧ natOfBytes ((b.drop 12).take 4) ≠ crc32 (b.take 12 ++ [0, 0, 0, 0] ++ b.drop 16)) ∧
      (let s := command0 2 fill0 ((List.range 15).map (fun i => (SEAT_JOB_W0.STATE 3 i, 1))); (∀ i, i < 15 → s.fget (SEAT_JOB_W0.STATE 3 i) ∈ [1, 2, 3]) ∧ s.fget (SEAT_JOB_W0.STATE 3 15) = 0) ∧
      (let r : JobRec := { kind := 2, seg := 15, off := 0xFFF0, len := 16, src := 0, pat := 0x0807060504030201, order := 0 }
       let s := { seat0 2 [(SEAT_JOB_W0.STATE 3 15, 2)] with seats := [(3, { jobs := [(15, r)] })] }
       s.fget (SEAT_JOB_W0.STATE 3 15) = 2 ∧ (∀ i, i < 15 → s.fget (SEAT_JOB_W0.STATE 3 i) ≠ 2) ∧ s.job 3 15 = some r ∧ s.fget (SEAT_JOB_W1.PROG 3 15) = 0 ∧
         r.ended = false ∧ r.pat < 2 ^ 64 ∧ min ((s.fget (SEAT_CFG.STEP 3) + 1) * 65536) (r.len - 0) = 16 ∧ portsOpen s ∧ routesToDram s (.seat 3) ∧ s.safeHold = false ∧ s.seatGranted 3 0x1FFF0 true = true ∧
         s.seatGranted 3 0x1FFFF true = true) ∧
      (∀ cmdp ∈ [2, 8, 3, 4], (seat0 cmdp).fget (SEAT_CFG.EN 3) = 1 ∧ (seat0 cmdp).fget (SEAT_STAT.PORTUP 3) = 1 ∧ (seat0 cmdp).fget (SEAT_CFG.CMDP 3) = cmdp) ∧
      (∀ cmdp ∈ [2, 8], let s := { seat0 cmdp [(SEAT_STAT.PORTUP 3, 0), (SEAT_CMPIDX.PI 3, 1), (⟨SEAT_MSIX.reg 3 0 3, 0, 1⟩, 1)] with pcie := [(2, { msixOn := true, busOn := true })] }
        s.fget (SEAT_STAT.PORTUP 3) = 0 ∧ s.canState 3 ≠ 2 ∧ s.fget (SEAT_CMPIDX.PI 3) ≠ s.fget (SEAT_CMPIDX.CI 3) ∧ s.vectorMasked 3 0 = false ∧
          s.safeHold = false ∧ (s.pcieSeat 3 = true → (s.pcieFn 3).d3hot = false ∧ (s.pcieFn 3).msixOn = true ∧ (s.pcieFn 3).busOn = true ∧ s.pxUp (s.fget (SEAT_CFG.CMDP 3)) = true)) ∧
      (seat0 2 [(LOAD_STAT.STATE, 4)]).safeHold = true ∧
      (let s := seat0 2 [(SEAT_CFG.WDOG 3, 1)]; s.fget (SEAT_CFG.WDOG 3) ≠ 0 ∧ (s.seat 3).wdog = false ∧ (({ s with seats := [(3, { wdog := true })] } : State).seat 3).wdog = true) := by
  refine ⟨?_, ?_, ?_, ?_, ?_, ?_, ?_, ?_, ?_, ?_, ?_⟩ <;> decide +kernel

/-- Seat 3 on PX2 with segment 15, a command of the words given in entry 0 of its ring. -/
def slot0 (ws : List Nat) (l : List (Fld × Nat) := []) : State :=
  (fields ([(DRAM_STAT.TRAIN, 2), (SEAT_CFG.EN 3, 1), (SEAT_CFG.CMDP 3, 2), (SEAT_SEG_W1.PRESENT 3 15, 1), (SEAT_SEG_W1.RDA 3 15, 1), (SEAT_SEG_W1.WRA 3 15, 1),
    (SEAT_SEG_W2.LIMIT 3 15, 0xFFFF), (SEAT_CMDIDX.PI 3, 1)] ++ l)).putBytes (SEAT_CMDRING.reg 3 0 0) (ws.flatMap (fun w => bytesOfNat 4 w))

/-- Bytes of the command in ring entry 0 of seat 3. -/
def cmd0 (s : State) : List Byte := s.getBytes (SEAT_CMDRING.reg 3 0 0) 16
def cfield (s : State) (at_ n : Nat) : Nat := natOfBytes (((cmd0 s).drop at_).take n)
def czeros (s : State) (n : Nat) : Bool := ((cmd0 s).drop n).all (· == 0)

/-- A state in which seat 3's next command is taken, without a CRC, and names the opcode. -/
def takes0 (s : State) (opcode : Nat) : Bool :=
  !s.safeHold && s.fget (SEAT_CFG.EN 3) == 1 && ringCount (s.fget (SEAT_CMDIDX.PI 3)) (s.fget (SEAT_CMDIDX.CI 3)) != 0 &&
    decide (ringCount (s.fget (SEAT_CMPIDX.PI 3)) (s.fget (SEAT_CMPIDX.CI 3)) < 64) && s.fget GARD_STAT.STATE != 1 && decide (s.fget (SEAT_CFG.CMDP 3) < 3) &&
    cfield s 2 1 == opcode && cfield s 3 1 == 0

/-- LAYER_POST of layer `layer` from the last bytes of segment 15: two rows of `w` pixels of 2 bytes, 64 bytes apart. -/
def post0 (layer w : Nat) (en : Nat := 1) (l : List (Fld × Nat) := []) : State :=
  slot0 [0x00010102, layer, 0, 0, 0xFFB8, 15 + 2 * 2 ^ 8 + 5 * 2 ^ 16, w + 2 * 2 ^ 16, 64] ([(SEAT_LAYER.EN 3 15, en)] ++ l)

theorem witness_SeatCommands_post :
    [(2, 1), (2, 0), (0, 1)].all (fun p => let s := post0 15 p.1 p.2
      takes0 s 1 && cfield s 4 4 == 15 && cfield s 8 4 == 0 && cfield s 16 4 == 0xFFB8 && cfield s 20 1 == 15 && cfield s 21 1 == 2 && cfield s 22 1 == 5 && cfield s 24 2 == p.1 &&
        cfield s 26 2 == 2 && cfield s 28 4 == 64 && czeros s 36 && s.fget (SEAT_LAYER.EN 3 15) == p.2 && s.fget (SEAT_SEG_W1.PRESENT 3 15) == 1 &&
        s.fget (SEAT_SEG_W1.RDA 3 15) == 1 && decide (0xFFB8 + (64 + 2 * p.1) - 1 ≤ s.fget (SEAT_SEG_W2.LIMIT 3 15)) && s.fget DRAM_STAT.TRAIN == 2) = true ∧
      (takes0 (post0 16 2) 1 && cfield (post0 16 2) 4 4 == 16) = true ∧ (post0 15 2 1 [(DRAM_STAT.TRAIN, 1)]).fget DRAM_STAT.TRAIN ≠ 2 ∧
      (post0 15 2 1 [(SEAT_SEG_W1.PRESENT 3 15, 0)]).fget (SEAT_SEG_W1.PRESENT 3 15) = 0 ∧ (post0 15 2 1 [(SEAT_SEG_W1.RDA 3 15, 0)]).fget (SEAT_SEG_W1.RDA 3 15) = 0 := by
  decide +kernel

/-- A command of two operand words. -/
def pair0 (opcode x y : Nat) (l : List (Fld × Nat) := []) : State := slot0 [opcode * 2 ^ 16 + 0x102, x, y] l

theorem witness_SeatCommands_reads :
    [(0, 0), (1, 0), (15, 0), (0x2F, 0), (0x34, 0), (0x34, 1), (0x1FF, 0), (0x100, 0), (0x1F, 0), (0xFF, 0), (0x200, 0), (0, 1), (0x30, 2)].all (fun p =>
      let s := pair0 3 p.1 p.2 [(TELL_DEF_W0.SRC 255, 3)]
      takes0 s 3 && cfield s 4 4 == p.1 && cfield s 8 4 == p.2 && czeros s 16 && s.fget (TELL_DEF_W0.SRC 255) == 3 && s.fget (TELL_DEF_W0.SRC 0) == 0) = true ∧
      [(0x30000, 2, 1), (0x30500, 1, 1), (0x7FFFFC, 0, 1), (0x7FFFFC, 2, 0), (0x800000, 1, 1)].all (fun p => let s := pair0 4 p.1 p.2.1 [(SEAT_CFG.DIAG 3, p.2.2)]
        takes0 s 4 && cfield s 4 4 == p.1 && cfield s 8 4 == p.2.1 && czeros s 16 && s.fget (SEAT_CFG.DIAG 3) == p.2.2) = true ∧
      (regGroupAt 0x30000).isSome = true ∧ (regGroupAt 0x30004).isSome = true ∧ regGroupAt 0x30500 = none := by
  decide +kernel

theorem witness_SeatCommands_bank :
    [(31, 4, 0x200), (287, 4, 0x200), (31, 5, 0x200), (31, 4, 0x1FF), (512, 4, 0x200)].all (fun p => let s := pair0 5 p.1 9 [(BANK_OWNER.OWNER 31, p.2.1), (BANK_GRANT.GRANT 31, p.2.2)]
      takes0 s 5 && cfield s 4 4 == p.1 && cfield s 8 4 == 9 && czeros s 16 && s.fget (BANK_OWNER.OWNER 31) == p.2.1 && natBit (s.fget (BANK_GRANT.GRANT 31)) 9 == (p.2.2 == 0x200) &&
        !s.holdsContext 31 && s.fget (BANK_STAT.WEED 31) == 0) = true := by
  decide +kernel

/-- An entry of the section table: type, DEST, OFFSET, SIZE, HASH. -/
def sect0 (typ dest off size : Nat) (hash : Nat := 0) : List Byte :=
  bytesOfNat 2 typ ++ bytesOfNat 2 (dest / 2 ^ 32) ++ bytesOfNat 4 off ++ bytesOfNat 4 size ++ bytesOfNat 4 (dest % 2 ^ 32) ++ (bytesOfNat 48 hash).reverse

/-- A header: MAGIC, FORMAT 1, PART 0x9262, the flags, a KEY of zeros, and the entries. -/
def header0 (es : List (List Byte)) (flags : Nat := 0) (copyBase : Nat := 2 ^ 36) : List Byte :=
  bytesOfNat 4 0x52464559 ++ bytesOfNat 2 1 ++ bytesOfNat 2 0x9262 ++ bytesOfNat 2 (2 ^ 8 * flags) ++ bytesOfNat 2 es.length ++ bytesOfNat 4 0 ++ bytesOfNat 8 copyBase ++
    List.replicate 104 0 ++ es.flatten

/-- An image with an asset table of two assets of 16 bytes: of seat 3, and of the other seats. -/
def assets0 : Plan :=
  let asset (seats : Nat) : List Byte := bytesOfNat 4 0x10000 ++ bytesOfNat 4 16 ++ bytesOfNat 8 seats ++ List.replicate 48 0
  { header := header0 [sect0 0x11 0 0x4000 128], contents := [asset 8 ++ asset 7] }

/-- An ASSET_IMPORT, an EXPORT or a DRAM_FILL to the last 16 bytes of segment 15. -/
def import0 (asset : Nat) (l : List (Fld × Nat) := []) : State :=
  { slot0 [0x00100102, asset, 15, 0, 0xFFF0] l with plan := assets0 }
def export0 (src : Nat) (l : List (Fld × Nat) := []) : State := slot0 [0x00110102, 15, src, 0, 0] ([(DSP_FBP.PITCH 5, 1), (DSP_VTIM.ACTIVE 5, 64)] ++ l)

theorem witness_SeatCommands_jobs :
    [0, 1, 2].all (fun a => let s := import0 a
      takes0 s 0x10 && cfield s 4 4 == a && cfield s 8 4 == 15 && cfield s 16 4 == 0xFFF0 && czeros s 20 &&
        (s.plan.assets[a]?).map (fun x => natBit x.seats.toNat 3) == [some true, some false, none].getD a none) = true ∧
      (let s := import0 0 [(LOAD_STAT.STATE, 3), (SEAT_JOB_W0.STATE 3 0, 5)]; s.fget LOAD_STAT.STATE = 3 ∧ s.fget (SEAT_JOB_W0.STATE 3 0) = 5) ∧
      [(5, 32), (5, 31), (6, 0), (16, 0), (31, 0x8000)].all (fun p => let s := export0 p.1 [(SEAT_EXP.PIPES 3, p.2 % 64), (SEAT_EXP.CTXS 3, p.2)]
        takes0 s 0x11 && cfield s 4 4 == 15 && cfield s 8 4 == p.1 && czeros s 20 && (p.1 != 5 || natBit (s.fget (SEAT_EXP.PIPES 3)) 5 == (p.2 == 32)) &&
          (decide (p.1 < 16) || natBit (s.fget (SEAT_EXP.CTXS 3)) (p.1 - 16) == (p.1 == 31))) = true ∧
      (let s := slot0 fill0; takes0 s 0x12 && czeros s 32 && cfield s 16 4 == 0xFFF0 && cfield s 20 4 == 16) = true ∧
      (let s := slot0 fill0 ((List.range 16).map (fun i => (SEAT_JOB_W0.STATE 3 i, 3))); ∀ i, i < 16 → s.fget (SEAT_JOB_W0.STATE 3 i) = 3) ∧
      (let s := slot0 [0x00120102, 15, 0, 0, 0xFFF0, 0]; takes0 s 0x12 && cfield s 20 4 == 0) = true ∧
      (let s := slot0 [0x00120102, 16, 0, 0, 0, 8]; takes0 s 0x12 && cfield s 4 4 == 16) = true := by
  decide +kernel

/-- JOB_PAUSE, JOB_RESUME and JOB_CANCEL of job 15 with serial 0x102, in a state and with PC as given. -/
theorem witness_SeatCommands_steer :
    [(0x18, 0, 0), (0x18, 1, 0), (0x18, 2, 0), (0x18, 2, 1), (0x18, 4, 0), (0x19, 3, 0), (0x19, 5, 0), (0x1A, 2, 0), (0x1A, 3, 0)].all (fun p =>
      let s := pair0 p.1 (15 + 2 ^ 16 * 0x102) 0 [(SEAT_JOB_W0.STATE 3 15, p.2.1), (SEAT_JOB_W0.JSER 3 15, 0x102), (SEAT_JOB_W0.PC 3 15, p.2.2)]
      takes0 s p.1 && cfield s 4 4 == 15 + 2 ^ 16 * 0x102 && cfield s 8 4 == 0 && czeros s 16 && s.fget (SEAT_JOB_W0.STATE 3 15) == p.2.1 &&
        s.fget (SEAT_JOB_W0.JSER 3 15) == 0x102 && s.fget (SEAT_JOB_W0.PC 3 15) == p.2.2) = true := by
  decide +kernel

theorem test_bank_handover_command :
    let s := { pair0 5 287 9 [(BANK_OWNER.OWNER 31, 4), (BANK_GRANT.GRANT 31, 0x200)] with mem := [(0x40007FFFFF, 7)] }
    (after (.commandTake 3) s).fget (BANK_OWNER.OWNER 31) = 9 ∧ (after (.commandTake 3) s).mem = [] := by decide +kernel

/-- The DRAM_FILL of spec/13's table of one job: SEQ 0x0412, segment 3, OFFSET 0x0010_0000, LENGTH 0x00A0_0000; RESULT is 0x0412_0010. -/
theorem test_dram_fill :
    let s := command0 2 [0x00120412, 3, 0, 0, 0x00100000, 0x00A00000] [(SEAT_SEG_W1.PRESENT 3 3, 1), (SEAT_SEG_W1.WRA 3 3, 1), (SEAT_SEG_W2.LIMIT 3 3, 0xFFFFFFFF)]
    let t := after (.commandTake 3) s
    t.fget (SEAT_JOB_W0.STATE 3 0) = 1 ∧ natOfBytes ((t.getBytes (SEAT_CMPRING.reg 3 0 0) 4).take 12) = 0x0412 + 2 ^ 16 * 0x12 + 2 ^ 32 * 0x04120010 := by
  decide +kernel

/- The Gardener. -/

/-- SHA-384 of the byte 1. -/
def hash1 : Nat := 0x8d2ce87d86f55fcfab770a047b090da23270fa206832dfea7e0c946fff451f819add242374be551b0d6318ed6c7d41d8

/-- An image whose first section, of type 1, holds the byte 1. -/
def main0 : Plan := { header := header0 [sect0 1 0 0x1000 1 hash1], contents := [[1]] }

/-- A Gardener that runs, with its timer; a report of a bank's word. -/
def gard0 (g : GardRec) (l : List (Fld × Nat) := []) : State := { fields l with gardTimer := true, gard := g }
def bankReport (lasting : Bool) : Report := { cls := 1, kind := 1, loc := 0x40007FFFF8, lasting := lasting }

theorem witness_Gardener :
    (let s := { gard0 { queue := List.replicate 511 (bankReport false, 0) } with rpt := [bankReport false] }; s.rpt = [bankReport false] ∧ s.gard.queue.length < 512) ∧
      (let s := gard0 { queue := List.replicate 512 (bankReport false, 0) }; 512 ≤ s.gard.queue.length) ∧
      (let s := gard0 { ueQueue := List.replicate 63 (bankReport false, 0) }; s.gard.ueQueue.length < 64) ∧
      (let s := { gard0 { ueQueue := List.replicate 64 (bankReport false, 0), warms := [0, 0] } with rpt := [{ bankReport false with ue := true }] }
       64 ≤ s.gard.ueQueue.length ∧ s.fget GARD_STAT.STATE = 0 ∧ s.gard.warms.length < 3 ∧ s.rpt = [{ bankReport false with ue := true }]) ∧
      (∀ l, let s := gard0 { queue := [(bankReport l, 5)] }
        s.gardTimer = true ∧ s.fget GARD_STAT.STATE = 0 ∧ s.gard.ueQueue = [] ∧ s.gard.queue = [(bankReport l, 5)] ∧ (bankReport l).ue = false ∧ (bankReport l).part = 0 ∧
          s.outOfService (bankReport l) = false ∧ s.gard.scrubs = [] ∧ s.gard.held = [] ∧ s.safeHold = false ∧ (bankReport l).config = false ∧ 0 < s.fget (GARD_CLASS.STRIKES 1) ∧ s.gard.trackers = [] ∧
          regionOf (bankReport l).loc = .store 31 ∧ s.gard.graft = none ∧ s.gard.nurseryBad = false ∧ s.fget GARD_SPARE.NURS = 0 ∧ s.nurseryFree = true) ∧
      (let r : Report := { cls := 3, kind := 3, loc := 0, lasting := true }; let s := gard0 { queue := [(r, 5)] }
       s.gard.queue = [(r, 5)] ∧ s.outOfService r = false ∧ s.gard.held = [] ∧ s.safeHold = false ∧ r.lasting = true) ∧
      (gard0 {} [(GARD_DLR.ROLE, 0x40)]).role 3 = 1 ∧
      (let s := { gard0 { scrubs := [bankReport false, bankReport true] } with syn := [] }
       s.gard.scrubs[1]? = some (bankReport true) ∧ s.fget GARD_STAT.STATE ≠ 3 ∧ (let cell := s.phys 0x40007FFFF8; decodeSyn (s.wordSyn cell ^^^ foldSyn 0x40007FFFF8 cell).toNat ≠ .ue)) ∧
      (let s := { gard0 {} with warm := 5, sectsDone := 1, plan := main0 }; s.warm = 5 ∧ s.failedCopies ≠ []) ∧ State.reset.failedCopies = [] ∧
      (let s := gard0 { repairs := [2 ^ 37 - 8] }; s.gard.repairs = [2 ^ 37 - 8] ∧ (2 ^ 37 - 8) % 8 = 0 ∧ s.fget GARD_STAT.STATE ≠ 3 ∧ s.fget DRAM_STAT.SREF = 0) ∧
      (∀ w ∈ [1, 4, 5], ({ gard0 {} with warm := w, inReset := 0 } : State).warm = w ∧ ({ gard0 {} with warm := w, inReset := 0 } : State).inReset = 0) := by
  decide +kernel

/-- A single-bit error in the second scrub's word is corrected (R323, R412). -/
theorem test_scrub_corrects :
    let s := { gard0 { scrubs := [bankReport false] } with mem := [(0x40007FFFF8, 1)], syn := [(0x40007FFFF8 / 8, BitVec.ofNat 16 (bitSyndrome 0))] }
    (after (.transientScrub 0 false) s).mem = [] ∧ (after (.transientScrub 0 false) s).syn = [] := by decide +kernel

/- The Espalier. -/

/-- The fabric in a state and stage, with the macrocells given. -/
def fabric0 (state stage : Nat) (b : Bitstream := {}) (l : List (Fld × Nat) := []) : State :=
  { fields ([(ESP_STAT.STATE, state), (ESP_STAT.STAGE, stage)] ++ l) with plan := { esp := some b } }

/-- Macrocell 1023: a D flip-flop whose input is 1, clocked by tree 3. -/
def dff : Bitstream := { macros := [(1023, { xorOne := true, kind := 1, fg := some 3 })] }

/-- The fields that make FCLK run: PLE is locked and the PER domain on it, with gate 23 open. -/
def fclkFields : List (Fld × Nat) := [(CLK_PLL.READY 5, 1), (CLK_SEL.SRC 5, 1), (CLK_GATE.EN 23, 1)]

/-- The fabric with FCLK. -/
def fabricOn (state stage : Nat) (b : Bitstream := {}) (l : List (Fld × Nat) := []) : State := fabric0 state stage b (fclkFields ++ l)

/-- Every macrocell combinational, no event waiting, and the outputs settled. -/
def still0 (s : State) : Bool :=
  s.bits.macros.all (fun c => c.2.kind == 0) && s.eiPend.isEmpty && s.esp.ei == 0 && (s.espEnv.pass s.bits s.esp.ff).out == s.espEnv.out

/-- A macrocell whose output is 1. -/
def high : List (Nat × Macrocell) := [(1023, { xorOne := true })]

theorem witness_Espalier :
    (∀ st, st < 3 → (fabricOn 1 st).fclkOn = true ∧ (fabricOn 1 st).fget ESP_STAT.STATE = 1 ∧ (fabricOn 1 st).fget ESP_STAT.STAGE = st) ∧
      ((fabricOn 1 3).fclkOn = true ∧ (fabricOn 1 3).bits.startDone = none) ∧ ((fabricOn 3 3).fclkOn = true ∧ (fabricOn 3 3).bits.recReq = none) ∧
      (let s := fabricOn 2 3 { macros := high, recReq := some 1023 }
       s.fclkOn = true ∧ still0 s = true ∧ s.fget ESP_STAT.STATE = 2 ∧ s.bits.recReq = some 1023 ∧ s.macroOut 1023 = true) ∧
      (let s := fabricOn 4 3 { macros := high, eo := [(27, 162 + 1023)] }
       s.fclkOn = true ∧ still0 s = true ∧ s.fget ESP_STAT.STATE = 4 ∧ natBit s.eoLevels 27 = true ∧ natBit (s.fget ESP_EO_LO.EO) 27 = false) ∧
      (fabric0 1 0).fclkOn = false ∧ handover0.pathTurns (.dealer 3) hubAddr = none ∧
      (let s := fabric0 4 3 dff [(SYS_LCS.DBG, 1), (ESP_TEST.ENTER, 1), (ESP_TEST.STOP, 1), (TRL_RTR.TOKEN 12, 255)]
       s.fget SYS_LCS.DBG = 1 ∧ s.pathTurns .debug hubAddr = none ∧ s.fget ESP_STAT.STATE = 4 ∧ s.fget ESP_TEST.ENTER = 1 ∧ s.fget ESP_TEST.STOP = 1 ∧ s.bits.macros = [(1023, { xorOne := true, kind := 1, fg := some 3 })] ∧
         2 ≤ s.fget ESP_STAT.STAGE ∧ s.espFresh 1023 = false) ∧
      (fabric0 2 3 {} [(SYS_LCS.DBG, 0)]).fget SYS_LCS.DBG ≠ 1 ∧
      (∀ st ∈ [2, 4], let s := fabric0 st 3 dff [(PAD_MUX.FUNC 3, 1), (ESP_FG.SRC 3, 1)]
       s.fget (PAD_MUX.FUNC 3) = 1 ∧ s.fget (ESP_FG.SRC 3) = 1 ∧ natBit s.esp.pads 3 = false ∧ s.fget ESP_TEST.STOP = 0 ∧ s.espFresh 1023 = false) ∧
      State.reset.fget (PAD_MUX.FUNC 95) ≠ 1 := by
  decide +kernel

theorem test_pad_clocks : natBit (after (.gpioPadInputChange 3 true) (fabric0 2 3 dff [(PAD_MUX.FUNC 3, 1), (ESP_FG.SRC 3, 1)])).esp.ff 1023 = true := by decide +kernel

/- Clocks, resets and the loader. -/

/-- Outside reset, with the fields given; the loader at router 18 and the Gardener at router 23 on their ways to the hub. -/
def running0 (l : List (Fld × Nat)) : State :=
  { fields (hubWay3 ++ [(TRL_RTR.TOKEN 12, 255), (TRL_RTR.TOKEN 18, 255), (TRL_RTR.TOKEN 23, 255)] ++ l) with inReset := 0 }

theorem witness_Clocks :
    (∀ ag ∈ [Agent.loader, .gardener, .debug], (running0 []).pathTurns ag hubAddr = none) ∧
      ((running0 []).xtalOn 0 = true ∧ (running0 []).fget CLK_STAT.XAR = 0 ∧ (running0 []).fget LOAD_STAT.STATE = 0 ∧
        (let s := running0 [(CLK_STAT.XBFAIL, 1)]; s.fget CLK_STAT.XBFAIL = 1 ∧ s.fget CLK_STAT.XBR = 0) ∧
        (let s := running0 [(LOAD_STAT.STATE, 1)]; s.fget LOAD_STAT.STATE ≠ 0 ∧ s.xbUsed s.plan.xb = false) ∧
        (let s : State := { running0 [(LOAD_STAT.STATE, 1)] with plan := { xb := true } }; s.plan.xb = true ∧ s.fget LOAD_STAT.STATE ≠ 0 ∧ s.xbUsed s.plan.xb = true) ∧
        (let s : State := { running0 [(CLK_STAT.XAFAIL, 1)] with plan := { xb := true } }
         s.xtalOn 1 = true ∧ s.fget CLK_STAT.XAFAIL = 1 ∧ s.fget CLK_STAT.XAR = 0 ∧ s.fget CLK_STAT.XBR = 0)) ∧
      (∀ p ∈ [(2, 0), (3, 4), (5, 1)], let s := running0 [(CLK_STAT.XAR, 1), (CLK_PLL.REF p.1, 1), (CLK_PLLF.KHZ p.1, 100000), (LOAD_STAT.STATE, p.2)]
       s.inReset = 0 ∧ s.refReady (s.pllRef p.1) = true ∧ s.pllTimed p.1 = true ∧ s.fget DRAM_STAT.TRAIN = 0 ∧ s.fget LOAD_STAT.STATE = p.2 ∧ s.selPlan = []) ∧
      (∀ v ∈ [2, 3], let s : State := { running0 [(CLK_STAT.XAR, 1), (CLK_PLL.REF 5, 1), (CLK_PLLF.KHZ 5, 100000), (LOAD_STAT.STATE, 1)] with selPlan := [(5, v)] }
       s.started = false ∧ s.fget LOAD_STAT.STATE ≠ 4 ∧ s.fget (CLK_SEL.BUSY 5) = 0 ∧ s.fget CLK_STAT.FIRCR = 1 ∧ s.refReady (s.pllRef 5) = true ∧ s.pllTimed 5 = true) ∧
      Agent.gardener ∉ [Agent.loader, .debug] ∧
      (let s := running0 [(CLK_PLL.READY 5, 1)]; s.locked (CLK_SEL.reg 5) = false ∧ s.fget (CLK_SEL.BUSY 5) = 0 ∧ s.fget (CLK_PLL.READY 5) = 1 ∧ s.fget CLK_STAT.FIRCR = 1 ∧
        ¬s.fget (CLK_PLL.READY 4) = 1) ∧
      (∀ st ∈ [0, 3], let s := running0 [(CLK_SEL.BUSY 6, 1), (CLK_SEL.STEP 6, st)]; s.fget (CLK_SEL.BUSY 6) = 1 ∧ s.fget (CLK_SEL.STEP 6) = st) ∧
      ((List.finRange 25).any (fun g => gateParent g == none && gateChildren g == [] && !(running0 []).gateNeeded g) = true ∧
        (List.finRange 25).any (fun g => (match gateParent g with | some q => (running0 [(CLK_GATE.EN q, 0), (CLK_GATE.EN g, 0)]).fget (CLK_GATE.EN g) == 0 | none => false)) = true) ∧
      (let s := running0 [(CLK_TRIM.REF, 6), (SEAT_CFG.EN 2, 1), (SEAT_CFG.CMDP 2, 8)]; s.fget CLK_TRIM.REF = 3 + (3 : Fin 4).val ∧ s.portBound 8 = true) ∧
      (let s := running0 [(CLK_STAT.SIRCR, 1), (CLK_STAT.XAR, 1), (CLK_STAT.XBR, 1), (CLK_PLL.READY 5, 1), (CLK_PLL.REF 5, 1), (CLK_PLL.FBREF 5, 1)]
       s.inReset = 0 ∧ s.fget CLK_STAT.FIRCR = 1 ∧ s.fget CLK_STAT.SIRCR = 1 ∧ s.fget (CLK_PLL.READY 5) = 1 ∧ s.fget CLK_STAT.XBR = 1 ∧ (∀ q, q < 6 → s.pllRef q ≠ 2) ∧ s.fget CLK_STAT.XAR = 1 ∧
         s.pllRef 5 = 1 ∧ s.fget (CLK_PLL.FBREF 5) ∈ [0, 1]) ∧ (fields []).inReset = 1 := by
  decide +kernel

/-- A trim window can end; a gate in use. -/
theorem witness_Clocks_trim : ∃ s : State, s.trimReady = true ∧ (s.started = true → s.fallow = true) :=
  ⟨{ running0 [(CLK_TRIM.REF, 1), (CLK_STAT.XAR, 1)] with canTrim := 32 }, by decide +kernel, by decide +kernel⟩

theorem witness_Clocks_gates : (List.finRange 25).any (fun g => gateParent g == none && gateChildren g == [] && (running0 [(CLK_GATE.EN g, 1), (LOAD_STAT.SLOT, 1)]).gateNeeded g) = true := by
  decide +kernel

theorem witness_ResetsAndLoader :
    (∀ r, r < 3 → ({ fields [] with inReset := r } : State).inReset = r) ∧ natBit (running0 []).railOut (6 : Fin 7).val ≠ true ∧
      (let s := running0 [(PAD_POC.EN 13, 1), (PAD_POC.STATE 13, 1), (PAD_POC.VTRIP 13, 500)]; s.fget (PAD_POC.EN 13) = 1 ∧ s.fget (PAD_POC.STATE 13) = 1 ∧ s.fget (PAD_POC.VTRIP 13) < 501) ∧
      (let s := running0 [(PAD_POC.EN 13, 1), (PAD_POC.STATE 13, 2)]; s.fget (PAD_POC.EN 13) = 1 ∧ s.fget (PAD_POC.STATE 13) = 2) ∧
      (running0 []).hot = false ∧ ({ running0 [] with hot := true } : State).hot = true ∧
      ((running0 []).inReset = 0 ∧ (running0 []).fget LOAD_STAT.STATE = 0 ∧ (running0 []).fget CLK_STAT.XAFAIL = 0 ∧ ({ answers := false } : Image).answers = false ∧
        ({} : Image).answers = true ∧ ({} : Image).plan.magic ≠ 0x52464559) ∧
      (running0 [(LOAD_STAT.SLOT, 1)]).fget LOAD_STAT.SLOT = 1 ∧
      (let s := { running0 [(LOAD_STAT.STATE, 1), (DRAM_STAT.TRAIN, 2)] with plan := main0 }
       s.fget LOAD_STAT.STATE = 1 ∧ s.fget DRAM_STAT.TRAIN = 2 ∧ s.mainRead = false ∧
         (mainOrder s.plan)[s.sectsDone]?.map (fun x => (x.verifies [1], x.verifies [2], x.verifies [])) = some (true, false, false)) ∧
      (∀ ag ∈ [Agent.debug, .loader], (running0 []).pathTurns ag hubAddr = none) ∧
      (∀ v ∈ [0x4C000001, 0x4C000002, 0x4C000003, 0x4C000000], v / 2 ^ 24 = 0x4C ∧ v / 4 % 2 ^ 22 = 0) ∧ (fields [(SYS_LCS.DBG, 1)]).fget SYS_LCS.DBG = 1 ∧
      (∀ st, st < 4 → (fields [(SYS_LCS.STATE, st)]).fget SYS_LCS.STATE = st) ∧ (fields [(SYS_LCS.KEYSET, 1)]).fget SYS_LCS.KEYSET = 1 ∧
      (let s := { running0 [] with mainRead := true, lcReq := some 3 }; s.mainRead = true ∧ s.lcReq = some 3 ∧ s.inReset = 0 ∧ s.keyFuse = none ∧ s.svnFuse = none) ∧
      (let s := { running0 [] with mainRead := true, keyFuse := some 7, svnFuse := some 63 }; s.lcReq = none ∧ s.keyFuse = some 7 ∧ s.svnFuse = some 63) := by
  decide +kernel

/- The machine. -/

theorem witness_StepRunsFront :
    ({ State.reset with pending := [.dramScrubStep, .gridPoint] } : State).pending = [.dramScrubStep, .gridPoint] ∧ State.reset.pending = [] := ⟨rfl, rfl⟩

theorem witness_StepKeepsCanonical : State.reset.Canonical ∧ (match step State.reset with | .next _ => true | _ => false) = true := by decide +kernel

/-- Every mask stack full, every hand line the identity. -/
theorem witness_StepKeepsMasksAndHands :
    let s : State := { State.reset with dealers := Vector.replicate 4 { DealerCore.zero with msp := 56 } }
    s.MasksFit ∧ s.HandsPermute ∧ (match step s with | .next _ => true | _ => false) = true := by
  refine ⟨by decide +kernel, fun k => ?_, by decide +kernel⟩
  show isPermutation (Sparse.get identityLine [] k) = true
  exact (by decide +kernel : isPermutation identityLine = true)

/- The examples that the specification works out. -/

/-- spec/03: the words of CMPLTS PD7, PD3, PD5, of MPUSH PD7 and of ADD PD3, PD3, PD5. -/
theorem test_array_words : (ar 7 3 5).word 0x0D3 = 0xCD373500 ∧ (ar 0 7 0).word 0x080 = 0xC8007000 ∧ (ar 3 3 5).word 0x0C0 = 0xCC033500 := by decide

/-- spec/06: the words of SHLI, BCHK and LDW of the example are read with their operands. -/
theorem test_scalar_words :
    SOp.ofWord 0x4418A002 = im 6 5 2 ∧ SOp.ofWord 0x85180013 = im 6 0 (3 + 8 * 2) ∧ SOp.ofWord 0x521CCC00 = im 7 6 (3 * 2 ^ 10) ∧ SOp.ofWord 0x85A12A00 = rg 8 9 10 := by decide

/-- spec/06, steps 7 and 8: W5 = 20 passes the first check and traps BOUNDS at the second with XINFO 0x380; W5 = 70 traps BOUNDS with SEG 3, XINFO 0x118. -/
def layers0 (w5 : Word) : State :=
  let w := (((((plain.w.set 5 w5).set 6 (4 * w5)).set 8 (32 * w5 + 256)).set 9 256).set 10 736)
  core { plain with w := w, sg := plain.sg.set 3 (seg 0 0x80080000 0xFF) } trained

theorem test_layer_20 :
    (after (.bchkSegment 0 (SOp.ofWord 0x85180013)) (layers0 20)).pc 0 = 0x104 ∧
      (let b := (after (.bchkRange 0 (SOp.ofWord 0x85A12A00)) (layers0 20)).bank 0; b.xinfo = 0x380 ∧ b.xcause = 7 ∧ b.xpc = 0x100) := by decide +kernel

theorem test_layer_70 :
    let b := (after (.bchkSegment 0 (SOp.ofWord 0x85180013)) (layers0 70)).bank 0
    b.xinfo = 0x118 ∧ b.xcause = 0x307 ∧ b.pc = 0x2000 := by decide +kernel

/-- spec/03: MPUSH costs 2 cycles, MELSE 3 and MPOP 1. -/
theorem test_array_costs :
    (((after (.arrayMpush 0 (ar 0 4 0)) (arr0 0x080)).dl 0).cyc = 2) ∧
      (((after (.arrayMelse 0 (ar 0 0 0)) (arr0 0x082 1)).dl 0).cyc = 3) ∧
      (((after (.arrayMpop 0 (ar 0 0 0)) (arr0 0x083 1)).dl 0).cyc = 1) := by decide +kernel

/-- spec/14, steps 4 and 5: strikes at 420, 1,150 and 1,380 ms are within 1,000 ms of each other, those at 0, 420 and 1,150 ms are not. -/
theorem test_strikes :
    let r : Report := { cls := 0, kind := 0, loc := 17 * 64 + 37 }
    let at_ (ms : Nat) (times : List Nat) : State := gard0 { queue := [(r, ms)], trackers := [⟨0, r.loc, times⟩] } [(GARD_CLASS.STRIKES 0, 2), (GARD_CLASS.WINDOW 0, 999)]
    (after .reportJudgement (at_ 1150 [420, 0])).gard.trackers.length = 1 ∧ (after .reportJudgement (at_ 1380 [1150, 420, 0])).gard.trackers = [] := by decide +kernel

/-- FIPS 180-4: the digest of the three bytes "abc". -/
theorem test_sha384 : Machine.sha384 [0x61, 0x62, 0x63] = 0xcb00753f45a35e8bb5a03d699ac65007272c32ab0eded1631a8b605a43ff5bed8086072ba1e7cc2358baeca134c825a7 := by decide +kernel

/-- FIPS 186-5: five times the base point of P-384, by the formulas of the curve. -/
theorem test_p384_multiple : pointMul 5 (some p384G) = some
    (2750097886727221852871437489830375535902219297598792969027200942344246907638882141082920203987932105239591664846012,
      22109872175543161315473274033501382113217372000035529196852092508530348707813916169793617815529384830733840621334842) := by
  decide +kernel

/- Ill-formed commands: one for each check. -/

theorem test_ill_formed :
    ∀ i ∈ [Instr.machineCheckEntry 0 { cause := 0 }, .machineCheckEntry 0 { cause := 11 }, .flashBlockReloadDone 0 true [0],
        .storePortAAccess .loader ⟨0x3FFFFFFFFF, 8, none⟩ none, .storePortAAccess .loader ⟨0x4000840000, 8, none⟩ none, .storePortAAccess .loader ⟨0x4001040000, 8, none⟩ none,
        .storePortAAccess .loader ⟨0x4000000000, 9, none⟩ none, .storePortAAccess .loader ⟨0x4000000000, 8, none⟩ (some (0, 0, ⟨0x4000000000, 9, none⟩)),
        .storePortBAccess 0 0 ⟨0, 8, none⟩, .dramRequest .loader 0 ⟨2 ^ 37, 8, none⟩, .dramRequest .loader 0 ⟨0, 9, none⟩, .trellisRd .loader (request0 1 0 []) [],
        .trellisRd .loader (request0 0 0 [7]) [], .trellisRd .loader { request0 0 0 [] with tag := 2048 } [], .trellisWr .loader (request0 1 0xFF []) [], .trellisWr .loader (request0 2 0xFF [7]) [],
        .trellisWrp .loader (request0 2 0xFF []) [], .trellisFadd .loader (request0 3 0xFF []) [], .trellisEvt (request0 4 0 [7]) [], .trellisRdresp (request0 5 0 []) [] 0,
        .trellisWrack (request0 6 0 [7]) [] 0, .apertureRead 0 0 4097, .gardenerReport (some { cls := 12, kind := 0, loc := 0 }) 0,
        .gardenerReport (some { cls := 0, kind := 12, loc := 0 }) 0], i.wf = false := by decide

/-- Well-formed ones, at the ends of their ranges. -/
theorem test_well_formed :
    ∀ i ∈ [Instr.machineCheckEntry 0 { cause := 10 }, .telltaleSet 0 ⟨0, Vector.replicate 12 0⟩, .storePortAAccess .loader ⟨0x400083FFF8, 8, none⟩ none,
        .storePortAAccess .loader ⟨0x400103FFF8, 8, none⟩ none, .dramRequest .loader 0 ⟨2 ^ 37 - 8, 8, none⟩, .trellisRd .loader (request0 0 0 []) [],
        .trellisWr .loader (request0 1 0xFF [7]) [], .apertureRead 0 0 4096, .writeCmd 0 (List.replicate 64 0), .gardenerReport (some { cls := 11, kind := 11, loc := 0 }) 0],
      i.wf = true := by decide

end Sys2Proof.Tests
end

section
/-!
SUPPORT. The state after reset (spec/01, spec/07, spec/14): the registers that the reset table leaves 0, and obligation O60.
-/
namespace Sys2Proof.Machine

open Sys2Proof

/-- A key that is not listed reads the default. -/
theorem Sparse.get_of_notMem {α : Type} (d : α) {m : List (Nat × α)} {k : Nat} (h : ∀ p ∈ m, k ≠ p.1) : Sparse.get d m k = d := by
  induction m with
  | nil => rfl
  | cons p m ih =>
    simp only [Sparse.get, if_neg (h p List.mem_cons_self)]
    exact ih (fun q hq => h q (List.mem_cons_of_mem _ hq))

/-- The reset values leave every register of the event router 0. -/
theorem reset_reg_events {o : Nat} (lo : 0x30000 ≤ o) (hi : o < 0x40000) : State.reset.reg o = 0 := by
  have outside : ∀ p ∈ resetRegs, p.1 < 0x30000 ∨ 0x40000 ≤ p.1 := by decide
  exact Sparse.get_of_notMem 0 (fun p hp e => by have := outside p hp; omega)

theorem getField_zero (lo wid : Nat) : getField 0 lo wid = 0 := by simp [getField, natBits]

theorem reset_fget_events {f : Fld} (lo : 0x30000 ≤ f.off) (hi : f.off < 0x40000) : State.reset.fget f = 0 := by
  rw [State.fget, reset_reg_events lo hi, getField_zero]

/-- Settles O60: the reset registers are a finite table, and the event router's registers stand outside it.  State.reset is inside a power-on
reset, so that RSTOUT_N is low (R467, log entries 4 and 159). -/
theorem resetState : Obligations.ResetState := by
  unfold Obligations.ResetState
  extract_lets s
  have classes : ∀ c, c < 6 → s.fget (GARD_CLASS.STRIKES c) = 2 ∧ s.fget (GARD_CLASS.WINDOW c) = 999 := by decide
  have levels : ∀ n, n < 4 → s.fget (LVLCFG.KIND n) = 0xC003 ∧ s.fget (LVLSTAT.ACTIVE n) = 0 ∧ s.fget (DEAL_STAT.PHASE n) = 0 := by decide
  have banks : ∀ b, b < 33 → s.fget (BANK_OWNER.OWNER b) = (if b = 32 then 9 else 0) ∧ s.fget (BANK_STAT.WEED b) = 0 := by decide +kernel
  have seats : ∀ k, k < 4 → s.fget (SEAT_AP.APSZ k) = 20 ∧ s.fget (SEAT_CFG.EN k) = 0 := by decide
  have events : ∀ e, e < 320 → s.fget (EVT_ROUTE.KIND e) = 0 ∧ s.fget (bitFld (EVT_PEND.reg 0) e) = 0 := by
    intro e he
    constructor
    · apply reset_fget_events <;> simp only [EVT_ROUTE.KIND, EVT_ROUTE.reg] <;> omega
    · apply reset_fget_events <;> simp only [bitFld, EVT_PEND.reg] <;> omega
  exact ⟨State.reset_canonical, State.reset_masks, State.reset_hands, rfl, rfl, by decide, by decide, by decide, by decide, by decide, by decide, by decide, by decide,
    classes, levels, banks, events, seats⟩

end Sys2Proof.Machine
end

section
/-!
SUPPORT. MTS (R9, R187): the reserved values of the special registers, what the write leaves in the bank, and obligation O8.
-/
namespace Sys2Proof.Machine

open Sys2Proof

/-- The fields that an MTS word does not use are 0 (R178, R179). -/
theorem regReserved_of_noB {op : SOp} (h : op.ext = none) (h0 : op.fld 0 13 = 0) : regReserved op false false false = false := by
  have z : ∀ l k, l + k ≤ 13 → op.fld l k = 0 := fun l k hk => natBits_zero_of _ 0 13 l k h0 (Nat.zero_le _) (by omega)
  simp [regReserved, SOp.hasExt, h, SOp.b, SOp.c, SOp.fmt, z 0 1 (by omega), z 8 5 (by omega), z 1 5 (by omega), z 6 2 (by omega)]

/-- An MTS that a Dealer executes writes its special register and ends. -/
theorem execMts_next {n : Dealer} {op : SOp} {s : State} (h : s.Ready n op) (he : op.ext = none) (h0 : op.fld 0 13 = 0)
    (hd : op.d ≠ 2 ∧ op.d ≤ 6) (hp : op.d = 6 → s.priv n = true) :
    exec (.mts n op) s = .next ((s.writeSpecial n (s.lvl n) op.d (s.rdW n op.a).toNat).advance n op 1) := by
  show execMts n op s = _
  unfold execMts
  refine runScalar_next _ h.runs ?_
  have hpriv : (op.d == 6 && !s.priv n) = false := by simpa using hp
  simp [firstTrap, regReserved_of_noB he h0, hd.1, Nat.not_lt.2 hd.2, hpriv, endTrap_of_ready h]

/-- A value that puts no reserved value into a field of the special register that selector d names (R9, R138, R201). -/
def specialFits (d : Nat) (v : Word) : Prop :=
  (d = 0 → v.extractLsb' 16 16 = 0 ∧ v.extractLsb' 5 6 = 0) ∧ (d = 1 → v.extractLsb' 24 8 = 0) ∧
  (d = 3 ∨ d = 6 → v.extractLsb' 18 14 = 0 ∧ v.extractLsb' 0 2 = 0) ∧
  (d = 4 → v.extractLsb' 13 19 = 0 ∧ v.extractLsb' 0 8 ≤ 0x0C)

theorem specialReserved_eq_false {d : Nat} (hd : d ∈ [0, 1, 3, 4, 5, 6]) (v : Word) :
    specialReserved d v.toNat = false ↔ specialFits d v := by
  have low2 : natBits v.toNat 0 2 = v.toNat % 4 := by simp [natBits]
  have low8 : v.extractLsb' 0 8 ≤ 0x0C ↔ v.toNat % 256 ≤ 12 := by simp [BitVec.le_def]
  simp only [specialFits, extract_zero, low2, low8]
  simp only [List.mem_cons, List.not_mem_nil, or_false] at hd
  rcases hd with rfl | rfl | rfl | rfl | rfl | rfl <;> simp [specialReserved]

/-- The bank with the writable fields of the special register of selector d taken from v: of ST the flags and AE, of FPC the fields below TCAUSE. -/
def Bank.withSpecial (b : Bank) (d : Nat) (v : Word) : Bank :=
  let low (k : Nat) (old : Word) : Word := BitVec.ofNat 32 (v.toNat % 2 ^ k + old.toNat / 2 ^ k * 2 ^ k)
  { b with
    st := if d = 0 then low 5 b.st else b.st, fpc := if d = 1 then low 18 b.fpc else b.fpc,
    xpc := if d = 3 then v else b.xpc, xcause := if d = 4 then v else b.xcause,
    xinfo := if d = 5 then v else b.xinfo, xvec := if d = 6 then v else b.xvec }

theorem writeSpecial_of_fits {d : Nat} (hd : d ∈ [0, 1, 3, 4, 5, 6]) (s : State) (n : Dealer) {v : Word} (h : specialFits d v) :
    s.writeSpecial n (s.lvl n) d v.toNat = s.setBank n ((s.bank n).withSpecial d v) := by
  rw [← specialReserved_eq_false hd] at h
  simp only [List.mem_cons, List.not_mem_nil, or_false] at hd
  rcases hd with rfl | rfl | rfl | rfl | rfl | rfl <;>
    simp [State.writeSpecial, h, Bank.withSpecial, State.setBank, State.bank, putField_low]

theorem writeSpecial_of_not_fits {d : Nat} (hd : d ∈ [0, 1, 3, 4, 5, 6]) (s : State) (n : Dealer) {v : Word} (h : ¬specialFits d v) :
    s.writeSpecial n (s.lvl n) d v.toNat = s.event 270 := by
  rw [← specialReserved_eq_false hd, Bool.not_eq_false] at h
  simp [State.writeSpecial, h]

/-- An event leaves the current bank of every Dealer. -/
theorem bank_event (s : State) (n : Dealer) {e : Nat} (he : e < 0x100000) : (s.event e).bank n = s.bank n :=
  (quiet_event e he (Quiet.refl s)).bank n

/-- Settles O8: MTS is `writeSpecial` and the end of the instruction; `writeSpecial` either updates the bank or raises EV270. -/
theorem moveToSpecial : Obligations.MoveToSpecial := by
  unfold Obligations.MoveToSpecial
  intro n op s hr he h0 hd hp v b low fits b'
  have hsel : op.d ≠ 2 ∧ op.d ≤ 6 := by
    simp only [List.mem_cons, List.not_mem_nil, or_false] at hd
    omega
  have hnext := execMts_next hr he h0 hsel hp
  refine ⟨fun hf => ⟨_, hnext, ?_⟩, fun hf => ⟨_, hnext, ?_⟩⟩
  · rw [writeSpecial_of_fits hd s n hf]
    exact onlyBank_of (b := b.withSpecial op.d v) rfl rfl
  · rw [writeSpecial_of_not_fits hd s n hf]
    have hb : (s.event 270).bank n = b := bank_event s n (by omega)
    have := onlyBank_advance n op (s.event 270) 1
    rwa [nextPc_bank hb, hb] at this

end Sys2Proof.Machine
end

section
/-!
SUPPORT. Plain register writes (R7, R9 to R11): the fields of every register lie apart, what a write is refused for, and what an accepted one
leaves in each field.
-/
namespace Sys2Proof.Machine

open Sys2Proof

/- The fields of a register: they lie within its 32 bits and do not overlap. -/

/-- Two fields of a register share no bit. -/
abbrev FieldSpec.Apart (f h : FieldSpec) : Prop := f.lo + f.wid ≤ h.lo ∨ h.lo + h.wid ≤ f.lo

/-- The fields of a register table lie within 32 bits, and no two of them overlap. -/
abbrev FieldsApart (fs : List FieldSpec) : Prop := (∀ f ∈ fs, f.lo + f.wid ≤ 32) ∧ fs.Pairwise FieldSpec.Apart

/-- The register tables of every block; a range without a block has no registers. -/
def regMaps : List (List RegGroup) :=
  [[], regMapSYS, regMapCLK, regMapGARD, regMapEVT, regMapLOAD, regMapDEALER, regMapBANK, regMapCOLD, regMapTRELLIS, regMapDRAM, regMapDSP, regMapCAM, regMapTELL,
    regMapSEAT, regMapESP, regMapPAD, regMapARRAY]

theorem regMapAt_mem (off : Nat) : regMapAt off ∈ regMaps := by
  have pick : ∀ (c : Prop) [Decidable c] {a b : List RegGroup}, a ∈ regMaps → b ∈ regMaps → (if c then a else b) ∈ regMaps :=
    fun c _ _ _ ha hb => by split <;> assumption
  unfold regMapAt
  repeat' apply pick
  all_goals simp [regMaps]

theorem regMapAt_apart (off : Nat) : ∀ g ∈ regMapAt off, FieldsApart g.fields := by
  have tables : ∀ m ∈ regMaps, ∀ g ∈ m, FieldsApart g.fields := by decide
  exact tables _ (regMapAt_mem off)

theorem regGroupAt_apart {off : Nat} {g : RegGroup} (h : regGroupAt off = some g) : FieldsApart g.fields :=
  regMapAt_apart off g (List.mem_of_find?_eq_some h)

/- What R9 and R10 refuse. -/

/-- Bit i of a word lies in a field. -/
def FieldSpec.covers (f : FieldSpec) (i : Nat) : Bool := decide (f.lo ≤ i) && decide (i < f.lo + f.wid)

theorem fieldMask_testBit (fs : List FieldSpec) (m i : Nat) :
    (fs.foldl (fun m f => m ||| ones f.wid * 2 ^ f.lo) m).testBit i = (m.testBit i || fs.any (·.covers i)) := by
  induction fs generalizing m with
  | nil => simp
  | cons f fs ih =>
    have hf : (ones f.wid * 2 ^ f.lo).testBit i = f.covers i := by
      rw [Nat.testBit_mul_two_pow, ones, Nat.testBit_two_pow_sub_one, FieldSpec.covers, Bool.eq_iff_iff]
      simp only [Bool.and_eq_true, decide_eq_true_eq]
      omega
    rw [List.foldl_cons, ih, Nat.testBit_or, hf, List.any_cons, Bool.or_assoc]

theorem fieldMask_lt {fs : List FieldSpec} (h : ∀ f ∈ fs, f.lo + f.wid ≤ 32) : fs.foldl (fun m f => m ||| ones f.wid * 2 ^ f.lo) 0 < 2 ^ 32 := by
  refine Nat.lt_pow_two_of_testBit _ (fun i hi => ?_)
  rw [fieldMask_testBit, Nat.zero_testBit, Bool.false_or, List.any_eq_false]
  intro f hf
  have := h f hf
  simp only [FieldSpec.covers, Bool.and_eq_true, decide_eq_true_eq]
  omega

theorem ones_sub_testBit {m : Nat} (h : m < 2 ^ 32) (i : Nat) : (ones 32 - m).testBit i = (decide (i < 32) && !m.testBit i) := by
  rw [← Nat.testBit_two_pow_sub_succ h, ones, Nat.sub_sub, Nat.add_comm 1]

/-- A write breaks R9 by its res0 bits where it sets a bit outside every field. -/
theorem res0Bits_iff {fs : List FieldSpec} (h : ∀ f ∈ fs, f.lo + f.wid ≤ 32) (v : Word) :
    res0Bits fs v.toNat = true ↔ ∃ i, i < 32 ∧ v.getLsbD i = true ∧ ∀ f ∈ fs, i < f.lo ∨ f.lo + f.wid ≤ i := by
  have bit : ∀ i, (natBits v.toNat 0 32 &&& (ones 32 - fs.foldl (fun m f => m ||| ones f.wid * 2 ^ f.lo) 0)).testBit i = true ↔
      i < 32 ∧ v.getLsbD i = true ∧ ∀ f ∈ fs, i < f.lo ∨ f.lo + f.wid ≤ i := by
    intro i
    have outside : fs.any (·.covers i) = false ↔ ∀ f ∈ fs, i < f.lo ∨ f.lo + f.wid ≤ i := by
      simp only [List.any_eq_false, FieldSpec.covers, Bool.and_eq_true, decide_eq_true_eq]
      refine forall₂_congr (fun f _ => ?_)
      omega
    rw [Nat.testBit_and, natBits_testBit, ones_sub_testBit (fieldMask_lt h), fieldMask_testBit, Nat.zero_testBit, Bool.false_or, Nat.zero_add]
    simp only [Bool.and_eq_true, decide_eq_true_eq, Bool.not_eq_true', outside]
    exact ⟨fun ⟨⟨hi, hv⟩, _, hout⟩ => ⟨hi, hv, hout⟩, fun ⟨hi, hv, hout⟩ => ⟨⟨hi, hv⟩, hi, hout⟩⟩
  rw [res0Bits, bne_iff_ne]
  constructor
  · intro hne
    obtain ⟨i, hi⟩ := Nat.exists_testBit_of_ne_zero hne
    exact ⟨i, (bit i).1 hi⟩
  · rintro ⟨i, hi⟩ e
    have := (bit i).2 hi
    simp [e] at this

theorem valueReserved_iff (f : FieldSpec) (x : Nat) : valueReserved f x = true ↔ f.ok ≠ [] ∧ ∀ p ∈ f.ok, x < p.1 ∨ p.2 < x := by
  simp only [valueReserved, Bool.and_eq_true, Bool.not_eq_true', List.isEmpty_eq_false_iff, List.any_eq_false, decide_eq_true_eq]
  refine and_congr_right (fun _ => forall₂_congr (fun p _ => ?_))
  omega

/-- The value that a write puts into a field. -/
abbrev FieldSpec.of (f : FieldSpec) (v : Word) : Nat := v.toNat / 2 ^ f.lo % 2 ^ f.wid

/-- A write puts a reserved value into a field (R9). -/
def FieldSpec.reservedBy (f : FieldSpec) (v : Word) : Prop := f.ok ≠ [] ∧ ∀ p ∈ f.ok, f.of v < p.1 ∨ p.2 < f.of v

/-- One field refuses a write: by a reserved value, or by another value of a locked RWL field (R9, R10). -/
theorem fieldRefuses_iff (locked : Bool) (old v : Word) (f : FieldSpec) :
    fieldRefuses locked old v.toNat f = true ↔
      (f.acc ∈ [Acc.rw, .w1c, .wo] ∧ f.reservedBy v) ∨
        (f.acc = .rwl ∧ if locked then f.of v ≠ getField old f.lo f.wid else f.reservedBy v) := by
  have hval : natBits v.toNat f.lo f.wid = f.of v := rfl
  have hres : valueReserved f (f.of v) = true ↔ f.reservedBy v := valueReserved_iff _ _
  cases hacc : f.acc <;> cases locked <;> simp [fieldRefuses, hacc, hval, hres]

/-- What R9 and R10 refuse of a write of v to a register of the group g at an offset. -/
def State.Refused (s : State) (off : Nat) (v : Word) (g : RegGroup) : Prop :=
  (∃ i, i < 32 ∧ v.getLsbD i = true ∧ ∀ f ∈ g.fields, i < f.lo ∨ f.lo + f.wid ≤ i) ∨
  (∃ f ∈ g.fields, f.acc ∈ [Acc.rw, .w1c, .wo] ∧ f.reservedBy v) ∨
  (∃ f ∈ g.fields, f.acc = .rwl ∧ if s.locked off then f.of v ≠ s.fget ⟨off, f.lo, f.wid⟩ else f.reservedBy v) ∨
  (s.locked off = false ∧ s.crossReserved off v.toNat = true)

theorem refuses_iff {s : State} {off : Nat} {v : Word} {g : RegGroup} (h : regGroupAt off = some g) :
    s.refuses off v.toNat = true ↔ s.Refused off v g := by
  have hany : g.fields.any (fieldRefuses (s.locked off) (s.reg off) v.toNat) = true ↔
      (∃ f ∈ g.fields, f.acc ∈ [Acc.rw, .w1c, .wo] ∧ f.reservedBy v) ∨
      (∃ f ∈ g.fields, f.acc = .rwl ∧ if s.locked off then f.of v ≠ s.fget ⟨off, f.lo, f.wid⟩ else f.reservedBy v) := by
    simp only [List.any_eq_true, fieldRefuses_iff, and_or_left, exists_or, State.fget]
  simp only [State.refuses, h, Bool.or_eq_true, Bool.and_eq_true, Bool.not_eq_true', res0Bits_iff (regGroupAt_apart h).1, hany, State.Refused, or_assoc]

/- What an accepted write leaves in a field. -/

/-- A field's value after an accepted write, by its access code (R7, R10). -/
def FieldSpec.after (f : FieldSpec) (locked : Bool) (old : Nat) (v : Word) : Nat :=
  match f.acc with
  | .rw => f.of v
  | .rwl => if locked then old else f.of v
  | .w1c => old &&& (2 ^ f.wid - 1 - f.of v)
  | _ => old

theorem getField_fieldApply_same (locked : Bool) (v w : Word) {f : FieldSpec} (h : f.lo + f.wid ≤ 32) :
    getField (fieldApply locked v.toNat w f) f.lo f.wid = f.after locked (getField w f.lo f.wid) v := by
  have hlt : getField w f.lo f.wid < 2 ^ f.wid := getField_lt _ _ _
  have hand : getField w f.lo f.wid &&& (2 ^ f.wid - 1 - f.of v) < 2 ^ f.wid := Nat.lt_of_le_of_lt Nat.and_le_left hlt
  have hput := fun x => getField_putField_same w f.lo f.wid x h
  cases hacc : f.acc <;> cases locked <;>
    simp [fieldApply, FieldSpec.after, hacc, hput, natBits, ones, Nat.mod_eq_of_lt hand]

theorem getField_fieldApply_other (locked : Bool) (v : Nat) (w : Word) {f h : FieldSpec} (hf : f.lo + f.wid ≤ 32) (ha : f.Apart h) :
    getField (fieldApply locked v w h) f.lo f.wid = getField w f.lo f.wid := by
  have hput := fun x => getField_putField_other w h.lo h.wid x f.lo f.wid hf ha
  cases hacc : h.acc <;> cases locked <;> simp [fieldApply, hacc, hput]

theorem getField_fieldApplies_other (locked : Bool) (v : Nat) (w : Word) {f : FieldSpec} {fs : List FieldSpec} (hf : f.lo + f.wid ≤ 32)
    (ha : ∀ h ∈ fs, f.Apart h) : getField (fs.foldl (fieldApply locked v) w) f.lo f.wid = getField w f.lo f.wid := by
  induction fs generalizing w with
  | nil => rfl
  | cons h fs ih =>
    rw [List.foldl_cons, ih _ (fun x hx => ha x (List.mem_cons_of_mem _ hx)), getField_fieldApply_other locked v w hf (ha h List.mem_cons_self)]

/-- The fields of a register take a write each by its own code. -/
theorem getField_fieldApplies (locked : Bool) (v w : Word) {fs : List FieldSpec} (ha : FieldsApart fs) {f : FieldSpec} (hf : f ∈ fs) :
    getField (fs.foldl (fieldApply locked v.toNat) w) f.lo f.wid = f.after locked (getField w f.lo f.wid) v := by
  have hfit := ha.1 f hf
  induction fs generalizing w with
  | nil => simp at hf
  | cons h fs ih =>
    obtain ⟨hfits, hpair⟩ := ha
    obtain ⟨hhead, htail⟩ := List.pairwise_cons.1 hpair
    rw [List.foldl_cons]
    rcases List.mem_cons.1 hf with rfl | hmem
    · rw [getField_fieldApplies_other locked _ _ hfit hhead, getField_fieldApply_same locked v w hfit]
    · rw [ih _ ⟨fun x hx => hfits x (List.mem_cons_of_mem _ hx), htail⟩ hmem,
        getField_fieldApply_other locked _ w hfit (hhead f hmem).symm]

theorem fget_fieldApplies (s : State) (off : Nat) (v : Word) {fs : List FieldSpec} (ha : FieldsApart fs) {f : FieldSpec} (hf : f ∈ fs) :
    (s.setReg off (fs.foldl (fieldApply (s.locked off) v.toNat) (s.reg off))).fget ⟨off, f.lo, f.wid⟩ =
      f.after (s.locked off) (s.fget ⟨off, f.lo, f.wid⟩) v := by
  simp only [State.fget, State.reg_setReg_same]
  exact getField_fieldApplies _ v _ ha hf

/-- A register write without an effect of its own, refused: nothing but EV270. -/
theorem plainWrite_of_refused {s : State} {off : Nat} {v : Word} {g : RegGroup} (h : regGroupAt off = some g) (hr : s.Refused off v g) :
    s.plainWrite off v.toNat = (stREFUSED, s.event 270) := by
  simp [State.plainWrite, h, (refuses_iff h).2 hr]

theorem plainWrite_of_not_refused {s : State} {off : Nat} {v : Word} {g : RegGroup} (h : regGroupAt off = some g) (hr : ¬s.Refused off v g) :
    s.plainWrite off v.toNat = (stOK, s.setReg off (g.fields.foldl (fieldApply (s.locked off) v.toNat) (s.reg off))) := by
  have hn : s.refuses off v.toNat = false := by rwa [← refuses_iff h, Bool.not_eq_true] at hr
  simp [State.plainWrite, h, hn]

theorem only_setReg (s : State) (off : Nat) (w : Word) : s.Only [off] (s.setReg off w) :=
  ⟨fun _ ho => State.reg_setReg_other s w (by simpa using ho), fun _ => rfl, fun _ => rfl, rfl, rfl⟩

/-- A locked RWL field of an accepted write keeps its value, which is the one written. -/
theorem after_of_not_refused {s : State} {off : Nat} {v : Word} {g : RegGroup} (hr : ¬s.Refused off v g) {f : FieldSpec} (hf : f ∈ g.fields)
    (hacc : f.acc = .rwl) : f.after (s.locked off) (s.fget ⟨off, f.lo, f.wid⟩) v = f.of v := by
  cases hl : s.locked off with
  | false => simp [FieldSpec.after, hacc]
  | true =>
    have hkeeps : f.of v = s.fget ⟨off, f.lo, f.wid⟩ :=
      Classical.byContradiction (fun hne => hr (.inr (.inr (.inl ⟨f, hf, hacc, by rwa [hl, if_pos rfl]⟩))))
    simp [FieldSpec.after, hacc, hkeeps]

end Sys2Proof.Machine
end

section
/-!
SUPPORT. REGISTER_WRITE (R33, R35, R54, R384): the way to the register hub, the registers that do more than take a write, who may write the
restricted ones, and obligation O41.
-/
namespace Sys2Proof.Machine

open Sys2Proof

/- The registers whose writes do more, and who may write them. -/

/-- The registers that do more than take a write, or that not every agent may write. -/
def ActsOnWrite (off : Nat) : Prop :=
  off ∈ [SYS_LCREQ.reg, CLK_TRIM.reg, TRL_SWAP.reg, TRL_DMAP_SH.reg, TELL_HCMT.reg, ESP_TEST.reg, ARRAY_HSEL.reg, ARRAY_HDATA.reg] ∨
  (∃ d, d < 7 ∧ off = CLK_SEL.reg d) ∨ (∃ g, g < 25 ∧ off = CLK_GATE.reg g) ∨ (CLK_PLL.reg 0 ≤ off ∧ off < CLK_PLL.reg 6) ∨
  (∃ n : Dealer, off = SFL.reg n ∨ ∃ i, i < 8 ∧ off = SAH.reg n i) ∨ (∃ b, b < 33 ∧ off = BANK_OWNER.reg b) ∨
  (TRL_RTE.reg 0 0 ≤ off ∧ off < TRL_RTE.reg 24 0) ∨ (∃ p, p < 6 ∧ off = DSP_COMMIT.reg p) ∨ (TELL_HBOX.reg 0 ≤ off ∧ off < TELL_HBOX.reg 64) ∨
  (∃ k, k < 4 ∧ SEAT_CFG.reg k ≤ off ∧ off < SEAT_CFG.reg k + 0x10000) ∨ (∃ n, n < 4 ∧ off = ARRAY_EDGE.reg n) ∨ CTU_ADDR_LO.reg 0 ≤ off

theorem indexOf_eq_none {count off : Nat} {base : Nat → Nat} : indexOf count base off = none ↔ ∀ i, i < count → off ≠ base i := by
  simp [indexOf, List.find?_eq_none, mem_rangeFrom]

theorem indexOf_eq_some {count off i : Nat} {base : Nat → Nat} (h : indexOf count base off = some i) : i < count ∧ off = base i := by
  have hi := List.mem_of_find?_eq_some h
  have hp := List.find?_some h
  exact ⟨by simpa [mem_rangeFrom] using hi, by simpa using hp⟩

theorem seatBlock_eq_none {off : Nat} : seatBlock off = none ↔ ¬∃ k, k < 4 ∧ SEAT_CFG.reg k ≤ off ∧ off < SEAT_CFG.reg k + 0x10000 := by
  simp [seatBlock, List.find?_eq_none, mem_rangeFrom]

theorem seatBlock_eq_some {off : Nat} (k : Fin 4) (h1 : SEAT_CFG.reg k ≤ off) (h2 : off < SEAT_CFG.reg k + 0x10000) : seatBlock off = some k.val := by
  cases h : seatBlock off with
  | none => exact absurd ⟨k.val, k.isLt, h1, h2⟩ (seatBlock_eq_none.1 h)
  | some j =>
    have hp : SEAT_CFG.reg j ≤ off ∧ off < SEAT_CFG.reg j + 0x10000 := by simpa using List.find?_some h
    simp only [SEAT_CFG.reg] at hp h1 h2
    congr 1
    omega

/-- The Dealer whose save-area register SFL or SAH stands at an offset. -/
def saveAreaOf (off : Nat) : Option Nat := (rangeFrom 0 4).find? (fun n => off == SFL.reg n || (rangeFrom 0 8).any (fun i => off == SAH.reg n i))

theorem saveAreaOf_eq_none {off : Nat} : saveAreaOf off = none ↔ ¬∃ n : Dealer, off = SFL.reg n ∨ ∃ i, i < 8 ∧ off = SAH.reg n i := by
  simp [saveAreaOf, List.find?_eq_none, mem_rangeFrom, Fin.forall_iff]

theorem saveAreaOf_eq_some {off : Nat} (n : Dealer) (h : off = SFL.reg n ∨ ∃ i, i < 8 ∧ off = SAH.reg n i) : saveAreaOf off = some n.val := by
  cases e : saveAreaOf off with
  | none => exact absurd ⟨n, h⟩ (saveAreaOf_eq_none.1 e)
  | some j =>
    have hp : off = SFL.reg j ∨ ∃ i, i < 8 ∧ off = SAH.reg j i := by simpa [mem_rangeFrom] using List.find?_some e
    simp only [SFL.reg, SAH.reg] at hp h
    congr 1
    rcases hp with hp | ⟨i, hi, hp⟩ <;> rcases h with h | ⟨k, hk, h⟩ <;> omega

theorem devWriteLow_plain {s : State} {ag : Agent} {off : Nat} (v : Nat) (h : ¬ActsOnWrite off) : s.devWriteLow ag off v = s.plainWrite off v := by
  simp only [ActsOnWrite, not_or, List.mem_cons, List.not_mem_nil, not_false_eq_true] at h
  obtain ⟨⟨hlcreq, htrim, -⟩, hsel, hgate, hpll, hsave, -⟩ := h
  have hsel : indexOf 7 CLK_SEL.reg off = none := indexOf_eq_none.2 (by simpa using hsel)
  have hgate : indexOf 25 CLK_GATE.reg off = none := indexOf_eq_none.2 (by simpa using hgate)
  have hsave : saveAreaOf off = none := saveAreaOf_eq_none.2 hsave
  rw [saveAreaOf] at hsave
  rw [State.devWriteLow, if_neg hlcreq, if_neg htrim, hsel, hgate, if_neg hpll, hsave]

theorem devWriteMid_plain {s : State} {ag : Agent} {off : Nat} (v : Nat) (h : ¬ActsOnWrite off) : s.devWriteMid ag off v = s.plainWrite off v := by
  simp only [ActsOnWrite, not_or, List.mem_cons, List.not_mem_nil, not_false_eq_true] at h
  obtain ⟨⟨-, -, hswap, hdmap, hhcmt, -⟩, -, -, -, -, howner, hroute, hcommit, hhbox, -⟩ := h
  have howner : indexOf 33 BANK_OWNER.reg off = none := indexOf_eq_none.2 (by simpa using howner)
  have hcommit : indexOf 6 DSP_COMMIT.reg off = none := indexOf_eq_none.2 (by simpa using hcommit)
  have hshadow : ¬(off = TRL_DMAP_SH.reg ∨ (TRL_RTE.reg 0 0 ≤ off ∧ off < TRL_RTE.reg 24 0 ∧ (regGroupAt off).isSome)) :=
    fun q => q.elim hdmap (fun r => hroute ⟨r.1, r.2.1⟩)
  rw [State.devWriteMid, howner, if_neg hswap, if_neg hshadow, hcommit, if_neg hhcmt, if_neg hhbox]

theorem devWriteHigh_plain {s : State} {ag : Agent} {off : Nat} (v : Nat) (h : ¬ActsOnWrite off) : s.devWriteHigh ag off v = s.plainWrite off v := by
  simp only [ActsOnWrite, not_or, List.mem_cons, List.not_mem_nil, not_false_eq_true] at h
  obtain ⟨⟨-, -, -, -, -, htest, hhsel, hhdata, -⟩, -, -, -, -, -, -, -, -, hseat, hedge, hctu⟩ := h
  have hseat : seatBlock off = none := seatBlock_eq_none.2 hseat
  have hedge : indexOf 4 ARRAY_EDGE.reg off = none := indexOf_eq_none.2 (by simpa using hedge)
  have hctu : ¬(CTU_ADDR_LO.reg 0 ≤ off ∧ (regGroupAt off).isSome) := fun q => hctu q.1
  rw [State.devWriteHigh, hseat, if_neg htest, if_neg hhsel, if_neg hhdata, hedge, if_neg hctu]

/-- A write that reaches a register without an effect of its own. -/
theorem devWrite_plain {s : State} {ag : Agent} {off : Nat} {g : RegGroup} (v : Nat) (hg : regGroupAt off = some g)
    (hr : s.reachesRegs ag off = true) (h : ¬ActsOnWrite off) : s.devWrite ag off v = s.plainWrite off v := by
  have hmapped : ((regGroupAt off).isNone || !s.reachesRegs ag off) = false := by simp [hg, hr]
  simp only [State.devWrite, hmapped, devWriteLow_plain v h, devWriteMid_plain v h, devWriteHigh_plain v h, ite_self, Bool.false_eq_true, if_false]

/-- A write of no register, or by an agent that reaches none (R33, log entry 56). -/
theorem devWrite_unreached {s : State} {ag : Agent} {off : Nat} (v : Nat) (h : regGroupAt off = none ∨ s.reachesRegs ag off = false) :
    s.devWrite ag off v = (stREFUSED, s) := by
  have hno : ((regGroupAt off).isNone || !s.reachesRegs ag off) = true := by rcases h with h | h <;> simp [h]
  rw [State.devWrite, if_pos hno]

/-- A write that is either turned away at the hub or handled by the registers of its range. -/
theorem devWrite_refused {s : State} {ag : Agent} {off v : Nat}
    (hlow : off < 0x200000 → s.devWriteLow ag off v = (stREFUSED, s)) (hmid : 0x200000 ≤ off → off < 0x580000 → s.devWriteMid ag off v = (stREFUSED, s))
    (hhigh : 0x580000 ≤ off → s.devWriteHigh ag off v = (stREFUSED, s)) : s.devWrite ag off v = (stREFUSED, s) := by
  unfold State.devWrite
  split
  · rfl
  · split
    · exact hlow ‹_›
    · split
      · exact hmid (by omega) ‹_›
      · exact hhigh (by omega)

/-- SFL and SAH of a Dealer: no other Dealer writes them, and the Dealer itself at a privileged level alone (spec/07). -/
theorem devWrite_saveArea_refused {s : State} {n m : Dealer} {off : Nat} (v : Nat) (hno : m ≠ n ∨ s.priv m = false)
    (ho : off = SFL.reg n ∨ ∃ i, i < 8 ∧ off = SAH.reg n i) : s.devWrite (.dealer m) off v = (stREFUSED, s) := by
  have hfind := saveAreaOf_eq_some n ho
  rw [saveAreaOf] at hfind
  have hrange : 0x100000 ≤ off ∧ off < 0x140000 := by
    have := n.isLt
    simp only [SFL.reg, SAH.reg] at ho
    rcases ho with ho | ⟨i, hi, ho⟩ <;> omega
  have hsel : indexOf 7 CLK_SEL.reg off = none := indexOf_eq_none.2 (fun i hi => by simp only [CLK_SEL.reg]; omega)
  have hgate : indexOf 25 CLK_GATE.reg off = none := indexOf_eq_none.2 (fun i hi => by simp only [CLK_GATE.reg]; omega)
  refine devWrite_refused (fun _ => ?_) (by omega) (by omega)
  have hlcreq : off ≠ SYS_LCREQ.reg := by simp only [SYS_LCREQ.reg]; omega
  have htrim : off ≠ CLK_TRIM.reg := by simp only [CLK_TRIM.reg]; omega
  have hpll : ¬(CLK_PLL.reg 0 ≤ off ∧ off < CLK_PLL.reg 6) := by simp only [CLK_PLL.reg]; omega
  have hbar : (m.val == n.val && s.priv m) = false := by
    rcases hno with hno | hno
    · simp [Fin.val_inj, hno]
    · simp [hno]
  rw [State.devWriteLow, if_neg hlcreq, if_neg htrim, hsel, hgate, if_neg hpll, hfind]
  simp [State.saveAreaWrite, hbar]

/-- ARRAY_EDGE of a Dealer: no other Dealer writes it (R54). -/
theorem devWrite_edge_refused {s : State} {n m : Dealer} (v : Nat) (hno : m ≠ n) : s.devWrite (.dealer m) (ARRAY_EDGE.reg n) v = (stREFUSED, s) := by
  have hn := n.isLt
  have hval : ARRAY_EDGE.reg n = 0x700010 + 4 * n.val := rfl
  have hseat : seatBlock (ARRAY_EDGE.reg n) = none := seatBlock_eq_none.2 (by rintro ⟨k, hk, hblock⟩; simp only [SEAT_CFG.reg] at hblock; omega)
  obtain ⟨i, hi⟩ : ∃ i, indexOf 4 ARRAY_EDGE.reg (ARRAY_EDGE.reg n) = some i := by
    cases h : indexOf 4 ARRAY_EDGE.reg (ARRAY_EDGE.reg n) with
    | none => exact absurd rfl (indexOf_eq_none.1 h n hn)
    | some i => exact ⟨i, rfl⟩
  refine devWrite_refused (by omega) (by omega) (fun _ => ?_)
  have htest : ARRAY_EDGE.reg n ≠ ESP_TEST.reg := by simp only [ESP_TEST.reg]; omega
  have hhsel : ARRAY_EDGE.reg n ≠ ARRAY_HSEL.reg := by simp only [ARRAY_HSEL.reg]; omega
  have hhdata : ARRAY_EDGE.reg n ≠ ARRAY_HDATA.reg := by simp only [ARRAY_HDATA.reg]; omega
  have hindex : ARRAY_EDGE.reg n % 16 / 4 = n.val := by omega
  have hother : m.val ≠ n.val := fun e => hno (Fin.ext e)
  rw [State.devWriteHigh, hseat, if_neg htest, if_neg hhsel, if_neg hhdata, hi]
  simp [State.edgeWrite, hindex, hother]

/-- A SEAT block: only its own seat writes it (R409, log entry 55). -/
theorem devWrite_seat_refused {s : State} {ag : Agent} {off : Nat} (v : Nat) (k : Fin 4) (h1 : SEAT_CFG.reg k ≤ off) (h2 : off < SEAT_CFG.reg k + 0x10000)
    (hno : ag ≠ .seat k) : s.devWrite ag off v = (stREFUSED, s) := by
  have hblock := seatBlock_eq_some k h1 h2
  have hbase : 0x580000 ≤ off := by simp only [SEAT_CFG.reg] at h1; omega
  have hother : ag ≠ .seat (Fin.ofNat 4 k.val) := by rwa [Fin.ofNat_val_eq_self]
  refine devWrite_refused (by omega) (by omega) (fun _ => ?_)
  rw [State.devWriteHigh, hblock]
  show s.seatWrite ag k.val off v = _
  rw [State.seatWrite, if_pos (.inl hother)]

/- REGISTER_WRITE on its way to the register hub. -/

/-- A host's write of a BAR0 that is not open (R384). -/
theorem registerWrite_shut {s : State} {k : Fin 4} {off : Nat} {v : Word} (h : s.pcieSeat k = true ∧ s.bar0Open k = false) :
    exec (.registerWrite (.seat k) off v) s = .next (s.emit (.tlp k 1 [])) := by
  show execRegisterWrite (.seat k) off v s = _
  simp [execRegisterWrite, h.1, h.2]

/-- What the register hub answers to a write: a misaligned one meets no register. -/
def State.hubWrite (s : State) (ag : Agent) (off : Nat) (v : Word) : Nat × State :=
  if off % 4 ≠ 0 then (stREFUSED, s) else s.devWrite ag off v.toNat

theorem registerWrite_open {s : State} {ag : Agent} {off : Nat} {v : Word}
    (h : ∀ k : Fin 4, ag = .seat k → ¬(s.pcieSeat k = true ∧ s.bar0Open k = false)) :
    exec (.registerWrite ag off v) s = s.atHub ag (fun t => t.hubWrite ag off v) := by
  show execRegisterWrite ag off v s = _
  cases ag with
  | seat k =>
    have hopen : ¬(s.pcieSeat k.val = true ∧ (!s.bar0Open k.val) = true) := by simpa using h k rfl
    simp only [execRegisterWrite, if_neg hopen]
    rfl
  | _ => rfl

/-- A write of no register, a misaligned one, or one by an agent that reaches none (R33, R35). -/
theorem hubWrite_unreached {s : State} {ag : Agent} {off : Nat} (v : Word) (h : regGroupAt off = none ∨ off % 4 ≠ 0 ∨ s.reachesRegs ag off = false) :
    s.hubWrite ag off v = (stREFUSED, s) := by
  unfold State.hubWrite
  split
  · rfl
  · exact devWrite_unreached _ (h.imp_right (fun q => q.resolve_left ‹_›))

theorem hubWrite_of_devWrite_refused {s : State} {ag : Agent} {off : Nat} {v : Word} (h : s.devWrite ag off v.toNat = (stREFUSED, s)) :
    s.hubWrite ag off v = (stREFUSED, s) := by
  rw [State.hubWrite, h, ite_self]

theorem hubWrite_plain {s : State} {ag : Agent} {off : Nat} {g : RegGroup} (v : Word) (hg : regGroupAt off = some g) (hal : off % 4 = 0)
    (hr : s.reachesRegs ag off = true) (h : ¬ActsOnWrite off) : s.hubWrite ag off v = s.plainWrite off v.toNat := by
  rw [State.hubWrite, if_neg (by omega), devWrite_plain _ hg hr h]

/-- A write that reaches the hub is answered as the hub says. -/
theorem registerWrite_answers {ag : Agent} {off : Nat} {v : Word} {s t : State} {status : Nat} {P : State → Prop}
    (hopen : ∀ k : Fin 4, ag = .seat k → ¬(s.pcieSeat k = true ∧ s.bar0Open k = false)) (hpath : s.pathTurns ag hubAddr = none)
    (h : s.hubWrite ag off v = (status, t)) (hp : P t) : Answers (.registerWrite ag off v) ag status 0 s P := by
  refine ⟨t, ?_, hp⟩
  rw [registerWrite_open hopen, State.atHub, hpath]
  simp only [answered, h]

/-- Settles O41: the way to the register hub answers first (log entry 138); there a register without an effect of its own takes a plain write by
its table, whose fields do not overlap; the writers of SFL, SAH, ARRAY_EDGE and the SEAT blocks are asked before R9 (log entries 55 and 127), and a
write of no register is REFUSED without an event (log entry 56). -/
theorem registerWrites : Obligations.RegisterWrites := by
  unfold Obligations.RegisterWrites
  intro ag off v s write field locked reserved refused special shut rejects
  refine ⟨fun k hag hshut => by subst hag; exact registerWrite_shut hshut, fun hopen => ⟨fun hpath => ?_, fun hpath => ?_, fun q hpath => ?_, fun hpath => ?_⟩⟩
  · show exec (.registerWrite ag off v) s = _
    rw [registerWrite_open hopen, State.atHub, hpath]
  · refine ⟨s, ?_, rfl⟩
    show exec (.registerWrite ag off v) s = _
    rw [registerWrite_open hopen, State.atHub, hpath]
    rfl
  · refine ⟨s.absorb q, ?_, rfl⟩
    show exec (.registerWrite ag off v) s = _
    rw [registerWrite_open hopen, State.atHub, hpath]
    rfl
  · have rejected : s.hubWrite ag off v = (stREFUSED, s) → rejects := fun h => registerWrite_answers hopen hpath h rfl
    refine ⟨fun g hg hal hreach hplain => ⟨fun hok => ?_, fun href => ?_⟩, fun hno => rejected (hubWrite_unreached v hno), fun n m hag => ⟨fun hno ho => ?_, fun hno ho => ?_⟩,
      fun k h1 h2 hno => rejected (hubWrite_of_devWrite_refused (devWrite_seat_refused _ k h1 h2 hno))⟩
    · have hw := (hubWrite_plain v hg hal hreach hplain).trans (plainWrite_of_not_refused hg hok)
      refine registerWrite_answers hopen hpath hw ⟨only_setReg _ _ _, fun f hf => ?_⟩
      have hafter := fget_fieldApplies s off v (regGroupAt_apart hg) hf
      cases hacc : f.acc with
      | rwl => exact hafter.trans (after_of_not_refused hok hf hacc)
      | _ => simpa only [FieldSpec.after, hacc] using hafter
    · exact registerWrite_answers hopen hpath ((hubWrite_plain v hg hal hreach hplain).trans (plainWrite_of_refused hg href)) rfl
    · subst hag
      exact rejected (hubWrite_of_devWrite_refused (devWrite_saveArea_refused _ hno ho))
    · subst hag ho
      exact rejected (hubWrite_of_devWrite_refused (devWrite_edge_refused _ hno))

end Sys2Proof.Machine
end
